-- ==== Sys2Proof/Word.lean ====
section
/-! DEFINITION. The byte, and the shape in which the model keeps sparse tables (registers by index, memory by
address): a list of key and value pairs whose keys rise strictly and whose values are never the default. -/

namespace Sys2Proof

/-- One byte (R6: bit 0 is the least significant bit). -/
abbrev Byte := BitVec 8

/-- A sparse table from natural numbers: an unlisted key holds the table's default. -/
abbrev SMap (α : Type) := List (Nat × α)

end Sys2Proof
end

