-- ==== Sys2Proof/Syntax.lean ====
section
/-! DEFINITION. The commands of the block: one constructor of `Instr` for each row of the opcode table. The table
gives no operands; each constructor carries what the event brings with it from outside (indices, a register value,
response data). An operand with a default is one that the event need not bring: a packet error code, or which of two
things at one place is concerned. A stream command names the channel that holds it decoded (R306). -/

namespace Sys2Proof

/-- An AXI response (R425). -/
inductive Resp where
  | okay
  | exokay
  | slverr
  | decerr
deriving DecidableEq, Repr

/-- What parity found on the way of a tile (R363, R364): nothing; the tile cannot be trusted; or beats that failed
when stage 8 read them, each with its index and whether the second read failed as well. -/
inductive TileParity where
  | good
  | withheld
  | beats (l : List (Nat × Bool))
deriving DecidableEq, Repr

/-- The two sides of a Transform Array (R65). -/
inductive Side where
  | input
  | output
deriving DecidableEq, Repr

/-- The classes of traffic a Mover issues (R169). -/
inductive IssueClass where
  | read
  | write
  | remote
deriving DecidableEq, Repr

/-- The port resets of R445. -/
inductive RstPort where
  | far0
  | far1
  | near
  | peer0
  | peer1
  | strm
  | host
deriving DecidableEq, Repr

/-- The wake sources of RETAIN (R383). -/
inductive WakeSrc where
  | host
  | rope (n : Fin 16)
  | peer (k : Fin 2)
  | strm
  | mgmt
  | reset
deriving DecidableEq, Repr

/-- The commands, in the order of the opcode table. -/
inductive Instr where
  -- stream commands, carried out on channel c of Mover m
  | nop (m : Fin 64) (c : Fin 4)
  | transfer (m : Fin 64) (c : Fin 4)
  | gather (m : Fin 64) (c : Fin 4)
  | scatter (m : Fin 64) (c : Fin 4)
  | meter (m : Fin 64) (c : Fin 4)
  | wait (m : Fin 64) (c : Fin 4)
  | signal (m : Fin 64) (c : Fin 4)
  | signalConfigure (m : Fin 64) (c : Fin 4)
  | barrier (m : Fin 64) (c : Fin 4)
  | fence (m : Fin 64) (c : Fin 4)
  | rearm (m : Fin 64) (c : Fin 4)
  | load (m : Fin 64) (c : Fin 4)
  | unload (m : Fin 64) (c : Fin 4)
  | loop (m : Fin 64) (c : Fin 4)
  | tableLoad (m : Fin 64) (c : Fin 4)
  | tableRelease (m : Fin 64) (c : Fin 4)
  | ecnosDescriptor (m : Fin 64) (c : Fin 4) (data : List Byte) (r : Resp)
  -- memory and pipeline events
  | commandFetched (m : Fin 64) (c : Fin 4) (data : List Byte) (r : Resp)
  | decodeReadsDone (m : Fin 64) (c : Fin 4) (ds : List (List Byte × Resp)) (parity : Bool)
  | walkReadResponse (p : Fin 8) (entry : BitVec 64) (r : Resp) (parity : Bool)
  | sourceReadResponse (aid : Nat) (data : List Byte) (r : Resp) (parity : Bool)
  | tileReady (m : Fin 64) (c : Fin 4) (parity : TileParity)
  | writeResponse (aid : Nat) (r : Resp)
  | readBackResponse (aid : Nat) (r : Resp)
  | flagWriteResponse (aid : Nat) (r : Resp)
  | commandComplete (m : Fin 64) (c : Fin 4)
  | completionRecordWritten (aid : Nat) (r : Resp)
  | faultRecordWritten (aid : Nat) (r : Resp)
  | sequencerChoice (p : Fin 8) (m : Fin 64) (c : Fin 4) (parity : Bool)
  | glacierRecordLoaded (aid : Nat) (data : List Byte) (r : Resp)
  | arrayAgeing (m : Fin 64) (side : Side) (c : Fin 4)
  | issueAgeing (m : Fin 64) (cls : IssueClass) (c : Fin 4)
  | arbDecision (t : Fin 30) (slotParity : Bool)
  | hogCutoff (t : Fin 30)
  | backoffExpire (t : Fin 30) (p : Fin 8)
  | quotaWindowEnd (t : Fin 30)
  | commit
  -- doorbells and register writes with a row of their own
  | dbSqTail (t : Fin 256) (k : Fin 64) (tail : BitVec 16)
  | dbCqHead (t : Fin 256) (k : Fin 16) (head : BitVec 16)
  | dbAbort (t : Fin 256) (sid : BitVec 21)
  | dbThaw (t : Fin 256) (sid : BitVec 21)
  | dbResume (t : Fin 256) (sid : BitVec 21)
  | dbSkip (t : Fin 256) (sid : BitVec 21)
  | sqEnable (q : Fin 1024) (v : BitVec 64)
  | sqDisable (q : Fin 1024) (v : BitVec 64)
  | cqEnable (c : Fin 256) (v : BitVec 64)
  | cqDisable (c : Fin 256) (v : BitVec 64)
  | fqEnable (p : Fin 8) (v : BitVec 64)
  | fqDisable (p : Fin 8) (v : BitVec 64)
  | fqHead (p : Fin 8) (head : BitVec 16)
  | tenantEnable (t : Fin 256) (v : BitVec 64)
  | tenantDisable (t : Fin 256) (v : BitVec 64)
  | ptHome (p : Fin 8) (v : BitVec 32)
  | invTenant (t : BitVec 8)
  | invPage (t : BitVec 8) (vpage : BitVec 36)
  | invAll
  | invDone
  | counterClear (m : Fin 64) (k : Fin 64)
  | suspectClear (m : Fin 64)
  | soloMode (m : Fin 64) (v : BitVec 32)
  | strmBind (d : Fin 4) (v : BitVec 64)
  | ecnosStart (p : Fin 8) (n : Fin 8)
  | ecnosAbort (p : Fin 8) (n : Fin 8)
  | registerWrite (off : BitVec 21) (v : BitVec 32) (strb : BitVec 4) (priv : Bool)
  -- resets
  | resetTenant (t : Fin 256) (rcv : Bool)
  | resetMover (m : Fin 64)
  | resetPartition (p : Fin 8)
  | resetBlock
  | resetPowerCycle
  | stopBathDrained (p : Option (Fin 8))
  | stopBathTimeout (p : Option (Fin 8))
  | sinkLateResponse (aid : Nat)
  | moverSelftestDone (m : Fin 64) (pass : Bool)
  | moverResetTimeout (m : Fin 64)
  -- parity and test
  | moverTestReq (m : Fin 64)
  | moverTestDrained (m : Fin 64)
  | moverTestDone (m : Fin 64) (pass : Bool)
  | stagingTestGo (g : Fin 8)
  | stagingTestDone (bad : Option (Fin 32))
  | scrubRead (parity : Bool)
  | scrubPass
  | regParityRewrite (off : BitVec 21) (copyBad : Bool) (alt : Bool := false)
  -- the peer link
  | peerWrite (port : Fin 2) (pkt : List Byte)
  | peerRdreq (port : Fin 2) (pkt : List Byte)
  | peerRdrsp (port : Fin 2) (pkt : List Byte)
  | peerWack (port : Fin 2) (pkt : List Byte)
  | peerNack (port : Fin 2) (pkt : List Byte)
  | peerCredit (port : Fin 2) (pkt : List Byte)
  | packetForward (port : Fin 2) (pkt : List Byte) (gap : Bool)
  | receiveWritesLanded (job : Nat)
  | receiveReadsDone (job : Nat)
  | finalRelease (k : Fin 16)
  | rxLoss (port : Fin 2) (hdr : BitVec 16)
  | peerTimeout (m : Fin 64) (c : Fin 4)
  -- STRM and the rope pins
  | strmBeat (d : Fin 4) (data : List Byte) (keep : BitVec 32) (last : Bool) (user : Bool)
  | ropeInRise (n : Fin 16)
  | ropeInFall (n : Fin 16)
  -- power states
  | moverGate (m : Fin 64)
  | dozeEnter
  | dozeWake
  | dozeWakeDone
  | retainRequest
  | retainDrained
  | retainWake (src : WakeSrc)
  | retainWakeDone (bad : List (BitVec 21))
  | powerOff
  -- resets at the pins, and start
  | aonResetAssert
  | aonResetRelease (addr : BitVec 7)
  | coreResetAssert
  | coreResetRelease (badGranules : List Nat) (badBank : Bool)
  | bootImageLoad
  | nvmReadTimeout (slot : Bool := false)
  | bootScriptStart
  | scriptWrite (r : Resp)
  | scriptPoll (data : BitVec 32) (r : Resp)
  | scriptDelay
  | scriptEnd
  | scriptPollTimeout
  | scriptTimeLimit
  | bootDataDone (r : Resp) (rest : List Resp)
  | portResetAssert (p : RstPort)
  | portResetRelease (p : RstPort)
  -- the management core
  | sensorSample (temps : List (BitVec 16)) (volts : List (BitVec 16)) (clk : BitVec 9)
  | droop (n : Fin 4)
  | mgmtWatchdog
  | logMirror
  | pwrcycReqRise
  | mbUpdate (addr size : BitVec 64) (data : List Byte) (r : Resp)
  | mbContact (addr w2 : BitVec 64)
  | mbLogcopy (addr n : BitVec 64)
  | mbSensors
  | mbThresh (w1 w2 : BitVec 64)
  | mbRetain
  | chreq
  | vgo
  | relock
  | unlockVerified
  -- SMBus
  | smbId
  | smbStatus
  | smbTemp
  | smbVolt
  | smbEvents
  | smbLogread (seq : BitVec 24)
  | smbAlertclr (w : BitVec 16) (pec : Option Byte := none)
  | smbChreq (scope : BitVec 8) (pec : Option Byte := none)
  | smbChal
  | smbResp (off : BitVec 8) (data : List Byte) (pec : Option Byte := none)
  | smbVgo (pec : Option Byte := none)
  | smbDbgstat
  | smbAlertResponse
  -- TAP and wrapper
  | bypass
  | idcode
  | samplePreload
  | extest
  | wsBypass
  | wsExtest
  | wsIntest
  | wsMbist (sram : BitVec 8)
  | wsScan
  | wsDebug
  | tapReset
  -- rows added at the table's end
  | registerRead (off : BitVec 21) (priv : Bool)
  | slotTableReadDone (m : Fin 64) (c : Fin 4) (data : List Byte) (r : Resp)
  | mailboxRequestEnd (r : Resp) (nvmOk : Bool)
  | smbusTimeout
deriving DecidableEq, Repr

end Sys2Proof
end

