-- ==== Sys2Proof/Decode.lean ====
section
/-! DEFINITION. The block has no decoder of a processor's kind and the opcode table gives its rows no bits. -/

namespace Sys2Proof

/-- The command that a word spells by the table's bits: no row of the table has any. -/
def decodeTableWord (_nbits _w : Nat) : Option Instr := none

end Sys2Proof
end

