-- ==== Sys2Proof/Config.lean ====
section
/-! DEFINITION. What the spec leaves to the integrator or to nobody: constants without a body, so that no proof can
see a value of them. -/

namespace Sys2Proof

/-- key_hash[255:0], the integrator's static input (R390); octet k is bits 8k+7 to 8k (R325). -/
opaque Config.keyHash : BitVec 256

/-- MFR of the IDCODE, the integrator's JEDEC manufacturer identity (R451). -/
opaque Config.mfr : BitVec 11

/-- Which far port carries a physical far address: true is FAR1. The spec names both ports and states no mapping
(log 8). A free value. -/
opaque Config.farPort1 : Nat → Bool

/-- Which of the trackers free to a grant it takes, as an index into the list of them (log 9). A free value. -/
opaque Config.trackerPick : Nat → Nat

/-- Which place of a spill area a window, a slot or a burst takes, as an index into the list of the places that are free
to it (R245; log 90). A free value. -/
opaque Config.spillPick : Nat → Nat

/-- The parity error that strikes a held copy in a cycle, if one does, by a serial number: what kind of copy, whose, and
which of them (R363, R365; log 91). A free value. -/
opaque Config.upset : Nat → Option (Fin 8 × Nat × Nat)

/-- The bank group of Staging in which a burst of a tile slot lies, by a serial number (log 57). A free value. -/
opaque Config.bankGroup : Nat → Fin 8

/-- The ID of the chip to which a peer port's link leads: the integrator's wiring (R285, R286; log 92). A free value. -/
opaque Config.neighbour : Nat → BitVec 4

/-- The 16 bytes that the noise source gives at the n-th draw (R400). A free value. -/
opaque Config.noise : Nat → BitVec 128

/-- The sign of a meter record's MIN (false) and MAX (true) that is zero, where zeros of both signs are counted (log 89).
A free value. -/
opaque Config.zeroSign : Bool → Bool

/-- Bits that the spec leaves open in the flash and test units and for the prefetcher, by a serial number (logs 10, 88). A
free value. -/
opaque Config.freeByte : Nat → Byte

/-- The page at which the programming of an image stops when it stops short, as an index into its pages (R385, R415;
log 10). A free value. -/
opaque Config.pageStop : Nat → Nat

/-- What one of the SRAMs that WS_MBIST names holds: 1 the management firmware, 2 the event log, 3 the thresholds and the
contact sheet, 0 anything else (R377, R403; log 84). A free value. -/
opaque Config.sramOf : BitVec 8 → Fin 4

/-- An entry of the event log after a march test has destroyed what its SRAM held (R377; log 84): TMS, SEV, CODE, SRC and
ARG, by a serial number. A free value. -/
opaque Config.logNoise : Nat → BitVec 32 × BitVec 2 × BitVec 8 × BitVec 8 × BitVec 40

/-- SEV of an event log entry, by its CODE: the spec names the four severities and gives no code its own (R408,
R409). A free value. -/
opaque Config.severity : Nat → BitVec 2

/-- TSUB of the event log entry of a SEQ: the model counts no µs (log 11). A free value below 1,000. -/
opaque Config.tsub : Nat → Fin 1000

end Sys2Proof
end

