-- ==== Sys2Proof/Machine/Bits.lean ====
section
/-! DEFINITION. Bit fields, byte order (R6) and the sparse tables' reads and writes. -/

namespace Sys2Proof

/-! ### Sparse tables -/

/-- The value at key `k`; `d` where none is listed. -/
def SMap.get {α : Type} (m : SMap α) (d : α) (k : Nat) : α :=
  match m with
  | [] => d
  | e :: t => if e.1 = k then e.2 else SMap.get t d k

/-- The value at key `k`, if one is listed. -/
def SMap.find {α : Type} (m : SMap α) (k : Nat) : Option α :=
  match m with
  | [] => none
  | e :: t => if e.1 = k then some e.2 else SMap.find t k

/-- The table without key `k`. -/
def SMap.del {α : Type} (m : SMap α) (k : Nat) : SMap α := m.filter fun e => e.1 ≠ k

/-- The table with `v` at key `k`, keys kept in rising order. -/
def SMap.ins {α : Type} (m : SMap α) (k : Nat) (v : α) : SMap α :=
  match m with
  | [] => [(k, v)]
  | e :: t => if k < e.1 then (k, v) :: e :: t else if e.1 = k then (k, v) :: t else e :: SMap.ins t k v

/-- A write: a default value is not listed. -/
def SMap.put {α : Type} [DecidableEq α] (m : SMap α) (d : α) (k : Nat) (v : α) : SMap α :=
  if v = d then SMap.del m k else SMap.ins m k v

/-- Canonical form: keys strictly rising, no listed value equal to the default. -/
abbrev SMap.wf {α : Type} [DecidableEq α] (m : SMap α) (d : α) : Prop :=
  m.Pairwise (fun a b => a.1 < b.1) ∧ ∀ e ∈ m, e.2 ≠ d

namespace Machine

/-! ### Bytes and fields -/

/-- Little-endian value of bytes (R6). -/
def leNat : List Byte → Nat
  | [] => 0
  | b :: t => b.toNat + 256 * leNat t

/-- The `n` bytes of a value, least significant first (R6). -/
def toLE (n v : Nat) : List Byte :=
  match n with
  | 0 => []
  | k + 1 => BitVec.ofNat 8 (v % 256) :: toLE k (v / 256)

/-- Big-endian value of bytes. -/
def beNat (l : List Byte) : Nat := l.foldl (fun a b => a * 256 + b.toNat) 0

/-- Field of `w` bits at bit `lo` of a number. -/
def fld (v lo w : Nat) : Nat := v / 2 ^ lo % 2 ^ w

/-- One bit of a number. -/
def bit (v i : Nat) : Bool := v.testBit i

/-- A Bool as a bit. -/
def b2n (b : Bool) : Nat := if b then 1 else 0

/-- A two's complement value of `w` bits. -/
def sgn (v w : Nat) : Int := if v % 2 ^ w < 2 ^ (w - 1) then (v % 2 ^ w : Nat) else (v % 2 ^ w : Nat) - (2 ^ w : Nat)

/-- An unsigned field of an in-memory structure: `w` bits at bit `lo` of byte `at` (R6). -/
def bfld (l : List Byte) (byte lo w : Nat) : Nat :=
  fld (leNat ((l.drop byte).take ((lo + w + 7) / 8))) lo w

/-- A bit of an in-memory structure. -/
def bbit (l : List Byte) (byte lo : Nat) : Bool := decide (bfld l byte lo 1 = 1)

/-- A signed field of an in-memory structure. -/
def sfld (l : List Byte) (byte lo w : Nat) : Int := sgn (bfld l byte lo w) w

/-- Quotient rounded up. -/
def ceilDiv (a b : Nat) : Nat := if b = 0 then 0 else (a + b - 1) / b

/-- Saturating increment of a counter of `w` bits. -/
def satInc {w : Nat} (v : BitVec w) : BitVec w := if v.toNat + 1 < 2 ^ w then v + 1 else v

/-- Concatenate fields, least significant first: (width, value). -/
def pack (fs : List (Nat × Nat)) : Nat :=
  match fs with
  | [] => 0
  | (w, v) :: t => v % 2 ^ w + 2 ^ w * pack t

end Machine

end Sys2Proof
end

