-- ==== Sys2Proof/Machine/Cast.lean ====
section
/-! DEFINITION. Number formats, exact values, rounding, and the cast unit (chapter 03: R69 to R89). -/

namespace Sys2Proof.Machine

/-- The exact value of an element (R74): a signed dyadic m × 2^e, whose zero keeps its sign, an infinity or a NaN. -/
inductive Num where
  | fin (neg : Bool) (m : Nat) (e : Int)
  | inf (neg : Bool)
  | nan
deriving DecidableEq, Repr

/-! ### Formats (R69, R70) -/

/-- Element width in bits. -/
def fmtWidth (f : Nat) : Nat :=
  if f ≤ 1 ∨ f = 7 then 4 else if f = 8 ∨ f = 9 then 6
  else if f = 4 ∨ f = 5 ∨ f = 12 ∨ f = 13 then 16 else if f = 6 ∨ f = 14 then 32 else 8

/-- The integer formats. -/
def fmtInt (f : Nat) : Bool := decide (f ≤ 6)

/-- The signed ones among them. -/
def fmtSigned (f : Nat) : Bool := f == 1 || f == 3 || f == 5 || f == 6

/-- The 4-bit formats of R37. -/
def fmt4 (f : Nat) : Bool := f ≤ 1 || f == 7

/-- The FP6 formats of R37. -/
def fmt6 (f : Nat) : Bool := f == 8 || f == 9

/-- Exponent bits, mantissa bits and bias of a floating-point format (R70). -/
def fmtFloat (f : Nat) : Nat × Nat × Int :=
  match f with
  | 7 => (2, 1, 1)
  | 8 => (2, 3, 1)
  | 9 => (3, 2, 3)
  | 10 => (4, 3, 7)
  | 11 => (5, 2, 15)
  | 12 => (5, 10, 15)
  | 13 => (8, 7, 127)
  | _ => (8, 23, 127)

/-- Whether the format encodes infinities (R70). -/
def fmtInf (f : Nat) : Bool := decide (11 ≤ f)

/-- Encoding of the largest finite value, without its sign (R70). -/
def fmtMax (f : Nat) : Nat :=
  match f with
  | 7 => 0x7
  | 8 => 0x1F
  | 9 => 0x1F
  | 10 => 0x7E
  | 11 => 0x7B
  | 12 => 0x7BFF
  | 13 => 0x7F7F
  | _ => 0x7F7FFFFF

/-- The NaN that the cast unit produces; the formats without one give +0 (R70, R86). -/
def fmtNan (f : Nat) : Nat :=
  match f with
  | 10 => 0x7F
  | 11 => 0x7E
  | 12 => 0x7E00
  | 13 => 0x7FC0
  | 14 => 0x7FC00000
  | _ => 0

/-- Smallest value of an integer format (R69). -/
def fmtLo (f : Nat) : Int := if fmtSigned f then -(2 ^ (fmtWidth f - 1) : Nat) else 0

/-- Largest value of an integer format (R69). -/
def fmtHi (f : Nat) : Int := if fmtSigned f then (2 ^ (fmtWidth f - 1) : Nat) - 1 else (2 ^ fmtWidth f : Nat) - 1

/-! ### Exact values -/

/-- The number of an integer. -/
def Num.ofInt (i : Int) : Num := .fin (decide (i < 0)) i.natAbs 0

/-- The exact value of an element's bits (R69, R70). -/
def decodeNum (f bits : Nat) : Num :=
  if fmtInt f then
    .ofInt (if fmtSigned f then sgn bits (fmtWidth f) else (bits % 2 ^ fmtWidth f : Nat))
  else
    let (eb, mb, bias) := fmtFloat f
    let neg := bit bits (eb + mb)
    let ef := fld bits mb eb
    let mf := fld bits 0 mb
    if fmtInf f ∧ ef = 2 ^ eb - 1 then (if mf = 0 then .inf neg else .nan)
    else if f = 10 ∧ ef = 15 ∧ mf = 7 then .nan
    else if ef = 0 then .fin neg mf (1 - bias - mb)
    else .fin neg (2 ^ mb + mf) ((ef : Int) - bias - mb)

/-- m × 2^e as an integer count of 2^e0, for e0 ≤ e. -/
def scaled (neg : Bool) (m : Nat) (e e0 : Int) : Int :=
  let v : Int := (m * 2 ^ (e - e0).toNat : Nat)
  if neg then -v else v

/-- Exact product. -/
def Num.mul : Num → Num → Num
  | .nan, _ => .nan
  | _, .nan => .nan
  | .inf a, .inf b => .inf (a != b)
  | .inf a, .fin b m _ => if m = 0 then .nan else .inf (a != b)
  | .fin a m _, .inf b => if m = 0 then .nan else .inf (a != b)
  | .fin a m e, .fin b n k => .fin (a != b) (m * n) (e + k)

/-- Exact sum; an exact zero is +0 (R88). -/
def Num.add : Num → Num → Num
  | .nan, _ => .nan
  | _, .nan => .nan
  | .inf a, .inf b => if a = b then .inf a else .nan
  | .inf a, _ => .inf a
  | _, .inf b => .inf b
  | .fin a m e, .fin b n k =>
    let e0 := min e k
    let v := scaled a m e e0 + scaled b n k e0
    .fin (decide (v < 0)) v.natAbs e0

/-- |x| ≤ |y| for finite magnitudes. -/
def magLe (m : Nat) (e : Int) (n : Nat) (k : Int) : Bool :=
  let e0 := min e k
  decide (m * 2 ^ (e - e0).toNat ≤ n * 2 ^ (k - e0).toNat)

/-- x ≤ y, for values that are not NaN. -/
def Num.le : Num → Num → Bool
  | .inf a, .inf b => a || !b
  | .inf a, _ => a
  | _, .inf b => !b
  | .fin a m e, .fin b n k => decide (scaled a m e (min e k) ≤ scaled b n k (min e k))
  | _, _ => false

/-- The affine step in × scale + zero, without intermediate rounding (R74, R81). -/
def affine (scale : Num) (zero : Int) (v : Num) : Num := (v.mul scale).add (.ofInt zero)

/-! ### Rounding (R82, R83) -/

/-- One step of the stochastic-rounding LFSR (R84). -/
def lfsrStep (s : BitVec 32) : BitVec 32 := if s.getLsbD 0 then (s >>> 1) ^^^ 0x80200003#32 else s >>> 1

/-- The magnitude m × 2^e as a count of units 2^u, rounded: mode 0 nearest even, 1 toward zero, 2 stochastic with the
24 random bits `r`. -/
def roundMag (m : Nat) (e u : Int) (rnd r : Nat) : Nat :=
  if u ≤ e then m * 2 ^ (e - u).toNat
  else
    let d := 2 ^ (u - e).toNat
    let q := m / d
    let rest := m % d
    match rnd with
    | 0 => if 2 * rest > d ∨ (2 * rest = d ∧ q % 2 = 1) then q + 1 else q
    | 2 => if rest * 2 ^ 24 / d + r ≥ 2 ^ 24 then q + 1 else q
    | _ => q

/-- Exponent of the unit in the last place of a floating-point format at the magnitude m × 2^e (R82). -/
def ulpExp (f m : Nat) (e : Int) : Int :=
  let (_, mb, bias) := fmtFloat f
  max ((Nat.log2 m : Int) + e) (1 - bias) - mb

/-- Encode q units of 2^u, within the finite range. -/
def encodeFloat (f : Nat) (neg : Bool) (q : Nat) (u : Int) : Nat :=
  let (eb, mb, bias) := fmtFloat f
  let q' := if q ≥ 2 ^ (mb + 1) then q / 2 else q
  let u' := if q ≥ 2 ^ (mb + 1) then u + 1 else u
  let body := if q' < 2 ^ mb then q' else ((u' + mb + bias).toNat) * 2 ^ mb + (q' - 2 ^ mb)
  b2n neg * 2 ^ (eb + mb) + body

/-- A signed encoding: the sign bit over a magnitude encoding. -/
def withSign (f : Nat) (neg : Bool) (body : Nat) : Nat := b2n neg * 2 ^ (fmtWidth f - 1) + body

/-- An integer result clamped into its format's bits. -/
def encodeInt (f : Nat) (v : Int) : Nat := (max (fmtLo f) (min (fmtHi f) v) % (2 ^ fmtWidth f : Nat)).toNat

/-- Result of rounding a value to a format: its bits, and whether NANF and SATF are set (R82, R86, R87, R88). -/
def encodeNum (f : Nat) (sat : Bool) (rnd r : Nat) : Num → Nat × Bool × Bool
  | .nan => (fmtNan f, true, false)
  | .inf neg =>
    if fmtInt f then (encodeInt f (if neg then fmtLo f else fmtHi f), false, true)
    else if fmtInf f then
      (if sat then (withSign f neg (fmtMax f), false, true)
       else (withSign f neg ((2 ^ (fmtFloat f).1 - 1) * 2 ^ (fmtFloat f).2.1), false, false))
    else if f = 10 ∧ sat = false then (fmtNan f, false, true)
    else (withSign f neg (fmtMax f), false, true)
  | .fin neg m e =>
    if fmtInt f then
      let q := roundMag m e 0 rnd r
      let v : Int := if neg then -(q : Int) else q
      (encodeInt f v, false, decide (v < fmtLo f ∨ fmtHi f < v))
    else
      let u := ulpExp f m e
      let q := roundMag m e u rnd r
      match decodeNum f (fmtMax f) with
      | .fin _ mm me =>
        if magLe q u mm me then (encodeFloat f neg q u, false, false)
        else if sat ∨ rnd = 1 ∨ (!fmtInf f ∧ f ≠ 10) then (withSign f neg (fmtMax f), false, true)
        else if f = 10 then (fmtNan f, false, true)
        else (withSign f neg ((2 ^ (fmtFloat f).1 - 1) * 2 ^ (fmtFloat f).2.1), false, true)
      | _ => (0, false, false)

/-! ### The cast unit -/

/-- The cast fields that act on every element of a command (R72). -/
structure CastCfg where
  src : Nat
  dst : Nat
  rnd : Nat
  sat : Bool
  aff : Bool
deriving DecidableEq, Repr

/-- What the cast unit keeps from one element to the next: the channel's LFSR and the flags of R89. -/
structure CastSt where
  lfsr : BitVec 32
  nanf : Bool
  satf : Bool
deriving DecidableEq, Repr

/-- One element through the cast unit (R74, R75, R83). -/
def castElem (g : CastCfg) (scale : Num) (zero : Int) (c : CastSt) (bits : Nat) : Nat × CastSt :=
  if g.src = g.dst ∧ g.aff = false then (bits, c)
  else
    let l := if g.rnd = 2 then lfsrStep c.lfsr else c.lfsr
    let v := decodeNum g.src bits
    let (b, nf, sf) := encodeNum g.dst g.sat g.rnd (l.toNat % 2 ^ 24) (if g.aff then affine scale zero v else v)
    (b, { lfsr := l, nanf := c.nanf || nf, satf := c.satf || sf })

end Sys2Proof.Machine
end

