-- ==== Sys2Proof/Machine/Firn.lean ====
section
/-! DEFINITION. Firn blocks: geometry, check value, decoding, encoding, and the light meter's records (chapter 04: R92
to R103, R114, R115). -/

namespace Sys2Proof.Machine

/-! ### Geometry (R40, R92) -/

/-- Whether a decoded format and a rate are allowed together (R40). -/
def firnAllowed (f rate : Nat) : Bool :=
  ((f = 5 ∨ f = 12 ∨ f = 13) ∧ rate ≤ 2) || ((f = 3 ∨ f = 10 ∨ f = 11) ∧ rate ≤ 1)

/-- Code width w. -/
def firnW (f rate : Nat) : Nat :=
  if fmtWidth f = 16 then (match rate with
    | 0 => 7
    | 1 => 5
    | _ => 3)
  else if rate = 0 then 3 else 2

/-- Block size B = 8 + 8 w. -/
def firnB (f rate : Nat) : Nat := 8 + 8 * firnW f rate

/-- Uncoded bytes of a block. -/
def firnU (f : Nat) : Nat := 64 * (fmtWidth f / 8)

/-- Largest magnitude code M. -/
def firnM (f rate : Nat) : Nat := 2 ^ (firnW f rate - 1) - 1

/-- Whether R92 allows TABLE mode. -/
def firnTable (f rate : Nat) : Bool := !(fmtWidth f == 16 && rate == 0)

/-- The CRC-16 of R97. -/
def firnCrc (l : List Byte) : Nat :=
  l.foldl (fun c b =>
    (List.range 8).foldl (fun c _ => if c ≥ 0x8000 then ((c * 2) % 0x10000) ^^^ 0x1021 else c * 2)
      (c ^^^ (b.toNat * 256))) 0xFFFF

/-! ### Decoding (R96, R98) -/

/-- The curve value of entry n: an FP16 number (R106). -/
def curveAt (curve n : Nat) : Num := decodeNum 12 (fld curve (16 * n) 16)

/-- Entry of the curve for magnitude m of M (R96). -/
def curveMag (curve m mm : Nat) : Num := curveAt curve (15 * m / mm)

/-- The first check of R98 that a block fails: 0x30 FLT_FIRN_CHECK, 0x31 FLT_FIRN_RATE. `pin` is the pinned generation
and its curve. -/
def firnBad (f rate : Nat) (pin : Option (Nat × Nat)) (blk : List Byte) : Option Nat :=
  let b := firnB f rate
  let hdr := bfld blk 0 0 8
  let mode := fld hdr 2 2
  let tgen := fld hdr 4 4
  if firnCrc (blk.take (b - 2)) ≠ bfld blk (b - 2) 0 16 then some 0x30
  else if fld hdr 0 2 ≠ rate then some 0x31
  else if mode = 3 ∨ (mode = 1 ∧ firnTable f rate = false) then some 0x31
  else if mode = 1 then
    match pin with
    | none => some 0x31
    | some (g, _) => if g % 16 = tgen then none else some 0x31
  else if tgen = 0 then none else some 0x31

/-- The 64 elements of a block that passes the checks. -/
def firnDecode (f rate : Nat) (curve : Nat) (blk : List Byte) : List Nat :=
  let w := firnW f rate
  let mm := firnM f rate
  let mode := fld (bfld blk 0 0 8) 2 2
  let xe : Int := bfld blk 1 0 8
  let codes := leNat ((blk.drop 2).take (8 * w))
  let oidx := bfld blk (8 * w + 2) 0 6
  let oval := bfld blk (8 * w + 3) 0 16 % 2 ^ fmtWidth f
  (List.range 64).map fun i =>
    if mode = 2 ∨ i = oidx then oval
    else
      let code := fld codes (w * i) w
      let sg := bit code (w - 1)
      let m := fld code 0 (w - 1)
      let v := match (if mode = 0 then Num.fin false m 0 else curveMag curve m mm) with
        | .fin _ k e => Num.fin sg k (e + xe - 127)
        | x => x
      (encodeNum f true 0 0 v).1

/-! ### Encoding (R102, R103) -/

/-- Whether |x| is larger than |y|: NaN above infinity above finite (R103). -/
def magGt : Num → Num → Bool
  | .nan, .nan => false
  | .nan, _ => true
  | _, .nan => false
  | .inf _, .inf _ => false
  | .inf _, _ => true
  | _, .inf _ => false
  | .fin _ m e, .fin _ n k => !magLe m e n k

/-- Index of the largest magnitude; the lowest index wins a tie. -/
def argMax (l : List Num) : Nat :=
  match l with
  | [] => 0
  | x :: t => ((t.foldl (fun (st : Nat × Nat × Num) y =>
      if magGt y st.2.2 then (st.1 + 1, st.1, y) else (st.1 + 1, st.2.1, st.2.2)) (1, 0, x)).2).1

/-- Largest finite magnitude among the values, 0 if there is none. -/
def maxFin (l : List Num) : Nat × Int :=
  l.foldl (fun a x => match x with
    | .fin _ m e => if magLe m e a.1 a.2 then a else (m, e)
    | _ => a) (0, 0)

/-- The smallest shared exponent that covers the magnitude a with the top magnitude; 255 if none does. -/
def firnXe (am : Nat) (ae : Int) (top : Num) : Nat :=
  if am = 0 then 0
  else match top with
    | .fin _ tm te => ((List.range 256).find? fun (x : Nat) => magLe am ae tm (te + (x : Int) - 127)).getD 255
    | _ => 255

/-- |a − b| for finite nonnegative values. -/
def absDiff (m : Nat) (e : Int) (n : Nat) (k : Int) : Nat × Int :=
  let e0 := min e k
  ((scaled false m e e0 - scaled false n k e0).natAbs, e0)

/-- The magnitude code of the quotient m × 2^e (R103). -/
def firnNearest (fmode : Bool) (curve mm m : Nat) (e : Int) : Nat :=
  if fmode = false then min mm (roundMag m e 0 0 0)
  else match curveMag curve mm mm with
    | .fin _ tm te =>
      if magLe m e tm te then
        ((List.range (mm + 1)).foldl (fun (best : Option (Nat × Nat × Int)) j =>
          match curveMag curve j mm with
          | .fin _ cm ce =>
            let d := absDiff m e cm ce
            match best with
            | none => some (j, d)
            | some (_, b) => if magLe b.1 b.2 d.1 d.2 then best else some (j, d)
          | _ => best) none).elim 0 (·.1)
      else mm
    | _ => mm

/-- The sign bit of an element. -/
def elemSign (f x : Nat) : Bool := if fmtInt f && !fmtSigned f then false else bit x (fmtWidth f - 1)

/-- A whole block of B bytes from 64 elements; `gen` is the pinned generation. OIDX of a CONST block is 0 (log 101). -/
def firnEncode (f rate : Nat) (fmode : Bool) (gen curve : Nat) (xs : List Nat) : List Byte :=
  let w := firnW f rate
  let mm := firnM f rate
  let vs := xs.map (decodeNum f)
  let const := xs.all (fun x => x == xs.headD 0)
  let o := argMax vs
  let mode := if const then 2 else if fmode then 1 else 0
  let (am, ae) := maxFin (vs.eraseIdx o)
  let top := if fmode then curveAt curve 15 else .fin false mm 0
  let xe := if const then 0 else firnXe am ae top
  let codes := ((List.range 64).zip (xs.zip vs)).map fun (i, x, v) =>
    if const ∨ i = o then 0
    else match v with
      | .nan => 0
      | .inf _ => b2n (elemSign f x) * 2 ^ (w - 1) + mm
      | .fin _ m e => b2n (elemSign f x) * 2 ^ (w - 1) + firnNearest fmode curve mm m (e - xe + 127)
  let body := toLE (8 * w + 6)
    (pack ([(2, rate), (2, mode), (4, if mode = 1 then gen % 16 else 0), (8, xe)] ++ codes.map (fun c => (w, c))
      ++ [(6, o), (2, 0), (16, xs.getD o 0), (8, 0)]))
  body ++ toLE 2 (firnCrc body)

/-! ### The light meter (R114, R115) -/

/-- Rounded once to FP32, to nearest even; beyond the range ±infinity. -/
def toF32 (v : Num) : Nat := (encodeNum 14 false 0 0 v).1

/-- Fold of a choice between values. -/
def pick (better : Num → Num → Bool) : List Num → Option Num
  | [] => none
  | x :: t => some (t.foldl (fun a y => if better y a then y else a) x)

/-- An extreme value; of zeros of both signs the sign is free (log 89). -/
def extreme (isMax : Bool) (vs : List Num) : Option Num :=
  let zero := fun (s : Bool) => vs.any fun v => match v with
    | .fin neg 0 _ => neg == s
    | _ => false
  (pick (fun y a => if isMax then a.le y && !(y.le a) else y.le a && !(a.le y)) vs).map fun v => match v with
    | .fin neg 0 e => .fin (if zero true && zero false then Config.zeroSign isMax else neg) 0 e
    | v => v

/-- One meter record. `vs` are the counted values, `edges` the table E, `dmg` that a damaged block had a part. -/
def meterRecord (vs : List Num) (edges : List Num) (dmg : Bool) (g : Nat) : List Byte :=
  let real := vs.filter fun v => v != .nan
  let fins := vs.filter fun v => match v with
    | .fin _ _ _ => true
    | _ => false
  let mn := (extreme false real).elim 0x7FC00000 toF32
  let mx := (extreme true real).elim 0x7FC00000 toF32
  let sum := fins.foldl Num.add (.fin false 0 0)
  let sq := fins.foldl (fun a v => a.add (v.mul v)) (.fin false 0 0)
  let bins := (List.range 16).map fun k =>
    (fins.filter fun v =>
      (k == 0 || (edges.getD k .nan).le v) && (k == 15 || !((edges.getD (k + 1) .nan).le v))).length
  toLE 32 (pack ([(32, mn), (32, mx), (32, toF32 sum), (32, toF32 sq), (7, vs.length), (1, 0),
    (7, (vs.filter (fun v => v == .nan)).length), (1, 0),
    (7, (vs.filter (fun v => match v with
      | .inf _ => true
      | _ => false)).length), (1, 0),
    (1, b2n (bins.any (fun b => decide (b ≥ 15)))), (1, b2n dmg), (6, 0)]
    ++ bins.map (fun b => (4, min b 15)) ++ [(32, g)]))

end Sys2Proof.Machine
end

