-- ==== Sys2Proof/Machine/Operands.lean ====
section
/-! DEFINITION. The in-memory structures that the block reads: tensor descriptors (R13, R14), commands (R140 to R150),
Ecnos-mode descriptors (R43), and their fields. -/

namespace Sys2Proof.Machine

/-! ### Tensor descriptors (R13 to R15) -/

/-- A dimension record (R14); `step` and `rep` have their zero taken as 1. -/
structure Dim where
  extent : Nat
  bound : Nat
  stride : Int
  start : Int
  step : Int
  padb : Nat
  pada : Nat
  rep : Nat
deriving DecidableEq, Repr

/-- A dimension beyond NDIM: one element at coordinate 0 (R15). -/
def Dim.one : Dim := { extent := 1, bound := 1, stride := 0, start := 0, step := 1, padb := 0, pada := 0, rep := 1 }

/-- A tensor descriptor. `dims` has NDIM entries. -/
structure Desc where
  fmt : Nat
  ndim : Nat
  space : Bool
  nport : Nat
  padw : Bool
  circ : Bool
  cwrap : Nat
  firn : Bool
  frate : Nat
  base : Int                    -- of the descriptor, 48 bits; a slot's offset may move the effective one out of them
  swz0 : Nat
  swz1 : Nat
  fill : Nat
  dims : List Dim
deriving DecidableEq, Repr

/-- A dimension record at byte 18 + 22 d. -/
def parseDim (l : List Byte) (d : Nat) : Dim :=
  let o := 18 + 22 * d
  let st := sfld l (o + 17) 0 8
  let rp := bfld l (o + 20) 0 16
  { extent := bfld l o 0 32, bound := bfld l (o + 4) 0 32, stride := sfld l (o + 8) 0 40, start := sfld l (o + 13) 0 32,
    step := if st = 0 then 1 else st, padb := bfld l (o + 18) 0 8, pada := bfld l (o + 19) 0 8,
    rep := if rp = 0 then 1 else rp }

/-- The 128 bytes of a tensor descriptor. -/
def parseDesc (l : List Byte) : Desc :=
  let n := bfld l 0 4 3
  { fmt := bfld l 0 0 4, ndim := n, space := bbit l 0 7, nport := bfld l 0 8 2, padw := bbit l 0 10, circ := bbit l 0 11,
    cwrap := bfld l 0 12 6, firn := bbit l 0 18, frate := bfld l 0 19 2, base := bfld l 4 0 48, swz0 := bfld l 10 0 16,
    swz1 := bfld l 12 0 16, fill := bfld l 14 0 32, dims := (List.range n).map (parseDim l) }

/-- Dimension d; the ones beyond NDIM are those of R15. -/
def Desc.dim (x : Desc) (d : Nat) : Dim := x.dims.getD d Dim.one

/-- Bytes of the smallest addressed piece of dimension 0: an element, a byte of nibbles, a group, or a block (R37,
R41). -/
def Desc.unit (x : Desc) : Nat :=
  if x.firn then firnB x.fmt x.frate else if fmt4 x.fmt then 1 else if fmt6 x.fmt then 3 else fmtWidth x.fmt / 8

/-- Elements that such a piece holds. -/
def Desc.per (x : Desc) : Nat := if x.firn then 64 else if fmt4 x.fmt then 2 else if fmt6 x.fmt then 4 else 1

/-- The access width a of R33. -/
def Desc.width (x : Desc) : Nat :=
  if x.firn then firnB x.fmt x.frate else if fmt4 x.fmt ∨ fmt6 x.fmt then 1 else fmtWidth x.fmt / 8

/-- A swizzle term (R30, R31). -/
def swz (lin term : Nat) : Nat := fld lin (fld term 0 6) (fld term 12 4) * 2 ^ fld term 6 6

/-- Offset of dimension 0's piece that holds coordinate c (R21, R26, R38, R41). -/
def Desc.off0 (x : Desc) (c : Int) : Int :=
  let s := (x.dim 0).stride
  if x.firn then c.fdiv 64 * x.unit
  else if fmt4 x.fmt then (if s = 0 then 0 else c.fdiv 2)
  else if fmt6 x.fmt then (if s = 0 then 0 else c.fdiv 4 * 3)
  else c * s

/-- Which member of its piece an element is (R21, R37). -/
def Desc.member (x : Desc) (c : Int) : Nat :=
  if x.per = 1 then 0 else if x.firn = false ∧ (x.dim 0).stride = 0 then 0 else (c.fmod x.per).toNat

/-- Linear byte address of the piece at the coordinates, before wrap and swizzle. -/
def Desc.lin (x : Desc) (cs : List Int) : Int :=
  x.base + x.off0 (cs.getD 0 0)
    + ((List.range x.ndim).map fun d => if d = 0 then 0 else cs.getD d 0 * (x.dim d).stride).sum

/-- Address of byte j of a linear address (R21): wrap, then both swizzle terms. -/
def Desc.place (x : Desc) (lin : Int) : Nat :=
  let v := (lin % (2 ^ 64 : Nat)).toNat
  let v := if x.circ then x.base.toNat / 2 ^ x.cwrap * 2 ^ x.cwrap + v % 2 ^ x.cwrap else v
  v ^^^ swz v x.swz0 ^^^ swz v x.swz1

/-- Addresses of the bytes of the piece at the coordinates. -/
def Desc.addrs (x : Desc) (cs : List Int) : List Nat :=
  let l := x.lin cs
  (List.range x.unit).map fun j => x.place (l + j)

/-- In bounds in every dimension (R23). -/
def Desc.inb (x : Desc) (cs : List Int) : Bool :=
  (List.range x.ndim).all fun d => decide (0 ≤ cs.getD d 0) && decide (cs.getD d 0 < (x.dim d).bound)

/-! ### Commands (R140 to R150) -/

/-- A field of a command. -/
def cf (c : BitVec 512) (byte lo w : Nat) : Nat := fld c.toNat (8 * byte + lo) w

/-- A bit of a command. -/
def cb (c : BitVec 512) (byte lo : Nat) : Bool := decide (cf c byte lo 1 = 1)

/-- The command at the front of 64 bytes. -/
def cmdOf (l : List Byte) : BitVec 512 := BitVec.ofNat 512 (leNat (l.take 64))

/-- OPC. -/
def cOpc (c : BitVec 512) : Nat := cf c 0 0 8
/-- IEN. -/
def cIen (c : BitVec 512) : Bool := cb c 1 0
/-- RB. -/
def cRb (c : BitVec 512) : Bool := cb c 1 1
/-- DRR. -/
def cDrr (c : BitVec 512) : Bool := cb c 1 2
/-- REL. -/
def cRel (c : BitVec 512) : Bool := cb c 1 3
/-- CREC. -/
def cCrec (c : BitVec 512) : Bool := cb c 1 4
/-- DPRI. -/
def cDpri (c : BitVec 512) : Nat := cf c 1 5 2
/-- TAG. -/
def cTag (c : BitVec 512) : Nat := cf c 2 0 16
/-- SKIND. -/
def cSkind (c : BitVec 512) : Nat := cf c 4 0 2
/-- STGT. -/
def cStgt (c : BitVec 512) : Nat := cf c 5 0 6
/-- SVAL, as a signed increment (R225). -/
def cSval (c : BitVec 512) : Int := sgn (cf c 6 0 16) 16
/-- SDESC. -/
def cSdesc (c : BitVec 512) : Nat := cf c 8 0 48
/-- XPOSE. -/
def cXpose (c : BitVec 512) : Bool := cb c 14 0
/-- RND. -/
def cRnd (c : BitVec 512) : Nat := cf c 14 1 2
/-- SAT. -/
def cSat (c : BitVec 512) : Bool := cb c 14 3
/-- AFF. -/
def cAff (c : BitVec 512) : Nat := cf c 14 4 2
/-- FHALT. -/
def cFhalt (c : BitVec 512) : Bool := cb c 14 6
/-- FMODE. -/
def cFmode (c : BitVec 512) : Bool := cb c 14 7
/-- OOBF. -/
def cOobf (c : BitVec 512) : Bool := cb c 14 8
/-- DDESC; RADDR of a METER. -/
def cDdesc (c : BitVec 512) : Nat := cf c 16 0 48
/-- FGEN. -/
def cFgen (c : BitVec 512) : Nat := cf c 22 0 8
/-- SBR. -/
def cSbr (c : BitVec 512) : Nat := cf c 23 0 2
/-- SBE. -/
def cSbe (c : BitVec 512) : Bool := cb c 23 2
/-- DBR. -/
def cDbr (c : BitVec 512) : Nat := cf c 23 3 2
/-- DBE. -/
def cDbe (c : BitVec 512) : Bool := cb c 23 5
/-- SCALE. -/
def cScale (c : BitVec 512) : Nat := cf c 24 0 32
/-- ZERO. -/
def cZero (c : BitVec 512) : Int := sgn (cf c 28 0 32) 32
/-- SCTAB. -/
def cSctab (c : BitVec 512) : Nat := cf c 32 0 48
/-- SCN. -/
def cScn (c : BitVec 512) : Nat := cf c 38 0 13
/-- SCDIM. -/
def cScdim (c : BitVec 512) : Nat := cf c 38 13 3
/-- SCOFF. -/
def cScoff (c : BitVec 512) : Nat := cf c 40 0 12
/-- SEED. -/
def cSeed (c : BitVec 512) : Nat := cf c 42 0 32
/-- IADDR; EADDR of a METER; ROFF of a remote TRANSFER. -/
def cIaddr (c : BitVec 512) : Nat := cf c 48 0 48
/-- ICNT. -/
def cIcnt (c : BitVec 512) : Nat := cf c 54 0 25
/-- IFMT. -/
def cIfmt (c : BitVec 512) : Nat := cf c 54 25 2
/-- IMASK. -/
def cImask (c : BitVec 512) : Nat := cf c 54 27 5
/-- RWR. -/
def cRwr (c : BitVec 512) : Bool := cb c 58 0
/-- RRD. -/
def cRrd (c : BitVec 512) : Bool := cb c 58 1
/-- FFIN. -/
def cFfin (c : BitVec 512) : Bool := cb c 58 2
/-- CHIP. -/
def cChip (c : BitVec 512) : Nat := cf c 58 4 4
/-- RSID. -/
def cRsid (c : BitVec 512) : Nat := cf c 59 0 21

/-- A data command (R141). -/
def isData (c : BitVec 512) : Bool := decide (1 ≤ cOpc c ∧ cOpc c ≤ 4)

/-- Whether every reserved bit of the command is 0 (R8, R140 to R150); the ranges are (bit, width). -/
def reservedZero (c : BitVec 512) : Bool :=
  let body : List (Nat × Nat) :=
    match cOpc c with
    | 0x00 => [(64, 448)]
    | 0x0B => [(64, 448)]
    | 0x08 => [(66, 6), (78, 2), (80, 16), (128, 384)]
    | 0x0A => [(66, 6), (78, 2), (80, 16), (128, 384)]
    | 0x09 => [(68, 4), (74, 6), (84, 4), (94, 2), (176, 16), (256, 256)]
    | 0x10 => [(85, 3), (94, 2), (96, 32), (176, 16), (240, 16), (304, 16), (368, 16), (432, 80)]
    | 0x11 => [(97, 7), (104, 24), (176, 336)]
    | 0x12 => [(66, 6), (80, 48), (176, 336)]
    | _ => [(121, 7), (190, 2), (332, 4), (368, 16), (467, 1), (493, 3), (496, 16)]
  ([(15, 1), (34, 6), (46, 2)] ++ body).all fun (lo, w) => decide (fld c.toNat lo w = 0)

/-! ### Ecnos-mode descriptors (R43) -/

/-- SRC. -/
def eSrc (d : BitVec 256) : Nat := fld d.toNat 0 48
/-- DST. -/
def eDst (d : BitVec 256) : Nat := fld d.toNat 64 48
/-- LEN. -/
def eLen (d : BitVec 256) : Nat := fld d.toNat 128 32
/-- SINC. -/
def eSinc (d : BitVec 256) : Bool := bit d.toNat 160
/-- DINC. -/
def eDinc (d : BitVec 256) : Bool := bit d.toNat 161
/-- FWIDTH. -/
def eFw (d : BitVec 256) : Nat := fld d.toNat 162 3
/-- IEN. -/
def eIen (d : BitVec 256) : Bool := bit d.toNat 165
/-- LAST. -/
def eLast (d : BitVec 256) : Bool := bit d.toNat 166
/-- NEXT. -/
def eNext (d : BitVec 256) : Nat := fld d.toNat 192 48

end Sys2Proof.Machine
end

