-- ==== Sys2Proof/Machine/Desc.lean ====
section
/-! DEFINITION. The checks that decode makes on descriptors (places 2 to 4 of R455): ranges, bounds, swizzle, packed
and Firn rules, alignment, and the agreement of the two sides. A check answers the fault code of its breach. -/

namespace Sys2Proof.Machine

/-- FLT_DESC_ALIGN (R193). -/
def fltAlign : Nat := 0x01
/-- FLT_DESC_RANGE (R193). -/
def fltRange : Nat := 0x02

/-- A place's outcome: a range breach wins over an alignment breach (R35, R455). -/
def breach (range align : Bool) : Option Nat := if range then some fltRange else if align then some fltAlign else none

/-- Elements that dimension d emits on the source side (R19). -/
def Desc.emit (x : Desc) (d : Nat) : Nat := (x.dim d).extent * (x.dim d).rep

/-- Elements of the written range of dimension d (R58). -/
def Desc.written (x : Desc) (d : Nat) : Nat :=
  (x.dim d).extent + (if x.padw then (x.dim d).padb + (x.dim d).pada else 0)

/-- First coordinate of the written range. -/
def Desc.first (x : Desc) (d : Nat) : Int :=
  (x.dim d).start - (if x.padw then (x.dim d).padb * (x.dim d).step else 0)

/-- The lowest and the highest in-bounds coordinate of a progression of n coordinates from f by steps of p (R22). -/
def inRange (f p : Int) (n bound : Nat) : Option (Int × Int) :=
  if n = 0 ∨ bound = 0 then none
  else
    let l := f + p * ((n : Int) - 1)
    let lo := min f l
    let hi := max f l
    let q : Int := p.natAbs
    let a := if 0 ≤ lo then lo else if q = 0 then lo else lo + q * ((-lo + q - 1) / q)
    let top : Int := (bound : Int) - 1
    let b := if hi ≤ top then hi else if q = 0 then hi else lo + q * ((top - lo) / q)
    if a ≤ b ∧ 0 ≤ a ∧ b ≤ top then some (a, b) else none

/-- In-bounds coordinate ranges of the dimensions; an indexed dimension of a table ranges over all of its bound (R22,
R124). `none` where a dimension has no in-bounds coordinate. -/
def Desc.ranges (x : Desc) (dst : Bool) (imask : Nat) : List (Option (Int × Int)) :=
  (List.range x.ndim).map fun d =>
    let m := x.dim d
    if bit imask d then inRange 0 1 m.bound m.bound
    else if dst then inRange (x.first d) m.step (x.written d) m.bound
    else inRange m.start m.step m.extent m.bound

/-- The lowest and the highest byte address of R22: of a circular descriptor its window; none where no element is in
bounds. -/
def Desc.span (x : Desc) (dst : Bool) (imask : Nat) : Option (Int × Int) :=
  if x.circ then
    let w : Int := 2 ^ x.cwrap
    some (x.base / w * w, x.base / w * w + w - 1)
  else if (List.range x.ndim).any fun d => (x.dim d).extent == 0 then none
  else ((x.ranges dst imask).mapM id).map fun l =>
    let ends := (List.range x.ndim).map fun d =>
      let (a, b) := l.getD d (0, 0)
      let u := if d = 0 then x.off0 a else a * (x.dim d).stride
      let v := if d = 0 then x.off0 b else b * (x.dim d).stride
      (min u v, max u v)
    (x.base + (ends.map (·.1)).sum, x.base + (ends.map (·.2)).sum + x.unit - 1)

/-- Whether the extremes of R22 leave the address space. -/
def Desc.outside (x : Desc) (dst : Bool) (imask : Nat) : Bool :=
  let lim : Int := if x.space then 2 ^ 40 else 2 ^ 48
  (x.span dst imask).any fun (lo, hi) => decide (lo < 0 ∨ lim ≤ hi)

/-- Source and destination groups of a swizzle term: (low bit, width). -/
def swzGroups (t : Nat) : (Nat × Nat) × (Nat × Nat) := ((fld t 0 6, fld t 12 4), (fld t 6 6, fld t 12 4))

/-- Two groups of bits share a bit. -/
def overlap (a b : Nat × Nat) : Bool := decide (0 < a.2 ∧ 0 < b.2 ∧ a.1 < b.1 + b.2 ∧ b.1 < a.1 + a.2)

/-- A breach of R30 or R32. -/
def Desc.swzBad (x : Desc) : Bool :=
  let ts := [x.swz0, x.swz1]
  let top := if x.circ then x.cwrap else if x.space then 40 else 48
  let term := fun t =>
    let (s, d) := swzGroups t
    if s.2 = 0 then decide (s.1 ≠ 0 ∨ d.1 ≠ 0)
    else decide (d.1 < 4 ∨ s.1 + s.2 > top ∨ d.1 + d.2 > top) || ts.any fun u => overlap d (swzGroups u).1
  ts.any term || overlap (swzGroups x.swz0).2 (swzGroups x.swz1).2

/-- Limit of R20 on the number of elements. -/
def tooMany (l : List Nat) : Bool := decide (l.foldl (· * ·) 1 > 2 ^ 40)

/-- Range rules of one descriptor alone (R13 to R16, R20, R22 to R24, R29, R32, R38, R40, R41). `raw` are its bytes,
`x` the descriptor with its effective BASE, `k` the extra factor of a table's elements (R123). -/
def Desc.rangeBad (raw : List Byte) (x : Desc) (dst : Bool) (imask k : Nat) : Bool :=
  let r := parseDesc raw
  let ds := (List.range x.ndim).map x.dim
  decide (x.fmt = 15 ∨ x.ndim = 0 ∨ x.ndim > 5 ∨ bfld raw 0 21 11 ≠ 0)
  || (!x.space && x.nport != 0)
  || (x.space && decide (r.base ≥ 2 ^ 40))
  || (if x.circ then decide (x.cwrap < 8 ∨ x.cwrap > 32) else x.cwrap != 0)
  || (if x.firn then !firnAllowed x.fmt x.frate else x.frate != 0)
  || ((raw.drop (18 + 22 * x.ndim)).take (22 * (5 - x.ndim))).any (fun b => b != 0)
  || decide (x.fill ≥ 2 ^ fmtWidth x.fmt)
  || (if dst then ds.any (fun m => m.rep != 1)
      else x.padw || ds.any (fun m => m.padb != 0 || m.pada != 0))
  || tooMany (k :: (if dst then ds.map (fun m => m.padb + m.extent + m.pada) else ds.map (fun m => m.extent * m.rep)))
  || x.outside dst imask
  || x.swzBad
  || ((fmt4 x.fmt || fmt6 x.fmt) &&
      (if dst then (x.dim 0).stride != 1 else (x.dim 0).stride != 0 && (x.dim 0).stride != 1))
  || (x.firn && (x.dim 0).stride != 1)

/-- Alignment rules of one descriptor alone (R34, R39, R42). -/
def Desc.alignBad (x : Desc) (dst : Bool) : Bool :=
  let a : Int := x.width
  let p : Int := x.per
  let m := x.dim 0
  let f := x.first 0
  let n := x.written 0
  let whole := !x.firn && !fmt4 x.fmt && !fmt6 x.fmt
  decide (x.base % a ≠ 0)
  || (List.range x.ndim).any (fun d => (d != 0 || whole) && decide ((x.dim d).stride % a ≠ 0))
  || (dst && !whole && (m.step != 1 || decide (f % p ≠ 0)
      || (if x.firn then decide ((n : Int) % p ≠ 0) && decide (f + n - 1 ≠ (m.bound : Int) - 1)
          else decide ((n : Int) % p ≠ 0) || decide ((m.bound : Int) % p ≠ 0))))

/-- Places 2 and 3 of R455: one descriptor alone. -/
def Desc.check (raw : List Byte) (x : Desc) (dst : Bool) (imask k : Nat) : Option Nat :=
  breach (x.rangeBad raw dst imask k) (x.alignBad dst)

/-- The descriptor of a shape only (R144): nothing of its placement may be given. -/
def Desc.shapeOnly (x : Desc) : Bool :=
  x.base == 0 && !x.space && x.nport == 0 && !x.circ && x.cwrap == 0 && x.swz0 == 0 && x.swz1 == 0 && !x.padw
  && (List.range x.ndim).all fun d => (x.dim d).padb == 0 && (x.dim d).pada == 0

/-- R19: the source's counts agree with the destination's extents, under the exchange of R53. -/
def shapesAgree (sd dd : Desc) (xpose : Bool) : Bool :=
  sd.ndim == dd.ndim && (List.range sd.ndim).all fun d =>
    let d' := if xpose then (if d = 0 then 1 else if d = 1 then 0 else d) else d
    sd.emit d == (dd.dim d').extent

/-- R123: a table and its linear side agree block by block, and stack along the outermost dimension. -/
def listAgree (table lin : Desc) (gather xpose : Bool) (icnt : Nat) : Bool :=
  let n := table.ndim
  let cnt := fun (d : Nat) => if gather then table.emit d else (table.dim d).extent
  let lcnt := fun (d : Nat) => if gather then (lin.dim d).extent else lin.emit d
  table.ndim == lin.ndim && (List.range n).all fun d =>
    let d' := if xpose then (if d = 0 then 1 else if d = 1 then 0 else d) else d
    if d + 1 = n then lcnt d == icnt * cnt d else cnt d == lcnt d'

/-- Bits set in an index mask. -/
def popcount (v w : Nat) : Nat := ((List.range w).filter (bit v)).length

/-- R121, the part that needs the table: indexed dimensions lie below NDIM, start at 0 and step by 1. -/
def tableBad (table : Desc) (imask : Nat) (scatter xpose : Bool) : Bool :=
  decide (table.ndim > 4) || decide (imask ≥ 2 ^ table.ndim)
  || (List.range table.ndim).any (fun d => bit imask d && ((table.dim d).start != 0 || (table.dim d).step != 1))
  || (scatter && (List.range table.ndim).any (fun d => (table.dim d).padb != 0 || (table.dim d).pada != 0))
  || (!scatter && xpose && decide (table.ndim < 3))

/-- Entry size of an index list in bytes (R120). -/
def entSize (ifmt imask : Nat) : Nat := if ifmt = 0 then 2 else 4 * popcount imask 5

/-- The placement descriptor of a receive stream (R290): only these may be loaded. -/
def placementBad (raw : List Byte) (x : Desc) : Bool :=
  x.space || x.firn || fmt4 x.fmt || fmt6 x.fmt || x.padw
  || (List.range x.ndim).any fun d =>
      let o := 18 + 22 * d
      (x.dim d).padb != 0 || (x.dim d).pada != 0 || bfld raw (o + 20) 0 16 != 0 || (x.dim d).stride == 0

/-! ### The other structures (place 5) -/

/-- R106: T[0] is +0, no entry is negative, infinite or NaN, the entries do not decrease, T[15] > 0. A minus zero counts as
negative (log 104). -/
def curveBad (l : List Byte) : Bool :=
  let es := (List.range 16).map fun n => bfld l (2 * n) 0 16
  es.getD 0 0 != 0 || es.any (fun e => decide (e ≥ 0x7C00))
  || (es.zip (es.drop 1)).any (fun (a, b) => decide (b < a)) || es.getD 15 0 == 0

/-- The edges of an edge table (R116). -/
def edgesOf (l : List Byte) : List Num := (List.range 16).map fun n => decodeNum 14 (bfld l (4 * n) 0 32)

/-- R116: entry 0 is 0, and not a minus zero (log 105), the edges are finite and do not decrease. -/
def edgesBad (l : List Byte) : Bool :=
  let es := edgesOf l
  bfld l 0 0 32 != 0 || (es.drop 1).any (fun v => match v with
    | .fin _ _ _ => false
    | _ => true)
  || ((es.drop 1).zip (es.drop 2)).any (fun (a, b) => !(a.le b))

end Sys2Proof.Machine
end

