-- ==== Sys2Proof/Machine/Plan.lean ====
section
/-! DEFINITION. The geometry of a data command: its tiles in delivery order (R60 to R62, R113, R127), the source element
behind each destination element (R17 to R27, R53, R122, R123), and how a tile's bytes are formed from the source bytes
(R47, R48, R56, R57, R68, R96, R102). -/

namespace Sys2Proof.Machine

/-- Everything that fixes a data command's tiles: descriptors with their effective bases, the list entries read so
far, and what is remote. -/
structure Geo where
  opc : Nat
  sd : Desc
  dd : Desc
  raddr : Nat
  xpose : Bool
  imask : Nat
  icnt : Nat
  idx : SMap (List Int)
  rwr : Bool
  rrd : Bool
  roff : Nat
deriving DecidableEq, Repr

/-- GATHER. -/
def Geo.gather (g : Geo) : Bool := g.opc == 2
/-- SCATTER. -/
def Geo.scatter (g : Geo) : Bool := g.opc == 3
/-- METER. -/
def Geo.meter (g : Geo) : Bool := g.opc == 4
/-- The table of a GATHER or SCATTER (R119). -/
def Geo.table (g : Geo) : Desc := if g.scatter then g.dd else g.sd

/-! ### Index entries (R122, R130) -/

/-- Block coordinate of dimension d in an entry: component j belongs to the j-th indexed dimension. -/
def entryCoord (imask : Nat) (ent : List Int) (d : Nat) : Int :=
  if bit imask d then ent.getD (popcount imask d) 0 else 0

/-- An entry out of bounds under R130. -/
def entryOob (table : Desc) (imask : Nat) (ent : List Int) : Bool :=
  (List.range table.ndim).any fun d => bit imask d &&
    (decide (entryCoord imask ent d < 0)
      || decide (entryCoord imask ent d * (table.dim d).extent ≥ (table.dim d).bound))

/-- The entry n, if it has been read. -/
def Geo.entry (g : Geo) (n : Nat) : Option (List Int) := g.idx.find n

/-- Whether entry n is known to be out of bounds. -/
def Geo.oob (g : Geo) (n : Nat) : Bool :=
  match g.entry n with
  | none => false
  | some e => entryOob g.table g.imask e

/-- Coordinate of element i of dimension d of a block (R122); entry `n` acts on the table's side only. -/
def blockCoord (g : Geo) (x : Desc) (isTable : Bool) (n d : Nat) (i : Int) : Int :=
  let m := x.dim d
  let b := if isTable then entryCoord g.imask ((g.entry n).getD []) d else 0
  m.start + (b * m.extent + i) * m.step

/-- Numbers in rising order, each once. -/
def sortU (l : List Nat) : List Nat := (l.foldr (fun a (m : SMap Unit) => m.ins a ()) []).map (·.1)

/-! ### Tiles -/

/-- How the written range is cut: column groups of `cg` elements of dimension 0 and row groups of `rg` rows. -/
structure Cut where
  cg : Nat
  rg : Nat
deriving DecidableEq, Repr

/-- Sub-tile size S (R55). -/
def subTile (f : Nat) : Nat :=
  match fmtWidth f with
  | 16 => 16
  | 32 => 8
  | _ => 32

/-- The cut of R60 and R61. -/
def cutOf (dd : Desc) (xpose : Bool) : Cut :=
  if xpose then { cg := if fmt4 dd.fmt then 256 else 128, rg := subTile dd.fmt }
  else
    let u := if dd.firn then firnU dd.fmt else dd.unit
    let units := ceilDiv (dd.written 0) dd.per
    if units * u ≤ 4096 then { cg := max 1 (units * dd.per), rg := max 1 (4096 / max 1 (units * u)) }
    else { cg := 4096 / max 1 u * dd.per, rg := 1 }

/-- Tiles of one written range. -/
def rangeTiles (dd : Desc) (c : Cut) : Nat :=
  ceilDiv (dd.written 0) c.cg * ceilDiv (dd.written 1) c.rg * dd.written 2 * dd.written 3 * dd.written 4

/-- A dimension without interior elements: nothing moves (R46). -/
def Desc.none (x : Desc) : Bool := (List.range x.ndim).any fun d => (x.dim d).extent == 0

/-- Groups of 64 in a row of a METER's source. -/
def Geo.rowGroups (g : Geo) : Nat := ceilDiv (g.sd.emit 0) 64

/-- Records of a METER (R113). -/
def Geo.records (g : Geo) : Nat := g.rowGroups * g.sd.emit 1 * g.sd.emit 2 * g.sd.emit 3 * g.sd.emit 4

/-- Number of tiles of the command. -/
def Geo.tiles (g : Geo) : Nat :=
  if g.meter then (if g.sd.none then 0 else ceilDiv g.records 128)
  else if g.dd.none ∨ g.sd.none then 0
  else if g.scatter then g.icnt * rangeTiles g.dd (cutOf g.dd false)
  else rangeTiles g.dd (cutOf g.dd g.xpose)

/-- Source of a destination element: cornice, or emitted element `e` of block `n` of the source. -/
inductive Src where
  | cornice
  | elem (n : Nat) (e : List Nat)
deriving DecidableEq, Repr

/-- A destination element of a tile: entry of its block, its place in the written range, its source. -/
structure El where
  n : Nat
  w : List Nat
  src : Src
deriving DecidableEq, Repr

/-- Exchange of the two innermost indices (R53). -/
def swap01 (l : List Nat) : List Nat :=
  match l with
  | a :: b :: t => b :: a :: t
  | l => l

/-- The element at place `w` of the written range; `n` is the entry of a SCATTER. -/
def Geo.el (g : Geo) (n : Nat) (w : List Nat) : El :=
  let dim := fun d => g.dd.dim d
  let pb := fun d => if g.dd.padw then (dim d).padb else 0
  let inside := (List.range g.dd.ndim).all fun d =>
    decide (pb d ≤ w.getD d 0) && decide (w.getD d 0 < pb d + (dim d).extent)
  if !inside then { n := n, w := w, src := .cornice }
  else
    let i := (List.range g.dd.ndim).map fun d => w.getD d 0 - pb d
    let last := g.dd.ndim - 1
    if g.gather then
      let e := max 1 (g.sd.emit last)
      let t := i.getD last 0
      let j := i.set last (t % e)
      { n := t / e, w := w, src := .elem (t / e) (if g.xpose then swap01 j else j) }
    else if g.scatter then
      { n := n, w := w, src := .elem n (i.set last (n * (dim last).extent + i.getD last 0)) }
    else { n := n, w := w, src := .elem 0 (if g.xpose then swap01 i else i) }

/-- Rows of places of tile k of one written range: dimension 0 runs along a row. -/
def rangeRows (dd : Desc) (c : Cut) (k : Nat) : List (List (List Nat)) :=
  let c0 := max 1 (ceilDiv (dd.written 0) c.cg)
  let r0 := max 1 (ceilDiv (dd.written 1) c.rg)
  let w2 := max 1 (dd.written 2)
  let w3 := max 1 (dd.written 3)
  let ci := k % c0
  let ri := k / c0 % r0
  let i2 := k / c0 / r0 % w2
  let i3 := k / c0 / r0 / w2 % w3
  let i4 := k / c0 / r0 / w2 / w3
  (List.range (min c.rg (dd.written 1 - ri * c.rg))).map fun r =>
    (List.range (min c.cg (dd.written 0 - ci * c.cg))).map fun x => [ci * c.cg + x, ri * c.rg + r, i2, i3, i4]

/-- The rows of elements of tile k, in the destination traversal order; not for METER. -/
def Geo.rows (g : Geo) (k : Nat) : List (List El) :=
  if g.scatter then
    let c := cutOf g.dd false
    let per := max 1 (rangeTiles g.dd c)
    (rangeRows g.dd c (k % per)).map fun r => r.map (g.el (k / per))
  else (rangeRows g.dd (cutOf g.dd g.xpose) k).map fun r => r.map (g.el 0)

/-- Mixed-radix digits of a row number over the emitted counts of dimensions 1 to 4. -/
def rowDigits (x : Desc) (r : Nat) : List Nat :=
  let a := max 1 (x.emit 1)
  let b := max 1 (x.emit 2)
  let c := max 1 (x.emit 3)
  [r % a, r / a % b, r / a / b % c, r / a / b / c]

/-- The groups of a METER's tile: record number and emitted elements. -/
def Geo.groups (g : Geo) (k : Nat) : List (Nat × List (List Nat)) :=
  (List.range (min 128 (g.records - 128 * k))).map fun j =>
    let q := 128 * k + j
    let per := max 1 g.rowGroups
    let row := q / per
    let first := q % per * 64
    (q, (List.range (min 64 (g.sd.emit 0 - first))).map fun x => (first + x) :: rowDigits g.sd row)

/-! ### Source elements -/

/-- A source element resolved: interior indices, coordinates, whether it is in bounds. -/
structure SrcEl where
  n : Nat
  i : List Nat
  c : List Int
  inb : Bool
deriving DecidableEq, Repr

/-- Emitted element `e` of block `n` (R19, R27, R122, R130). -/
def Geo.srcEl (g : Geo) (n : Nat) (e : List Nat) : SrcEl :=
  let i := (List.range g.sd.ndim).map fun d => e.getD d 0 / max 1 (g.sd.dim d).rep
  let c := (List.range g.sd.ndim).map fun d => blockCoord g g.sd g.gather n d (i.getD d 0)
  { n := n, i := i, c := c, inb := !(g.gather && g.oob n) && g.sd.inb c }

/-- Coordinates that are read: a broadcast dimension reads its coordinate 0 (R26, R56). -/
def Geo.readAt (g : Geo) (s : SrcEl) : List Int :=
  (List.range g.sd.ndim).map fun d => if (g.sd.dim d).stride = 0 then 0 else s.c.getD d 0

/-- Byte number of a piece in the numbering of a remote stream's bytes (R291, R292): pieces of dimension 0 in traversal
order. -/
def pieceNum (x : Desc) (i : List Nat) : Nat :=
  let p := ceilDiv ((x.dim 0).extent) x.per
  (i.getD 0 0 / x.per + p * (i.getD 1 0 + (x.dim 1).extent * (i.getD 2 0 + (x.dim 2).extent * (i.getD 3 0
    + (x.dim 3).extent * i.getD 4 0)))) * x.unit

/-- Addresses of the bytes of the piece that holds a source element. -/
def Geo.srcAddrs (g : Geo) (s : SrcEl) : List Nat :=
  if g.rrd then (List.range g.sd.unit).map fun j => g.roff + pieceNum g.sd s.i + j
  else g.sd.addrs (g.readAt s)

/-- Every source element of tile k, in the order in which stage 4 hands them to the array. -/
def Geo.tileSrc (g : Geo) (k : Nat) : List SrcEl :=
  if g.meter then ((g.groups k).map fun (_, es) => es.map (g.srcEl 0)).flatten
  else ((g.rows k).flatten.filterMap fun e => match e.src with
    | .cornice => none
    | .elem n x => some (g.srcEl n x))

/-- Entries that tile k needs, in list order, each once. -/
def Geo.tileEntries (g : Geo) (k : Nat) : List Nat :=
  if g.gather || g.scatter then
    sortU ((g.rows k).flatten.filterMap fun e => match e.src with
      | .cornice => none
      | .elem n _ => some n)
  else []

/-- Bytes that tile k reads, each address once, rising. -/
def Geo.tileReads (g : Geo) (k : Nat) : List Nat :=
  sortU (((g.tileSrc k).filter (·.inb)).map g.srcAddrs).flatten

/-! ### Destination bytes -/

/-- Coordinates of a destination element. -/
def Geo.dstCoord (g : Geo) (e : El) : List Int :=
  (List.range g.dd.ndim).map fun d =>
    blockCoord g g.dd g.scatter e.n d ((e.w.getD d 0 : Int) - (if g.dd.padw then (g.dd.dim d).padb else 0))

/-- A destination element that stage 8 keeps (R23, R130). -/
def Geo.dstIn (g : Geo) (e : El) : Bool := !(g.scatter && g.oob e.n) && g.dd.inb (g.dstCoord e)

/-- Pieces of consecutive members. -/
def chunks {α : Type} (n : Nat) (l : List α) : List (List α) :=
  (List.range (ceilDiv l.length n)).map fun k => (l.drop (k * n)).take n

/-- Addresses of the bytes of the piece that begins with an element. -/
def Geo.dstAddrs (g : Geo) (e : El) : List Nat :=
  if g.rwr then (List.range g.dd.unit).map fun j => g.roff + pieceNum g.dd e.w + j
  else g.dd.addrs (g.dstCoord e)

/-- Addresses that tile k writes with byte enables on, in traversal order, before overlaps are resolved. -/
def Geo.tileAddrs (g : Geo) (k : Nat) : List Nat :=
  if g.meter then ((g.groups k).map fun (r, _) => (List.range 32).map fun j => g.raddr + 32 * r + j).flatten
  else ((g.rows k).map fun r => ((chunks g.dd.per r).map fun ch =>
    match ch.find? g.dstIn with
    | some _ => g.dstAddrs (ch.headD { n := 0, w := [], src := .cornice })
    | none => []).flatten).flatten

/-- Bytes of tile k that count for the residue (R172): distinct bytes written; a SCATTER's unread entry counts its whole
block. -/
def Geo.tileBytes (g : Geo) (k : Nat) : Nat :=
  if g.scatter ∧ g.entry (k / max 1 (rangeTiles g.dd (cutOf g.dd false))) = none then
    ((g.rows k).map fun r => ceilDiv r.length g.dd.per * g.dd.unit).sum
  else (sortU (g.tileAddrs k)).length

/-- Bytes of the whole command. -/
def Geo.totalBytes (g : Geo) : Nat := ((List.range g.tiles).map g.tileBytes).sum

/-! ### Forming a tile -/

/-- The byte read at an address, from the runs in the read reorder space. -/
def gotByte (got : List (Nat × List Byte)) (a : Nat) : Byte :=
  match got with
  | [] => 0
  | (b, l) :: t => if b ≤ a ∧ a < b + l.length then l.getD (a - b) 0 else gotByte t a

/-- What casting needs beyond the geometry: the fields, the affine entries, Firn's pin. -/
structure Xform where
  cast : CastCfg
  aff : Nat
  scale : Num
  zero : Int
  sctab : List Byte
  scoff : Nat
  scdim : Nat
  pin : Option (Nat × Nat)
  fmode : Bool
deriving DecidableEq, Repr

/-- Scale and zero of an element (R77, R78, R125). -/
def Xform.entry (x : Xform) (s : SrcEl) : Num × Int :=
  if x.aff = 2 then
    let o := 8 * (x.scoff + s.i.getD x.scdim 0)
    (decodeNum 14 (bfld x.sctab o 0 32), sgn (bfld x.sctab (o + 4) 0 32) 32)
  else (x.scale, x.zero)

/-- Damage of a Firn block: the fault code, or its decoded elements. -/
def readBlock (x : Desc) (pin : Option (Nat × Nat)) (blk : List Byte) : Nat ⊕ List Nat :=
  match firnBad x.fmt x.frate pin blk with
  | some c => .inl c
  | none => .inr (firnDecode x.fmt x.frate (pin.elim 0 (·.2)) blk)

/-- Firn blocks of a tile, each decoded once: first address of a block to its outcome. -/
def Geo.blocks (g : Geo) (x : Xform) (got : List (Nat × List Byte)) (k : Nat) : SMap (Nat ⊕ List Nat) :=
  if g.sd.firn then
    (g.tileSrc k).foldl (fun m s =>
      if s.inb then
        let a := g.srcAddrs s
        match m.find (a.headD 0) with
        | some _ => m
        | none => m.ins (a.headD 0) (readBlock g.sd x.pin (a.map (gotByte got)))
      else m) []
  else []

/-- Bits of a source element as stage 4 delivers them, and whether its block is damaged. -/
def Geo.srcBits (g : Geo) (got : List (Nat × List Byte)) (bl : SMap (Nat ⊕ List Nat)) (s : SrcEl) : Nat × Bool :=
  if !s.inb then (g.sd.fill, false)
  else
    let a := g.srcAddrs s
    let mem := if g.rrd then s.i.getD 0 0 % g.sd.per else g.sd.member (s.c.getD 0 0)
    if g.sd.firn then
      match bl.find (a.headD 0) with
      | some (.inr l) => (l.getD mem 0, false)
      | _ => (g.sd.fill, true)
    else (fld (leNat (a.map (gotByte got))) (if g.sd.per = 1 then 0 else mem * fmtWidth g.sd.fmt) (fmtWidth g.sd.fmt),
      false)

/-- Identity of a taken element within a tile: repeats and broadcasts of one element share it (R56, R57, R68). A FILL
element of a broadcast dimension has one for each coordinate (log 99). -/
def Geo.keyOf (g : Geo) (s : SrcEl) : Nat :=
  let ds := (List.range g.sd.ndim).map fun d =>
    if s.inb && (g.sd.dim d).stride == 0 then 0 else s.i.getD d 0 + 1
  ds.foldl (fun a d => a * 2 ^ 34 + d) (2 * s.n + b2n s.inb)

/-- Whether one element can be emitted more than once in a tile. -/
def Geo.shares (g : Geo) : Bool :=
  (List.range g.sd.ndim).any fun d => (g.sd.dim d).stride == 0 || (g.sd.dim d).rep != 1

/-- Casting along a list of elements in source order: each taken element once. -/
def Geo.castAll (g : Geo) (x : Xform) (got : List (Nat × List Byte)) (bl : SMap (Nat ⊕ List Nat)) :
    List SrcEl → SMap Nat → CastSt → List Nat × CastSt
  | [], _, c => ([], c)
  | s :: t, memo, c =>
    let hit := if g.shares then memo.find (g.keyOf s) else none
    match hit with
    | some b =>
      let (r, c') := g.castAll x got bl t memo c
      (b :: r, c')
    | none =>
      let (sc, z) := x.entry s
      let (b, c1) := castElem x.cast sc z c (g.srcBits got bl s).1
      let (r, c') := g.castAll x got bl t (if g.shares then memo.ins (g.keyOf s) b else memo) c1
      (b :: r, c')

/-- Rows and columns exchanged. -/
def transposeL {α : Type} (n : Nat) (l : List (List α)) : List (List α) :=
  (List.range n).map fun j => l.filterMap fun r => r[j]?

/-- Destination bits of the elements of the rows, given the cast results of the elements that have a source, in
traversal order. -/
def fillRows (fill : Nat) : List (List El) → List Nat → List (List (El × Nat))
  | [], _ => []
  | r :: t, bs =>
    let step := r.foldl (fun (st : List (El × Nat) × List Nat) e =>
      match e.src with
      | .cornice => ((e, fill) :: st.1, st.2)
      | .elem _ _ => ((e, st.2.headD 0) :: st.1, st.2.drop 1)) ([], bs)
    step.1.reverse :: fillRows fill t step.2

/-- The bytes of one piece: its members packed, or a Firn block encoded (R37, R102). -/
def Geo.pieceBytes (g : Geo) (x : Xform) (ch : List (El × Nat)) : List Byte :=
  if g.dd.firn then
    let l := ch.map fun (e, b) => if g.dstIn e then b else g.dd.fill
    let full := l ++ List.replicate (64 - l.length) g.dd.fill
    firnEncode g.dd.fmt g.dd.frate x.fmode (x.pin.elim 0 (·.1)) (x.pin.elim 0 (·.2)) full
  else toLE g.dd.unit (pack (ch.map fun (_, b) => (fmtWidth g.dd.fmt, b)))

/-- What stage 7 places in the tile slot: bytes with their addresses in traversal order, the cast unit's state, the
damaged blocks (address and code) in order. -/
structure Formed where
  bytes : List (Nat × Byte)
  cast : CastSt
  dmg : List (Nat × Nat)
deriving DecidableEq, Repr

/-- Damaged blocks among decoded ones, each once, in the order in which their elements are taken. -/
def Geo.damaged (g : Geo) (bl : SMap (Nat ⊕ List Nat)) (l : List SrcEl) : List (Nat × Nat) :=
  if bl.any (fun e => e.2.isLeft) then
    l.foldl (fun (d : List (Nat × Nat)) e =>
      let a := (g.srcAddrs e).headD 0
      match if e.inb then bl.find a else none with
      | some (.inl c) => if d.any (fun q => q.1 == a) then d else d ++ [(a, c)]
      | _ => d) []
  else []

/-- Forming tile k of a TRANSFER, GATHER or SCATTER. -/
def Geo.formTile (g : Geo) (x : Xform) (got : List (Nat × List Byte)) (c : CastSt) (k : Nat) : Formed :=
  let bl := g.blocks x got k
  let rows := g.rows k
  let hasSrc : El → Option SrcEl := fun e => match e.src with
    | .cornice => none
    | .elem n y => some (g.srcEl n y)
  -- elements enter the array in the source's order: with XPOSE, destination columns are source rows (R53, R68)
  let lines := if g.xpose then transposeL (rows.headD []).length rows else rows
  let taken := lines.flatten.filterMap hasSrc
  let (bs, c') := g.castAll x got bl taken [] c
  let full := fillRows g.dd.fill lines bs
  let cells := if g.xpose then transposeL rows.length full else full
  let bytes := (cells.map fun r => ((chunks g.dd.per r).map fun ch =>
    match ch.find? (fun p => g.dstIn p.1), ch with
    | some _, h :: _ => (g.dstAddrs h.1).zip (g.pieceBytes x ch)
    | _, _ => []).flatten).flatten
  { bytes := bytes, cast := c', dmg := g.damaged bl taken }

/-- Forming tile k of a METER (R115). -/
def Geo.formMeter (g : Geo) (x : Xform) (edges : List Num) (got : List (Nat × List Byte)) (c : CastSt) (k : Nat) :
    Formed :=
  let bl := g.blocks x got k
  let bytes := ((g.groups k).map fun (r, es) =>
    let ss := (es.map (g.srcEl 0)).filter (·.inb)
    let vs := ss.map fun s => (s, g.srcBits got bl s)
    let ok := vs.filter fun v => !v.2.2
    let nums := ok.map fun v =>
      let n := decodeNum g.sd.fmt v.2.1
      if x.aff = 0 then n else affine (x.entry v.1).1 (x.entry v.1).2 n
    let m := meterRecord nums edges (vs.any (·.2.2)) r
    ((List.range 32).map fun j => g.raddr + 32 * r + j).zip m).flatten
  { bytes := bytes, cast := c, dmg := g.damaged bl ((g.groups k).map fun q => q.2.map (g.srcEl 0)).flatten }

/-! ### Bursts (R36, R422) -/

/-- Beats that hold the addresses, each once, rising. -/
def beatsOf (beat : Nat) (as : List Nat) : List Nat := sortU (as.map (· / beat))

/-- Bursts of runs of consecutive numbers after the open burst (b, n) of the run that starts at r: a run is cut at the
multiples of `page`, and into pieces of `mx` counted from its start (R316, R422). -/
def runsFrom (mx page r b n : Nat) : List Nat → List (Nat × Nat)
  | [] => [(b, n)]
  | x :: t =>
    if x = b + n then
      if (x - r) % mx ≠ 0 ∧ x % page ≠ 0 then runsFrom mx page r b (n + 1) t else (b, n) :: runsFrom mx page r x 1 t
    else (b, n) :: runsFrom mx page x x 1 t

/-- Bursts of runs of consecutive rising numbers. -/
def runsOf (mx page : Nat) : List Nat → List (Nat × Nat)
  | [] => []
  | b :: t => runsFrom mx page b b 1 t

/-- Bursts (address, bytes) that read the addresses from a port with the given beat. -/
def burstsOf (beat mx : Nat) (as : List Nat) : List (Nat × Nat) :=
  (runsOf mx (4096 / beat) (beatsOf beat as)).map fun (b, n) => (b * beat, n * beat)

/-- The last value written to each address, addresses rising (R59). -/
def lastWrites (l : List (Nat × Byte)) : SMap Byte := l.foldl (fun m e => m.ins e.1 e.2) []

end Sys2Proof.Machine
end

