-- ==== Sys2Proof/Machine/State.lean ====
section
/-! DEFINITION. The state of the block: every register, queue, buffer and mode the spec gives it, as plain data, the
queue of commands that wait, and the state right after the assertion of the always-on reset. -/

namespace Sys2Proof.Machine

/-- Reasons to stop with a fault: none. Every fault of the spec is data of the block (a fault record, a stopped
stream), so no command ends a run; the type has no constructor. -/
inductive Fault : Type where
deriving DecidableEq, Repr

/-- Reasons to refuse a command. -/
inductive Refusal where
  /-- Raised by `exec` alone, for a command without a meaning; safe. -/
  | notModelled (mnemonic : String)
deriving DecidableEq, Repr

/-! ### Streams -/

/-- STATE of a stream record (R162, R163). -/
inductive StState where
  | empty
  | armed
  | ready
  | running
  | waiting
  | frozen
  | halted
  | quarantined
deriving DecidableEq, Repr

/-- Why a stream is WAITING (R163). Counters are named 64m + k. `again` marks an arrival that is to be repeated
(R230), `target` a round. -/
inductive Wait where
  | none
  | counter (k : Nat) (wval : BitVec 32)
  | rope (n : Nat) (wval : BitVec 32)
  | dblCounter (k : Nat) (target : BitVec 32) (again : Bool)
  | dblRope (n : Nat) (target : BitVec 32) (again : Bool)
  | table
  | rearmPending (target : Nat)
  | rearmBehind (target : Nat)
  | cqFull
  | noSlots
  | home
deriving DecidableEq, Repr

/-- Where a FROZEN or HALTED stream stopped (R201, R202). -/
inductive StopAt where
  | none
  | tile
  | refusal
  | decodeRead
  | ring
  | program
  | record
  | recordArmed                 -- as `record`, of a persistent stream between armings
  | readBack
  | flag
  | slotTable
deriving DecidableEq, Repr

/-- How far the command that a stream holds has come: read; its copies held; tiles under way; its read-back due; its
effects applied, so that only its completion phase is left. -/
inductive CStage where
  | raw
  | copies
  | tiles
  | readBack
  | done
deriving DecidableEq, Repr

/-- The command that a stream holds, with all that its completion record will report. -/
structure CmdCtx where
  raw : BitVec 512
  stage : CStage
  drr : Bool                    -- DRR taken as 1 (R140, R163)
  got : SMap (List Byte)        -- copies read at decode, by place (R12, R80)
  missing : List Nat            -- places whose reads are under way
  nanf : Bool
  satf : Bool
  dmg : List Nat                -- damaged Firn blocks (R99)
  idx : SMap (List Int)         -- index entries read (R126)
  ok : SMap Nat                 -- bytes with an OKAY response, by tile (R172)
  wrote : Option (Nat × Nat × Nat) -- port space, virtual and physical address of the last destination byte (R170)
  remoteOk : SMap Nat           -- bytes acknowledged, by their offset in the receive stream (R295)
  skipped : Bool
  parity : Bool
  refused : Bool
  aborted : Bool
  spared : Bool                 -- a held abort met it executing and takes the next command (R174)
  decoded : Bool                -- the decode of the command has once completed
  unknown : Bool                -- the residue is not known (R172)
  joinDef : Bool
  gen : BitVec 8                -- generation made by a TABLE LOAD
  tslot : Option Nat            -- table slot taken by a TABLE LOAD
  slot : Option Nat             -- slot of a batched run
  endArm : Bool                 -- a LOOP that ends an arming
  toArmed : Bool                -- and after which the stream is ARMED (R149)
  pass : BitVec 32              -- PASS that a LOOP's record carries
  sigDone : Bool                -- the attached signal has been applied
  noSig : Bool                  -- a slot run ended aborted or refused (R211)
  fill : Bool                   -- tiles are formed from FILL (R435)
  strmEnd : Bool                -- the frame is cut: the remaining rows are FILL (R434)
  td : Option Nat               -- TDEST that a TRANSFER takes its source from (R433)
  xseq : BitVec 8               -- transfer number of a remote command (R286)
  timed : Bool                  -- a request of it has timed out since it was last begun (R299)
  recQueue : BitVec 10          -- queue whose completion queue takes the record (R167)
deriving DecidableEq, Repr

/-- Values a REARM left pending on its target (R148). -/
structure Rearm where
  bmask : BitVec 4
  b0 : BitVec 48
  b1 : BitVec 48
  b2 : BitVec 48
  b3 : BitVec 48
  queue : BitVec 10
  issuer : Nat
deriving DecidableEq, Repr

/-- A slot of a batched stream (R134): STATE is 0 EMPTY, 1 ACTIVE, 2 SPILLED, 3 DEFERRED; `ord` orders deferrals. -/
structure Slot where
  st : BitVec 3
  rsv : BitVec 16
  soff : BitVec 48
  doff : BitVec 48
  ord : Nat
  units : List Nat              -- units of the spill area that a SPILLED slot holds (R245)
deriving DecidableEq, Repr

/-- The fields of a fault record (R192) but PH. -/
structure FRec where
  fcode : BitVec 8
  part : BitVec 3
  dir : Bool
  walk : Bool
  pav : Bool
  vav : Bool
  ten : BitVec 8
  tgen : BitVec 8
  sid : BitVec 21
  pc : BitVec 6
  va : BitVec 48
  kind : BitVec 8
  mover : BitVec 6
  ch : BitVec 2
  pa : BitVec 48
  lvl : BitVec 2
  resp : BitVec 8
  ntile : BitVec 40
  aux : BitVec 24
deriving DecidableEq, Repr

/-- A stream record (R162) and the block's own position of the stream. -/
structure Strm where
  st : StState
  pers : Bool
  hen : Bool
  rcv : Bool
  ten : BitVec 8
  tgen : BitVec 8
  part : BitVec 3
  queue : BitVec 10
  hmv : BitVec 6
  hch : BitVec 2
  plen : BitVec 7
  paddr : BitVec 48
  pc : BitVec 6
  pfw : BitVec 5
  lcnt : BitVec 32
  pass : BitVec 32
  b0 : BitVec 48
  b1 : BitVec 48
  b2 : BitVec 48
  b3 : BitVec 48
  ntile : BitVec 40
  fgenp : BitVec 8
  lctr : BitVec 6
  arrd : Bool
  lfsr : BitVec 32
  readySeq : Nat
  wait : Wait
  stopAt : StopAt
  cmd : Option CmdCtx
  abortHeld : Bool
  rpend : Option Rearm
  slots : SMap Slot
  ran : Bool                    -- a batched stream has performed its first step boundary (R133)
  place : List Byte             -- placement descriptor of a receive stream (R290)
  recStop : Option (Bool × FRec) -- its unwritten record's fault (R202): FROZEN or HALTED, and the report
  bad : BitVec 2 := 0           -- 1: the record is damaged (R365); 2: and its write-back has met it
deriving DecidableEq, Repr

/-- An EMPTY record. -/
def Strm.reset : Strm :=
  { st := .empty, pers := false, hen := false, rcv := false, ten := 0, tgen := 0, part := 0, queue := 0, hmv := 0,
    hch := 0, plen := 0, paddr := 0, pc := 0, pfw := 0, lcnt := 0, pass := 0, b0 := 0, b1 := 0, b2 := 0, b3 := 0,
    ntile := 0, fgenp := 0, lctr := 0, arrd := false, lfsr := 0, readySeq := 0, wait := .none, stopAt := .none,
    cmd := none, abortHeld := false, rpend := none, slots := [], ran := false, place := [], recStop := none }

/-! ### Accesses -/

/-- Who makes an access, within its partition (R269). -/
inductive Requester where
  | mover (m : Nat)
  | walk
  | record
  | mgmt
deriving DecidableEq, Repr

/-- What an access is for; it decides what its response does. `tile` numbers a tile of the command. -/
inductive AKind where
  | source (tile : Nat)
  | list (tile : Nat)
  | probe (tile : Nat)
  | dest (tile : Nat)
  | ring
  | program
  | decode (place : Nat)
  | readBack
  | flag
  | cqRec (c : Nat) (slot : Nat)
  | fqRec (p : Nat)
  | msi
  | walkRead
  | glacRead (m c : Nat)
  | glacWrite
  | recWrite                   -- the glacier record of a stream that a LOAD or UNLOAD changes (R148)
  | slotTable
  | slotWrite
  | rxWrite (job : Nat)
  | rxRead (job : Nat)
  | ecnos (tile : Nat)
  | prefetch (tile : Nat)      -- a source read ahead of its tile (R168)
  | spillWrite (tile space : Nat) -- read-ahead data, read from that space, to the spill area (R175)
  | mgmt
  | glacZero                   -- a glacier record written to zero by a reset (R345)
  | sheet                      -- of a contact sheet written without a request (R417)
  | script                     -- of a script entry (R330)
  | bootData                   -- of the DATA copy (R331)
  | bootRead                   -- the image of a boot stream, or its placement descriptor (R332)
  | mbRead                     -- the image of an UPDATE (R415)
deriving DecidableEq, Repr

/-- Where an access stands: waiting for its translation, ready for the Mover's issue (R169), at a table's arbiter
(R269), or granted and outstanding (R279). -/
inductive Stage where
  | xlat
  | issue
  | arb
  | out
deriving DecidableEq, Repr

/-- One burst (R422), from its making to its response. `va`, `pa` and `len` name the bytes that it is for; on its port it
starts at the beat that holds the first of them. `space` 0 is far memory, 1 + n is NEARn; `port` 0 and 1 are FAR0 and FAR1,
2 + n is NEARn. -/
structure Access where
  aid : Nat
  part : Nat
  rq : Requester
  mv : Option Nat               -- Mover whose hazard window it passes (R205)
  ch : Nat
  kind : AKind
  sid : Nat
  ten : BitVec 8
  gen : BitVec 8
  wr : Bool
  permW : Bool                  -- checked against WR (writes and read-backs, R182)
  space : Nat
  port : Nat
  phys : Bool
  va : Nat
  pa : Nat
  len : Nat
  size : Nat                    -- bytes of one beat: the data width, or 2^FWIDTH on a fixed side (R422)
  data : List Byte
  en : List Bool
  cache : BitVec 4
  prot : BitVec 3
  qos : BitVec 4
  stage : Stage
  trk : Nat
  pool : Bool
  drain : Bool                  -- its response is awaited and discarded (R343, R174)
  after : Bool                  -- its channel stops at its tile: a further error still counts (R199)
deriving DecidableEq, Repr

/-! ### Channels and Movers -/

/-- What the active stream of a channel is doing. -/
inductive Ph where
  | idle
  | fetch
  | decoded
  | dreads
  | tiles
  | readBack
  | flag
  | slots
  | done
  | ecnFetch
  | ecnRun
deriving DecidableEq, Repr

/-- A bus error as MV_CH_ERR latches it (R200). -/
structure BusErr where
  dir : Bool
  walk : Bool
  resp : Nat
  kind : Nat
  va : Nat
  pa : Nat
deriving DecidableEq, Repr

/-- A stop under way (R194, R198): the state it leads to, where, and the record to write; the bus error to be latched once
the stop takes effect, and whether more of them have arrived (R199). -/
structure Stop where
  frozen : Bool
  stopAt : StopAt
  ntile : BitVec 40
  bus : Bool
  frec : FRec
  err : Option BusErr := none
  more : Bool := false
deriving DecidableEq, Repr

/-- A tile formed in a slot (R49): its number and its bytes, each with its space, port and address. -/
structure TileSlot where
  tile : Nat
  bytes : List (Nat × Byte)
deriving DecidableEq, Repr

/-- A burst read ahead (R168): its space, address and length, and its data, or where the spill area holds them (R175). -/
structure PfRun where
  space : Nat
  va : Nat
  len : Nat
  data : List Byte
  spill : Option Nat
  bad : Bool := false           -- a parity error lies in it (R363)
deriving DecidableEq, Repr

/-- A block that the coalescer holds (R128), by its index key: the runs of bytes read of it. -/
structure CBlock where
  key : List Int
  runs : List (Nat × List Byte)
  bad : Bool := false           -- a parity error lies in it (R363)
deriving DecidableEq, Repr

/-- A channel of a Mover. -/
structure Chan where
  act : Option Nat
  shadow : Option Nat
  shSeq : Nat
  loading : Option Nat
  run : Nat
  ph : Ph
  tile : Nat
  got : List (Nat × List Byte)  -- source data in the read reorder space, by address
  bad : Bool                    -- parity has withheld the tile (R363)
  slot : Option TileSlot
  xl : SMap (BitVec 36 × BitVec 2) -- pages translated for the tile: page to physical page and ATTR
  stop : Option Stop
  abort : Bool
  dflt : Option (Nat × FRec)    -- fault on a read made at decode: place of the structure, record (R455)
  inB : Nat                     -- array beats the tile still needs on the input and the output side (R50)
  outB : Nat
  inLoss : Nat
  outLoss : Nat
  rLoss : Nat
  wLoss : Nat
  xLoss : Nat
  lfsr : BitVec 32
  xseq : BitVec 8
  errva : BitVec 48
  errpa : BitVec 48
  errValid : Bool
  errOvf : Bool
  errDir : Bool
  errWalk : Bool
  errResp : BitVec 2
  errKind : BitVec 8
  win : Nat                     -- prefetch window in units of 4 KiB
  pfst : BitVec 2
  pf : SMap (List PfRun)        -- content of the prefetch window, by command and tile (R168)
  coal : List CBlock            -- held blocks of the coalescer, newest first (R128)
  hits : List (List Int)        -- keys of the blocks that the tile under way emits from the coalescer alone
  units : List Nat              -- units of the spill area that the window holds (R245)
  bnd : Option (SMap Slot)      -- slots that a step boundary leaves once its table is written (R135, R202)
deriving DecidableEq, Repr

/-- A channel after reset: the LFSR holds 1 (R85). -/
def Chan.reset : Chan :=
  { act := none, shadow := none, shSeq := 0, loading := none, run := 0, ph := .idle, tile := 0, got := [], bad := false,
    slot := none, xl := [], stop := none, abort := false, dflt := none, inB := 0, outB := 0, inLoss := 0, outLoss := 0,
    rLoss := 0, wLoss := 0, xLoss := 0, lfsr := 1, xseq := 0, errva := 0, errpa := 0, errValid := false, errOvf := false,
    errDir := false, errWalk := false, errResp := 0, errKind := 0, win := 0, pfst := 2, pf := [], coal := [],
    hits := [], units := [], bnd := none }

/-- A cached translation (R454): `lvl` is the level of the leaf, `vpn` the address bits above the page offset. -/
structure TlbE where
  ten : BitVec 8
  gen : BitVec 8
  lvl : BitVec 2
  vpn : Nat
  ppn : Nat
  rd : Bool
  wr : Bool
  attr : BitVec 2
  bad : Bool := false           -- a parity error lies in it (R363)
deriving DecidableEq, Repr

/-- A Mover. `turn` fields hold the channel that won last (R65, R169); 3 makes channel 0 the first. -/
structure Mover where
  solo : Bool
  solot : BitVec 8
  oos : Bool
  hang : Bool
  testf : Bool
  req : Bool
  phase : BitVec 2
  tpass : Bool
  tfail : Bool
  tdrop : Bool
  susp : List (BitVec 8)
  sovf : Bool
  froz : Bool
  gated : Bool
  turnI : Nat
  turnO : Nat
  turnR : Nat
  turnW : Nat
  turnX : Nat
  utlb : List TlbE              -- most recently used first (R454)
deriving DecidableEq, Repr

/-- A Mover after reset. -/
def Mover.reset : Mover :=
  { solo := false, solot := 0, oos := false, hang := false, testf := false, req := false, phase := 0, tpass := false,
    tfail := false, tdrop := false, susp := [], sovf := false, froz := false, gated := false, turnI := 3, turnO := 3,
    turnR := 3, turnW := 3, turnX := 3, utlb := [] }

/-- A Sync File counter (R229). -/
structure Cnt where
  value : BitVec 32
  mode : BitVec 2
  part : BitVec 4
  arr : BitVec 4
  next : BitVec 4
  bound : Bool
  ovf : Bool
  unf : Bool
  dent : Bool
  ten : BitVec 8
deriving DecidableEq, Repr

/-- An unbound counter. -/
def Cnt.reset : Cnt :=
  { value := 0, mode := 0, part := 0, arr := 0, next := 0, bound := false, ovf := false, unf := false, dent := false,
    ten := 0 }

/-- A rope line (R233). `low` tells that rope_in has been seen low since the last completed round, `taken` that its
rise has been taken as the external arrival, `rel` that a completed round still holds rope_out high (R236). -/
structure Rope where
  mmask : BitVec 64
  round : BitVec 32
  part : BitVec 3
  ext : Bool
  en : Bool
  dent : Bool
  rin : Bool
  rout : Bool
  arr : BitVec 64
  pend : BitVec 64
  low : Bool
  taken : Bool
  rel : Bool
deriving DecidableEq, Repr

/-- An unused line with rope_in low. -/
def Rope.reset : Rope :=
  { mmask := 0, round := 0, part := 0, ext := false, en := false, dent := false, rin := false, rout := false, arr := 0,
    pend := 0, low := true, taken := false, rel := false }

/-! ### Tenants and queues -/

/-- A tenant: GL_TENANT (R247), GL_TACCT (R251), its virtual time (R252) and TR_ROOT (R184). -/
structure Tenant where
  en : Bool
  part : BitVec 3
  avail : Bool
  gen : BitVec 8
  weight : BitVec 16
  cerr : Bool
  cyc : BitVec 64
  vt : BitVec 64
  active : Bool
  placed : Nat
  rootEn : Bool
  wattr : BitVec 2
  root : BitVec 36
deriving DecidableEq, Repr

/-- A tenant before any image. -/
def Tenant.reset : Tenant :=
  { en := false, part := 0, avail := false, gen := 0, weight := 0, cerr := false, cyc := 0, vt := 0, active := false,
    placed := 0, rootEn := false, wattr := 0, root := 0 }

/-- A submission queue (R151 to R153). -/
structure Sq where
  en : Bool
  log2sz : BitVec 5
  ten : BitVec 8
  cq : BitVec 8
  qout : BitVec 8
  dbslot : BitVec 6
  pfw : BitVec 5
  base : BitVec 36
  head : BitVec 16
  tail : BitVec 16
  outst : BitVec 8
deriving DecidableEq, Repr

/-- A disabled submission queue. -/
def Sq.reset : Sq :=
  { en := false, log2sz := 0, ten := 0, cq := 0, qout := 0, dbslot := 0, pfw := 0, base := 0, head := 0, tail := 0,
    outst := 0 }

/-- A completion record on its way (R160): the 32 bytes but PH and SQHEAD, and what its visibility causes. -/
structure CqRec where
  bits : BitVec 256
  sid : Nat
  mv : Nat
  ch : Nat
  queue : BitVec 10
  irq : Bool
  outst : Bool
  ord : Nat                     -- number of its hand-off, where it is held
deriving DecidableEq, Repr

/-- A slot given out (R160): its record, its index and phase, and whether its OKAY has arrived. -/
structure CqSlot where
  item : CqRec
  slot : Nat
  ph : Bool
  done : Bool
deriving DecidableEq, Repr

/-- A completion queue (R155 to R157); PEND is its bit of GL_CQPEND (R428). -/
structure Cq where
  en : Bool
  log2sz : BitVec 5
  ten : BitVec 8
  irq : BitVec 4
  msi : Bool
  dbslot : BitVec 4
  base : BitVec 36
  tail : BitVec 16
  head : BitVec 16
  ph : Bool
  pend : Bool
  given : List CqSlot
  held : List CqRec
deriving DecidableEq, Repr

/-- A disabled completion queue: PH resets to 1 (R157). -/
def Cq.reset : Cq :=
  { en := false, log2sz := 0, ten := 0, irq := 0, msi := false, dbslot := 0, base := 0, tail := 0, head := 0, ph := true,
    pend := false, given := [], held := [] }

/-- A fault queue (R191); PEND of the register is the length of `buf` while the ring is full; `pend` is its bit of
GL_FQPEND. -/
structure Fq where
  en : Bool
  log2sz : BitVec 5
  irq : BitVec 4
  msi : Bool
  base : BitVec 36
  tail : BitVec 16
  head : BitVec 16
  ph : Bool
  lost : BitVec 16
  buf : List FRec
  busy : Bool
  pend : Bool
deriving DecidableEq, Repr

/-- A disabled fault queue. -/
def Fq.reset : Fq :=
  { en := false, log2sz := 0, irq := 0, msi := false, base := 0, tail := 0, head := 0, ph := false, lost := 0, buf := [],
    busy := false, pend := false }

/-! ### Partitions -/

/-- A Firn table slot (R105, R112). -/
structure FSlot where
  curve : BitVec 256
  gen : BitVec 8
  ten : BitVec 8
  current : Bool
  keep : Bool
  pins : Nat
  taken : Bool                  -- loaded by a TABLE LOAD that has not completed
deriving DecidableEq, Repr

/-- A free slot. -/
def FSlot.reset : FSlot :=
  { curve := 0, gen := 0, ten := 0, current := false, keep := false, pins := 0, taken := false }

/-- A near window (R188). -/
structure NWin where
  en : Bool
  port : BitVec 2
  rd : Bool
  wr : Bool
  base : BitVec 28
  size : BitVec 24
deriving DecidableEq, Repr

/-- A disabled window. -/
def NWin.reset : NWin := { en := false, port := 0, rd := false, wr := false, base := 0, size := 0 }

/-- The registers of a partition (R242, R169, R188, R190, R256, R255, R280) and what it holds of Staging. -/
structure Part where
  en : Bool
  spillEn : Bool
  eten : BitVec 8
  mvmask : BitVec 64
  pfa : BitVec 10
  bsa : BitVec 10
  qen : Bool
  qglo : BitVec 4
  qghi : BitVec 4
  ren : Bool
  rglo : BitVec 10
  rghi : BitVec 10
  spillAttr : BitVec 2
  spillBase : BitVec 36
  spillSz : BitVec 24
  glacAttr : BitVec 2
  glacBase : BitVec 36
  gfirst : BitVec 20
  gcnt : BitVec 21
  issue : BitVec 32
  nwin : SMap NWin
  ecnEn : Bool
  ecnAttr : BitVec 2
  ecnLo : BitVec 36
  ecnHi : BitVec 36
  trkF : BitVec 64
  trkN : BitVec 64
  quantum : BitVec 24
  homeDrop : Bool
  fq : Fq
  ftab : SMap FSlot
  fnext : BitVec 8
  pfUsed : Nat
  bsUsed : Nat
  spUsed : Nat
deriving DecidableEq, Repr

/-- A partition before any image; QUANTUM is 0x010000 (R256), generation numbers start at 1 (R107). -/
def Part.reset : Part :=
  { en := false, spillEn := false, eten := 0, mvmask := 0, pfa := 0, bsa := 0, qen := false, qglo := 0, qghi := 0,
    ren := false, rglo := 0, rghi := 0, spillAttr := 0, spillBase := 0, spillSz := 0, glacAttr := 0, glacBase := 0,
    gfirst := 0, gcnt := 0, issue := 0, nwin := [], ecnEn := false, ecnAttr := 0, ecnLo := 0, ecnHi := 0, trkF := 0,
    trkN := 0, quantum := 0x010000, homeDrop := false, fq := Fq.reset, ftab := [], fnext := 1, pfUsed := 0, bsUsed := 0,
    spUsed := 0 }

/-- An Ecnos channel (R177) and the descriptor its chain runs (R43). -/
structure Ecn where
  busy : Bool
  abort : Bool
  iena : Bool
  done : Bool
  err : Bool
  fcode : BitVec 8
  desc : BitVec 43
  cur : BitVec 48
  next : BitVec 48              -- address of the descriptor to fetch
  d : BitVec 256
deriving DecidableEq, Repr

/-- An idle Ecnos channel. -/
def Ecn.reset : Ecn :=
  { busy := false, abort := false, iena := false, done := false, err := false, fcode := 0, desc := 0, cur := 0, next := 0,
    d := 0 }

/-- A walk asked for (R182): for which access, and its position. -/
structure WalkReq where
  ten : BitVec 8
  gen : BitVec 8
  va : Nat
  wr : Bool
  aid : Nat
deriving DecidableEq, Repr

/-- A walk-cache entry (R454): `lvl` is the level of the table it leads to. -/
structure WcE where
  ten : BitVec 8
  gen : BitVec 8
  lvl : BitVec 2
  vtag : Nat
  tbl : BitVec 36
  bad : Bool := false           -- a parity error lies in it (R363)
deriving DecidableEq, Repr

/-- The walk in progress: level and table it reads, the entries it passed, whether its result is to be discarded
(R187). -/
structure Walk where
  req : WalkReq
  lvl : BitVec 2
  tbl : BitVec 36
  path : List WcE
  discard : Bool
deriving DecidableEq, Repr

/-- The translation unit of a partition: its way of the L2 TLB, its walk-cache entries (most recently used first) and
its walk engine with the walks that wait. -/
structure Xl where
  l2 : List TlbE
  wc : List WcE
  walk : Option Walk
  queue : List WalkReq
deriving DecidableEq, Repr

/-- An idle unit. -/
def Xl.reset : Xl := { l2 := [], wc := [], walk := none, queue := [] }

/-- A copy in the descriptor cache or among the table copies (R12, R80, R307), keyed by tenant, generation, address
and length. -/
structure DEnt where
  ten : BitVec 8
  gen : BitVec 8
  addr : Nat
  data : List Byte
  bad : Bool := false           -- a parity error lies in it (R363)
deriving DecidableEq, Repr

/-- Descriptor cache and table copies of a partition, most recently used first. -/
structure DCache where
  desc : List DEnt
  tabs : List DEnt
deriving DecidableEq, Repr

/-- Empty caches. -/
def DCache.reset : DCache := { desc := [], tabs := [] }

/-! ### Arbitration -/

/-- A peer packet under its tenure: its Mover and channel (none for a packet of no channel), transfer number and offset;
the Mover that holds the tenure; the buffer whose credit it spent, and the credits that it carries back, by buffer. -/
structure PktTen where
  owner : Option (Nat × Nat)
  xseq : BitVec 8
  off : Nat
  mv : Nat
  buf : Nat
  back : Option (Nat × Nat)
deriving DecidableEq, Repr

/-- What a tenure carries (R263): an access, a peer packet, or a Staging burst. -/
inductive Tenure where
  | acc (aid : Nat)
  | pkt (p : PktTen)
  | stg (id : Nat)
deriving DecidableEq, Repr

/-- A burst of a tile between a Mover and its tile slot in Staging (R49, R262): written as the tile is formed, read as it
is issued. `out` tells that its tenure runs. -/
structure StgReq where
  id : Nat
  part : Nat
  mv : Nat
  ch : Nat
  sid : Nat
  tile : Nat
  group : Nat
  wr : Bool
  beats : Nat
  out : Bool
deriving DecidableEq, Repr

/-- A shutter table's arbiter (R265, R266, R268 to R272, R278). Per-partition values are indexed by the partition. -/
structure Tab where
  live : SMap (BitVec 4)        -- AR_SLOT, live owner codes
  shadow : SMap (BitVec 4)
  lock : Bool
  ptr : BitVec 8
  pend : Bool
  hogc : BitVec 8
  hogmv : BitVec 6
  pri : BitVec 32
  quota : BitVec 64
  lastBg : Nat                  -- last background winner
  turn : SMap Nat               -- requester granted last, plus one, per partition (R269)
  loss : SMap Nat
  backoff : SMap Bool
  wins : SMap Nat               -- background grants won in the window
  tenure : Option Tenure
  left : Nat                    -- beats of the tenure still to come
deriving DecidableEq, Repr

/-- QUOTA at reset: 0x40 for each partition (R273). -/
def quotaReset : BitVec 64 := 0x4040404040404040

/-- A table before any image: every slot belongs to partition 0 (R265). The first background turn falls to
partition 0. -/
def Tab.reset : Tab :=
  { live := [], shadow := [], lock := false, ptr := 0, pend := false, hogc := 0, hogmv := 0, pri := 0,
    quota := quotaReset, lastBg := 7, turn := [], loss := [], backoff := [], wins := [], tenure := none, left := 0 }

/-- A pending set of a commit (R274): slots as 256t + s. -/
structure PendSet where
  slots : SMap (BitVec 4)
  pri : BitVec 32
  quota : BitVec 64
deriving DecidableEq, Repr

/-- The arbitration control registers (R273, R281). -/
structure Arb where
  pri : BitVec 32
  quota : BitVec 64
  pend : Bool
  drop : Bool
  cerr : Bool
  qos : BitVec 32
  set : Option PendSet
deriving DecidableEq, Repr

/-- Arbitration control after reset. -/
def Arb.reset : Arb :=
  { pri := 0, quota := quotaReset, pend := false, drop := false, cerr := false, qos := 0, set := none }

/-! ### Resets, start, power, parity -/

/-- A reset that waits (R342): `raised` where escalation raised it, `ms` the time of its request. -/
structure RstReq where
  unit : BitVec 3
  target : BitVec 8
  rcv : Bool
  raised : Bool
  ms : BitVec 32
deriving DecidableEq, Repr

/-- The reset engine of a partition (R341, R342). -/
structure RstEng where
  busy : Bool
  unit : BitVec 3
  sbath : Bool
  target : BitVec 8
  drop : Bool
  lunit : BitVec 3
  ltarget : BitVec 8
  abnd : BitVec 16
  qids : BitVec 8
  rcv : Bool
  queue : List RstReq
  tests : List Nat              -- Movers whose self-tests run
deriving DecidableEq, Repr

/-- An idle engine. -/
def RstEng.reset : RstEng :=
  { busy := false, unit := 0, sbath := false, target := 0, drop := false, lunit := 0, ltarget := 0, abnd := 0, qids := 0,
    rcv := false, queue := [], tests := [] }

/-- GL_ESC (R352) and the recovery resets remembered: (UNIT, TARGET, millisecond), newest first (R353, R354). -/
structure Esc where
  oos : Bool
  pcr : Bool
  mode : BitVec 2
  drop : Bool
  raised : Bool
  runit : BitVec 3
  rtgt : BitVec 8
  last : BitVec 32
  hist : List (BitVec 3 × BitVec 8 × BitVec 32)
  held : Bool                   -- a power cycle requested in RETAIN waits for the wake (R360)
deriving DecidableEq, Repr

/-- GL_ESC after the always-on reset. -/
def Esc.reset : Esc :=
  { oos := false, pcr := false, mode := 0, drop := false, raised := false, runit := 0, rtgt := 0, last := 0, hist := [],
    held := false }

/-- GL_BOOTSTAT (R334), GL_IMGCFG (R327), and the start in progress. -/
structure Boot where
  state : BitVec 4
  slot : Bool
  fallbk : Bool
  faila : BitVec 4
  failb : BitVec 4
  scridx : BitVec 16
  seq : BitVec 32
  imgcfg : BitVec 64
  size : Nat                    -- SIZE of the image being tried
  tried : List Bool             -- slots tried
  cands : List Bool             -- slots that are candidates (R322)
  sidx : Nat                    -- index of the script entry to run, or of the boot stream being loaded
  running : Bool                -- the script runs
  cold : Bool                   -- the start follows the always-on reset
  img : List Byte               -- the image in Staging: read by step 4, written to zero by step 10 or after a failure
  strs : List Byte              -- the STREAMS section, while step 11 runs
  ldImg : Option (List Byte)    -- the record image of a boot stream whose placement descriptor is being read
  lost : Bool                   -- an access of the script or of the DATA copy has ended in an error
deriving DecidableEq, Repr

/-- Before step 1. -/
def Boot.reset : Boot :=
  { state := 0, slot := false, fallbk := false, faila := 0, failb := 0, scridx := 0, seq := 0, imgcfg := 0, size := 0,
    tried := [], cands := [], sidx := 0, running := false, cold := true, img := [], strs := [], ldImg := none, lost := false }

/-- The pins: resets asserted (R444). -/
structure Pins where
  aon : Bool
  core : Bool
  far0 : Bool
  far1 : Bool
  near : Bool
  peer0 : Bool
  peer1 : Bool
  strm : Bool
  host : Bool
deriving DecidableEq, Repr

/-- GL_PARSTAT (R370). -/
structure ParStat where
  data : Bool
  recE : Bool
  reg : Bool
  cache : Bool
  beat : Bool
  lroff : BitVec 21
  dcnt : BitVec 16
  rcnt : BitVec 16
deriving DecidableEq, Repr

/-- No parity error. -/
def ParStat.reset : ParStat :=
  { data := false, recE := false, reg := false, cache := false, beat := false, lroff := 0, dcnt := 0, rcnt := 0 }

/-- GL_STCTL (R375). -/
structure Stc where
  group : BitVec 3
  busy : Bool
  pass : Bool
  fail : Bool
  drop : Bool
  line : BitVec 13
  fbank : BitVec 5
deriving DecidableEq, Repr

/-- No Staging test. -/
def Stc.reset : Stc :=
  { group := 0, busy := false, pass := false, fail := false, drop := false, line := 0, fbank := 0 }

/-- GL_PWRCTL and GL_PWRSTAT (R386, R387), the RETAIN save area (R382), and whether power is present (R385). `state`
holds 0 in ACTIVE and in LIGHT alike: the gated Movers tell the two apart (R378). `wake` tells that the 40 cc of a DOZE
wake run (R381). -/
structure Pwr where
  lgen : Bool
  dzen : Bool
  dzidle : BitVec 12
  rreq : Bool
  pwake : Bool
  swake : Bool
  wakem : BitVec 16
  state : BitVec 3
  canc : Bool
  drop : Bool
  lwake : BitVec 3
  dzcnt : BitVec 16
  wake : Bool
  save : Option (SMap Cnt × SMap Rope)
  rose : BitVec 16              -- rope_in lines that rose in RETAIN (R384)
  off : Bool
deriving DecidableEq, Repr

/-- GL_PWRCTL resets to 0x41: LGEN 1, DZIDLE 0x010 (R386). -/
def Pwr.reset : Pwr :=
  { lgen := true, dzen := false, dzidle := 0x010, rreq := false, pwake := false, swake := false, wakem := 0, state := 0,
    canc := false, drop := false, lwake := 0, dzcnt := 0, wake := false, save := none, rose := 0, off := false }

/-- GL_DBGCTL, GL_DBGCHAL, GL_DBGRESP (R399); `refusedAt` is the millisecond of the last refusal (R400). `lock` holds the
DEBUG_LOCK loaded last, and 1 before step 6 has loaded any (R398). -/
structure Dbg where
  scope : BitVec 2
  state : BitVec 3
  grant : BitVec 2
  chal : BitVec 256
  resp : BitVec 1024
  refusedAt : Option (BitVec 32)
  lock : Bool
deriving DecidableEq, Repr

/-- Locked, with no challenge. -/
def Dbg.reset : Dbg := 
  { scope := 0, state := 0, grant := 0, chal := 0, resp := 0, refusedAt := none, lock := true }

/-- The interrupt registers (R428); ECNIRQ is 8 fields of 4 bits. -/
structure Irq where
  en : BitVec 16
  parirq : BitVec 4
  mbirq : BitVec 4
  ecnirq : BitVec 32
  msiaddr : BitVec 46
  msidata : BitVec 32
deriving DecidableEq, Repr

/-- Interrupts disabled. -/
def Irq.reset : Irq := { en := 0, parirq := 0, mbirq := 0, ecnirq := 0, msiaddr := 0, msidata := 0 }

/-- A beat in an ingress buffer (R430): its valid bytes, TLAST, TUSER, and whether its TKEEP broke the rule. -/
structure Beat where
  data : List Byte
  last : Bool
  user : Bool
  bad : Bool
deriving DecidableEq, Repr

/-- GL_STRMd, GL_STRMSTATd (R432), the ingress buffer and the frame being consumed (R434): `inFrame` that its start
has been seen, `rows` the lines complete so far as pixel values, `cur` the bytes of the line so far. -/
structure StrmP where
  en : Bool
  pack : BitVec 2
  sid : BitVec 21
  ten : BitVec 8
  frames : BitVec 16
  ovf : BitVec 16
  lerr : BitVec 16
  ferr : BitVec 16
  buf : List Beat
  inFrame : Bool
  skip : Bool                   -- beats are discarded up to the next start of frame
  rows : List (List Nat)
  cur : List Byte
  curBad : Bool
deriving DecidableEq, Repr

/-- An unbound TDEST. -/
def StrmP.reset : StrmP :=
  { en := false, pack := 0, sid := 0, ten := 0, frames := 0, ovf := 0, lerr := 0, ferr := 0, buf := [], inFrame := false,
    skip := false, rows := [], cur := [], curBad := false }

/-- The HOST port (R426): read latch (offset of the register and its high half), held low half, data of the last
read, and the accesses that wait for the end of RETAIN (R384), oldest first. -/
structure Hst where
  latch : Option (Nat × BitVec 32)
  held : Option (Nat × BitVec 32)
  rdata : BitVec 32
  wait : List Instr
deriving DecidableEq, Repr

/-- GL_HOSTSEC (R392). -/
structure HSec where
  priven : Bool
  viol : Bool
  vcnt : BitVec 16
deriving DecidableEq, Repr

/-! ### Translation, peer, management -/

/-- TR_INV_STAT (R186) and the accesses that BUSY waits for (R187). -/
structure Inv where
  busy : Bool
  drop : Bool
  waits : List Nat
deriving DecidableEq, Repr

/-- A remote request sent and not yet answered (R295, R299). -/
structure RemReq where
  mv : Nat
  ch : Nat
  port : Nat
  wr : Bool
  xseq : BitVec 8
  off : Nat
  len : Nat
  tile : Nat
  sent : Bool
deriving DecidableEq, Repr

/-- A packet waiting to be sent (R286): whole bytes, port, class and VC, and for whom (none: TRANSIT). -/
structure TxPkt where
  port : Nat
  bytes : List Byte
  resp : Bool
  vc : Bool
  owner : Option (Nat × Nat × Nat) -- partition, Mover, channel
  issued : Bool                 -- its Mover has issued it (R169); true for others
  slot : Option Nat             -- receive buffer (4 × port + buffer) in which a forwarded packet lies
  ten : BitVec 8
  gen : BitVec 8
deriving DecidableEq, Repr

/-- A request received for a receive stream and under way (R294): header, writes or reads outstanding, data read. -/
structure RxJob where
  id : Nat
  port : Nat
  sid : Nat
  hdr : BitVec 256
  wr : Bool
  landed : Nat
  err : Bool
  got : List (Nat × List Byte)
  want : List Nat               -- addresses of the bytes requested, in order (RDREQ)
  drain : Bool
  fin : Option Nat              -- FINAL tracker of a flagged-final packet
deriving DecidableEq, Repr

/-- A FINAL tracker (R296). -/
structure FinTrk where
  live : Bool
  xseq : BitVec 8
  landed : Nat
  held : Option (Nat × List Byte)
deriving DecidableEq, Repr

/-- An idle tracker. -/
def FinTrk.reset : FinTrk := { live := false, xseq := 0, landed := 0, held := none }

/-- PE_FFTAB entry (R219). -/
structure FfEnt where
  en : Bool
  chip : BitVec 4
  mover : BitVec 6
  ch : BitVec 2
deriving DecidableEq, Repr

/-- An unused entry. -/
def FfEnt.reset : FfEnt := { en := false, chip := 0, mover := 0, ch := 0 }

/-- Counters of a peer port (R289). -/
structure PeStat where
  crce : BitVec 16
  fwdcrc : BitVec 16
  loss : BitVec 16
  drop : BitVec 16
deriving DecidableEq, Repr

/-- No packet counted. -/
def PeStat.reset : PeStat := { crce := 0, fwdcrc := 0, loss := 0, drop := 0 }

/-- The peer link (R285, R289, R297, R299). Credit tables are keyed 4 × port + buffer; they hold the credits spent
(`used`, of 8) and those owed to the neighbour. -/
structure Peer where
  chip : BitVec 4
  en : Bool
  nchip : BitVec 5
  dl0 : Bool
  dl1 : Bool
  dir : BitVec 32
  tmo : BitVec 5
  stat : SMap PeStat
  fftab : SMap FfEnt
  used : SMap Nat
  owed : SMap Nat
  out : SMap (List Byte)        -- the packet sent last on each port
  tx : List TxPkt
  rem : List RemReq
  jobs : List RxJob
  fin : SMap FinTrk
deriving DecidableEq, Repr

/-- The peer link before any image; PE_TMO resets to 0x16 (R299). -/
def Peer.reset : Peer :=
  { chip := 0, en := false, nchip := 0, dl0 := false, dl1 := false, dir := 0, tmo := 0x16, stat := [], fftab := [],
    used := [], owed := [], out := [], tx := [], rem := [], jobs := [], fin := [] }

/-- An event log entry (R408) but TSUB, whose µs the model does not count (log 11). -/
structure LogE where
  tms : BitVec 32
  sev : BitVec 2
  code : BitVec 8
  src : BitVec 8
  seq : BitVec 24
  arg : BitVec 40
deriving DecidableEq, Repr

/-- What a mailbox request in progress still has to do (R405, R415). -/
structure MbWork where
  op : BitVec 8
  update : Option (Bool × List Byte) -- slot being programmed and the image
  head : Bool                   -- bytes 0 to 1,023 of an UPDATE's image have passed their checks
  bus : Bool                    -- a far access has had an error response
deriving DecidableEq, Repr

/-- The management core (R403 to R419). -/
structure Mg where
  mbreq : SMap (BitVec 64)
  busy : Bool
  done : Bool
  drop : Bool
  ien : Bool
  status : BitVec 4
  mbrsp : SMap (BitVec 64)
  work : Option MbWork
  fwver : BitVec 16
  fwres : Bool
  fw : List Byte                -- firmware copied by step 7
  csEn : Bool
  csAddr : BitVec 42
  cs : Option (List Byte)       -- contact sheet captured and not yet written
  csDue : Nat                   -- when it is written: after partition n's reset (0 to 7), at RUN (8), at once (9)
  csOut : Option (Nat × Bool)   -- bytes of the contact sheet being written, and whether a response was an error
  nseq : BitVec 24
  mseq : BitVec 24
  mpos : Nat                    -- slot of the mirror ring that the next entry takes (R410)
  lost : BitVec 16
  log : List LogE               -- newest first, at most 4,096
  ms : BitVec 32
  temps : List (BitVec 16)
  volts : List (BitVec 16)
  clkf : BitVec 9
  droops : SMap (BitVec 16)
  dsamp : SMap (BitVec 16)      -- droop counts at the last sample
  twarn : BitVec 16
  tcrit : BitVec 16
  vwarn : BitVec 16
  vcrit : BitVec 16
  tact : BitVec 2
  vact : BitVec 2
  amask : BitVec 8
  alrt : BitVec 9
  lim : BitVec 10               -- limits held: temperature warning, critical; warnings, criticals of the four monitors
  pwrcyc : Bool                 -- a power cycle is requested and PWRCYC_REQ has yet to rise
  pin : Bool                    -- PWRCYC_REQ
  retry : Bool                  -- a critical action's RETAIN request was ignored (R407)
deriving DecidableEq, Repr

/-- The management core after the always-on reset, with the default thresholds of R406 and R419. -/
def Mg.reset : Mg :=
  { mbreq := [], busy := false, done := false, drop := false, ien := false, status := 0, mbrsp := [], work := none,
    fwver := 0, fwres := false, fw := [], csEn := false, csAddr := 0, cs := none, csDue := 9, csOut := none, nseq := 0, mseq := 0, mpos := 0,
    lost := 0, log := [], ms := 0, temps := [], volts := [], clkf := 0, droops := [], dsamp := [], twarn := 1680, tcrit := 1920,
    vwarn := 38, vcrit := 60, tact := 0, vact := 0, amask := 0xFF, alrt := 0, lim := 0, pwrcyc := false, pin := false,
    retry := false }

/-- The SMBus slave (R418, R439): bytes of the last transaction's response, empty where it was refused or abandoned; the
error code that follows them if the master clocks it out; and the address. -/
structure Smb where
  out : List Byte
  pec : Byte
  addr : BitVec 7
deriving DecidableEq, Repr

/-- An instruction of the TAP (R377). -/
inductive TapIr where
  | bypass
  | idcode
  | samplePreload
  | extest
deriving DecidableEq, Repr

/-- An instruction of the IEEE 1500 wrapper (R377). -/
inductive WrapIr where
  | bypass
  | extest
  | intest
  | mbist (sram : BitVec 8)
  | scan
  | debug
deriving DecidableEq, Repr

/-- The test ports: instructions selected, the data register shifted out by IDCODE and BYPASS. -/
structure Tap where
  ir : TapIr
  wir : WrapIr
  dr : BitVec 32
deriving DecidableEq, Repr

/-! ### The whole block -/

/-- The state of the block. Movers are keyed m, channels 4m + c, counters 64m + k, tables t, streams by their ID. -/
structure State where
  pending : List Instr
  cc : Nat
  nextAid : Nat
  seq : Nat
  free : Nat
  boot : Boot
  pins : Pins
  esc : Esc
  rst : SMap RstEng
  blk : Option (BitVec 3)       -- UNIT of a block-wide stop bath in progress
  sink : List Access
  par : ParStat
  stc : Stc
  granRet : SMap Bool
  granErr : SMap Nat
  scrub : Nat
  pwr : Pwr
  hsec : HSec
  dbg : Dbg
  irq : Irq
  strm : SMap StrmP
  host : Hst
  tens : SMap Tenant
  sqs : SMap Sq
  cqs : SMap Cq
  parts : SMap Part
  ecn : SMap Ecn                -- Ecnos channel n of partition p at 8p + n
  xl : SMap Xl
  dc : SMap DCache
  tabs : SMap Tab
  arb : Arb
  movers : SMap Mover
  chans : SMap Chan
  cnts : SMap Cnt
  ropes : SMap Rope
  strms : SMap Strm
  acc : List Access
  stg : List StgReq
  inv : Inv
  peer : Peer
  mg : Mg
  nvm : SMap Byte
  smb : Smb
  tap : Tap
deriving DecidableEq, Repr

/-- The block right after the assertion of aon_rst_n: every register at its reset value, the always-on and core
resets asserted (an assertion of aon_rst_n acts as one of every input, R444), nothing waiting. -/
def State.reset : State :=
  { pending := [], cc := 0, nextAid := 0, seq := 0, free := 0, boot := Boot.reset,
    pins := { aon := true, core := true, far0 := true, far1 := true, near := true, peer0 := true, peer1 := true,
              strm := true, host := true },
    esc := Esc.reset, rst := [], blk := none, sink := [], par := ParStat.reset, stc := Stc.reset, granRet := [],
    granErr := [], scrub := 0, pwr := Pwr.reset, hsec := { priven := false, viol := false, vcnt := 0 }, dbg := Dbg.reset,
    irq := Irq.reset, strm := [], host := { latch := none, held := none, rdata := 0, wait := [] }, tens := [], sqs := [], cqs := [],
    parts := [], ecn := [], xl := [], dc := [], tabs := [], arb := Arb.reset, movers := [], chans := [], cnts := [],
    ropes := [], strms := [], acc := [], stg := [], inv := { busy := false, drop := false, waits := [] }, peer := Peer.reset,
    mg := Mg.reset, nvm := [], smb := { out := [], pec := 0, addr := 0 },
    tap := { ir := .idcode, wir := .bypass, dr := 0 } }

end Sys2Proof.Machine
end

