-- ==== Sys2Proof/Machine/Flags.lean ====
section
/-! DEFINITION. Status codes and cast flags of completion records, the records themselves, fault records, and the
images of stream records (R162, R171, R173, R176, R192, R287). -/

namespace Sys2Proof.Machine

/-! ### Status codes (R173) -/

/-- ST_OK. -/
def stOk : Nat := 0x00
/-- ST_JOIN_DEFERRED. -/
def stJoin : Nat := 0x01
/-- ST_FIRN_DAMAGED. -/
def stFirn : Nat := 0x02
/-- ST_SKIPPED. -/
def stSkipped : Nat := 0x08
/-- ST_PARITY. -/
def stParity : Nat := 0x09
/-- ST_REFUSED. -/
def stRefused : Nat := 0x0C
/-- ST_ABORTED. -/
def stAborted : Nat := 0x0F

/-- The status of a command: of the causes that apply, the highest code (R173). -/
def statusOf (x : CmdCtx) : Nat :=
  if x.aborted then stAborted else if x.refused then stRefused else if x.parity then stParity
  else if x.skipped then stSkipped else if x.dmg ≠ [] then stFirn else if x.joinDef then stJoin else stOk

/-- A command just read. -/
def CmdCtx.fresh (raw : BitVec 512) : CmdCtx :=
  { raw := raw, stage := .raw, drr := false, got := [], missing := [], nanf := false, satf := false, dmg := [], idx := [],
    ok := [], wrote := none, remoteOk := [], skipped := false, parity := false, refused := false, aborted := false, spared := false,
    decoded := false, unknown := false, joinDef := false, gen := 0, tslot := none, slot := none, endArm := false, toArmed := false, pass := 0,
    sigDone := false, noSig := false, fill := false, strmEnd := false, td := none, xseq := 0, timed := false,
    recQueue := 0 }

/-- The decode of the command has never completed: its size is not known (R172). -/
def CmdCtx.undecoded (k : CmdCtx) : Bool := k.stage == .raw && !k.decoded

/-! ### Completion records (R171) -/

/-- The record's 32 bytes as a number, with PH and SQHEAD 0: these are known only when a slot is given (R160). -/
def recordBits (x : CmdCtx) (st : Strm) (sid pfst residue oobc : Nat) : BitVec 256 :=
  BitVec.ofNat 256 (pack [(16, cTag x.raw), (8, statusOf x), (1, 0), (1, b2n x.nanf), (1, b2n x.satf), (2, pfst),
    (1, b2n st.pers), (2, 0), (10, x.recQueue.toNat), (6, 0), (16, 0), (21, sid),
    (6, if st.pers then st.pc.toNat else 0), (5, 0), (8, cOpc x.raw), (8, x.gen.toNat), (16, min x.dmg.length 0xFFFF),
    (48, residue), (8, x.slot.getD 0), (1, b2n x.slot.isSome), (7, 0), (25, oobc), (7, 0),
    (32, if cOpc x.raw = 0x11 then x.pass.toNat else 0)])

/-- The bytes written: PH and SQHEAD put in their places. -/
def recordBytes (bits : BitVec 256) (ph : Bool) (sqhead : Nat) : List Byte :=
  toLE 32 (bits.toNat + b2n ph * 2 ^ 24 + sqhead * 2 ^ 48)

/-! ### Fault records (R192) -/

/-- The 32 bytes of a fault record. -/
def faultBytes (f : FRec) (ph : Bool) : List Byte :=
  toLE 32 (pack [(8, f.fcode.toNat), (3, f.part.toNat), (1, b2n f.dir), (1, b2n f.walk), (1, b2n f.pav), (1, b2n f.vav),
    (1, b2n ph), (8, f.ten.toNat), (8, f.tgen.toNat), (21, f.sid.toNat), (6, f.pc.toNat), (5, 0), (48, f.va.toNat),
    (8, f.kind.toNat), (6, f.mover.toNat), (2, f.ch.toNat), (48, f.pa.toNat), (2, f.lvl.toNat), (6, 0),
    (8, f.resp.toNat), (40, f.ntile.toNat), (24, f.aux.toNat)])

/-- A fault record that names a stream and the command at its position, with everything else 0. -/
def faultOf (st : Strm) (sid m c code kind : Nat) : FRec :=
  { fcode := BitVec.ofNat 8 code, part := st.part, dir := false, walk := false, pav := false, vav := false, ten := st.ten,
    tgen := st.tgen, sid := BitVec.ofNat 21 sid, pc := if st.pers then st.pc else 0, va := 0,
    kind := BitVec.ofNat 8 kind, mover := BitVec.ofNat 6 m, ch := BitVec.ofNat 2 c, pa := 0, lvl := 0, resp := 0,
    ntile := 0, aux := 0 }

/-- RESP of a bus error; EXOKAY is treated as SLVERR (R192, R425). -/
def respCode : Resp → Nat
  | .okay => 0
  | .exokay => 2
  | .slverr => 2
  | .decerr => 3

/-- Success is OKAY alone (R425). -/
def respOk (r : Resp) : Bool := r == .okay

/-! ### Stream record images (R162) -/

/-- Encoding of STATE. -/
def stCode : StState → Nat
  | .empty => 0
  | .armed => 1
  | .ready => 2
  | .running => 3
  | .waiting => 4
  | .frozen => 5
  | .halted => 6
  | .quarantined => 7

/-- CRC-32C (R287). -/
def crc32c (l : List Byte) : Nat :=
  l.foldl (fun c b =>
    (List.range 8).foldl (fun c _ => if c % 2 = 1 then (c / 2) ^^^ 0x82F63B78 else c / 2) (c ^^^ b.toNat))
    0xFFFFFFFF ^^^ 0xFFFFFFFF

/-- Bytes 0 to 59 of a record. -/
def strmBody (st : Strm) : List Byte :=
  toLE 60 (pack [(4, stCode st.st), (1, b2n st.pers), (1, b2n st.hen), (1, b2n st.rcv), (1, 0), (8, st.ten.toNat),
    (8, st.tgen.toNat), (3, st.part.toNat), (5, 0), (10, st.queue.toNat), (6, 0), (6, st.hmv.toNat), (2, st.hch.toNat),
    (7, st.plen.toNat), (1, 0), (48, st.paddr.toNat), (6, st.pc.toNat), (2, 0), (5, st.pfw.toNat), (3, 0),
    (32, st.lcnt.toNat), (32, st.pass.toNat), (48, st.b0.toNat), (48, st.b1.toNat), (48, st.b2.toNat), (48, st.b3.toNat),
    (40, st.ntile.toNat), (8, st.fgenp.toNat), (6, st.lctr.toNat), (2, 0), (1, b2n st.arrd), (7, 0),
    (32, st.lfsr.toNat)])

/-- The 64 bytes of a record with its check value (R162, R176). -/
def strmBytes (st : Strm) : List Byte := strmBody st ++ toLE 4 (crc32c (strmBody st))

/-- A stream from a LOAD image (R162, R166): the fields that the image gives. -/
def strmOfImage (l : List Byte) : Strm :=
  { Strm.reset with
    pers := bbit l 0 4, hen := bbit l 0 5, rcv := bbit l 0 6, hmv := BitVec.ofNat 6 (bfld l 6 0 6),
    hch := BitVec.ofNat 2 (bfld l 6 6 2), plen := BitVec.ofNat 7 (bfld l 7 0 7), paddr := BitVec.ofNat 48 (bfld l 8 0 48),
    pfw := BitVec.ofNat 5 (bfld l 15 0 5), b0 := BitVec.ofNat 48 (bfld l 24 0 48), b1 := BitVec.ofNat 48 (bfld l 30 0 48),
    b2 := BitVec.ofNat 48 (bfld l 36 0 48), b3 := BitVec.ofNat 48 (bfld l 42 0 48), lctr := BitVec.ofNat 6 (bfld l 54 0 6) }

/-- A range breach of a LOAD image (R8, R166, R290): a field that must be 0, a reserved bit, PERS or PLEN. -/
def imageRangeBad (l : List Byte) : Bool :=
  [(0, 0, 4), (0, 7, 1), (1, 0, 8), (2, 0, 8), (3, 0, 8), (4, 0, 16), (7, 7, 1), (14, 0, 8), (15, 5, 3), (16, 0, 32),
   (20, 0, 32), (48, 0, 40), (53, 0, 8), (54, 6, 2), (55, 0, 8), (56, 0, 32), (60, 0, 32)].any
    (fun (b, lo, w) => decide (bfld l b lo w ≠ 0))
  || !bbit l 0 4 || decide (bfld l 7 0 7 = 0 ∨ bfld l 7 0 7 > 64)
  || (bbit l 0 6 && (!bbit l 0 5 || decide (bfld l 7 0 7 ≠ 1)))

end Sys2Proof.Machine
end

