-- ==== Sys2Proof/Machine/Ops.lean ====
section
/-! DEFINITION. Reading and writing the state's tables: every register and record has one home, read and written
here alone. -/

namespace Sys2Proof.Machine

/-! ### Entries of the state's tables: read, write, change -/

/-- Entry `k` of `tens`. -/
def State.ten (s : State) (k : Nat) : Tenant := s.tens.get Tenant.reset k

/-- Write entry `k` of `tens`. -/
def State.setTen (s : State) (k : Nat) (v : Tenant) : State := { s with tens := s.tens.put Tenant.reset k v }

/-- Change entry `k` of `tens`. -/
def State.modTen (s : State) (k : Nat) (g : Tenant → Tenant) : State := s.setTen k (g (s.ten k))

/-- Entry `k` of `sqs`. -/
def State.sq (s : State) (k : Nat) : Sq := s.sqs.get Sq.reset k

/-- Write entry `k` of `sqs`. -/
def State.setSq (s : State) (k : Nat) (v : Sq) : State := { s with sqs := s.sqs.put Sq.reset k v }

/-- Change entry `k` of `sqs`. -/
def State.modSq (s : State) (k : Nat) (g : Sq → Sq) : State := s.setSq k (g (s.sq k))

/-- Entry `k` of `cqs`. -/
def State.cq (s : State) (k : Nat) : Cq := s.cqs.get Cq.reset k

/-- Write entry `k` of `cqs`. -/
def State.setCq (s : State) (k : Nat) (v : Cq) : State := { s with cqs := s.cqs.put Cq.reset k v }

/-- Change entry `k` of `cqs`. -/
def State.modCq (s : State) (k : Nat) (g : Cq → Cq) : State := s.setCq k (g (s.cq k))

/-- Entry `k` of `parts`. -/
def State.part (s : State) (k : Nat) : Part := s.parts.get Part.reset k

/-- Write entry `k` of `parts`. -/
def State.setPart (s : State) (k : Nat) (v : Part) : State := { s with parts := s.parts.put Part.reset k v }

/-- Change entry `k` of `parts`. -/
def State.modPart (s : State) (k : Nat) (g : Part → Part) : State := s.setPart k (g (s.part k))

/-- Entry `k` of `ecn`. -/
def State.ecnCh (s : State) (k : Nat) : Ecn := s.ecn.get Ecn.reset k

/-- Write entry `k` of `ecn`. -/
def State.setEcnCh (s : State) (k : Nat) (v : Ecn) : State := { s with ecn := s.ecn.put Ecn.reset k v }

/-- Change entry `k` of `ecn`. -/
def State.modEcnCh (s : State) (k : Nat) (g : Ecn → Ecn) : State := s.setEcnCh k (g (s.ecnCh k))

/-- Entry `k` of `xl`. -/
def State.xlU (s : State) (k : Nat) : Xl := s.xl.get Xl.reset k

/-- Write entry `k` of `xl`. -/
def State.setXlU (s : State) (k : Nat) (v : Xl) : State := { s with xl := s.xl.put Xl.reset k v }

/-- Change entry `k` of `xl`. -/
def State.modXlU (s : State) (k : Nat) (g : Xl → Xl) : State := s.setXlU k (g (s.xlU k))

/-- Entry `k` of `dc`. -/
def State.dcU (s : State) (k : Nat) : DCache := s.dc.get DCache.reset k

/-- Write entry `k` of `dc`. -/
def State.setDcU (s : State) (k : Nat) (v : DCache) : State := { s with dc := s.dc.put DCache.reset k v }

/-- Change entry `k` of `dc`. -/
def State.modDcU (s : State) (k : Nat) (g : DCache → DCache) : State := s.setDcU k (g (s.dcU k))

/-- Entry `k` of `tabs`. -/
def State.tab (s : State) (k : Nat) : Tab := s.tabs.get Tab.reset k

/-- Write entry `k` of `tabs`. -/
def State.setTab (s : State) (k : Nat) (v : Tab) : State := { s with tabs := s.tabs.put Tab.reset k v }

/-- Change entry `k` of `tabs`. -/
def State.modTab (s : State) (k : Nat) (g : Tab → Tab) : State := s.setTab k (g (s.tab k))

/-- Entry `k` of `movers`. -/
def State.mover (s : State) (k : Nat) : Mover := s.movers.get Mover.reset k

/-- Write entry `k` of `movers`. -/
def State.setMover (s : State) (k : Nat) (v : Mover) : State := { s with movers := s.movers.put Mover.reset k v }

/-- Change entry `k` of `movers`. -/
def State.modMover (s : State) (k : Nat) (g : Mover → Mover) : State := s.setMover k (g (s.mover k))

/-- Entry `k` of `chans`. -/
def State.chan (s : State) (k : Nat) : Chan := s.chans.get Chan.reset k

/-- Write entry `k` of `chans`. -/
def State.setChan (s : State) (k : Nat) (v : Chan) : State := { s with chans := s.chans.put Chan.reset k v }

/-- Change entry `k` of `chans`. -/
def State.modChan (s : State) (k : Nat) (g : Chan → Chan) : State := s.setChan k (g (s.chan k))

/-- Entry `k` of `cnts`. -/
def State.cnt (s : State) (k : Nat) : Cnt := s.cnts.get Cnt.reset k

/-- Write entry `k` of `cnts`. -/
def State.setCnt (s : State) (k : Nat) (v : Cnt) : State := { s with cnts := s.cnts.put Cnt.reset k v }

/-- Change entry `k` of `cnts`. -/
def State.modCnt (s : State) (k : Nat) (g : Cnt → Cnt) : State := s.setCnt k (g (s.cnt k))

/-- Entry `k` of `ropes`. -/
def State.rope (s : State) (k : Nat) : Rope := s.ropes.get Rope.reset k

/-- Write entry `k` of `ropes`. -/
def State.setRope (s : State) (k : Nat) (v : Rope) : State := { s with ropes := s.ropes.put Rope.reset k v }

/-- Change entry `k` of `ropes`. -/
def State.modRope (s : State) (k : Nat) (g : Rope → Rope) : State := s.setRope k (g (s.rope k))

/-- Entry `k` of `strms`. -/
def State.strmAt (s : State) (k : Nat) : Strm := s.strms.get Strm.reset k

/-- Write entry `k` of `strms`. -/
def State.setStrmAt (s : State) (k : Nat) (v : Strm) : State := { s with strms := s.strms.put Strm.reset k v }

/-- Change entry `k` of `strms`. -/
def State.modStrmAt (s : State) (k : Nat) (g : Strm → Strm) : State := s.setStrmAt k (g (s.strmAt k))

/-- Entry `k` of `rst`. -/
def State.rstE (s : State) (k : Nat) : RstEng := s.rst.get RstEng.reset k

/-- Write entry `k` of `rst`. -/
def State.setRstE (s : State) (k : Nat) (v : RstEng) : State := { s with rst := s.rst.put RstEng.reset k v }

/-- Change entry `k` of `rst`. -/
def State.modRstE (s : State) (k : Nat) (g : RstEng → RstEng) : State := s.setRstE k (g (s.rstE k))

/-- Entry `k` of `strm`. -/
def State.strmP (s : State) (k : Nat) : StrmP := s.strm.get StrmP.reset k

/-- Write entry `k` of `strm`. -/
def State.setStrmP (s : State) (k : Nat) (v : StrmP) : State := { s with strm := s.strm.put StrmP.reset k v }

/-- Change entry `k` of `strm`. -/
def State.modStrmP (s : State) (k : Nat) (g : StrmP → StrmP) : State := s.setStrmP k (g (s.strmP k))

end Sys2Proof.Machine
end

