-- ==== Sys2Proof/Machine/Access.lean ====
section
/-! DEFINITION. The event log (R408, R410, R411) and parity errors in copies (R363). Accesses: making them, translating
them (chapter 07: R180 to R190, R454), near windows, the Ecnos range, and the hazard window (R205). -/

namespace Sys2Proof.Machine

/-! ### The event log (R408, R411) -/

/-- ALRT bit that an event sets (R407, R419). -/
def alertBit (code : Nat) : BitVec 9 :=
  if 0x30 ≤ code ∧ code ≤ 0x35 then BitVec.ofNat 9 (2 ^ (code - 0x30))
  else if 0x20 ≤ code ∧ code ≤ 0x23 then 0x40
  else if code = 0x11 then 0x80 else 0

/-- Write an event into the ring of 4,096 entries; an entry overwritten before it was mirrored counts in LOST. -/
def State.logEvent (s : State) (code src arg : Nat) : State :=
  let g := s.mg
  let e : LogE := { tms := g.ms, sev := Config.severity code, code := BitVec.ofNat 8 code, src := BitVec.ofNat 8 src,
                    seq := g.nseq, arg := BitVec.ofNat 40 arg }
  let ovr := decide ((g.nseq - g.mseq).toNat ≥ 4096)
  { s with mg := { g with
      alrt := g.alrt ||| alertBit code, log := (e :: g.log).take 4096, nseq := g.nseq + 1, mseq := if ovr then g.mseq + 1 else g.mseq,
      lost := if ovr then satInc g.lost else g.lost } }

/-! ### Parity errors (R363, R364, R370) -/

/-- A data error: DCNT, and an event that names Mover and stream. -/
def State.dataParity (s : State) (m sid : Nat) : State :=
  { s with par := { s.par with dcnt := satInc s.par.dcnt } }.logEvent 0x20 m sid

/-- A cached copy was discarded and is read again. -/
def State.cacheParity (s : State) (m sid : Nat) : State :=
  { s with par := { s.par with cache := true } }.logEvent 0x20 m sid

/-- Report each of a number of copies that a look-up has found damaged and discarded (R363). -/
def State.shedCount (s : State) (m sid n : Nat) : State := (List.range n).foldl (fun st _ => st.cacheParity m sid) s

/-! ### Partitions and Movers (R241, R242) -/

/-- The partition that owns Mover m; 8 where none does. -/
def State.partOf (s : State) (m : Nat) : Nat :=
  ((List.range 8).find? fun p => (s.part p).en && (s.part p).mvmask.getLsbD m).getD 8

/-- Channel n of Mover m. -/
def State.ch (s : State) (m c : Nat) : Chan := s.chan (4 * m + c)

/-- Change channel n of Mover m. -/
def State.modCh (s : State) (m c : Nat) (f : Chan → Chan) : State := s.modChan (4 * m + c) f

/-- The current generation of a tenant (R247). -/
def State.genOf (s : State) (t : BitVec 8) : BitVec 8 := (s.ten t.toNat).gen

/-! ### Fences (R343) -/

/-- The Mover lies in the domain of a reset in progress. -/
def State.moverFenced (s : State) (m : Nat) : Bool :=
  let e := s.rstE (s.partOf m)
  s.blk.isSome || (e.busy && (e.unit == 3 || (e.unit == 2 && e.target.toNat == m)))

/-- The tenant lies in the domain of a reset in progress. -/
def State.tenFenced (s : State) (t : BitVec 8) : Bool :=
  let e := s.rstE (s.ten t.toNat).part.toNat
  s.blk.isSome || (e.busy && (e.unit == 3 || (e.unit == 1 && e.target == t)))

/-- The stream lies in the domain of a reset in progress: by its tenant, by its home, or by the channel it runs on. -/
def State.strmFenced (s : State) (sid : Nat) : Bool :=
  let x := s.strmAt sid
  s.tenFenced x.ten || (x.hen && s.moverFenced x.hmv.toNat)
  || s.chans.any fun e => e.2.act == some sid && s.moverFenced (e.1 / 4)

/-! ### The list of accesses -/

/-- The access named `aid`. -/
def State.findAcc (s : State) (aid : Nat) : Option Access := s.acc.find? fun a => a.aid == aid

/-- Take the access out. -/
def State.delAcc (s : State) (aid : Nat) : State := { s with acc := s.acc.filter fun a => a.aid ≠ aid }

/-- Change the access. -/
def State.modAcc (s : State) (aid : Nat) (f : Access → Access) : State :=
  { s with acc := s.acc.map fun a => if a.aid = aid then f a else a }

/-- Add an access under the next name. -/
def State.pushAcc (s : State) (a : Access) : State :=
  { s with acc := s.acc ++ [{ a with aid := s.nextAid }], nextAid := s.nextAid + 1 }

/-- The accesses that satisfy a test. -/
def State.accs (s : State) (f : Access → Bool) : List Access := s.acc.filter f

/-- Accesses of a channel: those its Mover makes for it and which still matter. -/
def ofChan (m c : Nat) (a : Access) : Bool := a.rq == .mover m && a.ch == c && !a.drain

/-- Issued by its Mover, or presented, and not yet answered. -/
def inFlight (a : Access) : Bool := a.stage == .arb || a.stage == .out

/-- AxCACHE of a memory attribute (R183). -/
def attrCache (a : Nat) : BitVec 4 := if a = 0 then 0x0 else if a = 1 then 0x3 else 0xF

/-- The port of a physical address: a far port (log 8), or NEARn. -/
def portOf (space pa : Nat) : Nat := if space = 0 then b2n (Config.farPort1 pa) else space + 1

/-- AxQOS of a partition's far accesses (R281). -/
def State.qosOf (s : State) (p : Nat) : BitVec 4 := BitVec.ofNat 4 (fld s.arb.qos.toNat (4 * p) 4)

/-- After its address is known, an access of a Mover waits for its issue (R169), any other for its table. -/
def stageOf : Requester → Stage
  | .mover _ => .issue
  | _ => .arb

/-- The Mover of a requester. -/
def rqMover : Requester → Option Nat
  | .mover m => some m
  | _ => none

/-- Mover and channel that an access is made for. -/
def Access.who (a : Access) : Nat × Nat := (a.mv.getD 0, if a.ch < 4 then a.ch else 0)

/-- AxADDR: the beat-aligned address at which the burst starts (R422). -/
def Access.axAddr (a : Access) : Nat := a.pa / a.size * a.size

/-- Beats of the burst. -/
def Access.beats (a : Access) : Nat := (a.pa % a.size + a.len + a.size - 1) / a.size

/-- AxLEN. -/
def Access.axLen (a : Access) : Nat := a.beats - 1

/-- WSTRB of byte i of the burst: exactly the bytes written are set (R422). -/
def Access.wstrb (a : Access) (i : Nat) : Bool :=
  a.wr && decide (a.pa % a.size ≤ i) && a.en.getD (i - a.pa % a.size) false

/-- A blank access of a partition's requester. -/
def blankAcc (part : Nat) (rq : Requester) (ch : Nat) (kind : AKind) (wr : Bool) (va len : Nat) : Access :=
  { aid := 0, part := part, rq := rq, mv := rqMover rq, ch := ch, kind := kind, sid := 0, ten := 0, gen := 0, wr := wr,
    permW := wr, space := 0, port := 0, phys := false, va := va, pa := 0, len := len, size := 64, data := [], en := [],
    cache := 0, prot := 0b010, qos := 0, stage := .xlat, trk := 0, pool := false, drain := false, after := false }

/-- An access of an Ecnos chain. -/
def isEcnAcc : AKind → Bool
  | .ecnos _ => true
  | _ => false

/-- The access at a known physical address: port, AxQOS, and ready for its issue. The boot sequencer's go through FAR0 with
AxQOS 0 (R270, R281). -/
def State.atPa (s : State) (a : Access) (pa attr : Nat) : Access :=
  { a with pa := pa, cache := attrCache attr, stage := stageOf a.rq
           port := if a.rq = .mgmt then 0 else portOf a.space pa
           qos := if a.rq = .mgmt then 0 else s.qosOf a.part }

/-- A far access at a physical address, privileged (R180, R423). -/
def State.pushPhys (s : State) (a : Access) (attr : Nat) : State :=
  s.pushAcc { s.atPa a a.va attr with phys := true, prot := 0b011 }

/-- An access of the management core or of the boot sequencer: on FAR0, privileged, with AxQOS 0 (R270, R281, R423). -/
def State.pushFar0 (s : State) (a : Access) : State :=
  s.pushAcc { a with pa := a.va, port := 0, phys := true, prot := 0b011, qos := 0, stage := .arb }

/-- A near access (R189, R423). -/
def State.pushNear (s : State) (a : Access) (n : Nat) : State :=
  s.pushAcc { a with space := n + 1, pa := a.va, port := n + 2, cache := 0x3, qos := 0, size := 128,
                     stage := stageOf a.rq }

/-! ### Translation caches (R185, R454) -/

/-- Bytes of a page of a leaf's level. -/
def pageSize (lvl : Nat) : Nat := 2 ^ (12 + 9 * lvl)

/-- Whether an entry maps the address. -/
def TlbE.maps (e : TlbE) (ten gen : BitVec 8) (va : Nat) : Bool :=
  e.ten == ten && e.gen == gen && e.vpn == va / pageSize e.lvl.toNat

/-- The physical address through an entry. -/
def TlbE.pa (e : TlbE) (va : Nat) : Nat := e.ppn * pageSize e.lvl.toNat + va % pageSize e.lvl.toNat

/-- An entry used or installed in a share of `cap` entries, most recently used first: the least recently used one is
replaced. -/
def useEntry {α : Type} [DecidableEq α] (cap : Nat) (e : α) (l : List α) : List α := (e :: l.erase e).take cap

/-- Outcome of a lookup: an entry, a fault (code and level), or a walk to make. -/
inductive XRes where
  | hit (e : TlbE)
  | fault (code lvl : Nat)
  | miss
deriving DecidableEq, Repr

/-- FLT_XLAT_INVALID. -/
def fltInvalid : Nat := 0x10
/-- FLT_XLAT_PERM. -/
def fltPerm : Nat := 0x11
/-- FLT_XLAT_FORMAT. -/
def fltFormat : Nat := 0x12

/-- The permission check of a leaf (R182). -/
def permRes (e : TlbE) (wr : Bool) : XRes :=
  if (if wr then e.wr else e.rd) then .hit e else .fault fltPerm e.lvl.toNat

/-- Look an address up for a requester of partition p: TR_ROOT.EN first (R184), the Mover's micro-TLB, then the
partition's way of the L2 TLB (R454). -/
def State.lookup (s : State) (p : Nat) (mv : Option Nat) (ten gen : BitVec 8) (va : Nat) (wr : Bool) : XRes × State :=
  if (s.ten ten.toNat).rootEn = false then (.fault fltInvalid 3, s)
  else
    let hitIn := fun (l : List TlbE) => l.find? fun e => e.maps ten gen va
    let up := fun (st : State) (e : TlbE) => match mv with
      | some m => st.modMover m fun v => { v with utlb := useEntry 64 e v.utlb }
      | none => st
    match mv.bind fun m => hitIn (s.mover m).utlb with
    | some e => (permRes e wr, up s e)
    | none =>
      match hitIn (s.xlU p).l2 with
      | some e => (permRes e wr, up (s.modXlU p fun x => { x with l2 := useEntry 1024 e x.l2 }) e)
      | none => (.miss, s)

/-- A lookup that finds a damaged entry discards it, and the walk is repeated (R363). -/
def State.shedTlb (s : State) (a : Access) : State :=
  let hit := fun (e : TlbE) => e.bad && e.maps a.ten a.gen a.va
  if (s.ten a.ten.toNat).rootEn = false then s
  else
    let u := match rqMover a.rq with
      | some m => (s.mover m).utlb
      | none => []
    let n := (u.filter hit).length + ((s.xlU a.part).l2.filter hit).length
    if n = 0 then s
    else
      let s1 := match rqMover a.rq with
        | some m => s.modMover m fun v => { v with utlb := v.utlb.filter fun e => !hit e }
        | none => s
      (s1.modXlU a.part fun x => { x with l2 := x.l2.filter fun e => !hit e }).shedCount a.who.1 a.sid n

/-! ### Walks (R180 to R182, R305) -/

/-- Index of an address at a level. -/
def vaIndex (lvl va : Nat) : Nat := va / 2 ^ (12 + 9 * lvl) % 512

/-- Tag of a walk-cache entry that leads to a table of level `lvl`. -/
def wcTag (lvl va : Nat) : Nat := va / 2 ^ (21 + 9 * lvl)

/-- The read of the walk's next entry. -/
def State.walkRead (s : State) (p : Nat) (w : Walk) : State :=
  let a := w.tbl.toNat * 4096 + 8 * vaIndex w.lvl.toNat w.req.va
  (s.modXlU p fun x => { x with walk := some w }).pushPhys
    { blankAcc p .walk 0 .walkRead false a 8 with
      ten := w.req.ten, gen := w.req.gen, mv := (s.findAcc w.req.aid).bind (·.mv) }
    (s.ten w.req.ten.toNat).wattr.toNat

/-- A walk's lookup discards the damaged entries that it finds in the walk cache (R363). -/
def State.shedWalk (s : State) (p : Nat) (r : WalkReq) : State :=
  let hit := fun (e : WcE) => e.bad && e.ten == r.ten && e.gen == r.gen && e.vtag == wcTag e.lvl.toNat r.va
  let n := ((s.xlU p).wc.filter hit).length
  if n = 0 then s
  else
    let who := (s.findAcc r.aid).map fun a => (a.who.1, a.sid)
    (s.modXlU p fun x => { x with wc := x.wc.filter fun e => !hit e }).shedCount (who.getD (0, 0)).1 (who.getD (0, 0)).2 n

/-- Start a walk from the deepest walk-cache hit, or from the root. -/
def State.startWalk (s0 : State) (p : Nat) (r : WalkReq) : State :=
  let s := s0.shedWalk p r
  let wc := (s.xlU p).wc
  let hit := fun (l : Nat) => wc.find? fun e =>
    e.ten == r.ten && e.gen == r.gen && e.lvl.toNat == l && e.vtag == wcTag l r.va
  match (hit 0).or ((hit 1).or (hit 2)) with
  | some e =>
    (s.modXlU p fun x => { x with wc := useEntry 64 e x.wc }).walkRead p
      { req := r, lvl := e.lvl, tbl := e.tbl, path := [], discard := false }
  | none =>
    s.walkRead p { req := r, lvl := 3, tbl := (s.ten r.ten.toNat).root, path := [], discard := false }

/-- An access whose address has been found: a probe records its page for the channel's tile; any other goes on to its
issue. -/
def State.translated (s : State) (a : Access) (e : TlbE) : State :=
  match a.kind, a.rq with
  | .probe _, .mover m =>
    (s.delAcc a.aid).modCh m a.ch fun c =>
      { c with xl := c.xl.ins (a.va / 4096) (BitVec.ofNat 36 (e.pa a.va / 4096), e.attr) }
  | _, _ => s.modAcc a.aid fun x => s.atPa x (e.pa a.va) e.attr.toNat

/-- Serve the walks that wait at partition p's engine, in order, until one needs the engine: each looks up again, since
an earlier walk may have installed its page. Answers the accesses that fault, with code and level. -/
def State.pumpWalk (s : State) (p : Nat) : List WalkReq → List (Access × Nat × Nat) → State × List (Access × Nat × Nat)
  | [], fs => (s.modXlU p fun x => { x with queue := [] }, fs)
  | r :: t, fs =>
    match s.findAcc r.aid with
    | none => s.pumpWalk p t fs
    | some a =>
      match (s.shedTlb a).lookup p (rqMover a.rq) r.ten r.gen r.va r.wr with
      | (.hit e, s1) => (s1.translated a e).pumpWalk p t fs
      | (.fault c l, s1) => s1.pumpWalk p t (fs ++ [(a, c, l)])
      | (.miss, s1) => ((s1.modXlU p fun x => { x with queue := t }).startWalk p r, fs)

/-- Make a far access at a virtual address: translated at once on a hit, waiting for a walk on a miss. A fault answers
the access with code and level, and leaves it unmade. -/
def State.makeFar (s : State) (a : Access) : State × Option (Access × Nat × Nat) :=
  match (s.shedTlb a).lookup a.part (rqMover a.rq) a.ten a.gen a.va a.permW with
  | (.hit e, s1) =>
    let s2 := s1.pushAcc { a with stage := .xlat }
    (s2.translated { a with aid := s1.nextAid } e, none)
  | (.fault c l, s1) => (s1, some (a, c, l))
  | (.miss, s1) =>
    let s2 := s1.pushAcc { a with stage := .xlat }
    let r : WalkReq := { ten := a.ten, gen := a.gen, va := a.va, wr := a.permW, aid := s1.nextAid }
    match (s2.xlU a.part).walk with
    | some _ => (s2.modXlU a.part fun x => { x with queue := x.queue ++ [r] }, none)
    | none => (s2.startWalk a.part r, none)

/-- Make several accesses; the first fault ends the making. -/
def State.makeFars (s : State) : List Access → State × Option (Access × Nat × Nat)
  | [] => (s, none)
  | a :: t =>
    match s.makeFar a with
    | (s1, none) => s1.makeFars t
    | (s1, some f) => (s1, some f)

/-- Checks 1 and 2 of R182 on an entry read at a level. -/
def entryFault (lvl : Nat) (e : BitVec 64) : Option Nat :=
  let v := e.toNat
  let leaf := bit v 1
  if !bit v 0 then some fltInvalid
  else if fld v 6 6 ≠ 0 ∨ fld v 48 16 ≠ 0 ∨ (lvl = 3 ∧ leaf = true) ∨ (lvl = 0 ∧ leaf = false)
      ∨ (leaf = false ∧ fld v 2 4 ≠ 0) ∨ fld v 4 2 = 3
      ∨ (leaf = true ∧ lvl = 1 ∧ fld v 12 9 ≠ 0) ∨ (leaf = true ∧ lvl = 2 ∧ fld v 12 18 ≠ 0) then some fltFormat
  else none

/-- The TLB entry of a leaf read at a level. -/
def leafEntry (r : WalkReq) (lvl : Nat) (e : BitVec 64) : TlbE :=
  { ten := r.ten, gen := r.gen, lvl := BitVec.ofNat 2 lvl, vpn := r.va / pageSize lvl,
    ppn := fld e.toNat 12 36 * 4096 / pageSize lvl, rd := bit e.toNat 2, wr := bit e.toNat 3,
    attr := BitVec.ofNat 2 (fld e.toNat 4 2) }

/-! ### Near windows and the Ecnos range (R189, R190) -/

/-- Whether a near access of `len` bytes lies in one window of the partition that allows it, beat by beat. -/
def State.nearOk (s : State) (p port va len : Nat) (wr : Bool) : Bool :=
  (List.range (ceilDiv (va % 128 + len) 128)).all fun i =>
    let b := (va / 128 + i) * 128
    (List.range 8).any fun k =>
      let w := (s.part p).nwin.get NWin.reset k
      w.en && w.port.toNat == port && (if wr then w.wr else w.rd)
        && decide (w.base.toNat * 4096 ≤ b) && decide (b + 128 ≤ (w.base.toNat + w.size.toNat) * 4096)

/-- Whether bytes at a physical address lie in the partition's Ecnos range. -/
def State.ecnOk (s : State) (p va len : Nat) : Bool :=
  decide ((s.part p).ecnLo.toNat * 4096 ≤ va) && decide (va + len ≤ ((s.part p).ecnHi.toNat + 1) * 4096)

/-! ### The hazard window (R204, R205) -/

/-- Two accesses touch a common granule of their port class: 64 B far, 128 B near. -/
def touches (a b : Access) : Bool :=
  let far := fun (x : Access) => x.space == 0
  let g := if a.space = 0 then 64 else 128
  far a == far b && decide (a.pa / g ≤ (b.pa + b.len - 1) / g) && decide (b.pa / g ≤ (a.pa + a.len - 1) / g)

/-- Whether an access `b` of the same window stands before `a`: issued by the Mover and not yet answered, or presented
earlier by the walk engine or the record writer on its behalf. -/
def before (a b : Access) : Bool :=
  b.aid != a.aid && b.mv.isSome && b.mv == a.mv
  && (b.stage == .out || (b.stage == .arb
      && ((rqMover b.rq).isSome || (rqMover a.rq).isSome || decide (b.aid < a.aid))))

/-- Whether the hazard window of its Mover holds the access back. -/
def State.hazard (s : State) (a : Access) : Bool :=
  let mine := s.acc.filter (before a)
  if a.wr then mine.any (touches a) || decide (64 ≤ (mine.filter (·.wr)).length)
  else mine.any fun b => b.wr && touches a b

end Sys2Proof.Machine
end

