-- ==== Sys2Proof/Machine/Fault.lean ====
section
/-! DEFINITION. Fault queues (R191), message-signalled interrupts (R429), interrupt lines (R427), the event log (R408,
R410, R411), and completion queues (R155 to R160). -/

namespace Sys2Proof.Machine


/-! ### Message-signalled interrupts (R429) -/

/-- One interrupt write of source number n for partition p: a request of its record writer on FAR0. -/
def State.sendMsi (s : State) (p n : Nat) : State :=
  let addr := s.irq.msiaddr.toNat * 4
  let val := (s.irq.msidata.toNat + n) % 2 ^ 32
  s.pushAcc { blankAcc p .record 0 .msi true addr 4 with
    pa := addr, port := 0, phys := true, data := toLE 4 val, en := List.replicate 4 true, cache := 0, prot := 0b011,
    qos := s.qosOf p, stage := .arb }

/-! ### Fault queues (R191) -/

/-- Records in the ring that HEAD has not passed. -/
def Fq.used (q : Fq) : Nat :=
  (q.tail.toNat + 2 ^ q.log2sz.toNat - q.head.toNat % 2 ^ q.log2sz.toNat) % 2 ^ q.log2sz.toNat

/-- The ring holds 2^LOG2SZ − 1 records. -/
def Fq.full (q : Fq) : Bool := decide (q.used = 2 ^ q.log2sz.toNat - 1)

/-- Records that the ring can still take, the one being written not among them. -/
def Fq.room (q : Fq) : Nat := 2 ^ q.log2sz.toNat - 1 - q.used - b2n q.busy

/-- PEND: the waiting records for which the ring has no room (log 113). -/
def Fq.held (q : Fq) : Nat := q.buf.length - q.room

/-- Issue the write of the oldest waiting record, one at a time, while the ring has room. -/
def State.pumpFq (s : State) (p : Nat) : State :=
  let q := (s.part p).fq
  match q.buf with
  | [] => s
  | f :: t =>
    if q.en = false ∨ q.busy = true ∨ q.full = true then s
    else
      (s.modPart p fun x => { x with fq := { x.fq with buf := t, busy := true } }).pushAcc
        { s.atPa (blankAcc p .record 0 (.fqRec p) true (q.base.toNat * 4096 + 32 * q.tail.toNat) 32)
            (q.base.toNat * 4096 + 32 * q.tail.toNat) 1 with
          mv := some f.mover.toNat, phys := true, prot := 0b011, data := faultBytes f q.ph,
          en := List.replicate 32 true }

/-- A fault record is discarded. -/
def State.fqLose (s : State) (p : Nat) : State :=
  s.modPart p fun x => { x with fq := { x.fq with lost := satInc x.fq.lost } }

/-- Hand a fault record to partition p's queue: it is written in its turn, or is discarded and counted in LOST where the
queue is disabled or 64 records wait for room. -/
def State.pushFault (s : State) (p : Nat) (f : FRec) : State :=
  let q := (s.part p).fq
  if q.en = false ∨ q.held ≥ 64 then s.fqLose p
  else (s.modPart p fun x => { x with fq := { x.fq with buf := x.fq.buf ++ [f] } }).pumpFq p

/-- Set the pending bit of fault queue p; its rise sends the interrupt write (R427, R429). -/
def State.fqPending (s : State) (p : Nat) : State :=
  let q := (s.part p).fq
  let s1 := s.modPart p fun x => { x with fq := { x.fq with pend := true } }
  if q.msi && !q.pend then s1.sendMsi p (256 + p) else s1

/-- The response to a fault record's write. -/
def State.fqWritten (s : State) (p : Nat) (ok : Bool) : State :=
  let q := (s.part p).fq
  let s1 := s.modPart p fun x => { x with fq := { x.fq with busy := false } }
  if ok then
    let nt := (q.tail.toNat + 1) % 2 ^ q.log2sz.toNat
    ((s1.modPart p fun x => { x with fq := { x.fq with
      tail := BitVec.ofNat 16 nt, ph := if nt = 0 then !x.fq.ph else x.fq.ph } }).fqPending p).pumpFq p
  else (s1.fqLose p).pumpFq p

/-- The response to the write of a fault record `a`, which has been taken out; of one under way as the queue was disabled
only an error counts. -/
def State.fqAnswered (s : State) (a : Access) (p : Nat) (ok : Bool) : State :=
  if a.drain then (if ok then s else s.fqLose p) else s.fqWritten p ok

/-! ### Completion queues (R157, R160) -/

/-- Slots given out and not yet passed by TAIL, and records not yet consumed, fill the ring. -/
def Cq.full (q : Cq) : Bool :=
  decide ((q.tail.toNat + q.given.length + 2 ^ q.log2sz.toNat - q.head.toNat) % 2 ^ q.log2sz.toNat
    = 2 ^ q.log2sz.toNat - 1)

/-- GL_CQ_STAT.FULL. -/
def Cq.statFull (q : Cq) : Bool :=
  decide ((q.tail.toNat + 2 ^ q.log2sz.toNat - q.head.toNat) % 2 ^ q.log2sz.toNat = 2 ^ q.log2sz.toNat - 1)

/-- The next slot to give out and its phase bit, counting on from TAIL. -/
def Cq.next (q : Cq) : Nat × Bool :=
  let n := q.tail.toNat + q.given.length
  let size := 2 ^ q.log2sz.toNat
  (n % size, if n ≥ size then !q.ph else q.ph)

/-- The write of a record into the slot given to it. -/
def State.writeRecord (s : State) (c : Nat) (r : CqRec) (slot : Nat) (ph : Bool) :
    State × Option (Access × Nat × Nat) :=
  let q := s.cq c
  let part := (s.ten q.ten.toNat).part.toNat
  s.makeFar { blankAcc part .record r.ch (.cqRec c slot) true (q.base.toNat * 4096 + 32 * slot) 32 with
    mv := some r.mv, sid := r.sid, ten := q.ten, gen := s.genOf q.ten,
    data := recordBytes r.bits ph (s.sq r.queue.toNat).head.toNat, en := List.replicate 32 true,
    permW := true }

/-- Give the record the next free slot and issue its write; a full ring answers none. -/
def State.giveSlot (s : State) (c : Nat) (r : CqRec) : Option (State × Option (Access × Nat × Nat)) :=
  let q := s.cq c
  if q.full then none
  else
    let (slot, ph) := q.next
    let s1 := s.modCq c fun x => { x with given := x.given ++ [{ item := r, slot := slot, ph := ph, done := false }] }
    some (s1.writeRecord c r slot ph)

/-- Set the pending bit of completion queue c; its rise sends the interrupt write (R427, R429). -/
def State.cqPending (s : State) (c : Nat) : State :=
  let q := s.cq c
  let s1 := s.modCq c fun x => { x with pend := true }
  if q.msi && !q.pend then s1.sendMsi (s.ten q.ten.toNat).part.toNat c else s1

/-- A command stops counting as outstanding (R159). -/
def State.outstDec (s : State) (r : CqRec) : State :=
  if r.outst then s.modSq r.queue.toNat fun q => { q with outst := if q.outst = 0 then 0 else q.outst - 1 } else s

/-- TAIL passes the leading slots whose records have landed, in slot order; each raises its interrupt as it becomes
visible (R160, R215, R427). -/
def State.cqAdvance (s : State) (c : Nat) : List CqSlot → State
  | [] => s.modCq c fun x => { x with given := [] }
  | g :: t =>
    if g.done then
      let s1 := s.modCq c fun x =>
        let n := (x.tail.toNat + 1) % 2 ^ x.log2sz.toNat
        { x with tail := BitVec.ofNat 16 n, ph := if n = 0 then !x.ph else x.ph }
      let s2 := s1.outstDec g.item
      (if g.item.irq then s2.cqPending c else s2).cqAdvance c t
    else s.modCq c fun x => { x with given := g :: t }

/-! ### Interrupt lines (R427) -/

/-- Sources pending on line n. -/
def State.irqPending (s : State) (n : Nat) : Bool :=
  (s.cqs.any fun (_, q) => q.pend && !q.msi && q.irq.toNat == n)
  || ((List.range 8).any fun p => let q := (s.part p).fq; q.pend && !q.msi && q.irq.toNat == n)
  || ((List.range 8).any fun p => fld s.irq.ecnirq.toNat (4 * p) 4 == n && (List.range 8).any fun k =>
        let e := s.ecnCh (8 * p + k); e.iena && (e.done || e.err))
  || (s.irq.parirq.toNat == n && (s.par.data || s.par.recE || s.par.reg || s.par.cache || s.par.beat))
  || (s.irq.mbirq.toNat == n && s.mg.done && s.mg.ien)

/-- The level of irq[n]; host_rst_n holds the outputs low (R444). -/
def State.irqLine (s : State) (n : Nat) : Bool := !s.pins.host && s.irq.en.getLsbD n && s.irqPending n

end Sys2Proof.Machine
end

