-- ==== Sys2Proof/Machine/Stream.lean ====
section
/-! DEFINITION. Streams: their states (R163), homes (R164), waits, pins (R110), pending REARM values (R167), leaving a
channel (R165), and the reports of faults that stop a stream (R192). -/

namespace Sys2Proof.Machine

/-! ### States (R163) and activity (R252) -/

/-- READY or RUNNING. -/
def isLive (x : StState) : Bool := x == .ready || x == .running

/-- A tenant is active while it has a stream in READY or RUNNING (R252). -/
def State.tenLive (s : State) (t : Nat) : Bool := s.strms.any fun (_, x) => x.ten.toNat == t && isLive x.st

/-- The smallest virtual time among the partition's other active tenants. -/
def State.vMin (s : State) (t : Nat) : Option Nat :=
  (s.tens.filterMap fun (k, x) =>
    if k ≠ t ∧ x.active = true ∧ x.part = (s.ten t).part then some x.vt.toNat else none).min?

/-- Bring a tenant's activity up to date; on becoming active, VT becomes max(VT, V_min) (R252). -/
def State.refreshActive (s : State) (t : Nat) : State :=
  let live := s.tenLive t
  let x := s.ten t
  if live = x.active then s
  else if live then
    s.setTen t { x with active := true, vt := BitVec.ofNat 64 (max x.vt.toNat ((s.vMin t).getD 0)) }
  else s.setTen t { x with active := false }

/-- Put a stream in a state. -/
def State.setSt (s : State) (sid : Nat) (st : StState) (w : Wait) : State :=
  let x := s.strmAt sid
  (s.setStrmAt sid { x with
    st := st
    wait := w
    stopAt := if st == .armed || (st == .ready && x.stopAt != .recordArmed) then .none else x.stopAt }).refreshActive
    x.ten.toNat

/-- A Mover in SOLO mode takes no stream of another tenant (R357). -/
def State.soloBars (s : State) (m : Nat) (t : BitVec 8) : Bool := (s.mover m).solo && (s.mover m).solot != t

/-- Whether the home channel of a stream cannot take it now: it runs another stream, its Mover is under test, or SOLO
mode bars the stream's tenant (R164, R357, R372). -/
def State.homeBusy (s : State) (sid : Nat) : Bool :=
  let x := s.strmAt sid
  x.hen && ((match (s.ch x.hmv.toNat x.hch.toNat).act with
    | none => false
    | some a => a != sid) || (s.mover x.hmv.toNat).phase != 0 || s.soloBars x.hmv.toNat x.ten)

/-- The record writer holds a record of the stream that has found no slot (R160). -/
def State.hasHeld (s : State) (sid : Nat) : Bool := s.cqs.any fun (_, q) => q.held.any fun r => r.sid == sid

/-- The home Mover of the stream is out of service (R348, R372). -/
def State.homeOut (s : State) (sid : Nat) : Bool := (s.strmAt sid).hen && (s.mover (s.strmAt sid).hmv.toNat).oos

/-- A stream homed on a Mover that is out of service goes to HALTED: before its next command with NTILE 0, or where a
command of its own has stopped (R372). -/
def State.haltHome (s : State) (sid : Nat) : State :=
  (s.modStrmAt sid fun x => { x with
    stopAt := if x.stopAt ≠ .none then x.stopAt else if x.cmd.isSome then .tile else if x.pers then .program else .ring
    ntile := if x.stopAt = .none then 0 else x.ntile }).setSt sid .halted .none

/-- READY, or WAITING for its home channel, or for a slot for a held record that no abort has cut short (R160, R163,
R164, R174, R253), or HALTED where its home Mover is out of service (R372). -/
def State.makeReady (s : State) (sid : Nat) : State :=
  if s.hasHeld sid && !(s.strmAt sid).abortHeld && (s.strmAt sid).recStop == none then s.setSt sid .waiting .cqFull
  else if s.homeOut sid then s.haltHome sid
  else if s.homeBusy sid then s.setSt sid .waiting .home
  else
    { (s.modStrmAt sid fun x => { x with readySeq := s.seq }).setSt sid .ready .none with seq := s.seq + 1 }

/-- READY for each of the streams. -/
def State.makeReadies (s : State) (l : List Nat) : State := l.foldl State.makeReady s

/-- A stream to WAITING. -/
def State.setWait (s : State) (sid : Nat) (w : Wait) : State := s.setSt sid .waiting w

/-! ### Waits (R145, R225, R234) -/

/-- The 32-bit difference taken as signed is not negative. -/
def notBefore (v w : BitVec 32) : Bool := !(v - w).msb

/-- The condition of a WAIT on a counter (R225). -/
def cntHolds (x : Cnt) (wval : BitVec 32) : Bool := if x.mode = 0 then notBefore x.value wval else decide (wval ≤ x.value)

/-- A table slot can be taken: not current, not kept, not pinned (R107). -/
def FSlot.free (f : FSlot) : Bool := !f.current && !f.keep && f.pins == 0 && !f.taken

/-- The lowest free slot of a partition's table. -/
def State.freeSlot (s : State) (p : Nat) : Option Nat :=
  (List.range 8).find? fun n => ((s.part p).ftab.get FSlot.reset n).free

/-- Whether a waiting stream's condition holds now. REARM's own values, doorbell and home waits are ended where their
events happen. -/
def State.waitOver (s : State) (x : Strm) : Bool :=
  match x.wait with
  | .none => true
  | .counter k w => cntHolds (s.cnt k) w
  | .rope n w => notBefore (s.rope n).round w
  | .dblCounter k t again => !again && notBefore (s.cnt k).value t
  | .dblRope n t again => !again && notBefore (s.rope n).round t
  | .table => (s.freeSlot x.part.toNat).isSome
  | .rearmBehind t => (s.strmAt t).rpend == none
  | _ => false

/-- Every waiting stream whose condition holds becomes READY (R163, R226, R313). -/
def State.wakeUp (s : State) : State :=
  s.makeReadies ((s.strms.filter fun (_, x) => x.st == .waiting && s.waitOver x).map (·.1))

/-- The streams waiting for channel n of Mover m become READY as far as it can take them (R164). -/
def State.wakeHome (s : State) (m c : Nat) : State :=
  s.makeReadies ((s.strms.filter fun (_, x) =>
    x.st == .waiting && x.wait == .home && x.hmv.toNat == m && x.hch.toNat == c).map (·.1))

/-! ### Firn pins (R107, R110) and pending REARM values (R148, R167) -/

/-- A slot without an owner holds nothing. -/
def FSlot.tidy (f : FSlot) : FSlot := if f.free then FSlot.reset else f

/-- Change the slot that holds generation g of partition p. -/
def State.modGen (s : State) (p : Nat) (g : BitVec 8) (f : FSlot → FSlot) : State :=
  match (s.part p).ftab.find? fun e => e.2.gen == g with
  | some (n, v) => s.modPart p fun x => { x with ftab := x.ftab.put FSlot.reset n (f v) }
  | none => s

/-- Release the stream's pin. -/
def State.unpin (s : State) (sid : Nat) : State :=
  let x := s.strmAt sid
  if x.fgenp = 0 then s
  else
    ((s.modStrmAt sid fun y => { y with fgenp := 0 }).modGen x.part.toNat x.fgenp fun f =>
      { f with pins := f.pins - 1 }.tidy).wakeUp

/-- Base registers of a mask are replaced together. -/
def Strm.withBases (x : Strm) (r : Rearm) : Strm :=
  { x with
    b0 := if r.bmask.getLsbD 0 then r.b0 else x.b0
    b1 := if r.bmask.getLsbD 1 then r.b1 else x.b1
    b2 := if r.bmask.getLsbD 2 then r.b2 else x.b2
    b3 := if r.bmask.getLsbD 3 then r.b3 else x.b3 }

/-- The issuer of a REARM completes: it waited for its values (R148, R167). -/
def State.rearmEnds (s : State) (issuer target : Nat) (aborted : Bool) : State :=
  let x := s.strmAt issuer
  match x.cmd with
  | none => s
  | some k =>
    if x.wait = .rearmPending target then
      let s1 := s.setStrmAt issuer { x with
        cmd := some { k with stage := .done, aborted := k.aborted || aborted }
        wait := if x.st = .waiting then x.wait else .none }
      if x.st = .waiting then s1.makeReady issuer else s1
    else s

/-- Apply the pending values: a new arming begins at PC 0 (R167). -/
def State.applyPending (s : State) (sid : Nat) : State :=
  match (s.strmAt sid).rpend with
  | none => s
  | some r =>
    let s1 := s.unpin sid
    let s2 := s1.modStrmAt sid fun x =>
      { x.withBases r with pc := 0, pass := 0, queue := r.queue, rpend := none }
    (s2.rearmEnds r.issuer sid false).wakeUp

/-- An abort of the stream discards its pending values, and the REARM that left them completes with ST_ABORTED
(R167). -/
def State.discardPending (s : State) (sid : Nat) : State :=
  match (s.strmAt sid).rpend with
  | none => s
  | some r => ((s.modStrmAt sid fun x => { x with rpend := none }).rearmEnds r.issuer sid true).wakeUp

/-- ARMED; a persistent stream with values pending starts its next arming instead. -/
def State.makeArmed (s : State) (sid : Nat) : State :=
  let s1 := (s.modStrmAt sid fun x => { x with stopAt := .none }).setSt sid .armed .none
  match (s1.strmAt sid).rpend with
  | none => s1
  | some _ => (s1.applyPending sid).makeReady sid

/-! ### Windows and records (R168, R175, R176, R244) -/

/-- Units of a stream's prefetch window: the queue's PFW, or the record's; none for a batched stream (R168). -/
def State.pfUnits (s : State) (sid : Nat) : Nat :=
  let x := s.strmAt sid
  if x.slots ≠ [] then 0 else if x.pers then x.pfw.toNat else (s.sq sid).pfw.toNat

/-- Units of partition p's spill area that a slot holds. -/
def slotUnits (l : SMap Slot) : List Nat := (l.map fun e => e.2.units).flatten

/-- Units of partition p's spill area that no window and no slot holds; `but` is a stream whose slots do not count
(R245). -/
def State.freeUnits (s : State) (p : Nat) (but : Option Nat) : List Nat :=
  let wins := ((s.chans.filter fun e => s.partOf (e.1 / 4) == p).map fun e => e.2.units ++ slotUnits (e.2.bnd.getD [])).flatten
  let slots := ((s.strms.filter fun e => e.2.part.toNat == p && but != some e.1).map fun e => slotUnits e.2.slots).flatten
  (List.range (s.part p).spillSz.toNat).filter fun u => !wins.contains u && !slots.contains u

/-- Take n of the free units; which, the spec leaves open (log 90). -/
def pickUnits (seed : Nat) : Nat → List Nat → List Nat
  | 0, _ => []
  | n + 1, free =>
    match free[Config.spillPick seed % free.length]? with
    | none => []
    | some u => u :: pickUnits (seed + 1) n (free.erase u)

/-- Take the window: from the allotment, else from the spill area, else none; answers PFST (R175). -/
def State.takeWindow (s : State) (m c sid : Nat) : State :=
  let u := s.pfUnits sid
  let p := (s.strmAt sid).part.toNat
  let x := s.part p
  if u = 0 then s.modCh m c fun h => { h with win := 0, pfst := 2 }
  else if x.pfUsed + u ≤ x.pfa.toNat then
    (s.modPart p fun y => { y with pfUsed := y.pfUsed + u }).modCh m c fun h => { h with win := u, pfst := 0 }
  else if x.spillEn = true ∧ x.spUsed + u ≤ x.spillSz.toNat then
    { (s.modPart p fun y => { y with spUsed := y.spUsed + u }).modCh m c fun h => { h with
        win := u, pfst := 1, units := pickUnits s.free u (s.freeUnits p none) } with
      free := s.free + u }
  else s.modCh m c fun h => { h with win := 0, pfst := 2 }

/-- Free the channel's window. -/
def State.freeWindow (s : State) (m c p : Nat) : State :=
  let h := s.ch m c
  (s.modPart p fun y => if h.pfst = 0 then { y with pfUsed := y.pfUsed - h.win }
    else if h.pfst = 1 then { y with spUsed := y.spUsed - h.win } else y).modCh m c fun y => { y with units := [] }

/-- First glacier ID. -/
def glacBase : Nat := 40960

/-- Address of a glacier record (R246). -/
def State.glacAddr (s : State) (p sid : Nat) : Nat :=
  (s.part p).glacBase.toNat * 4096 + 64 * (sid - glacBase - (s.part p).gfirst.toNat)

/-- Write a glacier record: `kind` tells whether its stream leaves the channel, or a command of another changes it. -/
def State.recordOut (s : State) (m c sid : Nat) (kind : AKind) : State :=
  if sid < glacBase then s
  else
    let x := s.strmAt sid
    let p := x.part.toNat
    s.pushPhys { blankAcc p (.mover m) c kind true (s.glacAddr p sid) 64 with
      sid := sid, ten := x.ten, gen := x.tgen, data := strmBytes x, en := List.replicate 64 true }
      (s.part p).glacAttr.toNat

/-- Write a glacier record back (R165, R176). -/
def State.writeBack (s : State) (m c sid : Nat) : State := s.recordOut m c sid .glacWrite

/-! ### Space of a batched stream's slots (R136, R137, R244) -/

/-- Units of Staging (STATE 1) or of the spill area (STATE 2) that slots hold. -/
def slotSpace (l : SMap Slot) (st : BitVec 3) : Nat := ((l.filter fun e => e.2.st == st).map fun e => e.2.rsv.toNat).sum

/-- The slots of a stream hold the space of `new` in place of that of `old`. -/
def State.moveSpace (s : State) (p : Nat) (old new : BitVec 3 → Nat) : State :=
  s.modPart p fun y => { y with bsUsed := y.bsUsed - old 1 + new 1, spUsed := y.spUsed - old 2 + new 2 }

/-- Space held while a step boundary's table is written: enough for the slots before it and for those after it. -/
def bndSpace (old new : SMap Slot) (st : BitVec 3) : Nat := max (slotSpace old st) (slotSpace new st)

/-- A step boundary takes effect (`done`), or is given up with the slots of the previous step (R202). -/
def State.endBoundary (s : State) (m c sid : Nat) (done : Bool) : State :=
  match (s.ch m c).bnd with
  | none => s
  | some l =>
    let x := s.strmAt sid
    let now := if done then l else x.slots
    ((s.moveSpace x.part.toNat (bndSpace x.slots l) (slotSpace now)).modCh m c fun h => { h with bnd := none }).modStrmAt
      sid fun y => { y with slots := now }

/-! ### Tile slots in Staging (R49, R262) -/

/-- The Staging bursts that carry a tile of n bytes into its slot, or out of it: of at most 8 beats of 128 B. -/
def State.pushStg (s : State) (m c sid tile : Nat) (wr : Bool) (n : Nat) : State :=
  (List.range (ceilDiv n 1024)).foldl (fun st i => { st with
    stg := st.stg ++ [{ id := st.free, part := (st.strmAt sid).part.toNat, mv := m, ch := c, sid := sid, tile := tile,
                        group := (Config.bankGroup st.free).val, wr := wr, beats := min 8 (ceilDiv n 128 - 8 * i),
                        out := false }]
    free := st.free + 1 }) s

/-- A burst of a channel's tile into its slot that is still to end. -/
def State.slotAwaits (s : State) (m c tile : Nat) : Bool :=
  s.stg.any fun r => r.mv == m && r.ch == c && r.wr && r.tile == tile

/-! ### Leaving a channel (R165, R208) -/

/-- An empty active set. -/
def Chan.vacate (h : Chan) : Chan :=
  { h with act := none, run := 0, ph := .idle, tile := 0, got := [], bad := false, slot := none, xl := [], stop := none,
           abort := false, dflt := none, inB := 0, outB := 0, win := 0, pfst := 2, pf := [], coal := [], hits := [],
           units := [], bnd := none }

/-- A write of a tile before `keep`: its issue is finished (R64, R67, R194). -/
def keptWrite (keep : Nat) : AKind → Bool
  | .dest k => decide (k < keep)
  | .ecnos k => decide (k < keep)
  | .glacWrite => true
  | .recWrite => true
  | _ => false

/-- A write of read-ahead data to the spill area (R175). -/
def isSpillWrite : AKind → Bool
  | .spillWrite _ _ => true
  | _ => false

/-- Accesses of a channel that have not been issued are never made, but for the writes of the tiles before `keep`;
reads under way are discarded when they answer, and so
are writes of read-ahead data; remote requests not yet sent are withdrawn. -/
def State.dropChan (s : State) (m c keep : Nat) : State :=
  let gone := fun (r : RemReq) => r.mv == m && r.ch == c && !r.sent && !(r.wr && decide (r.tile < keep))
  let lost := s.peer.rem.filter gone
  let isLost := fun (t : TxPkt) => lost.any fun r =>
    t.owner == some ((s.partOf m), m, c) && bfld t.bytes 12 0 48 == r.off && !t.resp
  { s with
    acc := (s.acc.filter fun a => !(ofChan m c a && !inFlight a && !keptWrite keep a.kind)).map fun a =>
      if ofChan m c a && (!a.wr || isSpillWrite a.kind) then { a with drain := true } else a
    stg := s.stg.filter fun r => !(r.mv == m && r.ch == c && !r.out && (r.wr || decide (keep ≤ r.tile)))
    peer := { s.peer with rem := s.peer.rem.filter fun r => !gone r, tx := s.peer.tx.filter fun t => !isLost t } }

/-- The active stream, already in its new state, gives up the channel. -/
def State.leaveOnly (s : State) (m c : Nat) : State :=
  match (s.ch m c).act with
  | none => s
  | some sid =>
    let s1 := ((s.dropChan m c 0).endBoundary m c sid false).freeWindow m c (s.strmAt sid).part.toNat
    ((s1.modCh m c Chan.vacate).writeBack m c sid).modStrmAt sid fun x => if x.bad = 1 then { x with bad := 2 } else x

/-! ### Faults that stop a stream -/

/-- KIND of an access (R192). -/
def kindOf : AKind → Nat
  | .source _ => 0
  | .list _ => 3
  | .probe _ => 1
  | .dest _ => 1
  | .ring => 4
  | .program => 6
  | .decode _ => 2
  | .readBack => 7
  | .flag => 8
  | .cqRec _ _ => 5
  | .slotTable => 9
  | .slotWrite => 9
  | .glacRead _ _ => 10
  | .glacWrite => 10
  | .recWrite => 10
  | .rxWrite _ => 11
  | .rxRead _ => 11
  | _ => 0

/-- Where a fault on an access leaves its stream (R194, R198, R202). -/
def stopOf : AKind → StopAt
  | .source _ => .tile
  | .list _ => .tile
  | .probe _ => .tile
  | .dest _ => .tile
  | .ring => .ring
  | .program => .program
  | .decode _ => .decodeRead
  | .readBack => .readBack
  | .flag => .flag
  | .cqRec _ _ => .record
  | .slotTable => .slotTable
  | .slotWrite => .slotTable
  | _ => .none

/-- DIR of an access: a probe is made for a write; a read-back is a read. -/
def dirOf : AKind → Bool
  | .probe _ => true
  | .dest _ => true
  | .flag => true
  | .cqRec _ _ => true
  | .slotWrite => true
  | .glacWrite => true
  | .recWrite => true
  | .rxWrite _ => true
  | _ => false

/-- The tile of an access. -/
def tileOf : AKind → Option Nat
  | .source k => some k
  | .list k => some k
  | .probe k => some k
  | .dest k => some k
  | _ => none

/-- Lowest virtual byte address that an access concerns: of a write, its first enabled byte (R192). -/
def Access.lowVa (a : Access) : Nat := a.va + (a.en.findIdx? id).getD 0

/-- The fault record of a translation fault (R192). -/
def State.xlatRec (s : State) (m c : Nat) (a : Access) (code lvl ntile : Nat) : FRec :=
  { faultOf (s.strmAt a.sid) a.sid m c code (kindOf a.kind) with
    dir := dirOf a.kind, vav := true, va := BitVec.ofNat 48 a.lowVa, lvl := BitVec.ofNat 2 lvl,
    ntile := BitVec.ofNat 40 ntile, part := BitVec.ofNat 3 a.part }

/-- Latch the first error of a channel; a later one sets OVF (R200). -/
def State.latchErr (s : State) (m c : Nat) (e : BusErr) : State :=
  s.modCh m c fun h =>
    if h.errValid then { h with errOvf := true }
    else { h with
      errva := BitVec.ofNat 48 e.va, errpa := BitVec.ofNat 48 e.pa, errValid := true, errDir := e.dir, errWalk := e.walk,
      errResp := BitVec.ofNat 2 e.resp, errKind := BitVec.ofNat 8 e.kind }

/-- A further error sets OVF while one is latched (R199, R200). -/
def State.lateErr (s : State) (m c : Nat) : State := s.modCh m c fun h => { h with errOvf := h.errOvf || h.errValid }

/-- What a stop latches once it takes effect: its bus error, and that more of them came (R198, R199). -/
def State.latchStop (s : State) (m c : Nat) (x : Stop) : State :=
  match x.err with
  | none => s
  | some e => if x.more then (s.latchErr m c e).lateErr m c else s.latchErr m c e

/-- A FROZEN or HALTED stream leaves the channel with its saved position, and its record is handed on (R194, R198). -/
def State.applyStop (s : State) (m c sid : Nat) (x : Stop) : State :=
  let s1 := s.modStrmAt sid fun y => { y with ntile := x.ntile, lfsr := (s.ch m c).lfsr, stopAt := x.stopAt }
  let w := if x.stopAt = .record ∨ x.stopAt = .recordArmed then (s.strmAt sid).wait else .none
  let s2 := ((s1.latchStop m c x).setSt sid (if x.frozen then .frozen else .halted) w).leaveOnly m c
  s2.pushFault x.frec.part.toNat x.frec

/-! ### Copies (R12, R307) -/

/-- A descriptor cache entry (R12, R307). -/
def State.cached (s : State) (p : Nat) (ten gen : BitVec 8) (addr : Nat) : Option (List Byte) :=
  ((s.dcU p).desc.find? fun e => e.ten == ten && e.gen == gen && e.addr == addr && !e.bad).map (·.data)

/-- A look-up that finds damaged copies at an address discards them: they are read again, as on a miss (R12, R363). -/
def State.shedCopy (s : State) (p : Nat) (ten gen : BitVec 8) (addr m sid : Nat) : State :=
  let hit := fun (e : DEnt) => e.bad && e.ten == ten && e.gen == gen && e.addr == addr
  let n := ((s.dcU p).desc.filter hit).length + ((s.dcU p).tabs.filter hit).length
  if n = 0 then s
  else (s.modDcU p fun d => { d with desc := d.desc.filter fun e => !hit e, tabs := d.tabs.filter fun e => !hit e }).shedCount
    m sid n

/-- A hit renews its entry. -/
def State.cacheUse (s : State) (p : Nat) (ten gen : BitVec 8) (addr : Nat) : State :=
  s.modDcU p fun d =>
    match d.desc.find? fun e => e.ten == ten && e.gen == gen && e.addr == addr with
    | some e => { d with desc := useEntry 512 e d.desc }
    | none => d

/-- Install 128 B, a descriptor or a pair of commands, least recently used replaced (R307). -/
def State.cacheIn (s : State) (p : Nat) (ten gen : BitVec 8) (addr : Nat) (data : List Byte) : State :=
  s.modDcU p fun d =>
    { d with desc := ({ ten := ten, gen := gen, addr := addr, data := data } ::
        d.desc.filter fun e => !(e.ten == ten && e.gen == gen && e.addr == addr)).take 512 }

/-! ### Accesses of a channel -/

/-- An access that a channel makes for its stream. -/
def State.chanAcc (s : State) (m c sid : Nat) (kind : AKind) (wr : Bool) (va len : Nat) : Access :=
  let x := s.strmAt sid
  { blankAcc x.part.toNat (.mover m) c kind wr va len with sid := sid, ten := x.ten, gen := x.tgen }

/-- How an attempt to go on ended. -/
inductive Going where
  | on
  | out
  | park
  | stop (x : Stop)
deriving DecidableEq, Repr

/-- The FROZEN stop of a translation fault on an access made outside the tiles. -/
def State.xlatStop (s : State) (m c : Nat) (f : Access × Nat × Nat) (ntile : Nat) : Stop :=
  { frozen := true, stopAt := stopOf f.1.kind, ntile := BitVec.ofNat 40 ntile, bus := false,
    frec := s.xlatRec m c f.1 f.2.1 f.2.2 ntile }

/-- Make the accesses; a fault stops the stream at the position given. -/
def State.makeOr (s : State) (m c : Nat) (l : List Access) (ntile : Nat) : State × Going :=
  match s.makeFars l with
  | (s1, none) => (s1, .on)
  | (s1, some f) => (s1, .stop (s1.xlatStop m c f ntile))

end Sys2Proof.Machine
end

