-- ==== Sys2Proof/Machine/Sync.lean ====
section
/-! DEFINITION. The Sync File: counters (R223 to R231), rope lines (R232 to R236), and signals with their second check
(R142, R456). -/

namespace Sys2Proof.Machine

/-! ### Checks (R142, R223, R225, R230, R234) -/

/-- How a command uses a counter or a line. -/
inductive SyncUse where
  | signal
  | wait
  | barrier
deriving DecidableEq, Repr

/-- Key of counter `k` of Mover `m`. -/
def cntKey (m k : Nat) : Nat := 64 * m + k

/-- Whether a stream may use counter or rope line `tgt`; `kind` is 1 for a counter and 2 for a line. The counters of a
Mover out of service are refused (R348). -/
def State.syncOk (s : State) (x : Strm) (use : SyncUse) (kind tgt : Nat) : Bool :=
  let m := x.hmv.toNat
  x.hen && (
    if kind = 1 then
      let k := s.cnt (cntKey m tgt)
      let mine := k.part.getLsbD x.hch.toNat
      k.bound && k.ten == x.ten && !(s.mover m).oos && (match use with
        | .wait => true
        | .signal => k.mode != 0 || mine
        | .barrier => k.mode == 0 && mine)
    else if kind = 2 then
      let r := s.rope tgt
      decide (tgt < 16) && r.en && r.part == x.part && r.mmask.getLsbD m
    else false)

/-! ### Counters (R225, R228, R230) -/

/-- The fault record of a counter (R228, R456). -/
def syncRec (x : Strm) (sid m c code : Nat) : FRec := faultOf x sid m c code 12

/-- FLT_SYNC_OVER. -/
def fltOver : Nat := 0x38
/-- FLT_SYNC_UNDER. -/
def fltUnder : Nat := 0x39

/-- Add to a counter in COUNT or LANDING mode, saturated once; a flag that rises writes a fault record naming the
stream and channel given (R228). -/
def State.cntAdd (s : State) (key : Nat) (d : Int) (sid m c : Nat) : State :=
  let k := s.cnt key
  let v : Int := (k.value.toNat : Int) + d
  let hi := decide ((2 ^ 32 : Nat) ≤ v)
  let lo := decide (v < 0)
  let nv : BitVec 32 := if hi then 0xFFFFFFFF else if lo then 0 else BitVec.ofInt 32 v
  let s1 := s.setCnt key { k with value := nv, ovf := k.ovf || hi, unf := k.unf || lo }
  let x := s.strmAt sid
  let f := fun (st : State) (code : Nat) => st.pushFault x.part.toNat (syncRec x sid m c code)
  let s2 := if hi && !k.ovf then f s1 fltOver else if lo && !k.unf then f s1 fltUnder else s1
  s2.wakeUp

/-- What an arrival does to its stream. -/
inductive Arrival where
  | counted (target : BitVec 32)
  | held (target : BitVec 32)
  | again
deriving DecidableEq, Repr

/-- The wait that an arrival by signal leaves on its stream (R230). -/
def dblWait (a : Arrival) (w : BitVec 32 → Bool → Wait) : Wait :=
  match a with
  | .counted _ => .none
  | .held t => w t false
  | .again => w 0 true

/-- The arrival of channel `c` at a counter: in ARR, else in NEXT, else not registered (R230). -/
def Cnt.arrive (k : Cnt) (c : Nat) : Cnt × Arrival :=
  let b := BitVec.ofNat 4 (2 ^ c)
  if k.arr &&& b = 0 then ({ k with arr := k.arr ||| b }, .counted (k.value + 1))
  else if k.next &&& b = 0 then ({ k with next := k.next ||| b, dent := true }, .held (k.value + 1))
  else (k, .again)

/-- Streams whose arrival on the counter or line was not registered repeat it: one that came by BARRIER executes it
again; the arrival of one that came by a signal meets the bits as they stand now (R230). `isIt` picks the wait, `retry`
makes the arrival and gives the wait it leaves. -/
def State.repeatArrivals (s : State) (isIt : Wait → Bool) (retry : State → Strm → State × Wait) : State :=
  (s.strms.filter fun (_, x) => isIt x.wait).foldl (fun st (sid, _) =>
    let x := st.strmAt sid
    if (x.cmd.map (·.stage)).getD .done = .done then
      let (s1, w) := retry st x
      s1.modStrmAt sid fun y => { y with wait := w }
    else st.makeReady sid) s

/-- Rounds of a BARRIER-mode counter complete as long as ARR equals PART (R230); `fuel` bounds their number. -/
def State.cntRounds (s : State) (key : Nat) : Nat → State
  | 0 => s
  | fuel + 1 =>
    let k := s.cnt key
    if k.mode = 0 ∧ k.bound = true ∧ k.part ≠ 0 ∧ k.arr = k.part then
      let s1 := s.setCnt key { k with value := k.value + 1, arr := k.next, next := 0 }
      let s2 := s1.repeatArrivals (fun w => match w with
          | .dblCounter q _ a => q == key && a
          | _ => false) fun st x =>
            let (q, a) := (st.cnt key).arrive x.hch.toNat
            (st.setCnt key q, dblWait a (Wait.dblCounter key))
      s2.wakeUp.cntRounds key fuel
    else s

/-- A round of a BARRIER-mode counter completes when ARR equals PART (R230). Each round takes the arrivals it completes
with, so there are at most as many rounds as streams. -/
def State.cntRound (s : State) (key : Nat) : State := s.cntRounds key (s.strms.length + 1)

/-- An arrival of channel `c` (R230). -/
def State.cntArrive (s : State) (key c : Nat) : State × Arrival :=
  let (k, a) := (s.cnt key).arrive c
  ((s.setCnt key k).cntRound key, a)

/-- Configuration of counter CTGT (R224). -/
def State.cntConfig (s : State) (key mode part init : Nat) (ten : BitVec 8) : State :=
  (s.setCnt key { Cnt.reset with
    value := BitVec.ofNat 32 init, mode := BitVec.ofNat 2 mode, part := BitVec.ofNat 4 part, bound := true,
    ten := ten }).wakeUp

/-! ### Rope lines (R233 to R236) -/

/-- Movers marked out of service count as arrived (R235). -/
def State.oosMask (s : State) : BitVec 64 :=
  BitVec.ofNat 64 ((s.movers.filter fun (_, v) => v.oos).map fun (m, _) => 2 ^ m).sum

/-- Every Mover of the mask has arrived. -/
def State.ropeAll (s : State) (n : Nat) : Bool :=
  let r := s.rope n
  r.mmask != 0 && (r.arr ||| s.oosMask) &&& r.mmask == r.mmask

/-- The arrival of Mover `m` at a line: in ARR, else in PEND, else not registered (R235). -/
def Rope.arrive (r : Rope) (m : Nat) : Rope × Arrival :=
  let b := BitVec.ofNat 64 (2 ^ m)
  if r.arr &&& b = 0 then ({ r with arr := r.arr ||| b }, .counted (r.round + 1))
  else if r.pend &&& b = 0 then ({ r with pend := r.pend ||| b, dent := true }, .held (r.round + 1))
  else (r, .again)

/-- Bring a line up to date: the rise of rope_out, and the round's completion with what it causes (R235, R236). A line
with EXT=0 pulses rope_out until the next tick, which brings the line up to date again. -/
def State.ropeEval (s : State) (n : Nat) : State :=
  let r := s.rope n
  if r.en = false ∨ s.ropeAll n = false then s
  else
    let s1 := if r.ext && !r.rel then s.setRope n { r with rout := true } else s
    if r.ext && !r.taken then s1
    else
      let s2 := s1.modRope n fun q => { q with
        round := q.round + 1
        arr := q.pend
        pend := 0
        taken := false
        low := !q.ext
        rel := q.ext || q.rel
        rout := true }
      let s3 := s2.repeatArrivals (fun w => match w with
          | .dblRope q _ a => q == n && a
          | _ => false) fun st x =>
            let (q, a) := (st.rope n).arrive x.hmv.toNat
            (st.setRope n q, dblWait a (Wait.dblRope n))
      s3.wakeUp

/-- Every line brought up to date, after Movers have gone out of service or come back. -/
def State.ropeEvalAll (s : State) : State := (List.range 16).foldl State.ropeEval s

/-- An arrival of Mover `m` (R235). -/
def State.ropeArrive (s : State) (n m : Nat) : State × Arrival :=
  let (r, a) := (s.rope n).arrive m
  ((s.setRope n r).ropeEval n, a)

/-- rope_in rises: it is taken as an arrival if the line has been seen low since the last completed round. -/
def State.ropeIn (s : State) (n : Nat) : State :=
  (s.modRope n fun r => { r with rin := true, taken := r.taken || r.low, low := false }).ropeEval n

/-- rope_in falls: the line has been seen low, and rope_out falls after a completed round. For the next round it rises
at the next tick at the earliest (R236). -/
def State.ropeDown (s : State) (n : Nat) : State :=
  s.modRope n fun r => { r with rin := false, low := true, rout := r.rout && !r.rel, rel := false }

/-! ### Signals (R142, R146, R230, R456) -/

/-- Apply the attached signal of a command of stream `sid` on channel c of Mover m. One that fails its second check has
no effect and writes a fault record (R456). A double entry leaves a wait on the stream. -/
def State.applySignal (s : State) (m c sid : Nat) (raw : BitVec 512) : State :=
  let x := s.strmAt sid
  let k := cSkind raw
  let t := cStgt raw
  if k = 0 then s
  else if s.syncOk x .signal k t = false then s.pushFault x.part.toNat (syncRec x sid m c fltRange)
  else
    let key := cntKey x.hmv.toNat t
    if k = 1 ∧ (s.cnt key).mode ≠ 0 then s.cntAdd key (cSval raw) sid m c
    else
      let (s1, w) := if k = 1
        then let (s1, a) := s.cntArrive key c; (s1, dblWait a (Wait.dblCounter key))
        else let (s1, a) := s.ropeArrive t m; (s1, dblWait a (Wait.dblRope t))
      s1.modStrmAt sid fun y => { y with wait := w }

end Sys2Proof.Machine
end

