-- ==== Sys2Proof/Machine/Check.lean ====
section
/-! DEFINITION. Decode: the checks of R455 in their order, the structures a command needs, and the geometry of a data
command. A check answers the fault code of its breach. -/

namespace Sys2Proof.Machine

/-! ### Effective descriptors (R34, R133, R144) -/

/-- Base register k. -/
def Strm.breg (x : Strm) (k : Nat) : Nat :=
  (match k with
    | 0 => x.b0
    | 1 => x.b1
    | 2 => x.b2
    | _ => x.b3).toNat

/-- The slot of a batched run. -/
def Strm.slotOf (x : Strm) (k : CmdCtx) : Option Slot := k.slot.bind fun n => x.slots.find n

/-- BASE of a side: the descriptor's, or a base register, and the slot's offset added; it may leave 48 bits. -/
def effBase (x : Strm) (k : CmdCtx) (dst : Bool) (own : Int) : Int :=
  let b : Int := if dst then (if cDbe k.raw then x.breg (cDbr k.raw) else own)
    else if cSbe k.raw then x.breg (cSbr k.raw) else own
  match x.slotOf k with
  | none => b
  | some s => b + (if dst then s.doff else s.soff).toInt

/-- The copy of a structure. -/
def CmdCtx.copy (k : CmdCtx) (place : Nat) : List Byte := (k.got.find place).getD []

/-- A side's descriptor with its effective BASE. -/
def sideDesc (x : Strm) (k : CmdCtx) (dst : Bool) : Desc :=
  let d := parseDesc (k.copy (if dst then 3 else 2))
  { d with base := effBase x k dst d.base }

/-- The geometry of the data command that a stream holds. -/
def geoOf (x : Strm) (k : CmdCtx) : Geo :=
  let sd := sideDesc x k false
  { opc := cOpc k.raw
    sd := sd
    dd := if cOpc k.raw = 4 then { sd with firn := false } else sideDesc x k true
    raddr := cDdesc k.raw
    xpose := cXpose k.raw
    imask := cImask k.raw
    icnt := cIcnt k.raw
    idx := k.idx
    rwr := cRwr k.raw
    rrd := cRrd k.raw
    roff := cIaddr k.raw }

/-- The TDEST whose beats a stream's TRANSFERs take (R433). -/
def State.tdestOf (s : State) (sid : Nat) : Option Nat :=
  (List.range 4).find? fun d => (s.strmP d).en && (s.strmP d).sid.toNat == sid

/-! ### Place 1: the command itself -/

/-- Opcodes of R141. -/
def opcodes : List Nat := [0, 1, 2, 3, 4, 8, 9, 10, 11, 16, 17, 18]

/-- Whether generation g of the partition is one that the tenant loaded. -/
def State.genSlot (s : State) (p : Nat) (t : BitVec 8) (g : Nat) : Option Nat :=
  ((s.part p).ftab.find? fun e => e.2.gen.toNat == g && e.2.ten == t && g != 0).map (·.1)

/-- The tenant's current generation's slot. -/
def State.curSlot (s : State) (p : Nat) (t : BitVec 8) : Option Nat :=
  ((s.part p).ftab.find? fun e => e.2.current && e.2.ten == t).map (·.1)

/-- The image grants flagged-final mode to a channel of this chip (R219). -/
def State.ffGrant (s : State) (chip m c : Nat) : Option Nat :=
  (s.peer.fftab.find? fun e => e.2.en && e.2.chip.toNat == chip && e.2.mover.toNat == m && e.2.ch.toNat == c).map (·.1)

/-- Port toward a chip (R285). -/
def Peer.dirOf (p : Peer) (chip : Nat) : Nat := fld p.dir.toNat (2 * chip) 2

/-- Range rules of a data command's own fields (R72, R73, R79, R110, R113, R120, R121, R144). -/
def State.dataRange (s : State) (x : Strm) (c : BitVec 512) : Bool :=
  let op := cOpc c
  let list := decide (op = 2 ∨ op = 3)
  let rem := cRwr c || cRrd c
  let k := popcount (cImask c) 5
  cRnd c == 3 || cAff c == 3
  || (cAff c != 2 && (cSctab c != 0 || cScn c != 0 || cScoff c != 0 || cScdim c != 0))
  || (cAff c != 1 && (cScale c != 0 || cf c 28 0 32 != 0))
  || (cRnd c != 2 && cSeed c != 0)
  || (cAff c == 2 && decide (cScn c = 0 ∨ cScn c > 4096))
  || (cFgen c != 0 && (s.genSlot x.part.toNat x.ten (cFgen c)).isNone)
  || (!x.pers && (cSbe c || cDbe c))
  || (cRwr c && cRrd c) || (rem && op != 1)
  || (rem && (cChip c == s.peer.chip.toNat || !s.peer.en || s.peer.dirOf (cChip c) == 0))
  || (!rem && (cRsid c != 0 || cChip c != 0 || cFfin c))
  || (cFfin c && (!cRwr c || !x.hen
        || (s.ffGrant s.peer.chip.toNat x.hmv.toNat x.hch.toNat).isNone))
  || (op == 4 && (cXpose c || cRnd c != 0 || cSat c || cSeed c != 0 || cFmode c))
  || (if list then
        cIfmt c == 3 || cImask c == 0 || decide (cIcnt c > 2 ^ 24)
        || (if cIfmt c = 2 then decide (k > 4) else k != 1)
        || (op == 3 && cXpose c)
      else cImask c != 0 || cIcnt c != 0 || cIfmt c != 0 || (op == 1 && !rem && cIaddr c != 0))

/-- Alignment of a data command's addresses (R11, R79, R113, R116, R120). -/
def dataAlign (c : BitVec 512) : Bool :=
  let op := cOpc c
  cSdesc c % 128 != 0
  || (if op = 4 then cDdesc c % 32 != 0 else cDdesc c % 128 != 0)
  || (cAff c == 2 && cSctab c % 64 != 0)
  || (op == 4 && cIaddr c % 64 != 0)
  || ((op == 2 || op == 3) && cIaddr c % (if cIfmt c = 0 then 2 else 4) != 0)

/-- A record's owner is the tenant under its present generation (R148, R249). -/
def State.owned (s : State) (x : Strm) (ten gen : BitVec 8) : Bool :=
  x.ten == ten && x.tgen == gen && gen == s.genOf ten

/-- Granule of an ID in the Context Store. -/
def granOf (sid : Nat) : Nat := sid / 64

/-- A granule is retired (R366, R367). -/
def State.retired (s : State) (g : Nat) : Bool := s.granRet.get false g

/-- IDs at which a partition may hold a persistent stream (R246, R366). -/
def State.idOk (s : State) (p sid : Nat) : Bool :=
  let x := s.part p
  if sid < glacBase then
    decide (1088 ≤ sid) && x.ren && decide (x.rglo.toNat ≤ granOf sid ∧ granOf sid ≤ x.rghi.toNat) && !s.retired (granOf sid)
  else decide (glacBase + x.gfirst.toNat ≤ sid ∧ sid < glacBase + x.gfirst.toNat + x.gcnt.toNat)

/-- SID of a REARM. -/
def cTarget (c : BitVec 512) : Nat := cf c 8 0 21
/-- OP of a REARM. -/
def cRop (c : BitVec 512) : Nat := cf c 11 4 2

/-- Range rules of a REARM's own fields (R148, R176, R246). -/
def State.rearmRange (s : State) (sid : Nat) (x : Strm) (c : BitVec 512) : Bool :=
  let t := cTarget c
  let y := s.strmAt t
  t == sid || (
    match cRop c with
    | 0 => !(y.pers && s.owned y x.ten x.tgen && y.st != .empty && y.st != .quarantined)
    | 1 => !(y.st == .empty && s.idOk x.part.toNat t && s.genOf x.ten == x.tgen)
    | 2 => !(y.pers && s.owned y x.ten x.tgen && y.st == .armed)
    | _ => true)

/-- A configuration that counter CTGT refuses: it is bound to another tenant, or a round is in progress (R223, R224). -/
def State.configRefused (s : State) (x : Strm) (c : BitVec 512) : Bool :=
  let k := s.cnt (cntKey x.hmv.toNat (cf c 11 0 6))
  cf c 8 0 2 == 1 && k.bound && (k.ten != x.ten || (k.mode == 0 && (k.arr != 0 || k.next != 0)))

/-- Range rules of a SIGNAL's own fields (R8, R142, R146, R223, R224). -/
def State.signalRange (s : State) (x : Strm) (c : BitVec 512) : Bool :=
  let sop := cf c 8 0 2
  let mode := cf c 9 0 2
  let part := cf c 10 0 4
  decide (sop ≥ 2) || mode == 3
  || (sop == 1 && (!x.hen || (mode == 0 && part == 0) || (mode != 0 && part != 0))) || s.configRefused x c

/-- Range rules of a TABLE's own fields (R108, R109, R150). -/
def State.tableRange (s : State) (x : Strm) (c : BitVec 512) : Bool :=
  let p := x.part.toNat
  if cb c 8 0 then cb c 8 1 || cf c 16 0 48 != 0 || (s.genSlot p x.ten (cf c 9 0 8)).isNone
  else cf c 9 0 8 != 0 || (List.range 8).all fun n =>
    let f := (s.part p).ftab.get FSlot.reset n
    f.current || f.keep

/-- Place 1 of R455: stream kind, reserved bits, and every rule on the command's own fields. -/
def State.place1 (s : State) (sid : Nat) (c : BitVec 512) : Option Nat :=
  let x := s.strmAt sid
  let op := cOpc c
  let last := x.pers && x.pc.toNat + 1 == x.plen.toNat
  let sk := cSkind c
  let common := !(opcodes.contains op) || !reservedZero c || ((op == 17) != last)
    || sk == 3 || (sk == 2 && decide (cStgt c ≥ 16)) || (sk != 0 && !s.syncOk x .signal sk (cStgt c))
  let range :=
    if 1 ≤ op ∧ op ≤ 4 then s.dataRange x c
    else match op with
      | 8 => !s.syncOk x .wait (cf c 8 0 2) (cf c 9 0 6)
      | 10 => !s.syncOk x .barrier (cf c 8 0 2) (cf c 9 0 6) || cf c 12 0 32 != 0
      | 9 => s.signalRange x c
      | 16 => s.rearmRange sid x c
      | 17 => !cb c 12 0 && cf c 16 0 48 != 0
      | 18 => s.tableRange x c
      | _ => false
  let align :=
    if 1 ≤ op ∧ op ≤ 4 then dataAlign c
    else match op with
      | 9 => cb c 8 2 && cf c 16 0 48 % (if cb c 8 3 then 8 else 4) != 0
      | 16 => cRop c == 1 && cf c 48 0 48 % 64 != 0
      | 17 => cb c 12 0 && cf c 16 0 48 % 4096 != 0
      | 18 => !cb c 8 0 && cf c 16 0 48 % 32 != 0
      | _ => false
  breach (common || range) align

/-! ### Structures read at decode (R12, R80, R106, R116, R166, R290) -/

/-- A structure that decode reads: its key (2 source and 3 destination descriptor, 5 scale table, 6 edge table, 7 curve
image, 8 record image, 9 placement descriptor), address and length, and where its copies are kept. -/
structure Need where
  place : Nat
  addr : Nat
  len : Nat
  kept : Option Bool            -- descriptor cache, or table copies (true)
deriving DecidableEq, Repr

/-- Order of R455 of a structure's key. -/
def placeOrd (p : Nat) : Nat := if p ≤ 3 then p else 5

/-- What the command needs, given the copies held. -/
def needsOf (k : CmdCtx) : List Need :=
  let c := k.raw
  let op := cOpc c
  if 1 ≤ op ∧ op ≤ 4 then
    [{ place := 2, addr := cSdesc c, len := 128, kept := some false }]
    ++ (if op = 4 then [{ place := 6, addr := cIaddr c, len := 64, kept := some true }]
        else [{ place := 3, addr := cDdesc c, len := 128, kept := some false }])
    ++ (if cAff c = 2 then [{ place := 5, addr := cSctab c, len := 8 * cScn c, kept := some true }] else [])
  else if op = 18 ∧ cb c 8 0 = false then [{ place := 7, addr := cf c 16 0 48, len := 32, kept := some true }]
  else if op = 16 ∧ cRop c = 1 then
    { place := 8, addr := cf c 48 0 48, len := 64, kept := none }
    :: (match k.got.find 8 with
      | none => []
      | some i =>
        if bbit i 0 6 = true ∧ imageRangeBad i = false ∧ bfld i 8 0 48 % 128 = 0
        then [{ place := 9, addr := bfld i 8 0 48, len := 128, kept := some false }] else [])
  else []

/-- A table copy, keyed by tenant, generation, address and length (R80). -/
def State.tabCopy (s : State) (p : Nat) (ten gen : BitVec 8) (addr len : Nat) : Option DEnt :=
  (s.dcU p).tabs.find? fun e => e.ten == ten && e.gen == gen && e.addr == addr && e.data.length == len && !e.bad

/-- Entries, most recently used first, that fit in a number of bytes. -/
def fitBytes (room : Nat) : List DEnt → List DEnt
  | [] => []
  | e :: t => if e.data.length ≤ room then e :: fitBytes (room - e.data.length) t else []

/-- A copy used or installed comes first; the table copies of a partition hold 32 KiB (R244). -/
def State.tabUse (s : State) (p : Nat) (e : DEnt) : State :=
  s.modDcU p fun d => { d with tabs := fitBytes 32768 (e :: d.tabs.filter fun f =>
    !(f.ten == e.ten && f.gen == e.gen && f.addr == e.addr && f.data.length == e.data.length)) }

/-- Look a structure up, unless it is to be read again. -/
def State.findCopy (s : State) (p : Nat) (ten gen : BitVec 8) (drr : Bool) (n : Need) : Option (List Byte) × State :=
  if drr then (none, s)
  else match n.kept with
    | none => (none, s)
    | some false =>
      match s.cached p ten gen n.addr with
      | some d => (some d, s.cacheUse p ten gen n.addr)
      | none => (none, s)
    | some true =>
      match s.tabCopy p ten gen n.addr n.len with
      | some e => (some e.data, s.tabUse p e)
      | none => (none, s)

/-- Keep a structure just read. -/
def State.keepCopy (s : State) (p : Nat) (ten gen : BitVec 8) (n : Need) (data : List Byte) : State :=
  match n.kept with
  | none => s
  | some false => s.cacheIn p ten gen n.addr data
  | some true => s.tabUse p { ten := ten, gen := gen, addr := n.addr, data := data }

/-! ### Places 2 to 5 -/

/-- The STRM rules on a source descriptor (R433); its BASE is the descriptor's own. -/
def strmDescBad (raw : List Byte) (pk : Nat) (d : Desc) : Bool :=
  d.fmt != (if pk = 0 then 2 else 4) || d.ndim != 2 || (parseDesc raw).base != 0 || d.space || d.nport != 0 || d.circ
  || d.cwrap != 0
  || d.firn || d.frate != 0 || d.swz0 != 0 || d.swz1 != 0
  || (List.range 2).any fun i =>
      let m := d.dim i
      m.bound != m.extent || m.stride != 0 || m.start != 0 || bfld raw (18 + 22 * i + 17) 0 8 != 0 || decide (m.rep > 1)

/-- Place 4: the descriptors together and with the command. -/
def State.place4 (s : State) (sid : Nat) (x : Strm) (k : CmdCtx) : Bool :=
  let c := k.raw
  let g := geoOf x k
  let op := cOpc c
  let list := g.gather || g.scatter
  let m := g.sd.dim (cScdim c)
  let firn := g.sd.firn || (!g.meter && g.dd.firn)
  (if list then
      tableBad g.table g.imask g.scatter g.xpose
      || !listAgree g.table (if g.gather then g.dd else g.sd) g.gather g.xpose g.icnt
      || tooMany (g.icnt :: (List.range g.table.ndim).map fun d =>
          if g.gather then g.table.emit d else (g.table.dim d).extent)
    else !g.meter && !shapesAgree g.sd g.dd g.xpose)
  || (g.xpose && (g.sd.ndim == 1 || fmt6 g.dd.fmt))
  || (cAff c == 2 && (decide (cScdim c ≥ g.sd.ndim) || decide (cScoff c + m.extent > cScn c) || m.stride == 0))
  || (!g.meter && g.dd.firn && cFmode c && !firnTable g.dd.fmt g.dd.frate)
  || (!g.meter && g.dd.firn && cFmode c && cFgen c == 0 && x.fgenp == 0 && (s.curSlot x.part.toNat x.ten).isNone)
  || (!firn && cFgen c != 0)
  || (g.meter && decide (g.records ≠ 0 ∧ g.raddr + 32 * g.records > 2 ^ 48))
  || (cRwr c && !(parseDesc (k.copy 3)).shapeOnly) || (cRrd c && !(parseDesc (k.copy 2)).shapeOnly)
  || (match s.tdestOf sid with
      | none => false
      | some d => op != 1 || cRrd c || strmDescBad (k.copy 2) (s.strmP d).pack.toNat g.sd)

/-- A side's descriptor alone: places 2 and 3. -/
def sideCheck (x : Strm) (k : CmdCtx) (dst : Bool) : Option Nat :=
  let table := decide (cOpc k.raw = (if dst then 3 else 2))
  (sideDesc x k dst).check (k.copy (if dst then 3 else 2)) dst (if table then cImask k.raw else 0) 1

/-- Place 5: the other structures. -/
def State.place5 (s : State) (x : Strm) (k : CmdCtx) : Option (Nat × Nat) :=
  let c := k.raw
  if cOpc c = 4 ∧ edgesBad (k.copy 6) = true then some (fltRange, cIaddr c)
  else if cOpc c = 18 ∧ cb c 8 0 = false ∧ curveBad (k.copy 7) = true then some (fltRange, cf c 16 0 48)
  else if cOpc c = 16 ∧ cRop c = 1 then
    let i := k.copy 8
    let rcv := bbit i 0 6
    let pa := bfld i 8 0 48
    let range := imageRangeBad i
      || (bbit i 0 5 && (!(s.part x.part.toNat).mvmask.getLsbD (bfld i 6 0 6) || (s.mover (bfld i 6 0 6)).oos))
    match breach range (pa % (if rcv then 128 else 4096) != 0) with
    | some f => some (f, cf c 48 0 48)
    | none =>
      match k.got.find 9 with
      | none => none
      | some raw =>
        let d := parseDesc raw
        let b := bfld i 24 0 48
        let d := if b = 0 then d else { d with base := b }
        match breach (d.rangeBad raw true 0 1 || placementBad raw d) (d.alignBad true) with
        | some f => some (f, pa)
        | none => none
  else none

/-- The first breach of places 2 to `upto` whose structures are held: fault code and the address to report. -/
def State.placesTo (s : State) (sid : Nat) (k : CmdCtx) (upto : Nat) : Option (Nat × Option Nat) :=
  let x := s.strmAt sid
  let c := k.raw
  let data := isData c
  let has := fun (p : Nat) => (k.got.find p).isSome
  let p2 := if data && has 2 && decide (2 ≤ upto) then (sideCheck x k false).map fun f => (f, some (cSdesc c)) else none
  let p3 := if data && has 3 && decide (3 ≤ upto) then (sideCheck x k true).map fun f => (f, some (cDdesc c)) else none
  let p4 := if data && has 2 && (has 3 || cOpc c == 4) && decide (4 ≤ upto) && s.place4 sid x k
    then some (fltRange, none) else none
  let p5 := if decide (5 ≤ upto) then (s.place5 x k).map fun (f, a) => (f, some a) else none
  p2.or (p3.or (p4.or p5))

/-! ### Refusals (R163, R306, R455) -/

/-- The stream stops before the refused command: HALTED with NTILE 0. -/
def State.refusal (s : State) (m c sid code kind : Nat) (va : Option Nat) : Going :=
  let f := { faultOf (s.strmAt sid) sid m c code kind with
    vav := va.isSome
    va := BitVec.ofNat 48 (va.getD 0) }
  .stop { frozen := false, stopAt := .refusal, ntile := 0, bus := false, frec := f }

/-- Address of the slot or program entry that holds the command at the stream's position. -/
def State.cmdAddr (s : State) (sid : Nat) : Nat :=
  let x := s.strmAt sid
  if x.pers then x.paddr.toNat + 64 * x.pc.toNat
  else
    let q := s.sq sid
    let n := 2 ^ q.log2sz.toNat
    q.base.toNat * 4096 + 64 * ((q.head.toNat + n - 1) % n)

/-- Change the command that a stream holds. -/
def State.modCmd (s : State) (sid : Nat) (f : CmdCtx → CmdCtx) : State :=
  s.modStrmAt sid fun x => { x with cmd := x.cmd.map f }

/-! ### Decode's reads (R307, R455) -/

/-- The bursts that read a structure. -/
def needBursts (n : Need) : List (Nat × Nat) :=
  burstsOf 64 32 ((List.range ((n.addr + n.len + 63) / 64 - n.addr / 64)).map fun i => (n.addr / 64 + i) * 64)

/-- Issue the reads of a structure; a fault is kept until the earlier places have passed. -/
def State.readNeed (s : State) (m c sid : Nat) (n : Need) : State :=
  (needBursts n).foldl (fun st b =>
    match st.makeFar (st.chanAcc m c sid (.decode n.place) false b.1 b.2) with
    | (s1, none) => s1
    | (s1, some f) =>
      s1.modCh m c fun h =>
        let r := (n.place, s1.xlatRec m c f.1 f.2.1 f.2.2 0)
        { h with dflt := match h.dflt with
          | none => some r
          | some o => if placeOrd n.place < placeOrd o.1 then some r else some o }) s

/-- Reads made at decode that are still awaited. -/
def State.decodeReads (s : State) (m c : Nat) : List Access :=
  s.acc.filter fun a => ofChan m c a && match a.kind with
    | .decode _ => true
    | _ => false

/-- Report the fault on decode's reads, or the breach of an earlier place; else the copies are held. -/
def State.decodeEnd (s : State) (m c sid : Nat) : State × Going :=
  match (s.strmAt sid).cmd with
  | none => (s, .on)
  | some k =>
    let d := (s.ch m c).dflt
    match s.placesTo sid k (d.elim 5 fun e => placeOrd e.1 - 1) with
    | some (f, va) => (s, s.refusal m c sid f 2 va)
    | none =>
      match d with
      | some (_, r) =>
        (s, .stop { frozen := r.resp == 0, stopAt := .decodeRead, ntile := 0, bus := r.resp != 0, frec := r })
      | none =>
        ((s.modCmd sid fun y => { y with stage := .copies, missing := [] }).modCh m c fun h => { h with ph := .decoded },
          .on)

/-- Look up what the command still needs, and issue the reads of what is missing. -/
def State.lookUp (s : State) (m c sid : Nat) : State × Going :=
  let x := s.strmAt sid
  match x.cmd with
  | none => (s, .on)
  | some k =>
    let drr := k.drr || (isData k.raw && cDrr k.raw)
    let p := x.part.toNat
    let todo := (needsOf k).filter fun n => (k.got.find n.place).isNone
    let (s1, got, miss) := todo.foldl (fun (st : State × SMap (List Byte) × List Need) n =>
      match (if drr then st.1 else st.1.shedCopy p x.ten x.tgen n.addr m sid).findCopy p x.ten x.tgen drr n with
      | (some d, t) => (t, st.2.1.ins n.place d, st.2.2)
      | (none, t) => (t, st.2.1, st.2.2 ++ [n])) (s, k.got, [])
    let s2 := s1.modCmd sid fun y => { y with got := got, missing := miss.map (·.place) }
    if miss = [] then s2.decodeEnd m c sid
    else
      let first := miss.foldl (fun l n => if l.any fun e => e.addr == n.addr && e.len == n.len then l else l ++ [n]) []
      let s3 := first.foldl (fun st n => st.readNeed m c sid n) (s2.modCh m c fun h =>
        { h with ph := .dreads, got := [], bad := false })
      if s3.decodeReads m c = [] then s3.decodeEnd m c sid else (s3, .on)

/-- The next occupied slot of a batched stream from `n` on (R133). -/
def nextSlot (x : Strm) (n : Nat) : Option Nat :=
  (x.slots.find? fun e => decide (n ≤ e.1) && (e.2.st == 1 || e.2.st == 2)).map (·.1)

/-- Place 1, and then the look-up of the structures the command needs. A data command of a batched stream runs for the
first occupied slot. -/
def State.decode1 (s : State) (m c sid : Nat) : State × Going :=
  let x := s.strmAt sid
  match x.cmd with
  | none => (s, .on)
  | some k =>
    match s.place1 sid k.raw with
    | some f => (s, s.refusal m c sid f (if x.pers then 6 else 4) (some (s.cmdAddr sid)))
    | none =>
      (s.modCmd sid fun y => { y with slot := if isData y.raw then y.slot.or (nextSlot x 0) else none }).lookUp m c sid

end Sys2Proof.Machine
end

