-- ==== Sys2Proof/Machine/Active.lean ====
section
/-! DEFINITION. The active set of a channel: reading commands (R159, R166), running a stream and its swap with the
shadow set (R165), and stopping in FROZEN or HALTED (R194, R198). -/

namespace Sys2Proof.Machine

/-! ### Reading commands (R159, R166) -/

/-- A slot of queue q can be read (R159). -/
def State.readable (s : State) (q : Nat) : Bool :=
  let x := s.sq q
  x.en && x.head != x.tail && decide (x.outst.toNat < x.qout.toNat)

/-- Address of the program pair that holds index i. -/
def pairAddr (x : Strm) (i : Nat) : Nat := x.paddr.toNat + 128 * (i / 2)

/-- Command i within its pair. -/
def pairCmd (data : List Byte) (i : Nat) : BitVec 512 := cmdOf (data.drop (64 * (i % 2)))

/-- The stream holds the command just read. A held abort takes it (R174, R202). -/
def State.holdCmd (s : State) (m c sid : Nat) (raw : BitVec 512) : State :=
  let x := s.strmAt sid
  let ab := x.abortHeld
  let k := { CmdCtx.fresh raw with
    recQueue := x.queue
    aborted := ab
    unknown := ab
    stage := if ab then .done else .raw }
  let s1 := s.setStrmAt sid { x with cmd := some k, abortHeld := false, ntile := 0 }
  (if ab then s1.unpin sid else s1).modCh m c fun h =>
    { h with ph := if ab then .done else .decoded, tile := 0, got := [], slot := none, xl := [], bad := false,
             dflt := none }

/-- The stream holds the command just read, and its decode starts. -/
def State.takeCmd (s : State) (m c sid : Nat) (raw : BitVec 512) : State × Going :=
  let s1 := s.holdCmd m c sid raw
  if (s1.ch m c).ph = .done then (s1, .on) else s1.decode1 m c sid

/-- Read the whole slot table for a step boundary (R135): four bursts of 2 KiB. A batched stream has no prefetch window
of its own: the slots' reservations take its place (R133, R168). -/
def State.readSlots (s : State) (m c sid sltab : Nat) : State × Going :=
  let s0 := (s.freeWindow m c (s.strmAt sid).part.toNat).modCh m c fun h => { h with win := 0, pfst := 2 }
  let (s1, g) := s0.makeOr m c ((List.range 4).map fun i =>
    s.chanAcc m c sid .slotTable false (sltab + 2048 * i) 2048) (s.strmAt sid).ntile.toNat
  (s1.modCh m c fun h => { h with ph := .slots, got := [] }, g)

/-- The next command of a persistent stream: from the cache, or by a read of its pair (R166). -/
def State.fetchProgram (s0 : State) (m c sid i : Nat) (hit : BitVec 512 → State → State × Going) : State × Going :=
  let x := s0.strmAt sid
  let p := x.part.toNat
  let s := s0.shedCopy p x.ten x.tgen (pairAddr x i) m sid
  match s.cached p x.ten x.tgen (pairAddr x i) with
  | some d => hit (pairCmd d i) (s.cacheUse p x.ten x.tgen (pairAddr x i))
  | none =>
    let (s1, g) := s.makeOr m c [s.chanAcc m c sid .program false (pairAddr x i) 128] 0
    (s1.modCh m c fun h => { h with ph := .fetch }, g)

/-- A LOOP that names a slot table (R133, R149). -/
def loopBat (raw : BitVec 512) : Option Nat :=
  if cOpc raw = 0x11 ∧ cb raw 12 0 = true ∧ cf raw 16 0 48 % 4096 = 0 then some (cf raw 16 0 48) else none

/-- Read the stream's next command, or the first step boundary's LOOP before it (R133, R159, R166). A queue stream with
no readable slot, and a stream without commands, answer `out`. -/
def State.fetchNext (s : State) (m c sid : Nat) : State × Going :=
  let x := s.strmAt sid
  if x.pers then
    let now := fun (raw : BitVec 512) (t : State) => t.takeCmd m c sid raw
    let cmd := fun (t : State) => t.fetchProgram m c sid (t.strmAt sid).pc.toNat now
    if x.ran || x.abortHeld then cmd s
    else s.fetchProgram m c sid (x.plen.toNat - 1) fun raw t =>
      match loopBat raw with
      | some a => t.readSlots m c sid a
      | none => cmd (t.modStrmAt sid fun y => { y with ran := true })
  else if s.readable sid then
    let q := s.sq sid
    let (s1, g) := s.makeOr m c [s.chanAcc m c sid .ring false (q.base.toNat * 4096 + 64 * q.head.toNat) 64] 0
    (s1.modCh m c fun h => { h with ph := .fetch }, g)
  else (s, .out)

/-! ### Ecnos streams (R44, R177, R190) -/

/-- An Ecnos channel's stream (R161). -/
def isEcn (sid : Nat) : Bool := decide (1024 ≤ sid ∧ sid < 1088)

/-- The report of a fault of a chain at a physical address (R192). -/
def State.ecnRec (s : State) (m c sid code kind va : Nat) : FRec :=
  { faultOf (s.strmAt sid) sid m c code kind with vav := true, va := BitVec.ofNat 48 va }

/-- Read the chain's next descriptor, which must be aligned and lie in the partition's range; else the report of the
breach. -/
def State.ecnFetch (s : State) (m c sid : Nat) : State × Option FRec :=
  let n := sid - 1024
  let p := n / 8
  let a := (s.ecnCh n).next.toNat
  let s1 := (s.modEcnCh n fun e => { e with cur := e.next }).modCh m c fun h => { h with ph := .ecnFetch }
  if a % 32 ≠ 0 then (s1, some (s1.ecnRec m c sid fltAlign 2 a))
  else if s.ecnOk p a 32 then
    (s1.pushPhys { s1.chanAcc m c sid (.ecnos 0) false a 32 with va := a } (s.part p).ecnAttr.toNat, none)
  else (s1, some (s1.ecnRec m c sid 0x15 2 a))

/-- A chain ends: with ERR, its code and a fault record, or with DONE (R177). The stream is EMPTY again. -/
def State.ecnEnd (s : State) (sid : Nat) (f : Option FRec) : State :=
  let n := sid - 1024
  let s1 := ((s.modEcnCh n fun e => match f with
    | some r => { e with busy := false, abort := false, err := true, fcode := r.fcode }
    | none => { e with busy := false, abort := false, done := true }).setStrmAt sid Strm.reset).refreshActive
      (s.strmAt sid).ten.toNat
  match f with
  | some r => s1.pushFault r.part.toNat r
  | none => s1

/-! ### Running (R165) -/

/-- The command the stream holds, or its next one, on a channel it has just been given. -/
def State.begin (s : State) (m c sid : Nat) : State × Going :=
  let x := s.strmAt sid
  match x.recStop with
  | some (frozen, f) => (s, .stop { frozen := frozen, stopAt := .record, ntile := x.ntile, bus := !frozen, frec := f })
  | none =>
  if s.waitOver x = false then (s, .park)
  else if x.stopAt = .recordArmed then (s, .out)
  else
  match x.cmd with
  | none => s.fetchNext m c sid
  | some k =>
    if x.abortHeld && k.stage != .done && !k.spared then
      (((s.setStrmAt sid { x with
          abortHeld := false
          arrd := false
          cmd := some { k with
            aborted := true
            stage := .done
            unknown := k.unknown || k.undecoded } }).unpin sid).modCh m c fun h =>
        { h with ph := .done }, .on)
    else
      let s1 := s.modCh m c fun h => { h with
        ph := if k.stage = .done then .done else .decoded
        lfsr := if k.stage = .tiles ∨ k.stage = .readBack then x.lfsr else h.lfsr
        dflt := none }
      if k.stage = .raw then s1.decode1 m c sid else (s1, .on)

/-- A tenant enters the suspect list of a Mover (R356). -/
def Mover.suspect (v : Mover) (t : BitVec 8) : Mover :=
  if v.froz || v.susp.contains t then v
  else if v.susp.length ≥ 64 then { v with sovf := true }
  else { v with susp := v.susp ++ [t] }

/-- Put a stream in the active set of a channel that has none: RUNNING, its window taken, its command begun. Homed
streams of the channel wait. -/
def State.startStream (s : State) (m c sid : Nat) : State :=
  let t := (s.strmAt sid).ten.toNat
  let s1 := { (s.setSt sid .running (s.strmAt sid).wait).modTen t fun x => { x with placed := s.seq } with seq := s.seq + 1 }
  let s2 := (s1.modCh m c fun h => { h with
    act := some sid, shadow := none, run := 0, ph := .idle, stop := none, abort := false }).takeWindow m c sid
  let s3 := s2.modMover m fun v => { v with gated := false }.suspect (s.strmAt sid).ten
  let s4 := ((s3.strms.filter fun (k, x) =>
    k ≠ sid && x.st == .ready && x.hen && x.hmv.toNat == m && x.hch.toNat == c).map (·.1)).foldl
    (fun st k => st.setWait k .home) s3
  if isEcn sid then
    match s4.ecnFetch m c sid with
    | (s5, none) => s5
    | (s5, some f) => (s5.leaveOnly m c).ecnEnd sid (some f)
  else
    match s4.begin m c sid with
    | (s5, .on) => s5
    | (s5, .out) => ((s5.makeArmed sid).leaveOnly m c).wakeHome m c
    | (s5, .park) => ((s5.setWait sid (s5.strmAt sid).wait).leaveOnly m c).wakeHome m c
    | (s5, .stop x) => (s5.applyStop m c sid x).wakeHome m c

/-- The active stream, already in its new state, leaves; the shadow stream becomes RUNNING (R165). -/
def State.leave (s : State) (m c : Nat) : State :=
  let s1 := s.leaveOnly m c
  match (s1.ch m c).shadow with
  | some sid => s1.startStream m c sid
  | none => s1.wakeHome m c

/-- Stop and swap. -/
def State.stopNow (s : State) (m c sid : Nat) (x : Stop) : State :=
  let s1 := s.applyStop m c sid x
  match (s1.ch m c).shadow with
  | some n => s1.startStream m c n
  | none => s1.wakeHome m c

/-- Writes of the channel that have no response, and remote requests without an answer; of the writes to the spill area,
those that have been issued (R208). The record of a stream that has left is written behind it. -/
def State.writesOut (s : State) (m c : Nat) : Bool :=
  (s.acc.any fun a => a.rq == .mover m && a.ch == c && a.wr && a.kind != .glacWrite
    && (if isSpillWrite a.kind then inFlight a else !a.drain))
  || (s.peer.rem.any fun r => r.mv == m && r.ch == c && r.sent)

/-- A stop under way takes effect once every write has its response (R194, R198). -/
def State.finishStop (s : State) (m c : Nat) : State :=
  match (s.ch m c).act, (s.ch m c).stop with
  | some sid, some x => if s.writesOut m c then s else s.stopNow m c sid x
  | _, _ => s

/-- A bus error that arrives while a stop is under way: it takes the place of a translation fault, and of a stop at a
later tile; of the errors of one tile the first stays, and the others are counted (R198, R199). -/
def Stop.meet (o x : Stop) : Stop :=
  if !x.bus then o
  else if o.bus then (if x.ntile < o.ntile then { x with more := true } else { o with more := true })
  else if o.frozen || decide (x.ntile < o.ntile) then x
  else o

/-- Reads of the channel whose data are discarded from now on: a further error of their tile still counts (R199). -/
def State.lateReads (s : State) (m c : Nat) : State :=
  { s with acc := s.acc.map fun a =>
      if ofChan m c a && !a.wr && !a.drain && (match a.kind with
        | .source _ | .list _ | .ecnos _ => true
        | _ => false) then { a with after := true } else a }

/-- A stop is due: no further burst is issued, and reads under way are discarded. -/
def State.beginStop (s : State) (m c : Nat) (x : Stop) : State :=
  let y := match (s.ch m c).stop with
    | none => x
    | some o => o.meet x
  let s1 := s.modCh m c fun h => { h with stop := some y, slot := none, got := [], xl := [], inB := 0, outB := 0 }
  ((s1.lateReads m c).dropChan m c y.ntile.toNat).finishStop m c

end Sys2Proof.Machine
end

