-- ==== Sys2Proof/Machine/Complete.lean ====
section
/-! DEFINITION. Completion (R170 to R174): the record and its hand-off to the record writer (R160), faults on records
(R202), the attached signal, the stream's position, and the command boundary (R257, R258). -/

namespace Sys2Proof.Machine

/-! ### Records that fault (R202) -/

/-- Drop a stream from the shadow sets and the loads under way (R165). -/
def State.dropShadow (s : State) (sid : Nat) : State :=
  { s with chans := (s.chans.map fun (k, h) => (k, { h with
      shadow := if h.shadow = some sid then none else h.shadow
      loading := if h.loading = some sid then none else h.loading })).filter fun e => e.2 ≠ Chan.reset }

/-- A record's write has faulted or erred: a stream off the channels stops at once, a running one at its boundary. -/
def State.recordFault (s : State) (sid : Nat) (frozen : Bool) (f : FRec) : State :=
  let x := s.strmAt sid
  match x.st with
  | .armed | .ready | .waiting =>
    let s1 := s.modStrmAt sid fun y => { y with
      recStop := some (frozen, f)
      stopAt := if (x.st = .armed ∧ x.pers = true) ∨ x.stopAt = .recordArmed then .recordArmed else .record }
    ((s1.setSt sid (if frozen then .frozen else .halted) x.wait).dropShadow sid).pushFault f.part.toNat f
  | .running | .frozen | .halted =>
    s.modStrmAt sid fun y => { y with recStop := y.recStop.or (some (frozen, f)) }
  | .empty | .quarantined => s

/-- A translation fault on a record's write. -/
def State.recordXlat (s : State) (f : Access × Nat × Nat) : State :=
  match f.1.mv with
  | some m => s.recordFault f.1.sid true (s.xlatRec m f.1.ch f.1 f.2.1 f.2.2 0)
  | none => s

/-! ### Hand-off (R160) -/

/-- A record of the stream waits until its faulted record has been written or dropped (R202), and behind the stream's
records that were handed off before it and are still held (R160, R170). -/
def State.recBlocked (s : State) (r : CqRec) : Bool :=
  (s.strmAt r.sid).recStop.isSome
  || s.cqs.any fun (_, q) => q.held.any fun h => h.sid == r.sid && decide (h.ord < r.ord)

/-- Give a record the next slot and issue its write. -/
def State.placeRecord (s : State) (c : Nat) (r : CqRec) : Option State :=
  match s.giveSlot c r with
  | none => none
  | some (s1, none) => some s1
  | some (s1, some f) => some (s1.recordXlat f)

/-- Held records take the slots that are free, in the order of their hand-off. -/
def State.pumpHeld (s : State) (c : Nat) : List CqRec → State
  | [] => s
  | r :: t =>
    if s.recBlocked r then s.pumpHeld c t
    else
      match (s.modCq c fun q => { q with held := q.held.erase r }).placeRecord c r with
      | none => s
      | some s1 =>
        let s2 := if (s1.strmAt r.sid).wait = .cqFull ∧ s1.hasHeld r.sid = false then s1.makeReady r.sid else s1
        s2.pumpHeld c t

/-- The held records of every queue, which a record of the same stream has let pass; `fuel` bounds the rounds. -/
def State.pumpAll (s : State) : Nat → State
  | 0 => s
  | fuel + 1 => (s.cqs.foldl (fun st e => st.pumpHeld e.1 (st.cq e.1).held) s).pumpAll fuel

/-- After a slot of queue c has become free; a stream's records held elsewhere follow in stream order. -/
def State.pumpCq (s : State) (c : Nat) : State :=
  let s1 := s.pumpHeld c (s.cq c).held
  s1.pumpAll (s1.cqs.map fun e => e.2.held.length).sum

/-- Hand a record off: it takes a slot, or is held. -/
def State.handOff (s : State) (r : CqRec) : State :=
  let c := (s.sq r.queue.toNat).cq.toNat
  let hold := { s.modCq c fun q => { q with held := q.held ++ [r] } with seq := s.seq + 1 }
  if s.recBlocked r || (s.cq c).held.any fun h => !s.recBlocked h then hold
  else (s.placeRecord c r).getD hold

/-! ### The record's content (R170 to R173) -/

/-- Bytes with an OKAY response, over all tiles. -/
def CmdCtx.okBytes (k : CmdCtx) : Nat := (k.ok.map (·.2)).sum

/-- RESIDUE (R172). -/
def residueOf (x : Strm) (k : CmdCtx) : Nat :=
  if k.unknown then 2 ^ 48 - 1
  else if isData k.raw && (k.aborted || k.skipped || k.parity) then (geoOf x k).totalBytes - k.okBytes
  else 0

/-- OOBC (R130). -/
def oobcOf (x : Strm) (k : CmdCtx) : Nat :=
  let g := geoOf x k
  if isData k.raw && (g.gather || g.scatter) then (k.idx.filter fun e => entryOob g.table g.imask e.2).length else 0

/-- A record is written (R171). -/
def recordDue (x : Strm) (k : CmdCtx) : Bool := !x.pers || cCrec k.raw || statusOf k != stOk || k.endArm

/-- PFST (R133, R175): of a slot's run, where its reservation lies; of any other command, the channel's window. -/
def State.pfstOf (s : State) (m c : Nat) (x : Strm) (k : CmdCtx) : Nat :=
  match k.slot with
  | none => (s.ch m c).pfst.toNat
  | some n => match ((x.slots.find n).getD { st := 0, rsv := 0, soff := 0, doff := 0, ord := 0, units := [] }).st.toNat with
    | 1 => 0
    | 2 => 1
    | _ => 2

/-- The record of the command that a stream on a channel has completed. -/
def State.cqRecord (s : State) (m c sid : Nat) (k : CmdCtx) : CqRec :=
  let x := s.strmAt sid
  let loop := cOpc k.raw == 17 && !k.refused
  let k1 := if k.pass = 0 then { k with pass := x.pass } else k
  let x1 := if x.pers && loop then { x with pc := BitVec.ofNat 6 (x.plen.toNat - 1) } else x
  { bits := recordBits k1 x1 sid (s.pfstOf m c x k) (residueOf x k) (oobcOf x k)
    sid := sid
    mv := m
    ch := c
    queue := k.recQueue
    irq := cIen k.raw || k.aborted
    outst := !x.pers
    ord := s.seq }

/-! ### Firn tables at completion (R107, R109) -/

/-- A TABLE LOAD's slot becomes the tenant's current generation; a released generation's slot without owner is freed, if
it still holds that generation. -/
def State.tableDone (s : State) (sid : Nat) (k : CmdCtx) : State :=
  match k.tslot with
  | none => s
  | some n =>
    let x := s.strmAt sid
    let p := x.part.toNat
    if cb k.raw 8 0 then
      if ((s.part p).ftab.get FSlot.reset n).gen.toNat ≠ cf k.raw 9 0 8 then s
      else
        (s.modPart p fun y =>
          let f := { y.ftab.get FSlot.reset n with taken := false }.tidy
          { y with ftab := y.ftab.put FSlot.reset n f }).wakeUp
    else
      (s.modPart p fun y =>
        let old : SMap FSlot := (y.ftab.map fun (i, f) =>
          (i, if f.current && f.ten == x.ten then { f with current := false }.tidy else f)).filter fun e =>
            e.2 ≠ FSlot.reset
        { y with ftab := old.put FSlot.reset n { old.get FSlot.reset n with taken := false, current := true } }).wakeUp

/-! ### Slots of a batched step (R133, R211) -/

/-- The next run of a data command in its step, or none. Its damaged blocks are counted and reported anew (log 107). -/
def nextRun (x : Strm) (k : CmdCtx) : Option CmdCtx :=
  match k.slot with
  | none => none
  | some n =>
    if k.aborted then none
    else (nextSlot x (n + 1)).map fun j =>
      { CmdCtx.fresh k.raw with
        stage := if k.got = [] then .raw else .copies
        got := k.got
        slot := some j
        recQueue := k.recQueue
        noSig := k.noSig || k.refused }

/-! ### The boundary (R165, R174, R257, R258) -/

/-- A stream eligible for channel c of Mover m waits: READY and chosen or to be chosen for it, or homed on it. -/
def State.waiter (s : State) (m c : Nat) : Bool :=
  (s.ch m c).shadow.isSome || s.strms.any fun (k, x) =>
    x.part.toNat == s.partOf m && (s.ch m c).act != some k && !s.tenFenced x.ten && !s.soloBars m x.ten &&
    (if x.hen then x.hmv.toNat == m && x.hch.toNat == c && (x.st == .ready || (x.st == .waiting && x.wait == .home))
     else x.st == .ready
       && !(s.chans.any fun e => e.1 != 4 * m + c && (e.2.shadow == some k || e.2.loading == some k)))

/-- A stream leaves its channel at the boundary for another cause than its quantum: SOLO mode, an online test, a drain
for RETAIN (R357, R372, R382). -/
def State.mustLeave (s : State) (m sid : Nat) : Bool :=
  s.soloBars m (s.strmAt sid).ten || (s.mover m).phase != 0 || s.pwr.state == 3

/-- What an attempt to go on leaves of the channel: the stream runs on, or leaves for ARMED, WAITING, FROZEN or
HALTED. -/
def State.goOn (m c sid : Nat) : State × Going → State
  | (s, .on) => s
  | (s, .out) => (s.makeArmed sid).leave m c
  | (s, .park) => (s.setWait sid (s.strmAt sid).wait).leave m c
  | (s, .stop x) => s.stopNow m c sid x

/-- At a boundary: a record that faulted, a wait, a held record, the abort of the next command, eviction, and the next
command. -/
def State.boundary (s : State) (m c sid : Nat) : State :=
  let x := s.strmAt sid
  match x.recStop with
  | some (fz, f) =>
    s.stopNow m c sid { frozen := fz, stopAt := .record, ntile := 0, bus := !fz, frec := f }
  | none =>
    if s.waitOver x = false then (s.setSt sid .waiting x.wait).leave m c
    else if s.hasHeld sid then (s.setSt sid .waiting .cqFull).leave m c
    else if !x.abortHeld && (s.mustLeave m sid
        || (decide ((s.part x.part.toNat).quantum.toNat ≤ (s.ch m c).run) && s.waiter m c)) then
      (s.makeReady sid).leave m c
    else
      State.goOn m c sid ((s.modStrmAt sid fun y => { y with wait := .none }).begin m c sid)

/-- The arming of a persistent stream ends: ARMED, or, after a fault on a record or a double entry, once that is
over. -/
def State.endArming (s : State) (m c sid : Nat) : State :=
  let s0 := s.unpin sid
  let x := s0.strmAt sid
  match x.recStop with
  | some (fz, f) =>
    s0.stopNow m c sid { frozen := fz, stopAt := .recordArmed, ntile := 0, bus := !fz, frec := f }
  | none =>
    if s0.waitOver x = false then
      (((s0.setSt sid .waiting x.wait).modStrmAt sid fun y => { y with stopAt := .recordArmed })).leave m c
    else ((s0.modStrmAt sid fun y => { y with wait := .none }).makeArmed sid).leave m c

/-- PC after a command: LOOP, and the last place of the program, lead to 0. -/
def pcAfter (x : Strm) (k : CmdCtx) : BitVec 6 :=
  if (cOpc k.raw == 17 && !k.refused) || decide (x.plen.toNat ≤ x.pc.toNat + 1) then 0 else x.pc + 1

/-- The completion phase (R310) of the command of stream sid on its channel. -/
def State.completeCmd (s : State) (m c sid : Nat) (k : CmdCtx) : State :=
  let x := s.strmAt sid
  let s1 := if recordDue x k then s.handOff (s.cqRecord m c sid k) else s
  let s2 := s1.tableDone sid k
  let next := nextRun x k
  let quiet := k.sigDone || k.aborted || k.refused || k.noSig || next.isSome
  let s3 := if quiet then s2 else s2.applySignal m c sid k.raw
  match next with
  | some j =>
    let ab := x.abortHeld
    let j' := if ab then { j with aborted := true, stage := .done, unknown := j.undecoded } else j
    let s4 := (s3.modStrmAt sid fun y => { y with cmd := some j', ntile := 0, abortHeld := false }).modCh m c fun h =>
      { h with ph := if ab then .done else .decoded, tile := 0, got := [], slot := none, xl := [], bad := false }
    if j'.stage = .raw then State.goOn m c sid (s4.decode1 m c sid) else s4
  | none =>
    if x.pers && (k.aborted || k.toArmed) then
      (s3.modStrmAt sid fun y => { y with cmd := none, ntile := 0, arrd := false }).endArming m c sid
    else
      (s3.modStrmAt sid fun y => { y with
        cmd := none
        ntile := 0
        arrd := false
        pc := if x.pers then pcAfter x k else x.pc }).boundary m c sid

/-- COMMAND_COMPLETE on channel c of Mover m, for a command all of whose effects are done. -/
def State.completeOp (s : State) (m c : Nat) : State :=
  let h := s.ch m c
  match h.act with
  | none => s
  | some sid =>
    match (s.strmAt sid).cmd with
    | none => s
    | some k => if h.ph = .done ∧ h.stop = none ∧ s.writesOut m c = false then s.completeCmd m c sid k else s

end Sys2Proof.Machine
end

