-- ==== Sys2Proof/Machine/Run.lean ====
section
/-! DEFINITION. Running a data command: its tiles one after another (R60 to R64), list reads (R126, R131), source reads,
the coalescer (R128), STRM sources (R433 to R435), remote transfers (R292, R295), forming a tile (R47), issuing its
writes (R309), the stops of R194 and R198, and the read-back (R170). -/

namespace Sys2Proof.Machine

/-! ### Stops inside the tiles -/

/-- A stop at tile n with the given report. -/
def tileStop (frozen bus : Bool) (n : Nat) (f : FRec) : Stop :=
  { frozen := frozen, stopAt := .tile, ntile := BitVec.ofNat 40 n, bus := bus,
    frec := { f with ntile := BitVec.ofNat 40 n } }

/-- The stop of a translation fault on an access of a tile (R194). -/
def State.tileXlat (s : State) (m c n : Nat) (f : Access × Nat × Nat) : Stop :=
  tileStop true false n (s.xlatRec m c f.1 f.2.1 f.2.2 n)

/-- FLT_NEAR_BOUND at a near address (R189, R193). -/
def State.nearStop (s : State) (m c sid n : Nat) (dst : Bool) (a : Nat) : Stop :=
  tileStop false false n { faultOf (s.strmAt sid) sid m c 0x14 (if dst then 1 else 0) with
    dir := dst, pav := true, pa := BitVec.ofNat 48 a }

/-- FLT_INDEX_OOB at an entry (R131). -/
def State.oobStop (s : State) (m c sid n e addr : Nat) : Stop :=
  tileStop false false n { faultOf (s.strmAt sid) sid m c 0x28 3 with
    vav := true, va := BitVec.ofNat 48 addr, aux := BitVec.ofNat 24 e }

/-- A damaged Firn block's report (R99, R100). -/
def State.firnRec (s : State) (m c sid : Nat) (near : Bool) (addr code : Nat) : FRec :=
  { faultOf (s.strmAt sid) sid m c code 0 with
    vav := !near, va := if near then 0 else BitVec.ofNat 48 addr,
    pav := near, pa := if near then BitVec.ofNat 48 addr else 0 }

/-! ### Bus errors (R198 to R200) -/


/-- FLT_BUS_READ or FLT_BUS_WRITE. -/
def busCode (wr : Bool) : Nat := if wr then 0x21 else 0x20

/-- The report of a bus error on an access (R192). -/
def State.busRec (s : State) (m c : Nat) (a : Access) (code resp ntile : Nat) : FRec :=
  { faultOf (s.strmAt a.sid) a.sid m c code (kindOf a.kind) with
    part := BitVec.ofNat 3 a.part, dir := dirOf a.kind, pav := true, pa := BitVec.ofNat 48 a.pa,
    vav := a.space == 0 && !a.phys, va := if a.space = 0 ∧ a.phys = false then BitVec.ofNat 48 a.lowVa else 0,
    resp := BitVec.ofNat 8 resp, ntile := BitVec.ofNat 40 ntile }

/-- A bus error on an access, as it is latched. -/
def busErrOf (a : Access) (resp : Nat) : BusErr :=
  { dir := dirOf a.kind, walk := false, resp := resp, kind := kindOf a.kind, va := if a.space = 0 then a.lowVa else 0,
    pa := a.pa }

/-- The halt of a bus error on an access, at its tile, at the end of the tiles for a read-back, else before the command
(R202). -/
def State.busStop (s : State) (m c : Nat) (a : Access) (code resp : Nat) : Stop :=
  let n := (tileOf a.kind).getD (if a.kind = .readBack then (s.ch m c).tile else 0)
  { frozen := false, stopAt := stopOf a.kind, ntile := BitVec.ofNat 40 n, bus := true, frec := s.busRec m c a code resp n,
    err := some (busErrOf a resp) }

/-- A bus error on an access of a channel: the channel halts. -/
def State.busError (s : State) (m c : Nat) (a : Access) (code resp : Nat) : State :=
  s.beginStop m c (s.busStop m c a code resp)

/-- An error on a read whose data are discarded, its channel stopping or stopped at the read's tile (R199). -/
def State.lateRead (s : State) (m : Nat) (a : Access) (resp : Nat) : State :=
  let h := s.ch m a.ch
  if a.after && h.stop.isSome && h.act == some a.sid then s.busError m a.ch a (busCode false) resp
  else if a.after then s.lateErr m a.ch
  else s

/-! ### Geometry and casting of the command -/

/-- A STRM source as a dense tensor of its rows at address 0 (R431, R433). -/
def strmGeo (g : Geo) : Geo :=
  let w := fmtWidth g.sd.fmt / 8
  let d0 := g.sd.dim 0
  let d1 := g.sd.dim 1
  { g with sd := { g.sd with base := 0, dims := [{ d0 with stride := w }, { d1 with stride := (d0.extent * w : Nat) }] } }

/-- The geometry under which the stream's tiles are formed. -/
def runGeo (x : Strm) (k : CmdCtx) : Geo := if k.td.isSome then strmGeo (geoOf x k) else geoOf x k

/-- Generation and curve that a stream pins. -/
def State.pinOf (s : State) (x : Strm) : Option (Nat × Nat) :=
  if x.fgenp = 0 then none
  else ((s.part x.part.toNat).ftab.find? fun e => e.2.gen == x.fgenp).map fun e => (e.2.gen.toNat, e.2.curve.toNat)

/-- The fields that casting uses (R72, R77). -/
def State.xformOf (s : State) (x : Strm) (k : CmdCtx) (g : Geo) : Xform :=
  let c := k.raw
  { cast := { src := g.sd.fmt, dst := g.dd.fmt, rnd := cRnd c, sat := cSat c, aff := cAff c != 0 }
    aff := cAff c
    scale := decodeNum 14 (cScale c)
    zero := cZero c
    sctab := k.copy 5
    scoff := cScoff c
    scdim := cScdim c
    pin := s.pinOf x
    fmode := cFmode c }

/-- Take or move the stream's pin at the start of a command with Firn (R110). -/
def State.takePin (s : State) (sid : Nat) (c : BitVec 512) : State :=
  let x := s.strmAt sid
  let p := x.part.toNat
  let slot := if cFgen c = 0 then (if x.fgenp = 0 then s.curSlot p x.ten else none)
    else if x.fgenp.toNat = cFgen c then none else s.genSlot p x.ten (cFgen c)
  match slot with
  | none => s
  | some n =>
    let f := (s.part p).ftab.get FSlot.reset n
    let s1 := (s.modPart p fun y => { y with ftab := y.ftab.put FSlot.reset n { f with pins := f.pins + 1 } }).unpin sid
    s1.modStrmAt sid fun y => { y with fgenp := f.gen }

/-! ### STRM (R431, R434) -/

/-- Pixels of a line, and whether a last group was incomplete. -/
def unpack (pack : Nat) (l : List Byte) : List Nat × Bool :=
  let n := match pack with
    | 0 => 1
    | 1 => 2
    | 2 => 5
    | _ => 3
  let groups := (List.range (l.length / n)).map fun i => ((l.drop (n * i)).take n).map BitVec.toNat
  let px := fun (g : List Nat) =>
    let b := fun i => g.getD i 0
    match pack with
    | 0 => [b 0]
    | 1 => [b 0 + 256 * b 1]
    | 2 => (List.range 4).map fun k => b k * 4 + fld (b 4) (2 * k) 2
    | _ => [b 0 * 16 + b 2 % 16, b 1 * 16 + b 2 / 16]
  ((groups.map px).flatten, l.length % n != 0)

/-- Discard buffered beats up to the next start of frame. Once one of them was a pixel beat, FERR has risen (R434). -/
def StrmP.discard (q : StrmP) : StrmP :=
  let gone := q.buf.takeWhile fun b => !b.user
  let px := gone.any fun b => b.data != []
  { q with
    buf := q.buf.drop gone.length
    ferr := if px && !q.curBad then satInc q.ferr else q.ferr
    curBad := q.curBad || px
    skip := decide (q.buf.length = gone.length) }

/-- Take beats into rows until `need` rows are complete: the rows, and whether a new frame cut this one short. -/
def StrmP.pull (q : StrmP) (width need : Nat) : List Beat → StrmP × Bool
  | [] => ({ q with buf := [] }, false)
  | b :: t =>
    if need ≤ q.rows.length then ({ q with buf := b :: t }, false)
    else if !q.inFrame && !b.user then q.pull width need t
    else if q.inFrame && b.user then ({ q with buf := b :: t, ferr := satInc q.ferr }, true)
    else
      let cur := q.cur ++ b.data
      if b.last || b.bad then
        let (px, part) := unpack q.pack.toNat cur
        let wrong := part || b.bad || px.length != width
        { q with
          inFrame := true
          rows := q.rows ++ [px.take width]
          cur := []
          lerr := if wrong then satInc q.lerr else q.lerr }.pull width need t
      else { q with inFrame := true, cur := cur }.pull width need t

/-- The channel takes beats for `need` rows of a frame of `height` lines; behind the last line, once, the beats up to the
next frame are discarded. -/
def State.strmPull (s : State) (sid d width height need : Nat) : State :=
  let q := s.strmP d
  let (q1, cut) := q.pull width need q.buf
  let last := decide (q.rows.length < height ∧ height ≤ q1.rows.length)
  let q2 := if !cut && last then { q1 with skip := true, curBad := false }.discard else q1
  let s1 := s.setStrmP d q2
  if cut then s1.modCmd sid fun k => { k with strmEnd := true } else s1

/-- The frame is over for the command: nothing of it is kept. -/
def State.strmDone (s : State) (k : CmdCtx) : State :=
  match k.td with
  | none => s
  | some d =>
    s.modStrmP d fun q =>
      let whole := q.skip || k.strmEnd
      let q1 := { q with
        ferr := if k.fill then satInc q.ferr else q.ferr
        inFrame := false, rows := [], cur := [] }
      if whole then q1 else { q1 with skip := true, curBad := true }.discard

/-- Source bytes of row i of a frame: its pixels, and FILL for the rest. -/
def rowBytes (sd : Desc) (rows : List (List Nat)) (fill : Bool) (i : Nat) : List Byte :=
  let w := fmtWidth sd.fmt / 8
  let px := if fill then [] else rows.getD i []
  (((List.range (sd.dim 0).extent).map fun j => toLE w (px.getD j sd.fill))).flatten

/-! ### The coalescer (R128) -/

/-- Every address that the block of entry e reads. -/
def Geo.blockAddrs (g : Geo) (e : Nat) : List Nat :=
  let n := fun d => g.sd.emit d
  let cells := (List.range (n 0 * n 1 * n 2 * n 3 * n 4)).map fun i =>
    [i % n 0, i / n 0 % n 1, i / n 0 / n 1 % n 2, i / n 0 / n 1 / n 2 % n 3, i / n 0 / n 1 / n 2 / n 3]
  sortU (((cells.map (g.srcEl e)).filter (·.inb)).map g.srcAddrs).flatten

/-- Footprint of addresses, in whole port beats. -/
def footprint (beat : Nat) (as : List Nat) : Nat := beat * (beatsOf beat as).length

/-- The most recently fetched blocks that fit. -/
def fitCoal (room : Nat) : List CBlock → List CBlock
  | [] => []
  | e :: t => let n := (e.runs.map fun r => r.2.length).sum
    if n ≤ room then e :: fitCoal (room - n) t else []

/-- Beat of a side's port. -/
def beatSize (near : Bool) : Nat := if near then 128 else 64
/-- Longest burst of a side's port, in beats (R262, R422). -/
def maxBeats (near : Bool) : Nat := if near then 8 else 32

/-- Every byte of a range of addresses lies in the runs. -/
def inRuns (runs : List (Nat × List Byte)) (lo n : Nat) : Bool :=
  runs.any fun r => decide (r.1 ≤ lo ∧ lo + n ≤ r.1 + r.2.length)

/-- The blocks whose beats a tile has fetched are held from now on, most recently fetched first: with what an earlier tile
fetched of the same block, and only where the block's footprint is at most 512 B. A block that the tile emits from
what is held (`hits`) is not renewed. -/
def coalAdd (g : Geo) (got : List (Nat × List Byte)) (es : List Nat) (hits : List (List Int))
    (held : List CBlock) : List CBlock :=
  let beat := beatSize g.sd.space
  fitCoal 8192 ((es.foldl (fun l e =>
    match g.entry e with
    | none => l
    | some key =>
      let as := g.blockAddrs e
      let old := ((l.find? fun x => x.key == key).map (·.runs)).getD []
      let bs := (beatsOf beat as).filter fun b => inRuns (old ++ got) (b * beat) beat
      if g.oob e || hits.contains key || bs == [] || decide (footprint beat as > 512) then l
      else { key := key, runs := bs.map fun b => (b * beat, (List.range beat).map fun j => gotByte (old ++ got) (b * beat + j)) }
        :: l.filter fun x => x.key != key) held).take 16)

/-! ### Remote packets (R286, R287, R292) -/

/-- Runs of consecutive numbers, at most `mx` long. -/
def runsUpTo (mx : Nat) (l : List Nat) : List (Nat × Nat) := runsOf mx 1 l |>.foldl (fun acc r =>
  match acc with
  | (b, n) :: t => if b + n = r.1 ∧ n + r.2 ≤ mx then (b, n + r.2) :: t else r :: acc
  | [] => [r]) [] |>.reverse

/-- A packet: header with its check value, then payload. -/
def packet (hdr : List (Nat × Nat)) (payload : List Byte) : List Byte :=
  let h := toLE 28 (pack hdr)
  h ++ toLE 4 (crc32c (h ++ payload)) ++ payload

/-- Header fields of a request, in the order of R286; CRC and what follows it excluded. -/
def reqHeader (type vc ffin final dchip schip mv ch ten gen ttl len rsid xseq off total nst : Nat) : List (Nat × Nat) :=
  [(3, type), (1, vc), (1, ffin), (1, final), (2, 0), (4, dchip), (4, schip), (6, mv), (2, ch), (8, ten), (8, gen),
   (4, ttl), (4, 0), (10, len), (6, 0), (21, rsid), (3, 0), (8, xseq), (48, off), (48, total), (8, nst), (4, 0), (2, 0),
   (2, 0), (16, 0)]

/-- The link that leaves a port is a dateline (R285, R297). -/
def Peer.dateline (p : Peer) (port : Nat) : Bool := if port = 0 then p.dl0 else p.dl1

/-- Queue one request of a channel: its packet, and the request that awaits an answer. -/
def State.remote (s : State) (m c sid n : Nat) (k : CmdCtx) (wr : Bool) (off len : Nat) (final : Option Nat)
    (payload : List Byte) : State :=
  let x := s.strmAt sid
  let raw := k.raw
  let pe := s.peer
  let port := pe.dirOf (cChip raw) - 1
  let vc := pe.dateline port
  let h := reqHeader (if wr then 0 else 1) (b2n vc) (b2n (cFfin raw)) (b2n final.isSome) (cChip raw) pe.chip.toNat m c
    x.ten.toNat x.tgen.toNat (pe.nchip.toNat - 1) len (cRsid raw) k.xseq.toNat off (final.getD 0) 0
  let t : TxPkt := { port := port, bytes := packet h payload, resp := false, vc := vc, owner := some (x.part.toNat, m, c),
                     issued := false, ten := x.ten, gen := x.tgen, slot := none }
  let r : RemReq := { mv := m, ch := c, port := port, wr := wr, xseq := k.xseq, off := off, len := len, tile := n,
                      sent := false }
  { s with peer := { pe with tx := pe.tx ++ [t], rem := pe.rem ++ [r] } }

/-- Remote requests of a channel that await an answer. -/
def State.remOut (s : State) (m c : Nat) : List RemReq := s.peer.rem.filter fun r => r.mv == m && r.ch == c

/-! ### The end of the tiles (R170) -/

/-- The command's effects are applied: only its completion phase is left. -/
def State.cmdDone (s : State) (m c sid : Nat) : State :=
  (s.modCmd sid fun k => { k with stage := .done }).modCh m c fun h =>
    { h with
      ph := .done, got := [], slot := none, xl := [], coal := []
      pf := h.pf.filter fun e => e.1 / 2 ^ 40 != (s.strmAt sid).pc.toNat }

/-- The read-back: one read of the beat that holds the last destination byte written. -/
def State.readBack (s : State) (m c sid : Nat) (w : Nat × Nat × Nat) : State :=
  let (space, va, pa) := w
  let s1 := (s.modCmd sid fun k => { k with stage := .readBack }).modCh m c fun h => { h with ph := .readBack }
  if space = 0 then
    match s1.makeFar { s1.chanAcc m c sid .readBack false (va / 64 * 64) 64 with permW := true } with
    | (s2, none) => s2
    | (s2, some f) => s2.beginStop m c (s2.xlatStop m c f (s2.ch m c).tile)
  else s1.pushNear (s1.chanAcc m c sid .readBack false (pa / 128 * 128) 128) (space - 1)

/-- Every tile is delivered and every write response has arrived. -/
def State.tilesDone (s : State) (m c sid : Nat) : State :=
  match (s.strmAt sid).cmd with
  | none => s
  | some k =>
    let s1 := s.strmDone k
    match k.wrote with
    | some w => if cRb k.raw && !cRwr k.raw && !cRrd k.raw then s1.readBack m c sid w else s1.cmdDone m c sid
    | none => s1.cmdDone m c sid

/-- The aborted command ends: its completion phase follows (R174). -/
def State.abortDone (s : State) (m c sid : Nat) : State :=
  match (s.strmAt sid).cmd with
  | none => s
  | some k => (((s.strmDone k).modCmd sid fun j => { j with
      aborted := true
      unknown := j.unknown || j.undecoded }).unpin sid).cmdDone m c sid

/-- After a response: a stop or an abort under way takes effect, or the tiles end, once nothing is outstanding. -/
def State.settle (s : State) (m c : Nat) : State :=
  let h := s.ch m c
  match h.act with
  | none => s
  | some sid =>
    match h.stop with
    | some _ => s.finishStop m c
    | none =>
      if h.abort then
        if s.writesOut m c then s else (s.modCh m c fun y => { y with abort := false }).abortDone m c sid
      else
        match (s.strmAt sid).cmd with
        | none => s
        | some k =>
          if h.ph = .tiles ∧ h.slot = none ∧ (runGeo (s.strmAt sid) k).tiles ≤ h.tile ∧ s.writesOut m c = false
              ∧ s.remOut m c = []
          then s.tilesDone m c sid else s

/-! ### Starting and forming a tile -/

/-- Reads of a tile that are still awaited. -/
def State.readsOut (s : State) (m c n : Nat) : Bool :=
  (s.acc.any fun a => ofChan m c a && (a.kind == .source n || a.kind == .list n))
  || (s.peer.rem.any fun r => r.mv == m && r.ch == c && !r.wr)

/-- Rows of the frame that tile n needs. -/
def Geo.rowsNeeded (g : Geo) (n : Nat) : Nat :=
  (g.tileSrc n).foldl (fun a e => if e.inb then max a (e.i.getD 1 0 + 1) else a) 0

/-- Bytes that a tile takes in and gives out at the array (R50). -/
def Geo.arrayBytes (g : Geo) (n : Nat) : Nat × Nat :=
  let ins := (g.tileSrc n).filter (·.inb)
  let keys := if g.shares then (sortU (ins.map g.keyOf)).length else ins.length
  let outs := if g.meter then 32 * (g.groups n).length
    else ceilDiv (((g.rows n).map List.length).sum * fmtWidth g.dd.fmt) 8
  (ceilDiv (keys * fmtWidth g.sd.fmt) 8, outs)

/-- Withhold tile n (R363): no byte of it is written, and its bytes join the residue. -/
def State.withhold (s : State) (m c sid n : Nat) : State :=
  let s1 := { s with
    par := { s.par with data := true }
    acc := s.acc.filter fun (a : Access) => !(ofChan m c a && a.kind == AKind.probe n) }
  (s1.modCmd sid fun k => { k with parity := true }).modCh m c fun h =>
    { h with slot := none, got := [], xl := [], bad := false, inB := 0, outB := 0 }

/-- A tile's bytes reach the slot: damaged blocks are counted, each once in a command (log 106), reported, or stop the
command (R99, R100). -/
def State.form (s : State) (m c sid n : Nat) (k : CmdCtx) (g : Geo) : State :=
  let x := s.strmAt sid
  let h := s.ch m c
  let got := match k.td with
    | none => h.got
    | some d => (List.range (g.rowsNeeded n)).map fun i =>
        (i * ((g.sd.dim 0).extent * (fmtWidth g.sd.fmt / 8)), rowBytes g.sd (s.strmP d).rows k.fill i)
  let xf := s.xformOf x k g
  let c0 : CastSt := { lfsr := h.lfsr, nanf := k.nanf, satf := k.satf }
  let f := if g.meter then g.formMeter xf (edgesOf (k.copy 6)) got c0 n else g.formTile xf got c0 n
  let fresh := f.dmg.filter fun d => !k.dmg.contains d.1
  match f.dmg, cFhalt k.raw with
  | d :: _, true => s.beginStop m c (tileStop false false n (s.firnRec m c sid g.sd.space d.1 d.2))
  | _, _ =>
    let s1 := match k.dmg, fresh with
      | [], d :: _ => s.pushFault x.part.toNat (s.firnRec m c sid g.sd.space d.1 d.2)
      | _, _ => s
    let (i, o) := g.arrayBytes n
    let coal := if g.gather && k.td.isNone then coalAdd g got (g.tileEntries n) h.hits h.coal else []
    ((s1.modCmd sid fun y => { y with
      nanf := f.cast.nanf, satf := f.cast.satf, dmg := y.dmg ++ fresh.map (·.1) }).modCh m c fun y => { y with
        slot := some { tile := n, bytes := f.bytes }, got := [], lfsr := f.cast.lfsr, coal := coal,
        inB := ceilDiv i 32, outB := ceilDiv o 32 }).pushStg m c sid n true f.bytes.length

/-- The first out-of-bounds entry of a tile. -/
def Geo.firstOob (g : Geo) (n : Nat) : Option Nat := (g.tileEntries n).find? g.oob

/-- Make accesses of tile n; the first translation fault stops the command there. -/
def State.makeTile (s : State) (m c n : Nat) (l : List Access) : State × Bool :=
  match s.makeFars l with
  | (s1, none) => (s1, true)
  | (s1, some f) => (s1.beginStop m c (s1.tileXlat m c n f), false)

/-- The destination of tile n: its far pages are translated (R63). -/
def State.probeDest (s : State) (m c sid n : Nat) (g : Geo) : State × Bool :=
  let as := sortU (g.tileAddrs n)
  if g.rwr || (g.dd.space && !g.meter) then (s, true)
  else
    let firsts := as.foldl (fun (l : List Nat) a => match l with
      | b :: _ => if b / 4096 = a / 4096 then l else a :: l
      | [] => [a]) []
    s.makeTile m c n (firsts.reverse.map fun a => s.chanAcc m c sid (.probe n) true a 1)

/-! ### The prefetch window (R133, R168, R175) -/

/-- The window that a channel's command has, in bytes, and whether it lies in the spill area: a slot's run has the
slot's reservation. -/
def State.windowOf (s : State) (m c : Nat) (x : Strm) (k : CmdCtx) : Nat × Bool :=
  let h := s.ch m c
  match k.slot with
  | none => (if h.pfst = 2 then 0 else h.win * 4096, h.pfst == 1)
  | some n =>
    match x.slots.find n with
    | none => (0, false)
    | some o => (if o.st = 1 ∨ o.st = 2 then o.rsv.toNat * 4096 else 0, o.st == 2)

/-- A read ahead for tile n, or the write of its data to the spill area. -/
def isAhead (n : Nat) : AKind → Bool
  | .prefetch k => k == n
  | .spillWrite k _ => k == n
  | _ => false

/-- Reads ahead for tile n end: those not issued are never made, and the others are discarded when they answer. -/
def State.endAhead (s : State) (m c n : Nat) : State :=
  { s with acc := (s.acc.filter fun a => !(ofChan m c a && isAhead n a.kind && !inFlight a)).map fun a =>
      if ofChan m c a && isAhead n a.kind then { a with drain := true } else a }

/-- A physical access of a stream to the spill area, for data of virtual or near address `va` (R175, R180). -/
def State.pushSpill (s : State) (a : Access) (pa : Nat) : State :=
  s.pushAcc { s.atPa a pa (s.part a.part).spillAttr.toNat with phys := true, prot := 0b011 }

/-- The number under which the window holds tile n of the stream's command at index i of its program (R168). -/
def aheadKey (i n : Nat) : Nat := i * 2 ^ 40 + n

/-- The burst in the window, if it was read ahead. -/
def heldRun (l : List PfRun) (space : Nat) (b : Nat × Nat) : Option PfRun :=
  l.find? fun r => r.space == space && r.va == b.1 && r.len == b.2

/-- Take what the window holds of tile n's bursts: data at once, spilled data by a read. The bursts still to be read: all
of them, where a parity error lies in what the window holds (R363). -/
def State.takeAhead (s0 : State) (m c sid n space : Nat) (bs : List (Nat × Nat)) : State × List (Nat × Nat) :=
  let key := aheadKey (s0.strmAt sid).pc.toNat n
  let l0 := ((s0.ch m c).pf.find key).getD []
  let bad := l0.any (·.bad)
  let s := if bad then s0.cacheParity m sid else s0
  let l := if bad then [] else l0
  let here := bs.filterMap fun b => (heldRun l space b).bind fun r =>
    if r.spill.isNone then some (r.va, r.data) else none
  let far := bs.filterMap fun b => (heldRun l space b).bind fun r => r.spill.map fun pa => (b, pa)
  let s1 := (s.endAhead m c key).modCh m c fun h => { h with got := h.got ++ here, pf := h.pf.del key }
  (far.foldl (fun st e => st.pushSpill (st.chanAcc m c sid (.source n) false e.1.1 e.1.2) e.2) s1,
    bs.filter fun b => (heldRun l space b).isNone)

/-- A tile that finds damaged blocks in the coalescer discards them: they are fetched again (R363). -/
def State.shedCoal (s : State) (m c sid n : Nat) (g : Geo) : State :=
  let keys := (g.tileEntries n).filterMap g.entry
  let hit := fun (b : CBlock) => b.bad && keys.contains b.key
  let k := ((s.ch m c).coal.filter hit).length
  if k = 0 then s
  else (s.modCh m c fun h => { h with coal := h.coal.filter fun b => !hit b }).shedCount m sid k

/-- A near address of tile n that no window allows, the source's first, and whether it is the destination's; where list
entries have not been read, the beats that rest on them are left out (R189). -/
def State.nearBad (s : State) (p n : Nat) (k : CmdCtx) (g : Geo) : Option (Bool × Nat) :=
  let bad := fun (port : Nat) (wr : Bool) (as : List Nat) =>
    ((beatsOf 128 (sortU as)).find? fun b => !s.nearOk p port (b * 128) 128 wr).map (· * 128)
  let unread := fun (e : Nat) => (g.entry e).isNone
  let src := (g.tileSrc n).filter fun e => e.inb && !(g.gather && unread e.n)
  let rd := if g.sd.space && k.td.isNone && !g.rrd then bad g.sd.nport false (src.map g.srcAddrs).flatten else none
  let wr := if g.dd.space && !g.meter && !g.rwr && !(g.scatter && (g.tileEntries n).any unread)
    then bad g.dd.nport true (g.tileAddrs n) else none
  (rd.map fun a => (false, a)).or (wr.map fun a => (true, a))

/-- Stop before tile n where a near beat of it fails the check. -/
def State.nearCheck (s : State) (m c sid n : Nat) (k : CmdCtx) (g : Geo) : State × Bool :=
  match s.nearBad (s.strmAt sid).part.toNat n k g with
  | some (dst, a) => (s.beginStop m c (s.nearStop m c sid n dst a), false)
  | none => (s, true)

/-- Source reads of tile n, its blocks held by the coalescer and the bursts read ahead excepted. -/
def State.readSource (s0 : State) (m c sid n : Nat) (k : CmdCtx) (g : Geo) : State × Bool :=
  let s := s0.shedCoal m c sid n g
  match k.td with
  | some d => (if k.fill || k.strmEnd then s
      else s.strmPull sid d (g.sd.dim 0).extent (g.sd.dim 1).extent (g.rowsNeeded n), true)
  | none =>
    let held := (s.ch m c).coal
    let hit := fun (e : SrcEl) => g.gather && held.any fun x =>
      g.entry e.n == some x.key && (g.srcAddrs e).all fun a => inRuns x.runs a 1
    let src := (g.tileSrc n).filter (·.inb)
    let of := fun (key : List Int) => src.filter fun e => g.entry e.n == some key
    let keep := (held.filter fun x => (of x.key).any hit).map (·.runs) |>.flatten
    let hits := (held.filter fun x => of x.key != [] && (of x.key).all hit).map (·.key)
    let as := sortU ((src.filter fun e => !hit e).map g.srcAddrs).flatten
    let beat := beatSize g.sd.space
    let bs := burstsOf beat (maxBeats g.sd.space) as
    let s1 := s.modCh m c fun h => { h with got := keep, hits := hits }
    if g.rrd then ((runsUpTo 512 as).foldl (fun st r => st.remote m c sid n k false r.1 r.2 none []) s1, true)
    else if g.sd.space then
      let (s2, l) := s1.takeAhead m c sid n (g.sd.nport + 1) bs
      (l.foldl (fun st b => st.pushNear (st.chanAcc m c sid (.source n) false b.1 b.2) g.sd.nport) s2, true)
    else
      let (s2, l) := s1.takeAhead m c sid n 0 bs
      s2.makeTile m c n (l.map fun b => s2.chanAcc m c sid (.source n) false b.1 b.2)

/-- Spilled data of tile n cannot be read back: it is read again from the source, without report (R168, R363). -/
def State.readAgain (s : State) (m sid n : Nat) (a : Access) : State :=
  match (s.strmAt sid).cmd with
  | none => s
  | some k =>
    let g := runGeo (s.strmAt sid) k
    let b := s.chanAcc m a.ch sid (.source n) false a.va a.len
    if g.sd.space then s.pushNear b g.sd.nport else (s.makeTile m a.ch n [b]).1

/-- Bytes of the window in use or asked for. -/
def State.windowUse (s : State) (m c : Nat) : Nat :=
  ((s.ch m c).pf.map fun e => (e.2.map (·.len)).sum).sum
  + ((s.acc.filter fun a => ofChan m c a && match a.kind with
      | .prefetch _ => true
      | .spillWrite _ _ => true
      | _ => false).map (·.len)).sum

/-- A range of addresses in one space: 0 far memory, 1 + n NEARn. -/
structure Span where
  space : Nat
  lo : Int
  hi : Int
deriving DecidableEq, Repr

/-- Two ranges share an address. -/
def Span.meets (a b : Span) : Bool := a.space == b.space && decide (a.lo ≤ b.hi ∧ b.lo ≤ a.hi)

/-- The address range of a descriptor (R22). -/
def Desc.reach (d : Desc) (dst : Bool) (imask : Nat) : List Span :=
  (d.span dst imask).toList.map fun r => { space := if d.space then d.nport + 1 else 0, lo := r.1, hi := r.2 }

/-- What a data command writes on this chip. -/
def Geo.dstReach (g : Geo) : List Span :=
  if g.rwr then []
  else if g.meter then [{ space := 0, lo := g.raddr, hi := g.raddr + 32 * g.records - 1 }]
  else g.dd.reach true (if g.scatter then g.imask else 0)

/-- The command at index i of a stream's program, with the descriptors that the caches hold of it. -/
def State.peekCmd (s : State) (x : Strm) (i : Nat) : Option CmdCtx :=
  let at' := fun a => s.cached x.part.toNat x.ten x.tgen a
  (at' (pairAddr x i)).map fun d =>
    let k := CmdCtx.fresh (pairCmd d i)
    { k with got := (needsOf k).foldl (fun (l : SMap (List Byte)) n =>
        if n.place = 2 ∨ n.place = 3 then ((at' n.addr).map (l.ins n.place)).getD l else l) [] }

/-- Later commands of a program whose source may be read ahead: from index i on, as far as the caches hold them, up to a
command that is a barrier or a LOOP; `dsts` are the destinations of the commands before them. -/
def State.aheadCmds (s : State) (sid : Nat) (x : Strm) : Nat → Nat → List Span → List (Nat × Geo)
  | 0, _, _ => []
  | fuel + 1, i, dsts =>
    if x.plen.toNat ≤ i then []
    else match s.peekCmd x i with
      | none => []
      | some k =>
        let c := k.raw
        if isData c then
          if s.place1 sid c ≠ none ∨ (k.got.find 2).isNone ∨ (cOpc c ≠ 4 ∧ (k.got.find 3).isNone)
              ∨ s.placesTo sid k 4 ≠ none then []
          else
            let g := geoOf x k
            let free := !g.gather && !g.rrd && !cDrr c && (s.tdestOf sid).isNone
              && !((g.sd.reach false 0).any fun a => dsts.any a.meets)
            (if free then [(i, g)] else []) ++ s.aheadCmds sid x fuel (i + 1) (g.dstReach ++ dsts)
        else if cOpc c = 0 ∨ cOpc c = 9 then s.aheadCmds sid x fuel (i + 1) dsts
        else []

/-- The first tile from n on of the command at index i that has not been asked for; its entries are known. -/
def Chan.nextAhead (h : Chan) (i n : Nat) (g : Geo) : Option Nat :=
  let k := (List.range h.pf.length).foldl (fun k _ => if (h.pf.find (aheadKey i k)).isSome then k + 1 else k) n
  if g.tiles ≤ k ∨ (g.gather ∧ (g.tileEntries k).any fun e => (g.entry e).isNone) then none else some k

/-- The next tile that may be read ahead, as its key, geometry and bursts, if the window has room for it: of the command
under way, or of one of the 4 commands behind it in a persistent program (R168). -/
def State.aheadTile (s : State) (m c sid : Nat) (k : CmdCtx) : Option (Nat × Geo × List (Nat × Nat)) :=
  let x := s.strmAt sid
  let h := s.ch m c
  let (cap, _) := s.windowOf m c x k
  if cap = 0 ∨ h.ph ≠ .tiles ∨ h.stop ≠ none ∨ h.abort = true then none
  else
    let g := runGeo x k
    let pc := x.pc.toNat
    let own := if g.rrd || k.td.isSome then [] else [(pc, g, h.tile + 1)]
    let later := if x.pers && k.slot.isNone then
        (s.aheadCmds sid x 4 (pc + 1) g.dstReach).map fun e => (e.1, e.2, 0) else []
    ((own ++ later).findSome? fun (i, g, n) => (h.nextAhead i n g).map fun t => (i, g, t)).bind fun (i, g, t) =>
      let as := sortU (((g.tileSrc t).filter (·.inb)).map g.srcAddrs).flatten
      let bs := burstsOf (beatSize g.sd.space) (maxBeats g.sd.space) as
      if s.windowUse m c + (bs.map (·.2)).sum ≤ cap then some (aheadKey i t, g, bs) else none

/-- The prefetcher of a channel may read a tile ahead: when it does, the spec leaves open. A read that faults is not made
(R168). -/
def State.readAhead (s : State) (m c : Nat) : State :=
  match (s.ch m c).act with
  | none => s
  | some sid =>
    if isEcn sid then s
    else match (s.strmAt sid).cmd with
      | none => s
      | some k =>
        match s.aheadTile m c sid k with
        | none => s
        | some (n, g, bs) =>
          let s0 := { s with free := s.free + 1 }
          if (Config.freeByte s.free).getLsbD 0 then
            let s1 := s0.modCh m c fun h => { h with pf := h.pf.ins n [] }
            if g.sd.space then
              (bs.filter fun b => s.nearOk (s.strmAt sid).part.toNat g.sd.nport b.1 b.2 false).foldl
                (fun st b => st.pushNear (st.chanAcc m c sid (.prefetch n) false b.1 b.2) g.sd.nport) s1
            else (s1.makeFars (bs.map fun b => s1.chanAcc m c sid (.prefetch n) false b.1 b.2)).1
          else s0

/-- Units of the spill area that a channel's command has for its window: the channel's, or those of the slot (R133). -/
def State.spillUnits (s : State) (m c : Nat) (x : Strm) (k : CmdCtx) : List Nat :=
  match k.slot with
  | none => (s.ch m c).units
  | some n => ((x.slots.find n).map (·.units)).getD []

/-- Ranges of the spill area that hold, or are to hold, a channel's read-ahead data. -/
def State.spillHeld (s : State) (m c : Nat) : List (Nat × Nat) :=
  ((s.ch m c).pf.map fun e => e.2.filterMap fun r => r.spill.map fun pa => (pa, r.len)).flatten
  ++ (s.acc.filter fun a => a.rq == .mover m && a.ch == c && a.phys && match a.kind with
      | .spillWrite _ _ | .source _ => true
      | _ => false).map fun a => (a.pa, a.len)

/-- Where a spilled burst of `len` bytes goes: within one unit of its window, clear of what the window holds; which of
these places, the spec leaves open (R175, R245; log 90). -/
def State.spillAt (s : State) (m c p len : Nat) (units : List Nat) : Option Nat :=
  let held := s.spillHeld m c
  let at' := fun (u : Nat) => (List.range ((4096 - len) / 64 + 1)).map fun j =>
    (s.part p).spillBase.toNat * 4096 + 4096 * u + 64 * j
  let ok := ((units.map at').flatten).filter fun a => held.all fun r => decide (a + len ≤ r.1 ∨ r.1 + r.2 ≤ a)
  ok[Config.spillPick s.free % ok.length]?

/-- A read ahead for tile n answers: into the window, or on to the spill area; an error is not reported, and a parity
error discards the tile's share of the window (R168, R175, R363). -/
def State.aheadRead (s : State) (m sid n : Nat) (a : Access) (data : List Byte) (r : Resp) (parity : Bool) : State :=
  match (s.strmAt sid).cmd, (s.ch m a.ch).pf.find n with
  | some k, some l =>
    if !respOk r then s
    else if parity then
      (((s.cacheParity m sid).endAhead m a.ch n)).modCh m a.ch fun h => { h with pf := h.pf.ins n [] }
    else if (s.windowOf m a.ch (s.strmAt sid) k).2 then
      match s.spillAt m a.ch a.part a.len (s.spillUnits m a.ch (s.strmAt sid) k) with
      | none => s
      | some pa =>
        { s.pushSpill { s.chanAcc m a.ch sid (.spillWrite n a.space) true a.va a.len with
            data := data, en := List.replicate a.len true } pa with free := s.free + 1 }
    else s.modCh m a.ch fun h => { h with
      pf := h.pf.ins n (l ++ [{ space := a.space, va := a.va, len := a.len, data := data, spill := none }]) }
  | _, _ => s

/-- Read-ahead data have reached the spill area. -/
def State.aheadSpilled (s : State) (m n space : Nat) (a : Access) : State :=
  match (s.ch m a.ch).pf.find n with
  | none => s
  | some l => s.modCh m a.ch fun h => { h with
      pf := h.pf.ins n (l ++ [{ space := space, va := a.va, len := a.len, data := [], spill := some a.pa }]) }

/-- Address of entry e of the list. -/
def entAddr (c : BitVec 512) (e : Nat) : Nat := cIaddr c + e * entSize (cIfmt c) (cImask c)

/-- With its list entries read, tile n has its near beats checked, reads its source and has its destination translated. -/
def State.startReads (s : State) (m c sid n : Nat) (k : CmdCtx) (g : Geo) : State × Bool :=
  match g.firstOob n, cOobf k.raw with
  | some e, true => (s.beginStop m c (s.oobStop m c sid n e (entAddr k.raw e)), false)
  | _, _ =>
    match s.nearCheck m c sid n k g with
    | (s0, false) => (s0, false)
    | (s0, true) =>
      match s0.readSource m c sid n k g with
      | (s1, false) => (s1, false)
      | (s1, true) => s1.probeDest m c sid n g

/-- List reads of the entries of tile n not read yet (R126). -/
def State.readList (s : State) (m c sid n : Nat) (k : CmdCtx) (es : List Nat) : State × Bool :=
  let z := entSize (cIfmt k.raw) (cImask k.raw)
  let as := (es.map fun e => (List.range z).map fun j => entAddr k.raw e + j).flatten
  s.makeTile m c n ((burstsOf 64 32 as).map fun b => s.chanAcc m c sid (.list n) false b.1 b.2)

/-- Whether the frame has given the rows that tile n needs. -/
def State.rowsReady (s : State) (sid n : Nat) (g : Geo) : Bool :=
  match (s.strmAt sid).cmd with
  | none => false
  | some k =>
    match k.td with
    | none => true
    | some d => k.fill || k.strmEnd || decide (g.rowsNeeded n ≤ (s.strmP d).rows.length)

/-- Tiles of a channel, or of its chain, that are still being written from their slots (R49): a write of theirs waits for
its issue or its tenure, or a packet for its sending. -/
def State.tilesHeld (s : State) (m c : Nat) : List Nat :=
  sortU ((s.acc.filterMap fun a =>
      if ofChan m c a && a.wr && a.stage != .out && !a.drain then (match a.kind with
        | .dest k | .ecnos k => some k
        | _ => none) else none)
    ++ s.peer.rem.filterMap fun r => if r.mv == m && r.ch == c && r.wr && !r.sent then some r.tile else none)

/-- Both tile slots of a channel hold tiles that are being written. -/
def State.slotsFull (s : State) (m c : Nat) : Bool := decide (2 ≤ (s.tilesHeld m c).length)

/-- Form tile n once nothing it needs is awaited and a slot is free (R49); a tile that parity has spoilt is withheld. No
element of it is cast before (log 100). Answers whether the tile has been passed over. -/
def State.tryForm (s : State) (m c sid n : Nat) : State × Bool :=
  let h := s.ch m c
  match (s.strmAt sid).cmd with
  | none => (s, false)
  | some k =>
    let g := runGeo (s.strmAt sid) k
    if h.stop ≠ none ∨ h.abort = true ∨ h.ph ≠ .tiles ∨ h.slot ≠ none ∨ s.slotsFull m c = true ∨ g.tiles ≤ n
        ∨ s.readsOut m c n = true
        ∨ s.rowsReady sid n g = false ∨ (g.tileEntries n).any (fun e => (g.entry e).isNone) = true then (s, false)
    else if h.bad then (s.withhold m c sid n, true)
    else (s.form m c sid n k g, false)

/-- Start tile n: its list entries, or its reads at once. -/
def State.beginTile (s : State) (m c sid n : Nat) : State × Bool :=
  match (s.strmAt sid).cmd with
  | none => (s, false)
  | some k =>
    let g := runGeo (s.strmAt sid) k
    let s1 := (s.modCh m c fun h => { h with
        ph := .tiles, tile := n, got := [], slot := none, xl := [], bad := false }).modStrmAt sid fun x =>
          { x with ntile := BitVec.ofNat 40 n }
    let s2 := s1.modCmd sid fun y => { y with ok := if g.rwr then y.ok else y.ok.del n }
    if g.tiles ≤ n then (s2.settle m c, false)
    else
      let es := (g.tileEntries n).filter fun e => (g.entry e).isNone
      if es ≠ [] then
        match s2.nearCheck m c sid n k g with
        | (s3, false) => (s3, false)
        | (s3, true) => ((s3.readList m c sid n k es).1, false)
      else
        match s2.startReads m c sid n k g with
        | (s3, true) => s3.tryForm m c sid n
        | (s3, false) => (s3, false)

/-- Start tiles from n on, passing over withheld ones; `fuel` bounds the tiles passed over. -/
def State.startTiles (s : State) (m c sid n : Nat) : Nat → State
  | 0 => s
  | fuel + 1 =>
    match s.beginTile m c sid n with
    | (s1, true) => s1.startTiles m c sid (n + 1) fuel
    | (s1, false) => s1

/-- Start tile n of the channel's command. -/
def State.startTile (s : State) (m c sid n : Nat) : State :=
  match (s.strmAt sid).cmd with
  | none => s
  | some k => s.startTiles m c sid n ((runGeo (s.strmAt sid) k).tiles + 1 - n + 1)

/-- Something that tile n awaited has come: form it, or go on to the next tile where it is withheld. -/
def State.advanceTile (s : State) (m c sid n : Nat) : State :=
  match s.tryForm m c sid n with
  | (s1, true) => s1.startTile m c sid (n + 1)
  | (s1, false) => s1

/-! ### Writing a tile (R62, R309) -/

/-- One write burst over the bytes to be written: whole beats, enables for exactly those bytes. -/
def State.writeBurst (s : State) (m c sid n : Nat) (g : Geo) (bytes : SMap Byte) (off : List Nat) (b : Nat × Nat) : State :=
  let near := g.dd.space && !g.meter
  let beat := beatSize near
  let as := (List.range b.2).map fun j => b.1 + j
  let a0 := { s.chanAcc m c sid (.dest n) true b.1 b.2 with
    data := as.map fun a => (bytes.find a).getD 0
    en := as.map fun a => (bytes.find a).isSome && !off.contains (a / beat) }
  if near then s.pushNear a0 g.dd.nport
  else
    let (pg, attr) := ((s.ch m c).xl.find (b.1 / 4096)).getD (0, 0)
    s.pushAcc (s.atPa a0 (pg.toNat * 4096 + b.1 % 4096) attr.toNat)

/-- WRITE packets of a tile: up to 512 B each, of the bytes that have no WACK yet (R292, R295). -/
def State.sendTile (s : State) (m c sid n : Nat) (k : CmdCtx) (g : Geo) (bytes : SMap Byte) : State :=
  let todo := (bytes.filter fun e => (k.remoteOk.find e.1).isNone).map (·.1)
  let runs := runsUpTo 512 todo
  let lastTile := !(List.range (g.tiles - (n + 1))).any fun j => g.tileBytes (n + 1 + j) != 0
  let total := g.totalBytes
  (runs.zipIdx).foldl (fun st (r, i) =>
    let fin := if cFfin k.raw && lastTile && i + 1 == runs.length then some total else none
    st.remote m c sid n k true r.1 r.2 fin ((List.range r.2).map fun j => (bytes.find (r.1 + j)).getD 0)) s

/-- The last destination byte of the bytes written, in traversal order: port space, virtual and physical address. -/
def State.lastByte (s : State) (m c : Nat) (g : Geo) (l : List (Nat × Byte)) : Option (Nat × Nat × Nat) :=
  match l.getLast? with
  | none => none
  | some (a, _) =>
    if g.dd.space && !g.meter then some (g.dd.nport + 1, 0, a)
    else
      let (pg, _) := ((s.ch m c).xl.find (a / 4096)).getD (0, 0)
      some (0, a, pg.toNat * 4096 + a % 4096)

/-- Issue the writes of the tile in the slot, in ascending order of addresses (log 98), `off` being the beats whose enables
are off, which a packet leaves out (R364). -/
def State.writeTile (s : State) (m c sid : Nat) (t : TileSlot) (off : List Nat) : State :=
  match (s.strmAt sid).cmd with
  | none => s
  | some k =>
    let g := runGeo (s.strmAt sid) k
    let bytes := lastWrites t.bytes
    let n := t.tile
    let near := g.dd.space && !g.meter
    let on := t.bytes.filter fun e => !off.contains (e.1 / beatSize near)
    let s1 := if g.rwr then s.sendTile m c sid n k g (lastWrites on)
      else (burstsOf (beatSize near) (maxBeats near) (bytes.map (·.1))).foldl
        (fun st b => st.writeBurst m c sid n g bytes off b) s
    (s1.modCmd sid fun y => { y with wrote := (s.lastByte m c g on).or y.wrote }).pushStg m c sid n false t.bytes.length

/-- Parity of the beats that stage 8 reads (R364): each failed check counts; a beat that fails twice is written with its
enables off. -/
def State.beatParity (s : State) (m sid : Nat) (l : List (Nat × Bool)) : State :=
  l.foldl (fun st (_, twice) =>
    let s1 := st.dataParity m sid
    if twice then
      { ((s1.dataParity m sid).modCmd sid fun k => { k with parity := true }) with
        par := { (s1.dataParity m sid).par with beat := true } }
    else { s1 with par := { s1.par with cache := true } }) s

/-- TILE_READY: the tile lies whole in its slot and its destination is translated. -/
def State.tileReadyOp (s : State) (m c : Nat) (p : TileParity) : State :=
  let h := s.ch m c
  match h.act, h.slot with
  | some sid, some t =>
    if h.ph ≠ .tiles ∨ h.stop ≠ none ∨ h.abort = true ∨ isEcn sid = true ∨ s.slotAwaits m c t.tile = true
        ∨ s.acc.any (fun (a : Access) => ofChan m c a && a.kind == AKind.probe t.tile) = true then s
    else
      let s0 := s.modCh m c fun y => { y with inB := 0, outB := 0 }
      let s1 : State := match p with
        | .good => s0.writeTile m c sid t []
        | .withheld => (s0.dataParity m sid).withhold m c sid t.tile
        | .beats l =>
          match (s.strmAt sid).cmd with
          | none => s0
          | some k =>
            let g := runGeo (s.strmAt sid) k
            let bs := beatsOf (beatSize (g.dd.space && !g.meter)) (t.bytes.map (·.1))
            (s0.beatParity m sid l).writeTile m c sid t
              ((l.filter fun (e : Nat × Bool) => e.2).map fun (e : Nat × Bool) => bs.getD e.1 0)
      s1.startTile m c sid (t.tile + 1)
  | _, _ => s

/-! ### Starting a data command -/

/-- The run of the command begins, or goes on at NTILE after a stop (R85, R110, R128, R197, R201, R435). -/
def State.runData (s : State) (m c sid : Nat) (k : CmdCtx) : State :=
  let x := s.strmAt sid
  let g := geoOf x k
  let firn := g.sd.firn || (!g.meter && g.dd.firn)
  let first := k.slot == none || k.slot == nextSlot x 0
  let s1 := if firn && first then s.takePin sid k.raw else s
  let remote := cRwr k.raw || cRrd k.raw
  match k.stage with
  | .readBack =>
    match k.wrote with
    | some w => (s.modCh m c fun h => { h with tile := x.ntile.toNat }).readBack m c sid w
    | none => s.cmdDone m c sid
  | .tiles =>
    let n := x.ntile.toNat
    let again := g.tileEntries n
    let anew := remote && (!cFfin k.raw || k.timed)
    let s2 := s.modCh m c fun h => { h with pf := [], xseq := if anew then h.xseq + 1 else h.xseq }
    let s3 := s2.modCmd sid fun y => { y with
      fill := y.td.isSome
      xseq := if anew then (s2.ch m c).xseq else y.xseq
      timed := false
      idx := y.idx.filter fun e => !again.contains e.1 }
    s3.startTile m c sid n
  | _ =>
    let seed := cRnd k.raw == 2 && cSeed k.raw != 0
    let s2 := s1.modCh m c fun h => { h with
      coal := []
      lfsr := if seed then BitVec.ofNat 32 (cSeed k.raw) else h.lfsr
      xseq := if remote then h.xseq + 1 else h.xseq }
    let s3 := s2.modCmd sid fun y => { y with
      stage := .tiles
      td := if cOpc k.raw = 1 then s.tdestOf sid else none
      xseq := (s2.ch m c).xseq }
    s3.startTile m c sid (if k.skipped then x.ntile.toNat else 0)

end Sys2Proof.Machine
end

