-- ==== Sys2Proof/Machine/StreamCmd.lean ====
section
/-! DEFINITION. The stream commands (R141 to R150): each is carried out on the channel that holds it decoded. -/

namespace Sys2Proof.Machine

/-! ### The command that a channel holds -/

/-- Carry out a decoded command of channel c of Mover m, if it is the one that `is` asks for. -/
def State.onCmd (s : State) (m c : Nat) (is : BitVec 512 → Bool) (f : Nat → CmdCtx → State) : State :=
  let h := s.ch m c
  match h.act with
  | none => s
  | some sid =>
    match (s.strmAt sid).cmd with
    | none => s
    | some k => if h.ph = .decoded ∧ h.stop = none ∧ h.abort = false ∧ is k.raw = true then f sid k else s

/-- The command waits in WAITING, and is executed again afterwards (R145). -/
def State.waitCmd (s : State) (m c sid : Nat) (w : Wait) : State :=
  (((s.modCmd sid fun k => { k with stage := .raw, decoded := true }).setWait sid w).leave m c)

/-- The command is refused now with FLT_DESC_RANGE (R148). -/
def State.refuseCmd (s : State) (m c sid : Nat) : State :=
  State.goOn m c sid (s, s.refusal m c sid fltRange (if (s.strmAt sid).pers then 6 else 4) (some (s.cmdAddr sid)))

/-! ### Data commands (R60, R133, R143, R455) -/

/-- Start a data command; the run of a slot has the descriptors with the slot's offsets checked first. -/
def State.dataOp (s : State) (m c op : Nat) : State :=
  s.onCmd m c (fun r => cOpc r == op) fun sid k =>
    match k.stage with
    | .raw => State.goOn m c sid (s.decode1 m c sid)
    | .copies =>
      match s.placesTo sid k 5 with
      | some (f, va) => State.goOn m c sid (s, s.refusal m c sid f 2 va)
      | none =>
        let x := s.strmAt sid
        if cFgen k.raw ≠ 0 ∧ (s.genSlot x.part.toNat x.ten (cFgen k.raw)).isNone = true then s.refuseCmd m c sid
        else s.runData m c sid k
    | _ => s.runData m c sid k

/-! ### WAIT, BARRIER, SIGNAL (R145, R146, R230, R235) -/

/-- KIND and TGT of a WAIT or BARRIER. -/
def cKind (c : BitVec 512) : Nat := cf c 8 0 2
/-- TGT of a WAIT or BARRIER. -/
def cTgt (c : BitVec 512) : Nat := cf c 9 0 6
/-- WVAL. -/
def cWval (c : BitVec 512) : BitVec 32 := BitVec.ofNat 32 (cf c 12 0 32)

/-- WAIT. -/
def State.waitOp (s : State) (m c : Nat) : State :=
  s.onCmd m c (fun r => cOpc r == 8) fun sid k =>
    let x := s.strmAt sid
    let w := cWval k.raw
    let key := cntKey x.hmv.toNat (cTgt k.raw)
    if cKind k.raw = 1 then
      if cntHolds (s.cnt key) w then s.cmdDone m c sid else s.waitCmd m c sid (.counter key w)
    else if notBefore (s.rope (cTgt k.raw)).round w then s.cmdDone m c sid
    else s.waitCmd m c sid (.rope (cTgt k.raw) w)

/-- The wait of a BARRIER for the round `t`. -/
def barrierWait (kind key tgt : Nat) (t : BitVec 32) (again : Bool) : Wait :=
  if kind = 1 then .dblCounter key t again else .dblRope tgt t again

/-- BARRIER: the arrival, made once, and the wait for its round; NTILE holds the round awaited. -/
def State.barrierOp (s : State) (m c : Nat) : State :=
  s.onCmd m c (fun r => cOpc r == 10) fun sid k =>
    let x := s.strmAt sid
    let kind := cKind k.raw
    let tgt := cTgt k.raw
    let key := cntKey x.hmv.toNat tgt
    let value := fun (st : State) => if kind = 1 then (st.cnt key).value else (st.rope tgt).round
    let await := fun (st : State) (t : BitVec 32) =>
      if notBefore (value st) t then st.cmdDone m c sid else st.waitCmd m c sid (barrierWait kind key tgt t false)
    if x.arrd then await s (BitVec.ofNat 32 x.ntile.toNat)
    else
      let (s1, a) := if kind = 1 then s.cntArrive key c else s.ropeArrive tgt m
      let here := fun (t : BitVec 32) =>
        await (s1.modStrmAt sid fun y => { y with arrd := true, ntile := BitVec.ofNat 40 t.toNat }) t
      match a with
      | .counted t => here t
      | .held t => here (t + 1)
      | .again => s1.waitCmd m c sid (barrierWait kind key tgt 0 true)

/-- SOP of a SIGNAL. -/
def cSop (c : BitVec 512) : Nat := cf c 8 0 2
/-- FLAGW. -/
def cFlagw (c : BitVec 512) : Bool := cb c 8 2
/-- Bytes of the flag write. -/
def cFlen (c : BitVec 512) : Nat := if cb c 8 3 then 8 else 4

/-- The configuration that a SIGNAL with SOP=1 makes (R224). -/
def State.sigConfig (s : State) (sid : Nat) (c : BitVec 512) : State :=
  let x := s.strmAt sid
  if cSop c = 1 then
    s.cntConfig (cntKey x.hmv.toNat (cf c 11 0 6)) (cf c 9 0 2) (cf c 10 0 4) (cf c 12 0 32) x.ten
  else s

/-- The effects of a SIGNAL after its flag write: the configuration, and the attached signal. A configuration that the
counter no longer takes is refused now (R223, R224). -/
def State.sigApply (s : State) (m c sid : Nat) (k : CmdCtx) : State :=
  if s.configRefused (s.strmAt sid) k.raw then s.refuseCmd m c sid
  else
    let s1 := (s.sigConfig sid k.raw).applySignal m c sid k.raw
    (s1.modCmd sid fun y => { y with sigDone := true }).cmdDone m c sid

/-- SIGNAL: the flag write first, then the other effects. -/
def State.signalOp (s : State) (m c sop : Nat) : State :=
  s.onCmd m c (fun r => cOpc r == 9 && cSop r == sop) fun sid k =>
    if cFlagw k.raw then
      let n := cFlen k.raw
      let a := { s.chanAcc m c sid .flag true (cf k.raw 16 0 48) n with
        data := toLE n (cf k.raw 24 0 64)
        en := List.replicate n true }
      let (s1, g) := s.makeOr m c [a] 0
      State.goOn m c sid (s1.modCh m c fun h => { h with ph := .flag }, g)
    else s.sigApply m c sid k

/-! ### REARM, LOAD, UNLOAD (R148, R166, R167, R290) -/

/-- The values of a REARM. -/
def rearmOf (c : BitVec 512) (queue : BitVec 10) (issuer : Nat) : Rearm :=
  { bmask := BitVec.ofNat 4 (cf c 11 0 4), b0 := BitVec.ofNat 48 (cf c 16 0 48), b1 := BitVec.ofNat 48 (cf c 24 0 48),
    b2 := BitVec.ofNat 48 (cf c 32 0 48), b3 := BitVec.ofNat 48 (cf c 40 0 48), queue := queue, issuer := issuer }

/-- An ARMED stream is armed again: base registers, pin, PC, PASS and QUEUE. -/
def State.rearmNow (s : State) (t : Nat) (r : Rearm) : State :=
  ((s.unpin t).modStrmAt t fun y => { y.withBases r with pc := 0, pass := 0, queue := r.queue }).makeReady t

/-- Carry out a REARM command with OP `op`, whose rules still hold. -/
def State.rearmCmd (s : State) (m c op : Nat) (f : Nat → CmdCtx → Nat → State) : State :=
  s.onCmd m c (fun r => cOpc r == 16 && cRop r == op) fun sid k =>
    if s.rearmRange sid (s.strmAt sid) k.raw then s.refuseCmd m c sid else f sid k (cTarget k.raw)

/-- REARM with OP=0. -/
def State.rearmOp (s : State) (m c : Nat) : State :=
  s.rearmCmd m c 0 fun sid k t =>
    let y := s.strmAt t
    let r := rearmOf k.raw (s.strmAt sid).queue sid
    if y.rcv then (s.modStrmAt t fun z => z.withBases r).cmdDone m c sid
    else if y.st = .armed then (s.rearmNow t r).cmdDone m c sid
    else if y.rpend = none then
      (((s.modStrmAt t fun z => { z with rpend := some r }).setWait sid (.rearmPending t))).leave m c
    else s.waitCmd m c sid (.rearmBehind t)

/-- LOAD: the stream of the image, ARMED, with the base registers of BMASK. -/
def State.loadOp (s : State) (m c : Nat) : State :=
  s.rearmCmd m c 1 fun sid k t =>
    let x := s.strmAt sid
    let i := strmOfImage (k.copy 8)
    let y := { i.withBases (rearmOf k.raw x.queue sid) with
      st := .armed
      ten := x.ten
      tgen := x.tgen
      part := x.part
      queue := x.queue
      place := if i.rcv then k.copy 9 else [] }
    ((s.setStrmAt t y).recordOut m c t .recWrite).cmdDone m c sid

/-- Staging and spill space of slots given back (R137). -/
def State.freeSlots (s : State) (p : Nat) (l : SMap Slot) : State := s.moveSpace p (slotSpace l) fun _ => 0

/-- UNLOAD: an ARMED stream becomes EMPTY; its pin and its slots' space are released. -/
def State.unloadOp (s : State) (m c : Nat) : State :=
  s.rearmCmd m c 2 fun sid _ t =>
    let s1 := s.unpin t
    let y := s1.strmAt t
    (((s1.freeSlots y.part.toNat y.slots).setStrmAt t Strm.reset).recordOut m c t .recWrite).cmdDone m c sid

/-! ### LOOP (R133, R149, R167) -/

/-- Steps 3 to 5 of R149: pending values are applied, or the arming ends, or the stream goes on. -/
def State.loopEnd (s : State) (m c sid : Nat) : State :=
  let x := s.strmAt sid
  let s1 :=
    if x.rpend ≠ none then (s.modCmd sid fun k => { k with endArm := true }).applyPending sid
    else if x.lcnt ≠ 0 ∧ x.pass = x.lcnt then s.modCmd sid fun k => { k with endArm := true, toArmed := true }
    else s
  s1.cmdDone m c sid

/-- The boundary is over: its slots take effect, and the stream waits for a slot (R139), or goes on. -/
def State.slotsDone (s0 : State) (m c sid : Nat) : State :=
  let s := s0.endBoundary m c sid true
  let x := s.strmAt sid
  let occupied := (nextSlot x 0).isSome
  let s1 := match x.cmd with
    | some _ => s.modCmd sid fun k => { k with joinDef := x.slots.any (fun e => e.2.st == 3), fill := false }
    | none => s
  if !occupied then
    (s1.setWait sid .noSlots).leave m c
  else match x.cmd with
    | some _ => s1.loopEnd m c sid
    | none => State.goOn m c sid ((s1.modStrmAt sid fun y => { y with ran := true }).fetchNext m c sid)

/-- LOOP: PASS, the slot step boundary if the program is batched, and the end or the continuation of the arming. A
LOOP with BAT=0 gives the space of earlier slots back. -/
def State.loopOp (s : State) (m c : Nat) : State :=
  s.onCmd m c (fun r => cOpc r == 17) fun sid k =>
    let x := s.strmAt sid
    let first := k.stage == .copies
    let pass := if first then x.pass + 1 else x.pass
    let s1 := (s.modStrmAt sid fun y => { y with pass := pass, lcnt := BitVec.ofNat 32 (cf k.raw 8 0 32) }).modCmd sid
      fun j => { j with stage := .tiles, pass := pass }
    match loopBat k.raw with
    | some a => if k.fill then s1.slotsDone m c sid else State.goOn m c sid (s1.readSlots m c sid a)
    | none =>
      ((s1.freeSlots x.part.toNat x.slots).modStrmAt sid fun y => { y with slots := [] }).loopEnd m c sid

/-! ### TABLE (R107 to R109) -/

/-- The next generation number that no slot of the partition holds, from `g` on. -/
def nextGen (tab : SMap FSlot) (g : Nat) : Nat → Nat
  | 0 => g
  | fuel + 1 =>
    let g := if g = 0 ∨ g > 255 then 1 else g
    if tab.any (fun e => e.2.gen.toNat == g) then nextGen tab (g + 1) fuel else g

/-- TABLE with OP=0: the stream's pin is released, a free slot takes the curve, and the command's completion will make
it current; with no free slot the stream waits. -/
def State.tableLoadOp (s : State) (m c : Nat) : State :=
  s.onCmd m c (fun r => cOpc r == 18 && !cb r 8 0) fun sid k =>
    let s1 := s.unpin sid
    let x := s1.strmAt sid
    let p := x.part.toNat
    match s1.freeSlot p with
    | none => s1.waitCmd m c sid .table
    | some n =>
      let g := nextGen (s1.part p).ftab (s1.part p).fnext.toNat 9
      let f : FSlot := { FSlot.reset with
        curve := BitVec.ofNat 256 (leNat (k.copy 7)), gen := BitVec.ofNat 8 g, ten := x.ten, keep := cb k.raw 8 1,
        taken := true }
      let s2 := s1.modPart p fun y => { y with
        ftab := y.ftab.put FSlot.reset n f
        fnext := if g ≥ 255 then 1 else BitVec.ofNat 8 (g + 1) }
      (s2.modCmd sid fun j => { j with gen := BitVec.ofNat 8 g, tslot := some n }).cmdDone m c sid

/-- TABLE with OP=1: KEEP is cleared, and the stream's own pin released; a slot without owner is freed at the command's
completion. -/
def State.tableReleaseOp (s : State) (m c : Nat) : State :=
  s.onCmd m c (fun r => cOpc r == 18 && cb r 8 0) fun sid k =>
    let x := s.strmAt sid
    let p := x.part.toNat
    match s.genSlot p x.ten (cf k.raw 9 0 8) with
    | none => s.refuseCmd m c sid
    | some n =>
      let s1 := s.modPart p fun y =>
        { y with ftab := y.ftab.put FSlot.reset n { y.ftab.get FSlot.reset n with keep := false, taken := true } }
      ((s1.unpin sid).modCmd sid fun j => { j with tslot := some n }).cmdDone m c sid

/-! ### The commands -/

/-- NOP: it completes (R141). -/
def execNop (m : Fin 64) (c : Fin 4) (s : State) : Host.Outcome State Fault Refusal :=
  .next (s.onCmd m c (fun r => cOpc r == 0) fun sid _ => s.cmdDone m c sid)

/-- TRANSFER (R143). -/
def execTransfer (m : Fin 64) (c : Fin 4) (s : State) : Host.Outcome State Fault Refusal := .next (s.dataOp m c 1)

/-- GATHER (R119). -/
def execGather (m : Fin 64) (c : Fin 4) (s : State) : Host.Outcome State Fault Refusal := .next (s.dataOp m c 2)

/-- SCATTER (R119). -/
def execScatter (m : Fin 64) (c : Fin 4) (s : State) : Host.Outcome State Fault Refusal := .next (s.dataOp m c 3)

/-- METER (R113). -/
def execMeter (m : Fin 64) (c : Fin 4) (s : State) : Host.Outcome State Fault Refusal := .next (s.dataOp m c 4)

/-- WAIT (R145). -/
def execWait (m : Fin 64) (c : Fin 4) (s : State) : Host.Outcome State Fault Refusal := .next (s.waitOp m c)

/-- SIGNAL with SOP=0 (R146). -/
def execSignal (m : Fin 64) (c : Fin 4) (s : State) : Host.Outcome State Fault Refusal := .next (s.signalOp m c 0)

/-- SIGNAL with SOP=1 (R146, R224). -/
def execSignalConfigure (m : Fin 64) (c : Fin 4) (s : State) : Host.Outcome State Fault Refusal :=
  .next (s.signalOp m c 1)

/-- BARRIER (R230, R235). -/
def execBarrier (m : Fin 64) (c : Fin 4) (s : State) : Host.Outcome State Fault Refusal := .next (s.barrierOp m c)

/-- FENCE (R147): a stream's commands are carried out one after another, so every earlier one has completed. -/
def execFence (m : Fin 64) (c : Fin 4) (s : State) : Host.Outcome State Fault Refusal :=
  .next (s.onCmd m c (fun r => cOpc r == 11) fun sid _ => s.cmdDone m c sid)

/-- REARM (R148). -/
def execRearm (m : Fin 64) (c : Fin 4) (s : State) : Host.Outcome State Fault Refusal := .next (s.rearmOp m c)

/-- LOAD (R148, R166). -/
def execLoad (m : Fin 64) (c : Fin 4) (s : State) : Host.Outcome State Fault Refusal := .next (s.loadOp m c)

/-- UNLOAD (R148). -/
def execUnload (m : Fin 64) (c : Fin 4) (s : State) : Host.Outcome State Fault Refusal := .next (s.unloadOp m c)

/-- LOOP (R149). -/
def execLoop (m : Fin 64) (c : Fin 4) (s : State) : Host.Outcome State Fault Refusal := .next (s.loopOp m c)

/-- TABLE with OP=0 (R107). -/
def execTableLoad (m : Fin 64) (c : Fin 4) (s : State) : Host.Outcome State Fault Refusal := .next (s.tableLoadOp m c)

/-- TABLE with OP=1 (R109). -/
def execTableRelease (m : Fin 64) (c : Fin 4) (s : State) : Host.Outcome State Fault Refusal :=
  .next (s.tableReleaseOp m c)

end Sys2Proof.Machine
end

