-- ==== Sys2Proof/Machine/Peer.lean ====
section
/-! DEFINITION. The peer link (R285 to R301, R216 to R222, R436, R437): arriving packets, receive streams, responses at
the sender, forwarding, credits, losses and timeouts. -/

namespace Sys2Proof.Machine

/-! ### Header fields (R286) -/

/-- TYPE. -/
def pType (l : List Byte) : Nat := bfld l 0 0 3
/-- VC. -/
def pVc (l : List Byte) : Bool := bbit l 0 3
/-- FFIN. -/
def pFfin (l : List Byte) : Bool := bbit l 0 4
/-- FINAL. -/
def pFinal (l : List Byte) : Bool := bbit l 0 5
/-- DCHIP. -/
def pDst (l : List Byte) : Nat := bfld l 1 0 4
/-- SCHIP. -/
def pSrc (l : List Byte) : Nat := bfld l 1 4 4
/-- SMV. -/
def pMv (l : List Byte) : Nat := bfld l 2 0 6
/-- SCH. -/
def pCh (l : List Byte) : Nat := bfld l 2 6 2
/-- STEN. -/
def pTen (l : List Byte) : Nat := bfld l 3 0 8
/-- SGEN. -/
def pGen (l : List Byte) : Nat := bfld l 4 0 8
/-- TTL. -/
def pTtl (l : List Byte) : Nat := bfld l 5 0 4
/-- LEN. -/
def pLen (l : List Byte) : Nat := bfld l 6 0 10
/-- RSID. -/
def pRsid (l : List Byte) : Nat := bfld l 8 0 21
/-- XSEQ. -/
def pXseq (l : List Byte) : Nat := bfld l 11 0 8
/-- OFF. -/
def pOff (l : List Byte) : Nat := bfld l 12 0 48
/-- TOTAL. -/
def pTotal (l : List Byte) : Nat := bfld l 18 0 48
/-- NST. -/
def pNst (l : List Byte) : Nat := bfld l 24 0 8
/-- CRCNT. -/
def pCrcnt (l : List Byte) : Nat := bfld l 25 0 4
/-- CRBUF. -/
def pCrbuf (l : List Byte) : Nat := bfld l 25 4 2

/-- A packet with payload: WRITE or RDRSP. -/
def pHasData (l : List Byte) : Bool := pType l == 0 || pType l == 2

/-- The payload. -/
def pPayload (l : List Byte) : List Byte := if pHasData l then (l.drop 32).take (pLen l) else []

/-- The check value over header bytes 0 to 27 and the payload (R287). -/
def pCrcOk (l : List Byte) : Bool :=
  crc32c (l.take 28 ++ pPayload l) == bfld l 28 0 32 && (!pHasData l || decide (32 + pLen l ≤ l.length))

/-- A reserved value in the header (R286, R287). -/
def pReserved (l : List Byte) : Bool :=
  let t := pType l
  decide (t ≥ 6) || bfld l 0 6 2 != 0 || bfld l 5 4 4 != 0 || bfld l 6 10 6 != 0 || bfld l 10 5 3 != 0
  || bfld l 25 6 2 != 0 || bfld l 26 0 16 != 0 || decide (pCrcnt l > 8)
  || (if t ≤ 2 then decide (pLen l = 0 ∨ pLen l > 512) else pLen l != 0)
  || (t != 0 && (pFfin l || pFinal l)) || (pFinal l && !pFfin l) || (!pFinal l && pTotal l != 0)
  || (if t = 4 then decide (pNst l = 0 ∨ pNst l > 6) else pNst l != 0)

/-- Buffer of a packet's class and VC (R297): 0 and 1 for requests, 2 and 3 for responses. -/
def pBuf (l : List Byte) : Nat := (if 2 ≤ pType l then 2 else 0) + b2n (pVc l)

/-! ### Ports, counters and credits (R289, R297) -/

/-- RUN (R334). -/
def State.inRun (s : State) : Bool := s.boot.state == 13

/-- The peer ports take packets (R285, R300, R436, R444). -/
def State.peerOpen (s : State) (port : Nat) : Bool :=
  s.inRun && s.blk.isNone && s.peer.en && !(if port = 0 then s.pins.peer0 else s.pins.peer1) && s.pwr.state != 4 && s.pwr.state != 5

/-- And packets of a type: in the drain before RETAIN only the responses that the drain awaits (R382). -/
def State.peerTakes (s : State) (port type : Nat) : Bool :=
  s.peerOpen port && (s.pwr.state != 3 || (decide (2 ≤ type ∧ type ≤ 4) && s.peer.rem.any (·.sent)))

/-- Change the counters of a port. -/
def State.modStat (s : State) (port : Nat) (f : PeStat → PeStat) : State :=
  { s with peer := { s.peer with
      stat := s.peer.stat.put PeStat.reset port (f (s.peer.stat.get PeStat.reset port)) } }

/-- A packet discarded and counted in DROP. -/
def State.peDrop (s : State) (port : Nat) : State := s.modStat port fun q => { q with drop := satInc q.drop }

/-- Credits that come back: buffer `b` of the neighbour on a port has `n` free slots more. -/
def State.creditIn (s : State) (port b n : Nat) : State :=
  let k := 4 * port + b
  { s with peer := { s.peer with used := s.peer.used.put 0 k (s.peer.used.get 0 k - n) } }

/-- A slot of this port's own buffer is free: a credit is owed to the neighbour. -/
def State.creditOwe (s : State) (key : Nat) : State :=
  { s with peer := { s.peer with owed := s.peer.owed.put 0 key (min 8 (s.peer.owed.get 0 key + 1)) } }

/-- Wake from DOZE with an event that the core then acts on (R381, log 40). -/
def State.awake (s : State) : State :=
  if s.pwr.state = 2 then
    { s with pwr := { s.pwr with
        state := 0
        wake := false } }
  else s

/-- A packet that is discarded frees its slot of the buffer that its TYPE and VC name; CREDIT and the reserved types name
none. -/
def State.freeBuf (s : State) (port : Nat) (pkt : List Byte) : State :=
  if 5 ≤ pType pkt then s else s.creditOwe (4 * port + pBuf pkt)

/-- Intake of a packet for this chip: credits it brings, and the checks of R287; a packet that passes them goes to
`use`, and one that is discarded frees its buffer slot. A packet of a reserved TYPE is discarded. -/
def State.intake (s : State) (port type : Nat) (pkt : List Byte) (use : State → State) : State :=
  if s.peerTakes port type = false ∨ (pType pkt ≠ type ∧ pType pkt < 6) ∨ (pType pkt ≠ 5 ∧ pDst pkt ≠ s.peer.chip.toNat)
  then s
  else
    let s1 := s.awake.creditIn port (pCrbuf pkt) (pCrcnt pkt)
    let free := fun (t : State) => t.freeBuf port pkt
    if pCrcOk pkt = false then free (s1.modStat port fun q => { q with crce := satInc q.crce })
    else if pReserved pkt then free (s1.peDrop port)
    else use s1

/-! ### Responses of the destination (R286, R293, R294) -/

/-- Channel number under which a Mover's receive accesses are kept: none of its four. -/
def rxCh : Nat := 4

/-- Queue a response to a request: TYPE, LEN, NST and payload. A chip that DIR calls unreachable gets none. -/
def State.respond (s : State) (hdr : List Byte) (type nst : Nat) (payload : List Byte) : State :=
  let pe := s.peer
  let d := pe.dirOf (pSrc hdr)
  if d = 0 ∨ d = 3 then s
  else
    let port := d - 1
    let vc := pe.dateline port
    let x := s.strmAt (pRsid hdr)
    let h := reqHeader type (b2n vc) 0 0 (pSrc hdr) (pDst hdr) (pMv hdr) (pCh hdr) (pTen hdr) (pGen hdr)
      (pe.nchip.toNat - 1) payload.length (pRsid hdr) (pXseq hdr) (pOff hdr) 0 nst
    let t : TxPkt := { port := port, bytes := packet h payload, resp := true, vc := vc,
                       owner := some (x.part.toNat, x.hmv.toNat, rxCh), issued := true, ten := x.ten, gen := x.tgen,
                       slot := none }
    { s with peer := { pe with tx := pe.tx ++ [t] } }

/-- A fault record of a receive stream (R293): KIND 11, with its home Mover and channel (log 38). -/
def State.rxRec (s : State) (hdr : List Byte) (code : Nat) : FRec :=
  let x := s.strmAt (pRsid hdr)
  { faultOf x (pRsid hdr) x.hmv.toNat x.hch.toNat code 11 with pc := 0, dir := pType hdr == 0 }

/-- A NACK for the request with this header. -/
def State.nack (s : State) (hdr : List Byte) (nst : Nat) : State := s.respond hdr 4 nst []

/-! ### Placement (R290, R291) -/

/-- The placement descriptor of a receive stream with its effective BASE. -/
def placeDesc (x : Strm) : Desc :=
  let d := parseDesc x.place
  if x.b0 = 0 then d else { d with base := x.b0.toNat }

/-- Bytes that the placement descriptor numbers. -/
def placeBytes (d : Desc) : Nat := ((List.range d.ndim).map fun k => (d.dim k).extent).foldl (· * ·) 1 * d.unit

/-- Digits of a traversal number over the extents. -/
def placeDigits (d : Desc) (n : Nat) : List Nat :=
  let e := fun k => max 1 (d.dim k).extent
  [n % e 0, n / e 0 % e 1, n / e 0 / e 1 % e 2, n / e 0 / e 1 / e 2 % e 3, n / e 0 / e 1 / e 2 / e 3]

/-- Address of byte `o` of the numbering; none for an element out of bounds. -/
def placeAddr (d : Desc) (o : Nat) : Option Nat :=
  let i := placeDigits d (o / max 1 d.unit)
  let c := (List.range d.ndim).map fun k => (d.dim k).start + (i.getD k 0 : Int) * (d.dim k).step
  if d.inb c then (d.addrs c)[o % max 1 d.unit]? else none

/-! ### Requests at the destination (R293, R294, R296, R218) -/

/-- Change a job. -/
def State.modJob (s : State) (id : Nat) (f : RxJob → RxJob) : State :=
  { s with peer := { s.peer with jobs := s.peer.jobs.map fun j => if j.id = id then f j else j } }

/-- Find a job. -/
def State.job (s : State) (id : Nat) : Option RxJob := s.peer.jobs.find? fun j => j.id == id

/-- The accesses of a job. -/
def jobAcc (id : Nat) (a : Access) : Bool := !a.drain && (a.kind == .rxWrite id || a.kind == .rxRead id)

/-- Header bytes of a job. -/
def RxJob.head (j : RxJob) : List Byte := toLE 32 j.hdr.toNat

/-- A job ends, and the buffer slot of its request is free. Accesses not issued are never made; the others are
discarded when they answer. -/
def State.endJob (s : State) (j : RxJob) : State :=
  let s1 := { s with
    acc := (s.acc.filter fun a => !(jobAcc j.id a && !inFlight a)).map fun a =>
      if jobAcc j.id a then { a with drain := true } else a
    peer := { s.peer with jobs := s.peer.jobs.filter fun q => q.id != j.id } }
  if j.drain then s1 else s1.creditOwe (4 * j.port + pBuf j.head)

/-- A job is refused with a NACK and, where one is due, a fault record. -/
def State.failJob (s : State) (j : RxJob) (nst : Nat) (f : Option FRec) : State :=
  let s1 := (s.endJob j).nack j.head nst
  match f with
  | some r => s1.pushFault r.part.toNat r
  | none => s1

/-- A translation fault on an access of a job (check 5). -/
def State.rxXlat (s : State) (id : Nat) (f : Access × Nat × Nat) : State :=
  match s.job id with
  | none => s
  | some j =>
    s.failJob j 5 (some { s.rxRec j.head f.2.1 with
      vav := true, va := BitVec.ofNat 48 f.1.lowVa, lvl := BitVec.ofNat 2 f.2.2 })

/-- Start the writes or reads of a job; its home Mover issues them once every page is translated. -/
def State.startJob (s : State) (j : RxJob) (payload : List Byte) : State :=
  let x := s.strmAt j.sid
  let d := placeDesc x
  let off := pOff j.head
  let places := (List.range (pLen j.head)).map fun i => (i, placeAddr d (off + i))
  let base := fun (kind : AKind) (wr : Bool) (b : Nat × Nat) =>
    { s.chanAcc x.hmv.toNat rxCh j.sid kind wr b.1 b.2 with permW := wr }
  if j.wr then
    let bytes := lastWrites (places.filterMap fun (i, a) => a.map fun v => (v, payload.getD i 0))
    let s1 := s.modJob j.id fun q => { q with landed := (places.filter fun e => e.2.isSome).length }
    let l := (burstsOf 64 32 (bytes.map (·.1))).map fun b =>
      let as := (List.range b.2).map fun i => b.1 + i
      { base (.rxWrite j.id) true b with
        data := as.map fun a => (bytes.find a).getD 0
        en := as.map fun a => (bytes.find a).isSome }
    match s1.makeFars l with
    | (s2, none) => s2
    | (s2, some f) => s2.rxXlat j.id f
  else
    let fill := fun (i : Nat) => 2 ^ 48 + fld d.fill (8 * ((off + i) % max 1 d.unit)) 8
    let want := places.map fun (i, a) => a.getD (fill i)
    let s1 := s.modJob j.id fun q => { q with want := want }
    let l := (burstsOf 64 32 (want.filter fun a => decide (a < 2 ^ 48))).map fun b => base (.rxRead j.id) false b
    match s1.makeFars l with
    | (s2, none) => s2
    | (s2, some f) => s2.rxXlat j.id f

/-- Checks 1 to 4 of R293: the reason of the NACK, and whether a fault record is written. -/
def State.rxCheck (s : State) (hdr : List Byte) (wr : Bool) : Option Nat :=
  let x := s.strmAt (pRsid hdr)
  let k := s.cnt (cntKey x.hmv.toNat x.lctr.toNat)
  if !(x.st == .armed && x.rcv && (s.ten x.ten.toNat).en && x.tgen == s.genOf x.ten)
      || s.strmFenced (pRsid hdr) then some 1
  else if pOff hdr + pLen hdr > placeBytes (placeDesc x) then some 2
  else if wr && !(k.bound && k.ten == x.ten && k.mode == 2) then some 3
  else if pFfin hdr && (s.ffGrant (pSrc hdr) (pMv hdr) (pCh hdr)).isNone then some 4
  else none

/-- A FINAL tracker. -/
def State.fin (s : State) (k : Nat) : FinTrk := s.peer.fin.get FinTrk.reset k

/-- Write a FINAL tracker. -/
def State.setFin (s : State) (k : Nat) (v : FinTrk) : State :=
  { s with peer := { s.peer with fin := s.peer.fin.put FinTrk.reset k v } }

/-- A packet of a flagged-final transfer reaches its tracker: a new XSEQ restarts it, and a FINAL packet it still holds
is answered with NST 0x06 (R296). -/
def State.finTake (s : State) (k : Nat) (xseq : BitVec 8) : State :=
  let f := s.fin k
  if f.live && f.xseq == xseq then s
  else
    let s1 := match f.held.bind fun h => s.job h.1 with
      | some j => s.failJob j 6 none
      | none => s
    s1.setFin k { live := true, xseq := xseq, landed := 0, held := none }

/-- A WRITE of a channel that has a FINAL tracker reaches it, whatever becomes of the WRITE (R296). -/
def State.finSees (s : State) (wr : Bool) (pkt : List Byte) : State :=
  match s.ffGrant (pSrc pkt) (pMv pkt) (pCh pkt) with
  | some k => if wr then s.finTake k (BitVec.ofNat 8 (pXseq pkt)) else s
  | none => s

/-- A request that has passed R287: checked, and its writes or reads started, or a FINAL packet held. A second FINAL packet
of a transfer takes the place of the one held, which is answered with NST 0x06. -/
def State.request (s : State) (port : Nat) (wr : Bool) (pkt : List Byte) : State :=
  let x := s.strmAt (pRsid pkt)
  let s : State := (if x.rcv then s.modMover x.hmv.toNat fun v => { v with gated := false } else s).finSees wr pkt
  let j : RxJob := { id := s.seq, port := port, sid := pRsid pkt, hdr := BitVec.ofNat 256 (leNat (pkt.take 32)), wr := wr,
                     landed := 0, err := false, got := [], want := [], drain := false, fin := none }
  match s.rxCheck pkt wr with
  | some n =>
    let s1 := (s.creditOwe (4 * port + pBuf pkt)).nack pkt n
    if n = 1 then s1
    else
      let r := s1.rxRec pkt fltRange
      s1.pushFault r.part.toNat r
  | none =>
    let add := fun (t : State) (q : RxJob) => { t with
      seq := t.seq + 1
      peer := { t.peer with jobs := t.peer.jobs ++ [q] } }
    if pFfin pkt then
      match s.ffGrant (pSrc pkt) (pMv pkt) (pCh pkt) with
      | none => s
      | some k =>
        if pFinal pkt then
          let s1 := (s.fin k).held.bind (fun h => s.job h.1) |>.elim s fun o => s.failJob o 6 none
          (add s1 { j with fin := some k }).setFin k { s1.fin k with held := some (j.id, pPayload pkt) }
        else (add s { j with fin := some k }).startJob { j with fin := some k } (pPayload pkt)
    else (add s j).startJob j (pPayload pkt)

/-- The answer to one access of a job (check 6), or its cut-off (`hog`, R277): once all have answered, a job with an error
is refused. -/
def State.jobAnswer (s : State) (id : Nat) (a : Access) (r : Resp) (data : List Byte) (hog : Bool := false) : State :=
  match s.job id with
  | none => s
  | some j =>
    let s1 := s.modJob id fun q => { q with got := if respOk r && !a.wr then (a.va, data) :: q.got else q.got }
    let s2 := if respOk r || j.err then s1
      else
        let f := { s1.rxRec j.head (if hog then 0x22 else busCode a.wr) with
          vav := true, va := BitVec.ofNat 48 a.lowVa, pav := true, pa := BitVec.ofNat 48 a.pa
          resp := if hog then 0 else BitVec.ofNat 8 (respCode r) }
        (s1.modJob id fun q => { q with err := true }).pushFault f.part.toNat f
    match s2.job id with
    | none => s2
    | some q => if q.err && !(s2.acc.any (jobAcc id)) then s2.failJob q 6 none else s2

/-- Nothing of a job is awaited, and it is not held. -/
def State.jobReady (s : State) (j : RxJob) : Bool :=
  !j.err && !(s.acc.any (jobAcc j.id)) && !(match j.fin with
    | none => false
    | some k => (s.fin k).held.any fun h => h.1 == j.id)

/-- Add to the landing counter of a receive stream, as by its home channel (R217, R218, R228). -/
def State.landing (s : State) (sid n : Nat) : State :=
  let x := s.strmAt sid
  let key := cntKey x.hmv.toNat x.lctr.toNat
  let k := s.cnt key
  if k.bound && k.ten == x.ten && k.mode == 2 then s.cntAdd key n sid x.hmv.toNat x.hch.toNat else s

/-- RECEIVE_WRITES_LANDED. -/
def State.landedOp (s : State) (id : Nat) : State :=
  match s.job id with
  | none => s
  | some j =>
    if j.wr && s.jobReady j then
      let s1 := match j.fin with
        | none => s.landing j.sid j.landed
        | some k =>
          if pFinal j.head then
            let t := s.landing j.sid (pTotal j.head)
            if (t.fin k).xseq.toNat = pXseq j.head then t.setFin k FinTrk.reset else t
          else if (s.fin k).xseq.toNat = pXseq j.head then
            s.setFin k { s.fin k with landed := (s.fin k).landed + j.landed }
          else s
      (s1.endJob j).respond j.head 3 0 []
    else s

/-- RECEIVE_READS_DONE. -/
def State.readsDoneOp (s : State) (id : Nat) : State :=
  match s.job id with
  | none => s
  | some j =>
    if !j.wr && s.jobReady j then
      let data := j.want.map fun a => if a < 2 ^ 48 then gotByte j.got a else BitVec.ofNat 8 (a - 2 ^ 48)
      (s.endJob j).respond j.head 2 0 data
    else s

/-- FINAL_RELEASE: a held FINAL packet is written once the rest of its transfer has landed (R218). -/
def State.finalReleaseOp (s : State) (k : Nat) : State :=
  let f := s.fin k
  match f.held with
  | none => s
  | some (id, payload) =>
    match s.job id with
    | none => s
    | some j =>
      if f.landed + pLen j.head = pTotal j.head then
        (s.setFin k { f with held := none }).startJob j payload
      else s

/-! ### Responses at the sender (R295, R299, R300) -/

/-- The request that a response answers: a generation that is no longer current, or a request no longer awaited, gives
none. -/
def State.answered (s : State) (pkt : List Byte) (wr : Option Bool) : Option RemReq :=
  if (s.genOf (BitVec.ofNat 8 (pTen pkt))).toNat ≠ pGen pkt then none
  else s.peer.rem.find? fun r => r.sent && r.mv == pMv pkt && r.ch == pCh pkt && r.xseq.toNat == pXseq pkt
    && r.off == pOff pkt && (match wr with
      | none => true
      | some w => r.wr == w)

/-- Take the request out. -/
def State.delRem (s : State) (r : RemReq) : State :=
  { s with peer := { s.peer with rem := s.peer.rem.erase r } }

/-- Carry out a response, whose buffer slot is free at once (R297); one that nobody awaits counts in DROP. -/
def State.response (s : State) (port type : Nat) (wr : Option Bool) (pkt : List Byte)
    (use : State → RemReq → Nat → State) : State :=
  s.intake port type pkt fun t =>
    let t1 := t.creditOwe (4 * port + pBuf pkt)
    match t1.answered pkt wr with
    | none => t1.peDrop port
    | some r =>
      let t2 := t1.delRem r
      match (t2.ch r.mv r.ch).act with
      | none => t2.peDrop port
      | some sid => use t2 r sid

/-- PEER_WACK: the packet's bytes have landed. -/
def State.wackOp (s : State) (port : Nat) (pkt : List Byte) : State :=
  s.response port 3 (some true) pkt fun t r sid =>
    (t.modCmd sid fun k => { k with
      remoteOk := (List.range r.len).foldl (fun m i => m.ins (r.off + i) 1) k.remoteOk
      ok := k.ok.ins r.tile ((k.ok.find r.tile).getD 0 + r.len) }).settle r.mv r.ch

/-- The halt of a remote command (R295, R299). -/
def State.remoteStop (s : State) (r : RemReq) (sid code resp : Nat) : State :=
  let f := { faultOf (s.strmAt sid) sid r.mv r.ch code 11 with dir := r.wr, resp := BitVec.ofNat 8 resp }
  s.beginStop r.mv r.ch { tileStop false true r.tile f with
    err := some { dir := r.wr, walk := false, resp := resp, kind := 11, va := 0, pa := 0 } }

/-- PEER_NACK. -/
def State.nackOp (s : State) (port : Nat) (pkt : List Byte) : State :=
  s.response port 4 none pkt fun t r sid => t.remoteStop r sid (busCode r.wr) (if pNst pkt = 1 then 3 else 2)

/-- PEER_RDRSP: the data fills the read reorder space (R292). -/
def State.rdrspOp (s : State) (port : Nat) (pkt : List Byte) : State :=
  s.response port 2 (some false) pkt fun t r sid =>
    let h := t.ch r.mv r.ch
    if h.stop = none ∧ h.abort = false ∧ h.ph = .tiles then
      (t.modCh r.mv r.ch fun y => { y with got := (r.off, pPayload pkt) :: y.got }).advanceTile r.mv r.ch sid r.tile
    else t.settle r.mv r.ch

/-- PEER_TIMEOUT: the command halts at the earliest tile of its requests that have no answer; the others are no longer
awaited. -/
def State.timeoutOp (s : State) (m c : Nat) : State :=
  let mine := s.peer.rem.filter fun r => r.sent && r.mv == m && r.ch == c
  match mine, (s.ch m c).act with
  | r :: t, some sid =>
    let first := t.foldl (fun a b => if b.tile < a.tile then b else a) r
    let s1 := { s with peer := { s.peer with rem := s.peer.rem.filter fun q => !(q.sent && q.mv == m && q.ch == c) } }.modCmd
      sid fun k => { k with timed := true }
    if (s.ch m c).abort || (s.ch m c).stop.isSome then s1.settle m c
    else s1.remoteStop first sid 0x40 0
  | _, _ => s

/-! ### Forwarding, losses (R287, R288, R297, R298, R436, R437) -/

/-- A packet under another header: the check value is carried along so that it is right exactly when it was (log 41). -/
def reHead (pkt h1 : List Byte) : List Byte :=
  let old := crc32c (pkt.take 28 ++ pPayload pkt)
  let new := crc32c (h1 ++ pPayload pkt)
  h1 ++ toLE 4 (bfld pkt 28 0 32 ^^^ old ^^^ new) ++ pkt.drop 32

/-- The header of a forwarded packet: TTL one less, VC 1 beyond a dateline, and no credits but those that it will be given
(R297). -/
def forwarded (pkt : List Byte) (vc : Bool) : List Byte :=
  let h0 := pkt.take 28
  let b0 := BitVec.ofNat 8 ((h0.getD 0 0).toNat / 16 * 16 + (h0.getD 0 0).toNat % 8 + 8 * b2n vc)
  reHead pkt (((h0.set 0 b0).set 5 (BitVec.ofNat 8 (pTtl pkt - 1))).set 25 0)

/-- A packet that carries n credits of a buffer back (R297). -/
def withCredits (pkt : List Byte) (b n : Nat) : List Byte :=
  reHead pkt ((pkt.take 28).set 25 (BitVec.ofNat 8 (n + 16 * b)))

/-- A CREDIT packet (R286). -/
def State.creditPkt (s : State) (port b n : Nat) : List Byte :=
  withCredits (packet (reqHeader 5 0 0 0 (Config.neighbour port).toNat s.peer.chip.toNat 0 0 0 0 0 0 0 0 0 0 0) []) b n

/-- Beats of zeros up to the expected length (R436). -/
def padPacket (pkt : List Byte) : List Byte :=
  let n := 32 + (if pHasData pkt then ceilDiv (pLen pkt) 32 * 32 else 0)
  pkt ++ List.replicate (n - pkt.length) 0

/-- PACKET_FORWARD. -/
def State.forwardOp (s : State) (port : Nat) (pkt : List Byte) (gap : Bool) : State :=
  if s.peerTakes port 6 = false ∨ pType pkt = 5 ∨ pDst pkt = s.peer.chip.toNat then s
  else
    let s0 := s.awake.creditIn port (pCrbuf pkt) (pCrcnt pkt)
    let key := 4 * port + pBuf pkt
    let d := s.peer.dirOf (pDst pkt)
    if pReserved pkt ∨ pTtl pkt = 0 ∨ d = 0 ∨ d = 3 then (s0.peDrop port).freeBuf port pkt
    else
      let bytes := if gap then padPacket pkt else pkt
      let s1 := if gap || !pCrcOk pkt then s0.modStat port fun q => { q with fwdcrc := satInc q.fwdcrc } else s0
      let vc := pVc pkt || s.peer.dateline (d - 1)
      let t : TxPkt := { port := d - 1, bytes := forwarded bytes vc, resp := decide (2 ≤ pType pkt), vc := vc, owner := none,
                         issued := true, ten := 0, gen := 0, slot := some key }
      { s1 with peer := { s1.peer with tx := s1.peer.tx ++ [t] } }

/-- RX_LOSS, with bytes 0 and 25 of the lost packet's header. -/
def State.rxLossOp (s : State) (port : Nat) (hdr : BitVec 16) : State :=
  if s.peerOpen port = false then s
  else
    let v := hdr.toNat
    let type := fld v 0 3
    let s1 := s.modStat port fun q => { q with loss := satInc q.loss }
    let s2 := if type ≤ 4 then s1.creditOwe (4 * port + (if 2 ≤ type then 2 else 0) + fld v 3 1) else s1
    s2.creditIn port (fld v 12 2) (fld v 8 4)

/-! ### The events -/

/-- A WRITE packet (R293, R314). -/
def execPeerWrite (port : Fin 2) (pkt : List Byte) (s : State) : Host.Outcome State Fault Refusal :=
  .next (s.intake port 0 pkt fun t => t.request port true pkt)

/-- An RDREQ packet (R221, R293). -/
def execPeerRdreq (port : Fin 2) (pkt : List Byte) (s : State) : Host.Outcome State Fault Refusal :=
  .next (s.intake port 1 pkt fun t => t.request port false pkt)

/-- An RDRSP packet (R292). -/
def execPeerRdrsp (port : Fin 2) (pkt : List Byte) (s : State) : Host.Outcome State Fault Refusal :=
  .next (s.rdrspOp port pkt)

/-- A WACK packet (R295). -/
def execPeerWack (port : Fin 2) (pkt : List Byte) (s : State) : Host.Outcome State Fault Refusal :=
  .next (s.wackOp port pkt)

/-- A NACK packet (R295). -/
def execPeerNack (port : Fin 2) (pkt : List Byte) (s : State) : Host.Outcome State Fault Refusal :=
  .next (s.nackOp port pkt)

/-- A CREDIT packet (R288, R297). -/
def execPeerCredit (port : Fin 2) (pkt : List Byte) (s : State) : Host.Outcome State Fault Refusal :=
  .next (s.intake port 5 pkt id)

/-- A packet for another chip (R288, R301, R436). -/
def execPacketForward (port : Fin 2) (pkt : List Byte) (gap : Bool) (s : State) : Host.Outcome State Fault Refusal :=
  .next (s.forwardOp port pkt gap)

/-- The writes of a received packet have all landed (R217, R218, R294). -/
def execReceiveWritesLanded (job : Nat) (s : State) : Host.Outcome State Fault Refusal := .next (s.landedOp job)

/-- The reads of a received request have all returned (R294). -/
def execReceiveReadsDone (job : Nat) (s : State) : Host.Outcome State Fault Refusal := .next (s.readsDoneOp job)

/-- A held FINAL packet is written (R218). -/
def execFinalRelease (k : Fin 16) (s : State) : Host.Outcome State Fault Refusal := .next (s.finalReleaseOp k)

/-- The link reports a loss (R298, R437). -/
def execRxLoss (port : Fin 2) (hdr : BitVec 16) (s : State) : Host.Outcome State Fault Refusal :=
  .next (s.rxLossOp port hdr)

/-- A remote response timer expires (R299). -/
def execPeerTimeout (m : Fin 64) (c : Fin 4) (s : State) : Host.Outcome State Fault Refusal := .next (s.timeoutOp m c)

end Sys2Proof.Machine
end

