-- ==== Sys2Proof/Machine/Ecnos.lean ====
section
/-! DEFINITION. Ecnos mode (R43 to R45, R67, R177, R190): chains of linear copies on a channel. -/

namespace Sys2Proof.Machine

/-! ### Ending a chain -/

/-- The chain's stream leaves its channel, and the shadow stream becomes RUNNING; a stop's bus error is latched. -/
def State.ecnLeave (s : State) (m c sid : Nat) (f : Option FRec) : State :=
  let s0 := match (s.ch m c).stop with
    | some x => s.latchStop m c x
    | none => s
  let s1 := (s0.leaveOnly m c).ecnEnd sid f
  match (s1.ch m c).shadow with
  | some n => s1.startStream m c n
  | none => s1.wakeHome m c

/-- Accesses of the channel that have no response. -/
def State.chanOut (s : State) (m c : Nat) : Bool := s.acc.any fun a => a.rq == .mover m && a.ch == c && isEcnAcc a.kind

/-- The chain is to stop with a report at tile n: nothing more is issued, but for the writes of earlier tiles (R64, R67).
Of several errors the earliest tile's counts, as on any channel (R198, R199). -/
def State.ecnFail (s : State) (m c n : Nat) (f : FRec) (err : Option BusErr) : State :=
  let x : Stop := { frozen := false, stopAt := .none, ntile := BitVec.ofNat 40 n, bus := err.isSome, frec := f, err := err }
  let y := match (s.ch m c).stop with
    | none => x
    | some o => o.meet x
  ((s.modCh m c fun h => { h with stop := some y, slot := none, got := [], inB := 0, outB := 0 }).lateReads m c).dropChan
    m c y.ntile.toNat

/-- A bus error on an access of a chain, at physical address. -/
def ecnErrOf (a : Access) (resp kind : Nat) : BusErr :=
  { dir := a.wr, walk := false, resp := resp, kind := kind, va := a.pa, pa := a.pa }

/-! ### Descriptors -/

/-- Tiles of a descriptor: 4 KiB each (R60, R67). -/
def eTiles (d : BitVec 256) : Nat := ceilDiv (eLen d) 4096

/-- Bytes that a side occupies: its whole run, or one access of 2^FWIDTH bytes. -/
def eSpan (d : BitVec 256) (inc : Bool) : Nat := if eLen d = 0 then 0 else if inc then eLen d else 2 ^ eFw d

/-- The checks of R8, R43 to R45 and R190 on a descriptor: code and address of the breach. -/
def State.ecnCheck (s : State) (p : Nat) (d : BitVec 256) (cur : Nat) : Option (Nat × Nat) :=
  let v := d.toNat
  let fixed := !eSinc d || !eDinc d
  let w := 2 ^ eFw d
  let range := fld v 48 16 != 0 || fld v 112 16 != 0 || fld v 167 25 != 0 || fld v 240 16 != 0 || eFw d == 7
    || (eNext d == 0) != eLast d
  let align := if fixed then
      (!eSinc d && eSrc d % w != 0) || (!eDinc d && eDst d % w != 0) || eLen d % w != 0
    else eFw d != 0
  match breach range align with
  | some f => some (f, cur)
  | none =>
    if !s.ecnOk p (eSrc d) (eSpan d (eSinc d)) && eLen d != 0 then some (0x15, eSrc d)
    else if !s.ecnOk p (eDst d) (eSpan d (eDinc d)) && eLen d != 0 then some (0x15, eDst d)
    else if !eLast d && !s.ecnOk p (eNext d) 32 then some (0x15, eNext d)
    else none

/-- Physical accesses of one side: whole bursts of an incrementing side, single accesses of a fixed one. -/
def ecnSpans (inc : Bool) (fw base off n : Nat) : List (Nat × Nat) :=
  if inc then burstsOf 64 32 ((List.range n).map fun i => base + off + i)
  else List.replicate (n / 2 ^ fw) (base, 2 ^ fw)

/-- Read the next descriptor, or stop. -/
def State.ecnNext (s : State) (m c sid : Nat) : State :=
  match s.ecnFetch m c sid with
  | (s1, none) => s1
  | (s1, some f) => s1.ecnLeave m c sid (some f)

/-- After a response: a stop or an abort takes effect, or the descriptor completes and the chain goes on (R44, R177). -/
def State.ecnSettle (s : State) (m c sid : Nat) : State :=
  let h := s.ch m c
  let n := sid - 1024
  let e := s.ecnCh n
  if s.chanOut m c then s
  else match h.stop with
    | some x => s.ecnLeave m c sid (some x.frec)
    | none =>
      if e.abort then s.ecnLeave m c sid none
      else if h.ph = .ecnRun ∧ h.slot = none ∧ eTiles e.d ≤ h.tile then
        if eLast e.d then s.ecnLeave m c sid none
        else (s.modEcnCh n fun x => { x with
          done := x.done || eIen x.d
          next := BitVec.ofNat 48 (eNext x.d) }).ecnNext m c sid
      else s

/-- Tile of an access of a chain. -/
def ecnTileOf (a : Access) : Nat :=
  match a.kind with
  | .ecnos k => k
  | _ => 0

/-- The halt of a chain on an error response, or on a cut-off, of an access of its copy: code, RESP, KIND. -/
def State.ecnBus (s : State) (m c sid : Nat) (a : Access) (code resp kind : Nat) : State :=
  (s.ecnFail m c (ecnTileOf a) { s.ecnRec m c sid code kind a.pa with
    dir := a.wr, pav := true, pa := BitVec.ofNat 48 a.pa, resp := BitVec.ofNat 8 resp }
    (some (ecnErrOf a resp kind))).ecnSettle m c sid

/-- Start tile k of the descriptor: its reads. -/
def State.ecnTile (s : State) (m c sid k : Nat) : State :=
  let n := sid - 1024
  let d := (s.ecnCh n).d
  let s1 := s.modCh m c fun h => { h with ph := .ecnRun, tile := k, got := [], slot := none, bad := false }
  if eTiles d ≤ k then s1.ecnSettle m c sid
  else
    (ecnSpans (eSinc d) (eFw d) (eSrc d) (4096 * k) (min 4096 (eLen d - 4096 * k))).foldl (fun st b =>
      st.pushPhys { st.chanAcc m c sid (.ecnos k) false b.1 b.2 with size := if eSinc d then 64 else b.2 }
        (st.part (n / 8)).ecnAttr.toNat) s1

/-- ECNOS_DESCRIPTOR: a descriptor arrives and its copy starts. -/
def State.ecnDescriptorOp (s : State) (m c : Nat) (data : List Byte) (r : Resp) : State :=
  let h := s.ch m c
  match h.act with
  | none => s
  | some sid =>
    match s.acc.find? fun a => ofChan m c a && isEcnAcc a.kind && a.stage == .out with
    | none => s
    | some a =>
      if h.ph ≠ .ecnFetch ∨ isEcn sid = false then s
      else
        let s1 := s.delAcc a.aid
        if !respOk r then s1.ecnBus m c sid a 0x20 (respCode r) 2
        else
          let d := BitVec.ofNat 256 (leNat (data.take 32))
          let s2 := s1.modEcnCh (sid - 1024) fun e => { e with d := d }
          match s2.ecnCheck ((sid - 1024) / 8) d a.pa with
          | some (f, va) => (s2.ecnFail m c 0 (s2.ecnRec m c sid f 2 va) none).ecnSettle m c sid
          | none => s2.ecnTile m c sid 0

/-! ### The copy -/

/-- Bytes of a tile, from the data read: of a fixed side in the order of its accesses, kept by their names. -/
def ecnBytes (d : BitVec 256) (k : Nat) (got : List (Nat × List Byte)) : List Byte :=
  let n := min 4096 (eLen d - 4096 * k)
  if eSinc d then (List.range n).map fun i => gotByte got (eSrc d + 4096 * k + i)
  else (((sortU (got.map (·.1))).map fun q => (SMap.find got q).getD []).flatten).take n

/-- Once the reads of its tile have returned and a slot is free (R49), a chain's tile lies in the slot; one that parity has
spoilt is passed over. -/
def State.ecnForm (s : State) (m c sid : Nat) : State :=
  let h := s.ch m c
  let e := s.ecnCh (sid - 1024)
  let more := s.acc.any fun b => ofChan m c b && isEcnAcc b.kind && !b.wr
  if h.ph ≠ .ecnRun ∨ h.stop ≠ none ∨ e.abort = true ∨ h.slot ≠ none ∨ eTiles e.d ≤ h.tile ∨ more = true
      ∨ h.got = [] ∨ s.slotsFull m c = true then s
  else if h.bad then { s with par := { s.par with data := true } }.ecnTile m c sid (h.tile + 1)
  else
    let l := ecnBytes e.d h.tile h.got
    let beats := ceilDiv l.length 32
    (s.modCh m c fun y => { y with
      slot := some { tile := h.tile, bytes := l.zipIdx.map fun (b, i) =>
        (if eDinc e.d then eDst e.d + 4096 * h.tile + i else eDst e.d, b) }
      got := [], inB := beats, outB := beats }).pushStg m c sid h.tile true l.length

/-- Data of a chain's read arrives. -/
def State.ecnRead (s : State) (a : Access) (m c sid : Nat) (data : List Byte) (r : Resp) (parity : Bool) : State :=
  let s1 := s.delAcc a.aid
  let d := (s1.ecnCh (sid - 1024)).d
  if !respOk r then s1.ecnBus m c sid a 0x20 (respCode r) 0
  else
    let s2 := if parity then s1.dataParity m sid else s1
    let s3 := s2.modCh m c fun y => { y with
      got := (if eSinc d then a.pa else a.aid, data) :: y.got, bad := y.bad || parity }
    (s3.ecnForm m c sid).ecnSettle m c sid

/-- TILE_READY of a chain: the tile's writes are issued, beats that failed twice with their enables off. -/
def State.ecnWrite (s : State) (m c sid : Nat) (p : TileParity) : State :=
  let h := s.ch m c
  match h.slot with
  | none => s
  | some t =>
    if h.ph ≠ .ecnRun ∨ h.stop ≠ none ∨ (s.ecnCh (sid - 1024)).abort ∨ s.slotAwaits m c t.tile then s
    else
      let d := (s.ecnCh (sid - 1024)).d
      let s0 := s.modCh m c fun y => { y with inB := 0, outB := 0, slot := none }
      let off : List Nat := match p with
        | .beats l => (l.filter (·.2)).map (·.1)
        | _ => []
      let at' := (s.part ((sid - 1024) / 8)).ecnAttr.toNat
      let put := fun (st : State) (b : Nat × Nat) (data : List Byte) (en : List Bool) =>
        st.pushPhys { st.chanAcc m c sid (.ecnos t.tile) true b.1 b.2 with
          data := data, en := en, size := if eDinc d then 64 else b.2 } at'
      let issue := fun (st : State) =>
        if eDinc d then
          let bytes := lastWrites t.bytes
          let bad := (beatsOf 64 (t.bytes.map (·.1))).zipIdx.filterMap fun (b, i) => if off.contains i then some b else none
          (burstsOf 64 32 (t.bytes.map (·.1))).foldl (fun q b =>
            let as := (List.range b.2).map fun j => b.1 + j
            put q b (as.map fun a => (bytes.find a).getD 0)
              (as.map fun a => (bytes.find a).isSome && !bad.contains (a / 64))) st
        else
          let w := 2 ^ eFw d
          ((chunks w (t.bytes.map (·.2))).zipIdx).foldl (fun q (l, i) =>
            put q (eDst d, w) l (List.replicate w (!off.contains i))) st
      let s1 := match p with
        | .good => issue s0
        | .withheld => { s0.dataParity m sid with par := { (s0.dataParity m sid).par with data := true } }
        | .beats l => issue (s0.beatParity m sid l)
      (s1.pushStg m c sid t.tile false t.bytes.length).ecnTile m c sid (t.tile + 1)

/-- The response to a chain's write. -/
def State.ecnWritten (s : State) (a : Access) (m c sid : Nat) (r : Resp) : State :=
  let s1 := s.delAcc a.aid
  if respOk r then s1.ecnSettle m c sid else s1.ecnBus m c sid a 0x21 (respCode r) 1

/-! ### START and ABORT (R177, R190, R366) -/

/-- A START of channel n of partition p. -/
def State.ecnStartOp (s : State) (p n : Nat) : State :=
  let k := 8 * p + n
  let e := s.ecnCh k
  if e.busy then s
  else
    let err := fun (code : BitVec 8) => s.modEcnCh k fun x => { x with
      cur := BitVec.ofNat 48 (x.desc.toNat * 32), err := true, fcode := code }
    if (s.part p).ecnEn = false ∨ (s.part p).en = false then err 0x16
    else if s.retired 16 then err 0x48
    else
      let sid := 1024 + k
      let t := (s.part p).eten
      ((s.modEcnCh k fun x => { x with
        busy := true, next := BitVec.ofNat 48 (x.desc.toNat * 32) }).setStrmAt sid { Strm.reset with
          ten := t, tgen := s.genOf t, part := BitVec.ofNat 3 p }).makeReady sid

/-- An ABORT of channel n of partition p: at once where no burst is under way. -/
def State.ecnAbortOp (s : State) (p n : Nat) : State :=
  let k := 8 * p + n
  let sid := 1024 + k
  if (s.ecnCh k).busy = false then s
  else
    let s1 := s.modEcnCh k fun e => { e with abort := true }
    match s1.chans.find? fun e => e.2.act == some sid with
    | some (q, _) =>
      let (m, c) := (q / 4, q % 4)
      ((s1.modCh m c fun h => { h with slot := none, got := [], inB := 0, outB := 0 }).dropChan m c 0).ecnSettle m c sid
    | none => (s1.dropShadow sid).ecnEnd sid none

/-- A descriptor arrives (R43, R44). -/
def execEcnosDescriptor (m : Fin 64) (c : Fin 4) (data : List Byte) (r : Resp) (s : State) :
    Host.Outcome State Fault Refusal := .next (s.ecnDescriptorOp m c data r)

/-! ### Host writes (R335, R392) -/

/-- A RETAIN entry still in its drain is cancelled (R383). -/
def State.drainCancel (s : State) : State :=
  if s.pwr.state = 3 then
    { s with pwr := { s.pwr with
        state := 0
        canc := true
        rreq := false } }
  else s

/-- A read of the HOST port. -/
def isRead : Instr → Bool
  | .registerRead _ _ => true
  | _ => false

/-- A HOST access waits: in RETAIN, in its wake, and behind the accesses that wait (R384). -/
def State.hostHeld (s : State) : Bool := s.pwr.state == 4 || s.pwr.state == 5 || s.host.wait != []

/-- An access waits its turn; one met in RETAIN begins the wake (R383). -/
def State.hostHold (s : State) (c : Instr) : State :=
  { s with
    host := { s.host with wait := s.host.wait ++ [c] }
    pwr := if s.pwr.state = 4 then { s.pwr with
        state := 5
        lwake := 1 } else s.pwr }

/-- The access that has waited longest, where the block is ACTIVE again, and the state without it (R384). -/
def State.hostTurn (s : State) : Option (Instr × State) := match s.host.wait with
  | [] => none
  | c :: _ => if s.pwr.state = 4 ∨ s.pwr.state = 5 then none else some (c, { s with host := { s.host with wait := [] } })

/-- The accesses that go on waiting, behind the one that has been performed. -/
def State.hostRest (s t : State) : State := { t with host := { t.host with wait := s.host.wait.tail ++ t.host.wait } }

/-- A HOST write `c`, which acts by `f`, takes effect only in RUN (R335, R444). It wakes the block from DOZE and cancels a
RETAIN entry (R381, R383). In RETAIN and in its wake it is held (R384). -/
def State.hostDo (s : State) (c : Instr) (f : State → State) : State :=
  if !s.inRun || s.pins.host then s
  else if s.hostHeld then s.hostHold c
  else f s.awake.drainCancel

/-- A whole write of a register that has a row of its own: the port performs it, so a held half is discarded (R426). -/
def State.hostWrite (s : State) (c : Instr) (f : State → State) : State :=
  s.hostDo c fun u => f { u with host := { u.host with held := none } }

/-- A write of PT_ECN_CTRL.START (R177, R190). -/
def execEcnosStart (p n : Fin 8) (s : State) : Host.Outcome State Fault Refusal :=
  .next (s.hostWrite (.ecnosStart p n) fun t => t.ecnStartOp p n)

/-- A write of PT_ECN_CTRL.ABORT (R177). -/
def execEcnosAbort (p n : Fin 8) (s : State) : Host.Outcome State Fault Refusal :=
  .next (s.hostWrite (.ecnosAbort p n) fun t => t.ecnAbortOp p n)

end Sys2Proof.Machine
end

