-- ==== Sys2Proof/Machine/Events.lean ====
section
/-! DEFINITION. Answers of the memory system (R425) and what they cause: commands fetched, decode's reads, page walks,
source and list data, write responses, read-backs, flag writes, records, slot tables; and tiles ready to be written. -/

namespace Sys2Proof.Machine

/-! ### Faults on accesses that wait for a translation or a walk (R182, R194, R198, R202) -/


/-- An access cannot be made: a read ahead is given up (R168), else its stream freezes on a translation fault, or halts on a bus error of its walk. `rec` is
the report at a saved position. -/
def State.accFault (s : State) (a : Access) (frozen : Bool) (err : Option BusErr) (rec : Nat → FRec) : State :=
  if (s.findAcc a.aid).isNone then s
  else
    let s1 := s.delAcc a.aid
    match a.rq, a.kind with
    | .mover _, .prefetch _ => s1
    | .mover m, .decode place =>
      let r := (place, rec 0)
      let s2 := (match err with
        | some e => s1.latchErr m a.ch e
        | none => s1).modCh m a.ch fun h => { h with dflt := match h.dflt with
        | none => some r
        | some o => if frozen then (if o.2.resp == 0 && decide (placeOrd place < placeOrd o.1) then some r else some o)
            else if o.2.resp == 0 then some r else some o }
      if s2.decodeReads m a.ch = [] then State.goOn m a.ch a.sid (s2.decodeEnd m a.ch a.sid) else s2
    | .mover m, k =>
      match tileOf k with
      | some n => s1.beginStop m a.ch { tileStop frozen (!frozen) n (rec n) with err := err }
      | none =>
        let n := if k = .readBack then (s.ch m a.ch).tile else 0
        s1.beginStop m a.ch { frozen := frozen, stopAt := stopOf k, ntile := BitVec.ofNat 40 n, bus := !frozen, frec := rec n,
                              err := err }
    | _, .cqRec _ _ =>
      (match err with
        | some e => s1.latchErr a.who.1 a.who.2 e
        | none => s1).recordFault a.sid frozen (rec 0)
    | _, _ => s1

/-- A translation fault on an access, with code and level. -/
def State.xlatFault (s : State) (f : Access × Nat × Nat) : State :=
  match f.1.kind with
  | .rxWrite j => s.rxXlat j f
  | .rxRead j => s.rxXlat j f
  | _ => s.accFault f.1 true none fun n => s.xlatRec f.1.who.1 f.1.who.2 f.1 f.2.1 f.2.2 n

/-- Serve the walks that wait, and report the accesses that fault. -/
def State.pumpWalks (s : State) (p : Nat) : State :=
  match (s.xlU p).walk with
  | some _ => s
  | none =>
    let (s1, fs) := s.pumpWalk p (s.xlU p).queue []
    fs.foldl State.xlatFault s1

/-! ### Page walks (R182, R185, R187, R198, R363) -/

/-- Install the result of a walk that ended in a valid translation. -/
def State.installWalk (s : State) (p : Nat) (w : Walk) (mv : Option Nat) (e : TlbE) : State :=
  let s1 := s.modXlU p fun x => { x with
    l2 := useEntry 1024 e x.l2
    wc := w.path.foldl (fun l q => useEntry 64 q l) x.wc }
  match mv with
  | some m => s1.modMover m fun v => { v with utlb := useEntry 64 e v.utlb }
  | none => s1

/-- The report of a bus error on a walk's read, which is a read error (R193). -/
def State.walkBusRec (s : State) (a : Access) (pa resp n : Nat) : FRec :=
  { faultOf (s.strmAt a.sid) a.sid a.who.1 a.who.2 0x20 (kindOf a.kind) with
    part := BitVec.ofNat 3 a.part, dir := false, walk := true, pav := true, pa := BitVec.ofNat 48 pa, vav := true,
    va := BitVec.ofNat 48 a.lowVa, resp := BitVec.ofNat 8 resp, ntile := BitVec.ofNat 40 n }

/-- A bus error on a walk's read: the access it was made for cannot be made. -/
def State.walkBus (s : State) (a : Access) (pa resp : Nat) : State :=
  match a.kind with
  | .rxWrite j => match s.job j with
    | some q => s.failJob q 6 (some { s.walkBusRec a pa resp 0 with kind := 11 })
    | none => s
  | .rxRead j => match s.job j with
    | some q => s.failJob q 6 (some { s.walkBusRec a pa resp 0 with kind := 11 })
    | none => s
  | .prefetch _ => s.delAcc a.aid
  | _ =>
    s.accFault a false (some { dir := false, walk := true, resp := resp, kind := kindOf a.kind, va := a.lowVa, pa := pa })
      fun n => s.walkBusRec a pa resp n

/-- A walk ends without a result, and its lookup is made again before those that wait, from TR_ROOT.EN on (R184, R187). -/
def State.walkAgain (s : State) (p : Nat) (r : WalkReq) : State :=
  (s.modXlU p fun x => { x with walk := none, queue := r :: x.queue }).pumpWalks p

/-- WALK_READ_RESPONSE at partition p's walk engine. A walk that an invalidation has discarded goes on to its end, and
nothing of it is reported or installed (R187, R203). -/
def State.walkOp (s : State) (p : Nat) (entry : BitVec 64) (r : Resp) (parity : Bool) : State :=
  match (s.xlU p).walk, s.acc.find? fun a => a.rq == .walk && a.part == p && a.stage == .out && !a.drain with
  | some w, some a =>
    let s1 := s.delAcc a.aid
    let idle := s1.modXlU p fun x => { x with walk := none }
    match s1.findAcc w.req.aid with
    | none => idle.pumpWalks p
    | some b =>
      let lvl := w.lvl.toNat
      if parity then
        ((idle.modXlU p fun x => { x with wc := x.wc.filter fun e => !(e.ten == w.req.ten && e.gen == w.req.gen) }).cacheParity
          b.who.1 b.sid).walkAgain p w.req
      else if !respOk r then
        if w.discard then idle.walkAgain p w.req else (idle.walkBus b a.pa (respCode r)).pumpWalks p
      else
        match entryFault lvl entry with
        | some f => if w.discard then idle.walkAgain p w.req else (idle.xlatFault (b, f, lvl)).pumpWalks p
        | none =>
          if bit entry.toNat 1 then
            if w.discard then idle.walkAgain p w.req else
            let e := leafEntry w.req lvl entry
            match permRes e w.req.wr with
            | .hit _ => ((idle.installWalk p w (rqMover b.rq) e).translated b e).pumpWalks p
            | .fault f l => (idle.xlatFault (b, f, l)).pumpWalks p
            | .miss => idle
          else
            let tbl := BitVec.ofNat 36 (fld entry.toNat 12 36)
            let n : WcE := { ten := w.req.ten, gen := w.req.gen, lvl := w.lvl - 1, vtag := wcTag (lvl - 1) w.req.va, tbl := tbl }
            idle.walkRead p { w with lvl := w.lvl - 1, tbl := tbl, path := w.path ++ [n] }
  | _, _ => s

/-! ### Commands fetched (R153, R159, R166, R306) -/

/-- COMMAND_FETCHED: a ring slot, or a pair of program commands, has been read. -/
def State.fetchedOp (s : State) (m c : Nat) (data : List Byte) (r : Resp) : State :=
  let h := s.ch m c
  match h.act, s.acc.find? fun a => ofChan m c a && (a.kind == .ring || a.kind == .program) && a.stage == .out with
  | some sid, some a =>
    if h.ph ≠ .fetch ∨ h.stop ≠ none then s
    else
      let s1 := s.delAcc a.aid
      if !respOk r then s1.busError m c a (busCode false) (respCode r)
      else if a.kind = .ring then
        let s2 := s1.modSq sid fun q => { q with
          head := BitVec.ofNat 16 ((q.head.toNat + 1) % 2 ^ q.log2sz.toNat)
          outst := q.outst + 1 }
        State.goOn m c sid (s2.takeCmd m c sid (cmdOf data))
      else
        let x := s1.strmAt sid
        State.goOn m c sid ((s1.cacheIn x.part.toNat x.ten x.tgen a.va data).fetchNext m c sid)
  | _, _ => s

/-! ### Reads made at decode (R12, R80, R199, R307, R455) -/

/-- The bytes of a structure, from the bursts that read it. -/
def needBytes (got : List (Nat × List Byte)) (n : Need) : List Byte :=
  (List.range n.len).map fun i => gotByte got (n.addr + i)

/-- A bus error on a read of decode: the first to arrive is reported, in place of a translation fault of the group, and
later ones set OVF (R199). -/
def State.decodeBus (s : State) (m c : Nat) (a : Access) (resp : Nat) : State :=
  let place := match a.kind with
    | .decode p => p
    | _ => 0
  let r := (place, s.busRec m c a (busCode false) resp 0)
  (s.latchErr m c (busErrOf a resp)).modCh m c fun h => { h with dflt := match h.dflt with
    | none => some r
    | some o => if o.2.resp == 0 then some r else some o }

/-- A response to a read of a decode or of a slot table that is not the last one: its data is kept. The last one
returns with DECODE_READS_DONE or SLOT_TABLE_READ_DONE. -/
def State.earlyRead (s : State) (m c : Nat) (a : Access) (data : List Byte) (r : Resp) (parity : Bool) : State :=
  let h := s.ch m c
  let slots := a.kind == .slotTable
  let l := if slots then s.acc.filter fun b => ofChan m c b && b.kind == .slotTable else s.decodeReads m c
  if h.ph ≠ (if slots then .slots else .dreads) ∨ h.stop ≠ none ∨ l.length ≤ 1 then s
  else
    let s1 := s.delAcc a.aid
    if respOk r then s1.modCh m c fun y => { y with got := (a.va, data) :: y.got, bad := y.bad || parity }
    else if slots then s1.busError m c a (busCode false) (respCode r)
    else s1.decodeBus m c a (respCode r)

/-- DECODE_READS_DONE: the last read of a decode miss returns; `ds` answers the reads still outstanding, in the order of
their issue. -/
def State.decodeDoneOp (s : State) (m c : Nat) (ds : List (List Byte × Resp)) (parity : Bool) : State :=
  let h := s.ch m c
  let l := s.decodeReads m c
  match h.act with
  | none => s
  | some sid =>
    if h.ph ≠ .dreads ∨ h.stop ≠ none ∨ l = [] ∨ l.any (fun a => a.stage != .out) ∨ l.length ≠ ds.length then s
    else
      let s1 := (l.foldl (fun st a => st.delAcc a.aid) s).modCh m c fun y => { y with got := [], bad := false }
      if parity || h.bad then
        State.goOn m c sid (((s1.cacheParity m sid).modCh m c fun y => { y with dflt := none }).lookUp m c sid)
      else
        let pairs := l.zip ds
        let s2 := (pairs.filter fun e => !respOk e.2.2).foldl (fun st e => st.decodeBus m c e.1 (respCode e.2.2)) s1
        match (s2.strmAt sid).cmd with
        | none => s2
        | some k =>
          let x := s2.strmAt sid
          let got := h.got ++ pairs.filterMap fun (a, d, r) => if respOk r then some (a.va, d) else none
          let whole := fun (n : Need) => (needBursts n).all fun b => got.any fun g => g.1 == b.1 && g.2.length == b.2
          let new := (needsOf k).filter fun n => k.missing.contains n.place && whole n
          let s3 := new.foldl (fun st n => st.keepCopy x.part.toNat x.ten x.tgen n (needBytes got n)) s2
          let s4 := s3.modCmd sid fun y => { y with
            got := new.foldl (fun g n => SMap.ins g n.place (needBytes got n)) y.got
            missing := [] }
          if (s4.ch m c).dflt.isSome then State.goOn m c sid (s4.decodeEnd m c sid)
          else State.goOn m c sid (s4.lookUp m c sid)

/-! ### Accesses of the management core and of the boot sequencer (R330, R331, R413, R417) -/

/-- Write bytes to far memory from a physical address on FAR0 (R270, R331), in bursts of at most 32 beats, with the AxCACHE
of a memory attribute. -/
def State.far0Write (s : State) (kind : AKind) (attr addr : Nat) (l : List Byte) : State :=
  (burstsOf 64 32 ((List.range l.length).map fun i => addr + i)).foldl (fun st b =>
    let at' := fun (i : Nat) => b.1 + i - addr
    let own := (List.range b.2).map fun i => decide (addr ≤ b.1 + i ∧ b.1 + i < addr + l.length)
    st.pushFar0 { blankAcc 8 .mgmt 0 kind true b.1 b.2 with
      data := (List.range b.2).map fun i => if addr ≤ b.1 + i then l.getD (at' i) 0 else 0
      en := own
      cache := attrCache attr }) s

/-- A far access of the management core that finds the block in RETAIN wakes it (R383, R414). -/
def State.mgmtWake (s : State) : State :=
  if s.pwr.state = 4 then { s with pwr := { s.pwr with
      state := 5
      lwake := 5 } }
  else s

/-- Writes of the management core, with AxCACHE 0 (R413). -/
def State.mgmtWrite (s : State) (kind : AKind) (addr : Nat) (l : List Byte) : State := s.mgmtWake.far0Write kind 0 addr l

/-- Reads of `n` bytes of an image by the management core, in bursts of at most 32 beats (R413, R415). -/
def State.mgmtReads (s : State) (addr n : Nat) : State :=
  ((List.range ((n + 2047) / 2048)).map fun i => (addr + 2048 * i, min 2048 (n - 2048 * i))).foldl
    (fun st b => st.pushFar0 (blankAcc 8 .mgmt 0 .mbRead false b.1 b.2)) s.mgmtWake

/-- Write the captured contact sheet to MG_CSADDR, if it is due. -/
def State.sheetOut (s : State) : State :=
  match s.mg.cs, s.mg.csOut with
  | some l, none =>
    if s.mg.csDue ≠ 9 then s else
    ({ s with mg := { s.mg with
        cs := none
        csOut := some (l.length, false) } }).mgmtWrite .sheet (s.mg.csAddr.toNat * 64) l
  | _, _ => s

/-- The contact sheet that waited for the event `n` is due, and is written (R417). -/
def State.sheetDue (s : State) (n : Nat) : State :=
  if s.mg.csDue = n then { s with mg := { s.mg with csDue := 9 } }.sheetOut else s

/-- An access of the script has ended in an error (R330, R337). -/
def State.scriptLost (s : State) : State := { s with boot := { s.boot with lost := true } }

/-- A write of the DATA copy has ended in an error: the copies not yet granted are not made (R331). -/
def State.copyLost (s : State) : State :=
  { s with
    boot := { s.boot with lost := true }
    acc := s.acc.filter fun (a : Access) => !(a.kind == .bootData && a.stage != .out) }

/-- An access of the management core or of the boot sequencer has its response; a newer contact sheet follows one that has
been written, which event 0x41 records. -/
def State.mgmtWritten (s : State) (k : AKind) (ok : Bool) : State :=
  match k with
  | .mgmt => { s with mg := { s.mg with work := s.mg.work.map fun w => { w with bus := w.bus || !ok } } }
  | .mbRead => { s with mg := { s.mg with work := s.mg.work.map fun w => { w with bus := w.bus || !ok } } }
  | .script => if ok then s else s.scriptLost
  | .bootData => if ok then s else s.copyLost
  | .sheet =>
    match s.mg.csOut with
    | none => s
    | some (n, bad) =>
      if s.acc.any fun a => a.kind == .sheet then { s with mg := { s.mg with csOut := some (n, bad || !ok) } }
      else
        let s1 := { s with mg := { s.mg with csOut := none } }
        (if ok && !bad then s1.logEvent 0x41 0xFF n else s1).sheetOut
  | _ => s

/-! ### Source, list and receive reads (R63, R126, R130, R363) -/

/-- Entry e of a list, from the bytes read (R120). -/
def listEntry (c : BitVec 512) (got : List (Nat × List Byte)) (e : Nat) : List Int :=
  let a := entAddr c e
  let word := fun (o n : Nat) => leNat ((List.range n).map fun i => gotByte got (a + o + i))
  if cIfmt c = 0 then [(word 0 2 : Int)]
  else (List.range (popcount (cImask c) 5)).map fun j => sgn (word (4 * j) 4) 32

/-- The list reads of tile n have all returned: its entries are known, and its reads start; a list that parity has
spoilt withholds the tile. -/
def State.listDone (s : State) (m c sid n : Nat) : State :=
  match (s.strmAt sid).cmd with
  | none => s
  | some k =>
    let h := s.ch m c
    if h.bad then (s.withhold m c sid n).startTile m c sid (n + 1)
    else
      let g := runGeo (s.strmAt sid) k
      let es := (g.tileEntries n).filter fun e => (g.entry e).isNone
      let idx := es.foldl (fun (l : SMap (List Int)) e => l.ins e (listEntry k.raw h.got e)) k.idx
      let k1 := { k with idx := idx }
      let s1 := (s.modCmd sid fun y => { y with idx := idx }).modCh m c fun y => { y with got := [] }
      match s1.startReads m c sid n k1 (runGeo (s1.strmAt sid) k1) with
      | (s2, true) => s2.advanceTile m c sid n
      | (s2, false) => s2

/-- SOURCE_READ_RESPONSE. -/
def State.sourceOp (s : State) (aid : Nat) (data : List Byte) (r : Resp) (parity : Bool) : State :=
  match s.findAcc aid with
  | none => s
  | some a =>
    if a.stage ≠ .out ∨ a.wr = true then s
    else
      let s1 := s.delAcc aid
      match a.rq with
      | .mover m =>
        match (s.ch m a.ch).act, a.kind with
        | _, .rxRead j => if a.drain then s1 else s1.jobAnswer j a r data
        | none, _ => if a.drain then (if respOk r then s1 else s1.lateRead m a (respCode r)) else s
        | some sid, k =>
          if isEcn sid then
            if a.drain then (if respOk r then s1 else s1.lateRead m a (respCode r)).ecnSettle m a.ch sid
            else if (s.ch m a.ch).ph = .ecnRun then s.ecnRead a m a.ch sid data r parity else s
          else if a.drain then (if respOk r then s1 else s1.lateRead m a (respCode r)).settle m a.ch
          else match tileOf k with
            | none => match k with
              | .decode _ => s.earlyRead m a.ch a data r parity
              | .slotTable => s.earlyRead m a.ch a data r parity
              | .prefetch n => s1.aheadRead m sid n a data r parity
              | _ => s
            | some n =>
              if a.phys && (!respOk r || parity) then
                (if parity then s1.cacheParity m sid else s1).readAgain m sid n a
              else if !respOk r then (s1.busError m a.ch a (busCode false) (respCode r)).settle m a.ch
              else
                let s2 := if parity then s1.dataParity m sid else s1
                let s3 := s2.modCh m a.ch fun h => { h with got := (a.va, data) :: h.got, bad := h.bad || parity }
                if k = .list n then
                  if s3.readsOut m a.ch n then s3 else s3.listDone m a.ch sid n
                else s3.advanceTile m a.ch sid n
      | .mgmt =>
        if a.drain then s1
        else match a.kind with
          | .script => s
          | k => s1.mgmtWritten k (respOk r)
      | _ => if a.drain then s1 else s

/-! ### Tiles -/

/-- TILE_READY, of a command or of an Ecnos chain. -/
def State.tileOp (s : State) (m c : Nat) (p : TileParity) : State :=
  match (s.ch m c).act with
  | none => s
  | some sid => if isEcn sid then s.ecnWrite m c sid p else s.tileReadyOp m c p

/-! ### Slot step boundaries (R134 to R139) -/

/-- An entry of the slot table as read. -/
structure SlotEnt where
  n : Nat
  req : Nat
  seq : Nat
  low : Nat                     -- byte 2: STATE and ERR
  ack : Nat
  rsv : Nat
  soff : BitVec 48
  doff : BitVec 48
deriving DecidableEq, Repr

/-- The 256 entries. -/
def slotEnts (l : List Byte) : List SlotEnt :=
  (chunks 32 l).zipIdx.map fun (e, n) =>
    { n := n, req := bfld e 0 0 2, seq := bfld e 1 0 8, low := bfld e 2 0 8, ack := bfld e 3 0 8, rsv := bfld e 4 0 16,
      soff := BitVec.ofNat 48 (bfld e 8 0 48), doff := BitVec.ofNat 48 (bfld e 16 0 48) }

/-- What a boundary has done so far: slots, units in use, outcomes by slot (STATE, ERR, acknowledged), order of
deferrals. -/
structure Bnd where
  slots : SMap Slot
  bs : Nat
  sp : Nat
  out : SMap (BitVec 3 × Bool × Bool)
  ord : Nat
deriving DecidableEq, Repr

/-- An EMPTY slot. -/
def Slot.empty : Slot := { st := 0, rsv := 0, soff := 0, doff := 0, ord := 0, units := [] }

/-- A LEAVE, a CANCEL, a request without effect, or a JOIN of an occupied slot (R137). -/
def Bnd.leave (b : Bnd) (e : SlotEnt) : Bnd :=
  let o := (b.slots.find e.n).getD Slot.empty
  let gone := (e.req = 2 ∧ o.st ≠ 0) ∨ (e.req = 3 ∧ o.st = 3)
  if gone then
    { b with
      slots := b.slots.del e.n
      bs := if o.st = 1 then b.bs - o.rsv.toNat else b.bs
      sp := if o.st = 2 then b.sp - o.rsv.toNat else b.sp
      out := b.out.ins e.n (0, false, true) }
  else { b with out := b.out.ins e.n (o.st, false, true) }

/-- A join tried (R136, R137). -/
def Bnd.join (p : Part) (b : Bnd) (e : SlotEnt) : Bnd :=
  let o := (b.slots.find e.n).getD Slot.empty
  let new : Slot := { st := 0, rsv := BitVec.ofNat 16 e.rsv, soff := e.soff, doff := e.doff, ord := 0, units := [] }
  if e.rsv = 0 ∨ e.rsv > 256 then
    { b with
      slots := b.slots.del e.n
      out := b.out.ins e.n (0, true, true) }
  else if b.bs + e.rsv ≤ p.bsa.toNat then
    { b with
      slots := b.slots.ins e.n { new with st := 1 }
      bs := b.bs + e.rsv
      out := b.out.ins e.n (1, false, true) }
  else if p.spillEn = true ∧ b.sp + e.rsv ≤ p.spillSz.toNat then
    { b with
      slots := b.slots.ins e.n { new with st := 2 }
      sp := b.sp + e.rsv
      out := b.out.ins e.n (2, false, true) }
  else
    { b with
      slots := b.slots.ins e.n { new with st := 3, ord := if o.st = 3 then o.ord else b.ord }
      ord := b.ord + 1
      out := b.out.ins e.n (3, false, false) }

/-- The boundary's requests in the order of R136. -/
def Bnd.run (p : Part) (b : Bnd) (es : List SlotEnt) : Bnd :=
  let pend := es.filter fun e => e.seq != e.ack
  let stOf := fun (e : SlotEnt) => ((b.slots.find e.n).getD Slot.empty).st
  let tries := fun (e : SlotEnt) => e.req == 1 && (stOf e == 0 || stOf e == 3)
  let old := ((pend.filter fun e => tries e && stOf e == 3).foldl (fun (l : SMap SlotEnt) e =>
    l.ins ((b.slots.find e.n).getD Slot.empty).ord e) []).map (·.2)
  let new := pend.filter fun e => tries e && stOf e == 0
  (old ++ new).foldl (Bnd.join p) ((pend.filter fun e => !tries e).foldl Bnd.leave b)

/-- Slots that are newly SPILLED take units of the spill area, of those that no other window or slot holds; answers the
slots and the free values drawn (R245). -/
def placeSlots (seed : Nat) (free : List Nat) (l : SMap Slot) : SMap Slot × Nat :=
  (l.filter fun e => e.2.st == 2 && e.2.units == []).foldl (fun (st : SMap Slot × Nat) e =>
    let taken := slotUnits st.1
    let us := pickUnits st.2 e.2.rsv.toNat (free.filter fun u => !taken.contains u)
    (st.1.ins e.1 { e.2 with units := us }, st.2 + e.2.rsv.toNat)) (l, seed)

/-- SLOT_TABLE_READ_DONE: the last of the table's four bursts returns; `data` holds the bursts still outstanding, in
order. The slots it leaves take effect once their entries have been written (R135). -/
def State.slotTableOp (s : State) (m c : Nat) (data : List Byte) (r : Resp) : State :=
  let h := s.ch m c
  let l := s.acc.filter fun a => ofChan m c a && a.kind == .slotTable
  match h.act, l with
  | some sid, a :: _ =>
    if h.ph ≠ .slots ∨ h.stop ≠ none ∨ l.any (fun b => b.stage != .out) = true then s
    else
      let s1 := (l.foldl (fun st b => st.delAcc b.aid) s).modCh m c fun y => { y with got := [] }
      if !respOk r then s1.busError m c a (busCode false) (respCode r)
      else
        let x := s1.strmAt sid
        let p := s1.part x.part.toNat
        let got := h.got ++ (l.zip (chunks 2048 data)).map fun (b, d) => (b.va, d)
        let base := (got.map (·.1)).foldl min a.va
        let es := slotEnts ((List.range 8192).map fun i => gotByte got (base + i))
        let b := Bnd.run p { slots := x.slots, bs := p.bsUsed, sp := p.spUsed, out := [], ord := s1.seq } es
        let (slots, free) := placeSlots s1.free (s1.freeUnits x.part.toNat (some sid)) b.slots
        let s2 := (s1.moveSpace x.part.toNat (slotSpace x.slots) (bndSpace x.slots slots)).modCh m c fun y =>
          { y with bnd := some slots }
        let s3 := { s2 with seq := b.ord, free := free }
        let writes := es.filterMap fun e => (b.out.find e.n).bind fun (st, err, ack) =>
          let low := st.toNat + 8 * b2n err
          let a8 := if ack then e.seq else e.ack
          if low = e.low ∧ a8 = e.ack then none
          else some { s3.chanAcc m c sid .slotWrite true (base + 32 * e.n + 2) 2 with
            data := [BitVec.ofNat 8 low, BitVec.ofNat 8 a8]
            en := [true, true] }
        if writes = [] then s3.slotsDone m c sid
        else State.goOn m c sid (s3.makeOr m c writes 0)
  | _, _ => s

/-! ### Write responses (R59, R129, R172, R208) -/

/-- The response to a slot table write: the last one ends the boundary. -/
def State.slotWritten (s : State) (m c sid : Nat) : State :=
  let h := s.ch m c
  if h.stop.isSome then s.settle m c
  else if h.ph = .slots ∧ s.acc.any (fun a => ofChan m c a && a.kind == .slotWrite) = false then s.slotsDone m c sid
  else s

/-- WRITE_RESPONSE. -/
def State.writeRespOp (s : State) (aid : Nat) (r : Resp) : State :=
  match s.findAcc aid with
  | none => s
  | some a =>
    if a.stage ≠ .out ∨ a.wr = false then s
    else
      let s1 := s.delAcc aid
      let ok := respOk r
      match a.rq, a.kind with
      | _, .cqRec _ _ => s
      | _, .fqRec _ => s
      | _, .flag => if a.drain then s1 else s
      | _, .script => if a.drain then s1 else s
      | .mover m, .dest n =>
        let cnt := (a.en.filter id).length
        let s2 := if ok && (s.ch m a.ch).act == some a.sid then
            s1.modCmd a.sid fun k => { k with ok := k.ok.ins n ((k.ok.find n).getD 0 + cnt) } else s1
        if a.drain then s2
        else
          (if ok then s2 else s2.busError m a.ch a (busCode true) (respCode r)).settle m a.ch
      | .mover m, .slotWrite =>
        if a.drain then s1
        else if ok then s1.slotWritten m a.ch a.sid
        else (s1.busError m a.ch a (busCode true) (respCode r)).settle m a.ch
      | .mover m, .glacWrite | .mover m, .recWrite =>
        if ok || a.drain then s1
        else (s1.latchErr m a.ch (busErrOf a (respCode r))).pushFault a.part (s1.busRec m a.ch a (busCode true) (respCode r) 0)
      | .mover _, .rxWrite j => if a.drain then s1 else s1.jobAnswer j a r []
      | .mover m, .spillWrite n sp => (if a.drain || !ok then s1 else s1.aheadSpilled m n sp a).settle m a.ch
      | .mover m, .ecnos _ => if a.drain then s1 else s.ecnWritten a m a.ch a.sid r
      | .mgmt, k => if a.drain then s1 else s1.mgmtWritten k ok
      | _, _ => s1

/-- READ_BACK_RESPONSE (R170). -/
def State.readBackOp (s : State) (aid : Nat) (r : Resp) : State :=
  match s.findAcc aid with
  | none => s
  | some a =>
    match a.rq with
    | .mover m =>
      if a.stage ≠ .out ∨ a.kind ≠ .readBack then s
      else
        let s1 := s.delAcc aid
        if a.drain then s1.settle m a.ch
        else if respOk r then s1.cmdDone m a.ch a.sid
        else s1.busError m a.ch a (busCode false) (respCode r)
    | _ => s

/-- FLAG_WRITE_RESPONSE (R146). -/
def State.flagOp (s : State) (aid : Nat) (r : Resp) : State :=
  match s.findAcc aid with
  | none => s
  | some a =>
    match a.rq with
    | .mover m =>
      if a.stage ≠ .out ∨ a.kind ≠ .flag then s
      else
        let s1 := s.delAcc aid
        if a.drain then s1
        else if respOk r then
          match (s1.strmAt a.sid).cmd with
          | some k => s1.sigApply m a.ch a.sid k
          | none => s1
        else s1.busError m a.ch a (busCode true) (respCode r)
    | _ => s

/-! ### Records (R159, R160, R191, R202, R215) -/

/-- A queue's stream that is ARMED with a slot to read becomes READY (R159, R163). -/
def State.queueReady (s : State) (q : Nat) : State :=
  let x := s.strmAt q
  if x.st = .armed ∧ x.pers = false ∧ s.readable q = true then s.makeReady q else s

/-- After records have become visible: the queues they came from. -/
def State.queuesReady (s : State) (l : List Nat) : State := l.foldl State.queueReady s

/-- The record in a slot of queue c is written, or given up: TAIL passes it in its turn (R160). -/
def State.recordLanded (s : State) (c slot : Nat) : State :=
  let s1 := s.modCq c fun q => { q with
    given := q.given.map fun g => if g.slot = slot then { g with done := true } else g }
  (s1.cqAdvance c (s1.cq c).given).queuesReady ((s1.cq c).given.map fun g => g.item.queue.toNat)

/-- COMPLETION_RECORD_WRITTEN. -/
def State.cqWrittenOp (s : State) (aid : Nat) (r : Resp) : State :=
  match s.findAcc aid with
  | none => s
  | some a =>
    match a.kind with
    | .cqRec c slot =>
      if a.stage ≠ .out then s
      else
        let s1 := s.delAcc aid
        let next := s.acc.any fun b => b.aid != aid && b.kind == a.kind && !b.drain
        if a.drain && next then s1
        else if respOk r || a.drain then s1.recordLanded c slot
        else
          let m := a.mv.getD 0
          let f := s1.busRec m a.ch a (busCode true) (respCode r) 0
          (s1.latchErr m a.ch (busErrOf a (respCode r))).recordFault a.sid false f
    | _ => s

/-- FAULT_RECORD_WRITTEN. -/
def State.fqWrittenOp (s : State) (aid : Nat) (r : Resp) : State :=
  match s.findAcc aid with
  | none => s
  | some a =>
    match a.kind with
    | .fqRec p =>
      if a.stage ≠ .out then s else (s.delAcc aid).fqAnswered a p (respOk r)
    | _ => s

/-! ### The events -/

/-- A command has been read (R306). -/
def execCommandFetched (m : Fin 64) (c : Fin 4) (data : List Byte) (r : Resp) (s : State) :
    Host.Outcome State Fault Refusal := .next (s.fetchedOp m c data r)

/-- The reads of a decode miss have returned (R307). -/
def execDecodeReadsDone (m : Fin 64) (c : Fin 4) (ds : List (List Byte × Resp)) (parity : Bool) (s : State) :
    Host.Outcome State Fault Refusal := .next (s.decodeDoneOp m c ds parity)


/-- A tile's writes are issued (R309). -/
def execTileReady (m : Fin 64) (c : Fin 4) (parity : TileParity) (s : State) : Host.Outcome State Fault Refusal :=
  .next (s.tileOp m c parity)

/-- A read-back's response arrives (R170). -/
def execReadBackResponse (aid : Nat) (r : Resp) (s : State) : Host.Outcome State Fault Refusal :=
  .next (s.readBackOp aid r)

/-- A flag write's response arrives (R146). -/
def execFlagWriteResponse (aid : Nat) (r : Resp) (s : State) : Host.Outcome State Fault Refusal :=
  .next (s.flagOp aid r)

/-- A command's completion phase (R310). -/
def execCommandComplete (m : Fin 64) (c : Fin 4) (s : State) : Host.Outcome State Fault Refusal :=
  .next (s.completeOp m c)

/-- A completion record's response arrives (R215). -/
def execCompletionRecordWritten (aid : Nat) (r : Resp) (s : State) : Host.Outcome State Fault Refusal :=
  .next (s.cqWrittenOp aid r)

/-- A fault record's response arrives (R191). -/
def execFaultRecordWritten (aid : Nat) (r : Resp) (s : State) : Host.Outcome State Fault Refusal :=
  .next (s.fqWrittenOp aid r)

/-- A slot table has been read (R135). -/
def execSlotTableReadDone (m : Fin 64) (c : Fin 4) (data : List Byte) (r : Resp) (s : State) :
    Host.Outcome State Fault Refusal := .next (s.slotTableOp m c data r)

end Sys2Proof.Machine
end

