-- ==== Sys2Proof/Machine/Sched.lean ====
section
/-! DEFINITION. The Queue Sequencers (R251 to R254, R312), glacier records (R176), record parity (R365, R366), and the
core clock: array grants (R65), burst issue (R169), charged cycles (R251, R252). -/

namespace Sys2Proof.Machine

/-! ### Placement (R343, R348, R372, R382) -/

/-- No stream is placed on the Mover. -/
def State.noPlace (s : State) (m : Nat) : Bool :=
  !s.inRun || s.pins.core || (s.mover m).oos || (s.mover m).phase != 0 || s.moverFenced m || decide (2 ≤ s.pwr.state.toNat)

/-! ### Quarantine (R365, R366) -/

/-- A stream leaves its channel at once: nothing more of it is issued, and what is outstanding is awaited without
effect. -/
def State.evict (s : State) (m c : Nat) : State :=
  match (s.ch m c).act with
  | none => s
  | some sid =>
    let s1 := s.dropChan m c 0
    let s2 := { s1 with
      acc := s1.acc.map fun a => if ofChan m c a then { a with drain := true, after := false } else a
      stg := s1.stg.filter fun r => !(r.mv == m && r.ch == c)
      peer := { s1.peer with rem := s1.peer.rem.filter fun r => !(r.mv == m && r.ch == c) } }
    ((s2.endBoundary m c sid false).freeWindow m c (s2.strmAt sid).part.toNat).modCh m c Chan.vacate

/-- The channel that runs a stream. -/
def State.chanOf (s : State) (sid : Nat) : Option (Nat × Nat) :=
  (s.chans.find? fun e => e.2.act == some sid).map fun e => (e.1 / 4, e.1 % 4)

/-- The channel's shadow stream becomes RUNNING, or homed streams may take the channel. -/
def State.refill (s : State) (m c : Nat) : State :=
  match (s.ch m c).shadow with
  | some n => s.startStream m c n
  | none => s.wakeHome m c

/-- A stream goes to QUARANTINED, with its fault record (R365). -/
def State.quarantine (s : State) (sid : Nat) : State :=
  let x := s.strmAt sid
  if x.st = .empty ∨ x.st = .quarantined then s
  else
    let at' := s.chanOf sid
    let s1 := match at' with
      | some (m, c) => s.evict m c
      | none => s
    let s2 := ((s1.dropShadow sid).discardPending sid).unpin sid
    let y := s2.strmAt sid
    let s3 := (s2.freeSlots y.part.toNat y.slots).setStrmAt sid { y with
      st := .quarantined, wait := .none, stopAt := .none, cmd := none, abortHeld := false, rpend := none, slots := [],
      recStop := none }
    let s4 := if isEcn sid then s3.modEcnCh (sid - 1024) fun e =>
        if e.busy then { e with busy := false, abort := false, err := true, fcode := 0x48 } else e
      else s3
    let s5 := ((s4.refreshActive x.ten.toNat).wakeUp).pushFault x.part.toNat { faultOf x sid 0 0 0x48 10 with pc := 0 }
    match at' with
    | some (m, c) => s5.refill m c
    | none => s5

/-- Streams of a granule, by ID. -/
def State.granStreams (s : State) (g : Nat) : List Nat := (s.strms.filter fun e => e.1 / 64 == g && decide (e.1 < glacBase)).map (·.1)

/-- The partition that owns granule g; 0xFF where none does, and for granule 16, which all share (R242). -/
def State.granPart (s : State) (g : Nat) : Nat :=
  ((List.range 8).find? fun p =>
    let x := s.part p
    (decide (g < 16) && x.qen && decide (x.qglo.toNat ≤ g ∧ g ≤ x.qghi.toNat))
      || (decide (17 ≤ g) && x.ren && decide (x.rglo.toNat ≤ g ∧ g ≤ x.rghi.toNat))).getD 0xFF

/-- The partition that owns a stream ID; 0xFF where none does (R242, R246). -/
def State.idPart (s : State) (sid : Nat) : Nat :=
  if isEcn sid then (sid - 1024) / 8
  else if sid < glacBase then s.granPart (granOf sid)
  else ((List.range 8).find? fun p =>
    let x := s.part p
    decide (glacBase + x.gfirst.toNat ≤ sid ∧ sid < glacBase + x.gfirst.toNat + x.gcnt.toNat)).getD 0xFF

/-- A granule is retired: its streams are quarantined (R366). -/
def State.retire (s : State) (g : Nat) : State :=
  (s.granStreams g).foldl State.quarantine
    ({ s with granRet := s.granRet.put false g true }.logEvent 0x23 (s.granPart g) g)

/-- A record fails its parity or check value when it is read (R365, R366, R370). -/
def State.recordParity (s : State) (sid : Nat) : State :=
  let s1 := ({ s with par := { s.par with recE := true, rcnt := satInc s.par.rcnt } }.logEvent 0x21 (s.idPart sid) sid).quarantine sid
  if sid < glacBase then
    let g := granOf sid
    let n := s1.granErr.get 0 g + 1
    let s2 := { s1 with granErr := s1.granErr.put 0 g n }
    if n ≥ 3 ∧ s2.retired g = false then s2.retire g else s2
  else s1

/-! ### Choosing a stream (R253, R254) -/

/-- Whether a READY stream may be chosen for a channel of Mover m of partition p. -/
def State.chooseable (s : State) (p m : Nat) (x : Strm) : Bool :=
  x.st == .ready && x.part.toNat == p && !s.soloBars m x.ten && !s.tenFenced x.ten

/-- In a shadow set, or being read for one. -/
def State.shadowed (s : State) (sid : Nat) : Bool := s.chans.any fun e => e.2.shadow == some sid || e.2.loading == some sid

/-- Rank of a stream: its tenant's virtual time, when that tenant had a stream placed, and how long it is READY. -/
def State.rank (s : State) (e : Nat × Strm) : Nat × Nat × Nat :=
  let t := s.ten e.2.ten.toNat
  (t.vt.toNat, t.placed, e.2.readySeq)

/-- Order of ranks. -/
def rankLt (a b : Nat × Nat × Nat) : Bool :=
  decide (a.1 < b.1) || (a.1 == b.1 && (decide (a.2.1 < b.2.1) || (a.2.1 == b.2.1 && decide (a.2.2 < b.2.2))))

/-- The stream of least rank. -/
def State.best (s : State) (l : List (Nat × Strm)) : Option Nat :=
  (l.foldl (fun (o : Option (Nat × Strm)) e => match o with
    | none => some e
    | some b => if rankLt (s.rank e) (s.rank b) then some e else some b) none).map (·.1)

/-- The choice for a channel. -/
def State.choose (s : State) (p m c : Nat) : Option Nat :=
  let ok := s.strms.filter fun e => s.chooseable p m e.2 && !s.shadowed e.1
  let homed := ok.filter fun e => e.2.hen && e.2.hmv.toNat == m && e.2.hch.toNat == c
  s.best (if homed ≠ [] then homed else ok.filter fun e => !e.2.hen)

/-- A stream of another channel's shadow set that an idle channel may take: the one chosen longest ago (R253). -/
def State.stealable (s : State) (p m : Nat) : Option (Nat × Nat) :=
  (s.chans.foldl (fun (o : Option (Nat × Nat × Nat)) e => match e.2.shadow with
    | none => o
    | some k =>
      let x := s.strmAt k
      if s.chooseable p m x && !x.hen then
        match o with
        | some b => if e.2.shSeq < b.2.2 then some (e.1, k, e.2.shSeq) else o
        | none => some (e.1, k, e.2.shSeq)
      else o) none).map fun b => (b.1, b.2.1)

/-- A stream whose record has been read goes to the channel: RUNNING if it is idle, else into the shadow set. -/
def State.placeOn (s : State) (m c sid : Nat) : State :=
  if (s.ch m c).act.isSome then
    { s.modCh m c fun h => { h with shadow := some sid, shSeq := s.seq } with seq := s.seq + 1 }
  else s.startStream m c sid

/-- SEQUENCER_CHOICE for channel c of Mover m by partition p; `parity` tells that the record read fails its check. The
choice wakes the Mover (R379). -/
def State.chooseOp (s : State) (p m c : Nat) (parity : Bool) : State :=
  let h := s.ch m c
  if (s.part p).en = false ∨ (s.part p).mvmask.getLsbD m = false ∨ s.noPlace m = true ∨ h.shadow.isSome = true
      ∨ h.loading.isSome = true then s
  else match s.choose p m c with
    | some sid =>
      let s0 := s.modMover m fun v => { v with gated := false }
      if sid < glacBase then
        if parity || (s.strmAt sid).bad != 0 then s0.recordParity sid else s0.placeOn m c sid
      else
        (s0.modCh m c fun y => { y with loading := some sid }).pushPhys
          { blankAcc p .record c (.glacRead m c) false (s.glacAddr p sid) 64 with
            sid := sid, ten := (s.strmAt sid).ten, gen := (s.strmAt sid).tgen }
          (s.part p).glacAttr.toNat
    | none =>
      if h.act.isSome then s
      else match s.stealable p m with
        | none => s
        | some (k, sid) => (s.modChan k fun y => { y with shadow := none }).startStream m c sid

/-- GLACIER_RECORD_LOADED (R176): the content is checked, and the stream goes to the channel or to QUARANTINED. -/
def State.glacierOp (s : State) (aid : Nat) (data : List Byte) (r : Resp) : State :=
  match s.findAcc aid with
  | none => s
  | some a =>
    match a.kind with
    | .glacRead m c =>
      if a.stage ≠ .out then s
      else
        let s1 := s.delAcc aid
        if a.drain || (s.ch m c).loading != some a.sid then s1
        else
          let s2 := s1.modCh m c fun h => { h with loading := none }
          if !respOk r || crc32c (data.take 60) != leNat ((data.drop 60).take 4) then s2.recordParity a.sid
          else if (s2.strmAt a.sid).st = .ready ∧ s2.noPlace m = false then s2.placeOn m c a.sid
          else s2
    | _ => s

/-! ### The array (R50, R65, R66) -/

/-- Whether a channel has a beat ready on a side. -/
def Chan.beat (h : Chan) (side : Side) : Bool :=
  h.slot.isSome && h.stop == none && (match side with
    | .input => decide (0 < h.inB)
    | .output => decide (0 < h.outB))

/-- Consecutive cycles lost on a side. -/
def Chan.lost (h : Chan) (side : Side) : Nat := match side with
  | .input => h.inLoss
  | .output => h.outLoss

/-- DPRI of the data command that a channel runs; it is ignored for other commands (R141), and an Ecnos chain has 0. -/
def State.dpri (s : State) (m c : Nat) : Nat :=
  match (s.ch m c).act with
  | none => 0
  | some sid => match (s.strmAt sid).cmd with
    | none => 0
    | some k => if isData k.raw then cDpri k.raw else 0

/-- Next in turn after channel `t` among candidates. -/
def inTurn (t : Nat) (l : List Nat) : Option Nat := [t + 1, t + 2, t + 3, t + 4].map (· % 4) |>.find? fun c => l.contains c

/-- The winner among channels: the aged ones first, else those of the highest priority, each in turn. -/
def State.winner (s : State) (m turn : Nat) (l : List Nat) (lost : Nat → Nat) : Option Nat :=
  let aged := l.filter fun c => decide (31 ≤ lost c)
  let top := (l.map (s.dpri m)).foldl max 0
  inTurn turn (if aged ≠ [] then aged else l.filter fun c => s.dpri m c == top)

/-- Channels of m with a beat ready on a side. -/
def State.beats (s : State) (m : Nat) (side : Side) : List Nat := [0, 1, 2, 3].filter fun c => (s.ch m c).beat side

/-- Last winner of a side. -/
def Mover.turnOf (v : Mover) (side : Side) : Nat := match side with
  | .input => v.turnI
  | .output => v.turnO

/-- One cycle of a side, won by channel w. -/
def State.arrayGrant (s : State) (m : Nat) (side : Side) (l : List Nat) (w : Nat) : State :=
  let s1 := l.foldl (fun st c => st.modCh m c fun h => match side with
    | .input => if c = w then { h with inB := h.inB - 1, inLoss := 0 } else { h with inLoss := h.inLoss + 1 }
    | .output => if c = w then { h with outB := h.outB - 1, outLoss := 0 } else { h with outLoss := h.outLoss + 1 }) s
  s1.modMover m fun v => match side with
    | .input => { v with turnI := w }
    | .output => { v with turnO := w }

/-- A channel without a beat ready has lost no cycle. -/
def State.arrayRest (s : State) (m : Nat) (side : Side) (l : List Nat) : State :=
  ([0, 1, 2, 3].filter fun c => !l.contains c && decide (0 < (s.ch m c).lost side)).foldl (fun st c =>
    st.modCh m c fun h => match side with
      | .input => { h with inLoss := 0 }
      | .output => { h with outLoss := 0 }) s

/-- A side's cycle. -/
def State.arrayCycle (s : State) (m : Nat) (side : Side) : State :=
  let l := s.beats m side
  let s1 := s.arrayRest m side l
  match s.winner m ((s.mover m).turnOf side) l fun c => (s.ch m c).lost side with
  | some w => s1.arrayGrant m side l w
  | none => s1

/-- ARRAY_AGEING: channel c, which has lost 31 consecutive cycles, wins the side. -/
def State.arrayAgeOp (s : State) (m : Nat) (side : Side) (c : Nat) : State :=
  let l := s.beats m side
  if l.contains c ∧ 31 ≤ (s.ch m c).lost side
      ∧ s.winner m ((s.mover m).turnOf side) l (fun k => (s.ch m k).lost side) = some c
  then s.arrayGrant m side l c else s

/-! ### Issue (R49, R169, R205) -/

/-- Bytes of read reorder space that a channel has in use (R49): its reads under way, the bytes that stage 4 cannot
consume because both tile slots are taken, and the STRM line under way. Held blocks make room for a new read (R128). -/
def State.reorderUse (s : State) (m c : Nat) : Nat :=
  ((s.acc.filter fun a => a.rq == .mover m && a.ch == c && !a.wr && inFlight a && match a.kind with
      | .source _ => true
      | .list _ => true
      | .ecnos _ => true
      | _ => false).map (·.len)).sum
  + (if s.slotsFull m c then (((s.ch m c).got.filter fun r => !(s.ch m c).coal.any fun b => b.runs.contains r).map
      (·.2.length)).sum else 0)
  + (match (s.ch m c).act.bind fun sid => (s.strmAt sid).cmd.bind (·.td) with
    | some d => (s.strmP d).cur.length
    | none => 0)
  + ((s.peer.rem.filter fun r => r.mv == m && r.ch == c && !r.wr && r.sent).map (·.len)).sum

/-- Held blocks are dropped until n more bytes fit (R128). -/
def State.makeRoom (s : State) (m c n : Nat) : State :=
  s.modCh m c fun h => { h with coal := fitCoal (8192 - s.reorderUse m c - n) h.coal }

/-- The request that a channel would issue in a class: an access, or a packet. -/
inductive Req where
  | acc (aid : Nat)
  | pkt (i : Nat)
deriving DecidableEq, Repr

/-- The first access of a channel number (its own four, or the receive streams' one) that waits for its issue in a
direction, if the hazard window and the read reorder space allow it; a read ahead takes no space there (R49). Accesses of
a received request wait until all of its pages are translated, and hold no other request (R297). -/
def State.accReq (s : State) (m c : Nat) (wr : Bool) : Option Req :=
  let sib := fun (a : Access) => match a.kind with
    | .rxWrite j => s.acc.any fun b => jobAcc j b && b.stage == .xlat
    | .rxRead j => s.acc.any fun b => jobAcc j b && b.stage == .xlat
    | _ => false
  match s.acc.find? fun a => a.rq == .mover m && a.ch == c && a.wr == wr && a.stage == .issue && !sib a with
  | none => none
  | some a =>
    let ahead := match a.kind with
      | .prefetch _ => true
      | _ => false
    if s.hazard a || (!wr && !ahead && decide (c < 4 ∧ s.reorderUse m c + a.len > 8192)) then none
    else some (.acc a.aid)

/-- The first remote packet of a channel that waits for its issue. -/
def State.pktReq (s : State) (m c : Nat) : Option Req :=
  match s.peer.tx.findIdx? fun t => (match t.owner with
      | some (_, m', c') => m' == m && c' == c
      | none => false) && !t.issued with
  | none => none
  | some i =>
    match s.peer.tx[i]? with
    | none => none
    | some t => if pType t.bytes = 1 ∧ s.reorderUse m c + pLen t.bytes > 8192 then none else some (.pkt i)

/-- A channel's request in a class; a Mover under test or out of service issues nothing (R348, R372). -/
def State.reqOf (s : State) (m : Nat) (cls : IssueClass) (c : Nat) : Option Req :=
  if (s.mover m).phase = 2 ∨ (s.mover m).oos = true then none
  else match cls with
  | .read => s.accReq m c false
  | .write => s.accReq m c true
  | .remote => s.pktReq m c

/-- The request of a channel of m is issued: accesses and packets at an arbiter stand in the order of their issue. -/
def State.issueReq (s : State) (m : Nat) : Req → State
  | .acc aid =>
    match s.findAcc aid with
    | some a =>
      let s1 := match a.kind with
        | .prefetch _ => s
        | _ => if a.wr ∨ 4 ≤ a.ch then s else s.makeRoom m a.ch a.len
      { s1.delAcc aid with acc := (s1.delAcc aid).acc ++ [{ a with stage := .arb }] }
    | none => s
  | .pkt i =>
    let room := match s.peer.tx[i]? with
      | some t => (match t.owner with
        | some o => if pType t.bytes = 1 then s.makeRoom m o.2.2 (pLen t.bytes) else s
        | none => s)
      | none => s
    match room.peer.tx[i]? with
    | some t => { room with peer := { room.peer with tx := room.peer.tx.eraseIdx i ++ [{ t with issued := true }] } }
    | none => room

/-- Consecutive cycles lost in a class. -/
def Chan.lostIn (h : Chan) : IssueClass → Nat
  | .read => h.rLoss
  | .write => h.wLoss
  | .remote => h.xLoss

/-- Set them. -/
def Chan.setLost (h : Chan) (cls : IssueClass) (n : Nat) : Chan := match cls with
  | .read => { h with rLoss := n }
  | .write => { h with wLoss := n }
  | .remote => { h with xLoss := n }

/-- Last winner of a class. -/
def Mover.turnIn (v : Mover) : IssueClass → Nat
  | .read => v.turnR
  | .write => v.turnW
  | .remote => v.turnX

/-- Set it. -/
def Mover.setTurn (v : Mover) (cls : IssueClass) (c : Nat) : Mover := match cls with
  | .read => { v with turnR := c }
  | .write => { v with turnW := c }
  | .remote => { v with turnX := c }

/-- Channels of m with a request ready in a class. -/
def State.ready (s : State) (m : Nat) (cls : IssueClass) : List Nat := [0, 1, 2, 3].filter fun c => (s.reqOf m cls c).isSome

/-- One cycle of a class, won by channel w. -/
def State.issueGrant (s : State) (m : Nat) (cls : IssueClass) (l : List Nat) (w : Nat) : State :=
  match s.reqOf m cls w with
  | none => s
  | some q =>
    ([0, 1, 2, 3].foldl (fun st c => st.modCh m c fun h =>
      h.setLost cls (if c = w || !l.contains c then 0 else h.lostIn cls + 1)) (s.issueReq m q)).modMover m fun v =>
        v.setTurn cls w

/-- A class serves its winner, or else a receive stream's access of the Mover; none if it has no request ready. -/
def State.issueClass (s : State) (m : Nat) (cls : IssueClass) : Option State :=
  let l := s.ready m cls
  match s.winner m ((s.mover m).turnIn cls) l fun c => (s.ch m c).lostIn cls with
  | some w => some (s.issueGrant m cls l w)
  | none => (s.reqOf m cls rxCh).map (s.issueReq m)

/-- The class that the partition's pattern names for a cycle (R169). -/
def State.slotClass (s : State) (m : Nat) : IssueClass :=
  match fld (s.part (s.partOf m)).issue.toNat (2 * (s.cc % 16)) 2 with
  | 0 => .read
  | 1 => .write
  | _ => .remote

/-- One burst request of a Mover: of the class of the slot, else of R, W, X in order. -/
def State.issueCycle (s : State) (m : Nat) : State :=
  let try' := fun cls => s.issueClass m cls
  ((try' (s.slotClass m)).or ((try' .read).or ((try' .write).or (try' .remote)))).getD s

/-- ISSUE_AGEING: channel c, which has lost 31 consecutive cycles in a class, wins the class. -/
def State.issueAgeOp (s : State) (m : Nat) (cls : IssueClass) (c : Nat) : State :=
  let l := s.ready m cls
  if l.contains c ∧ 31 ≤ (s.ch m c).lostIn cls
      ∧ s.winner m ((s.mover m).turnIn cls) l (fun k => (s.ch m k).lostIn cls) = some c
  then s.issueGrant m cls l c else s

/-! ### Charged cycles (R251, R252, R257) -/

/-- One cycle of a channel that holds a RUNNING stream. -/
def State.charge (s : State) (k : Nat) : State :=
  let h := s.chan k
  match h.act with
  | none => s
  | some sid =>
    (s.modChan k fun y => { y with run := y.run + 1 }).modTen (s.strmAt sid).ten.toNat fun t =>
      { t with cyc := t.cyc + 1, vt := t.vt + BitVec.ofNat 64 (2 ^ 32 / t.weight.toNat) }

/-! ### The events -/

/-- A Queue Sequencer chooses (R253, R254). -/
def execSequencerChoice (p : Fin 8) (m : Fin 64) (c : Fin 4) (parity : Bool) (s : State) :
    Host.Outcome State Fault Refusal := .next (s.chooseOp p m c parity)

/-- A glacier record has been read (R176). -/
def execGlacierRecordLoaded (aid : Nat) (data : List Byte) (r : Resp) (s : State) : Host.Outcome State Fault Refusal :=
  .next (s.glacierOp aid data r)

/-- An aged channel wins a side of the array (R65). -/
def execArrayAgeing (m : Fin 64) (side : Side) (c : Fin 4) (s : State) : Host.Outcome State Fault Refusal :=
  .next (s.arrayAgeOp m side c)

/-- An aged channel wins a class of issue (R169). -/
def execIssueAgeing (m : Fin 64) (cls : IssueClass) (c : Fin 4) (s : State) : Host.Outcome State Fault Refusal :=
  .next (s.issueAgeOp m cls c)

end Sys2Proof.Machine
end

