-- ==== Sys2Proof/Machine/Arb.lean ====
section
/-! DEFINITION. The shutter tables and their arbiters (R262 to R280): decisions, background ranking, back-off and quota,
commits, the cut-off, trackers; and the tick of the core clock. -/

namespace Sys2Proof.Machine

/-- cclk runs: power is present, the core reset is released, and the block is neither in RETAIN nor waking from it. -/
def State.clocked (s : State) : Bool := !s.pwr.off && !s.pins.core && s.pwr.state != 4 && s.pwr.state != 5

/-! ### Tables (R262, R264, R265) -/

/-- Owner code FREE. -/
def ownFree : Nat := 8
/-- Owner code TRANSIT. -/
def ownTransit : Nat := 9
/-- Owner code OFF. -/
def ownOff : Nat := 15

/-- Peer transmit tables. -/
def isPeerTab (t : Nat) : Bool := t == 12 || t == 13

/-- Live owner code of a slot. -/
def Tab.own (x : Tab) (k : Nat) : Nat := (x.live.get 0 (k % 256)).toNat

/-- The first slot that is not OFF, from `k` on. -/
def Tab.seek (x : Tab) (k : Nat) : Nat → Nat
  | 0 => k % 256
  | fuel + 1 => if x.own k = ownOff then x.seek (k + 1) fuel else k % 256

/-- A decision at slot k passes the last slot that is not OFF. -/
def Tab.wraps (x : Tab) (k : Nat) : Bool := (List.range (255 - k)).all fun i => x.own (k + 1 + i) == ownOff

/-- A rota is invalid (R267). -/
def State.badRota (s : State) (t : Nat) (slots : SMap (BitVec 4)) : Bool :=
  let own := fun k => (slots.get 0 k).toNat
  (List.range 256).all (fun k => own k == ownOff)
  || (List.range 256).any fun k =>
      let o := own k
      (decide (o ≤ 7) && !(s.part o).en) || (o == ownTransit && !isPeerTab t) || decide (10 ≤ o ∧ o ≤ 14)

/-! ### Trackers (R279, R280, R424) -/

/-- Port of a table, and whether it carries writes; peer and Staging tables have none. -/
def tabPort (t : Nat) : Option (Nat × Bool) := if t < 12 then some (t / 2, t % 2 == 1) else none

/-- Trackers of a port and direction. -/
def trkLimit (port : Nat) (wr : Bool) : Nat := if port < 2 then (if wr then 128 else 256) else if wr then 32 else 64

/-- Trackers that a partition reserves. -/
def Part.reserve (x : Part) (port : Nat) (wr : Bool) : Nat :=
  if port = 0 then (if wr then fld x.trkF.toNat 16 8 else fld x.trkF.toNat 0 9)
  else if port = 1 then (if wr then fld x.trkF.toNat 48 8 else fld x.trkF.toNat 32 9)
  else (if wr then fld x.trkN.toNat (16 * (port - 2) + 7) 6 else fld x.trkN.toNat (16 * (port - 2)) 7)

/-- Transactions of a port and direction that hold a tracker: outstanding, or abandoned to the sink (R344). -/
def State.tracked (s : State) (port : Nat) (wr : Bool) : List Access :=
  (s.acc ++ s.sink).filter fun a => a.stage == .out && a.port == port && a.wr == wr

/-- Size of the pool of a port and direction. -/
def State.poolSize (s : State) (port : Nat) (wr : Bool) : Nat :=
  trkLimit port wr - ((List.range 8).map fun p => (s.part p).reserve port wr).sum

/-- A reserved tracker of the partition is free. -/
def State.ownTracker (s : State) (p port : Nat) (wr : Bool) : Bool :=
  decide (((s.tracked port wr).filter fun a => a.part == p && !a.pool).length < (s.part p).reserve port wr)

/-- A tracker of the pool is free. -/
def State.poolTracker (s : State) (port : Nat) (wr : Bool) : Bool :=
  decide (((s.tracked port wr).filter (·.pool)).length < s.poolSize port wr)

/-- The trackers of a port and direction that are free, of which a grant takes one (log 9). -/
def State.freeTrackers (s : State) (port : Nat) (wr : Bool) : List Nat :=
  (List.range (trkLimit port wr)).filter fun k => !(s.tracked port wr).any fun a => a.trk == k

/-! ### Requesters (R269) -/

/-- Place of a requester in a partition's turn: Movers, walk engine, record writer. -/
def rqOrder : Requester → Nat
  | .mover m => m
  | .walk => 64
  | .record => 65
  | .mgmt => 66

/-- A reset of the core left responses of the port outstanding, marked in the sink: until they have arrived the port
issues nothing (R446). -/
def State.awaitsOld (s : State) (port : Nat) : Bool := s.sink.any fun a => a.drain && a.port == port

/-- Whether a port is held by its reset (R445), or after a reset of the core (R446). -/
def State.portHeld (s : State) (port : Nat) : Bool := s.awaitsOld port || (match port with
  | 0 => s.pins.far0
  | 1 => s.pins.far1
  | _ => s.pins.near)

/-- An access stands ready at the arbiter of a port and direction. A record writer's or walk engine's access on a
Mover's behalf passes that Mover's hazard window here (R205); a script's waits for the response of the one before it
(R330). -/
def State.atArb (s : State) (port : Nat) (wr : Bool) (a : Access) : Bool :=
  a.stage == .arb && a.port == port && a.wr == wr && !s.portHeld port && ((rqMover a.rq).isSome || !s.hazard a)
  && !(a.kind == .script && s.acc.any fun b => b.kind == .script && b.stage == .out)

/-- A packet that can be sent on a port: issued, with a credit of the buffer that it enters (R297). -/
def State.canSend (s : State) (port : Nat) (t : TxPkt) : Bool :=
  t.issued && t.port == port && !(if port = 0 then s.pins.peer0 else s.pins.peer1)
  && decide (s.peer.used.get 0 (4 * port + (if t.resp then 2 else 0) + b2n t.vc) < 8)

/-- What a requester presents to a table: an access, or the packet at a place of the list. -/
inductive Bid where
  | acc (a : Access)
  | pkt (i : Nat) (t : TxPkt)
  | stg (r : StgReq)
deriving DecidableEq, Repr

/-- Partition of a bid, and its requester's place in the turn; none for TRANSIT. -/
def Bid.who : Bid → Option (Nat × Nat)
  | .acc a => some (a.part, rqOrder a.rq)
  | .pkt _ t => t.owner.map fun o => (o.1, o.2.1)
  | .stg r => some (r.part, r.mv)

/-- The table of a Staging burst (R262). -/
def StgReq.tab (r : StgReq) : Nat := 14 + 2 * r.group + b2n r.wr

/-- Every bid at a table, in the order of presentation. -/
def State.bids (s : State) (t : Nat) : List Bid :=
  match tabPort t with
  | some (port, wr) => (s.acc.filter (s.atArb port wr)).map Bid.acc
  | none =>
    if isPeerTab t then (s.peer.tx.zipIdx.filter fun e => s.canSend (t - 12) e.1).map fun e => Bid.pkt e.2 e.1
    else (s.stg.filter fun r => r.tab == t && !r.out).map Bid.stg

/-- A tracker is free for a partition at a table. -/
def State.trackerFor (s : State) (t p : Nat) : Bool :=
  match tabPort t with
  | some (port, wr) => s.ownTracker p port wr || s.poolTracker port wr
  | none => true

/-- The partition has a bid, and a tracker for it. -/
def State.bidding (s : State) (t p : Nat) : Bool :=
  s.trackerFor t p && (s.bids t).any fun b => match b.who with
    | some (q, o) => q == p && o != 66
    | none => false

/-- The bid that a partition's grant takes: of the first requester after the one granted last (R269). -/
def State.turnBid (s : State) (t p : Nat) : Option Bid :=
  let turn := (s.tab t).turn.get 0 p
  let mine := (s.bids t).filter fun b => match b.who with
    | some (q, o) => q == p && o != 66
    | none => false
  let at' := fun (lo : Nat) => (List.range 66).findSome? fun k =>
    if k < lo then none else mine.find? fun b => b.who == some (p, k)
  (at' turn).or (at' 0)

/-! ### Background ranking (R270 to R272) -/

/-- Live priority of a partition at a table. -/
def Tab.priOf (x : Tab) (p : Nat) : Nat := fld x.pri.toNat (4 * p) 4

/-- Masked by quota. -/
def Tab.masked (x : Tab) (p : Nat) : Bool :=
  decide (12 ≤ x.priOf p) && decide (fld x.quota.toNat (8 * p) 8 ≤ x.wins.get 0 p)

/-- The partitions that contend in background. -/
def State.contenders (s : State) (t : Nat) : List Nat :=
  (List.range 8).filter fun p => s.bidding t p && !(s.tab t).backoff.get false p && !(s.tab t).masked p

/-- The winner among them: the highest priority, then the first after the last background winner. -/
def Tab.rank (x : Tab) (l : List Nat) : Option Nat :=
  let top := (l.map x.priOf).foldl max 0
  ((List.range 8).map fun i => (x.lastBg + 1 + i) % 8).find? fun p => l.contains p && x.priOf p == top

/-- Who wins a decision. -/
inductive Win where
  | owned (p : Nat)
  | background (p : Nat)
  | transit
  | mgmt
  | none
deriving DecidableEq, Repr

/-- TRANSIT has a packet to send. -/
def State.transitReady (s : State) (t : Nat) : Bool := isPeerTab t && (s.bids t).any fun b => b.who == none

/-- The management core has a bid and a tracker of the pool. -/
def State.mgmtReady (s : State) (t : Nat) : Bool :=
  decide (t ≤ 1) && s.poolTracker 0 (t == 1) && (s.bids t).any fun b => match b.who with
    | some (_, o) => o == 66
    | none => false

/-- The decision at slot k; a slot whose byte fails parity is taken as FREE (R369). -/
def State.decide' (s : State) (t k : Nat) (parity : Bool) : Win :=
  let x := s.tab t
  let own := if parity then ownFree else x.own k
  if own ≤ 7 ∧ s.bidding t own = true then .owned own
  else if s.transitReady t then .transit
  else match x.rank (s.contenders t) with
    | some p => .background p
    | none => if s.mgmtReady t then .mgmt else .none

/-- Background losers: their loss counts rise, and they back off (R271). -/
def Tab.lose (x : Tab) (l : List Nat) : Tab :=
  l.foldl (fun y p => { y with
    loss := y.loss.put 0 p (min 8 (y.loss.get 0 p + 1))
    backoff := y.backoff.put false p true }) x

/-- A partition's grant. -/
def Tab.won (x : Tab) (p : Nat) (bg : Bool) : Tab :=
  { x with
    loss := x.loss.put 0 p 0
    backoff := x.backoff.put false p false
    lastBg := if bg then p else x.lastBg
    wins := if bg && decide (12 ≤ x.priOf p) then x.wins.put 0 p (x.wins.get 0 p + 1) else x.wins }

/-! ### Commits (R267, R273, R274) -/

/-- A table applies the pending set; a locked rota stays. -/
def State.applyCommit (s : State) (t : Nat) : State :=
  match s.arb.set with
  | none => s
  | some q =>
    let s1 := s.modTab t fun x => { x with
      live := if x.lock then x.live
        else (q.slots.filter fun e => e.1 / 256 == t).map fun e => (e.1 % 256, e.2)
      pri := q.pri, quota := q.quota, pend := false }
    if (List.range 30).any fun k => (s1.tab k).pend then s1
    else { s1 with arb := { s1.arb with pend := false, set := none } }

/-- A table with no tenure and no request. -/
def State.tabIdle (s : State) (t : Nat) : Bool :=
  s.bids t == [] && (match (s.tab t).tenure with
    | none => true
    | some (.acc aid) => (s.findAcc aid).isNone
    | some _ => false)

/-- Tables that are idle apply a pending commit at once. -/
def State.applyIdle (s : State) : State :=
  if s.arb.pend then
    (List.range 30).foldl (fun st t => if (st.tab t).pend && st.tabIdle t then st.applyCommit t else st) s
  else s

/-- COMMIT: a write of AR_COMMIT.GO. -/
def State.commitOp (s : State) : State :=
  if s.arb.pend then { s with arb := { s.arb with drop := true } }
  else if (List.range 30).any fun t => !(s.tab t).lock && s.badRota t (s.tab t).shadow then
    { s with arb := { s.arb with cerr := true } }
  else
    let slots := ((List.range 30).map fun t => (s.tab t).shadow.map fun e => (256 * t + e.1, e.2)).flatten
    let s1 := { s with arb := { s.arb with
      pend := true, set := some { slots := slots, pri := s.arb.pri, quota := s.arb.quota } } }
    ((List.range 30).foldl (fun st t => st.modTab t fun x => { x with pend := true }) s1).applyIdle

/-! ### Grants (R263, R268, R279) -/

/-- A write has left its tile slot: the channel's next tile may take it (R49). -/
def State.slotFreed (s : State) (m c : Nat) : State :=
  match (s.ch m c).act with
  | none => s
  | some sid => if isEcn sid then s.ecnForm m c sid else s.advanceTile m c sid (s.ch m c).tile

/-- A tenure ends with its last beat (R263): a Staging burst is done. -/
def State.endTenure (s : State) (t : Nat) : State :=
  let s1 := s.modTab t fun x => { x with tenure := none, left := 0 }
  match (s.tab t).tenure with
  | some (.stg id) => { s1 with stg := s1.stg.filter fun r => r.id != id }
  | _ => s1

/-- The bid is granted: an access takes its tracker, a packet leaves with its credit and with credits that are owed. Each
has its beats (R263); the tenure before it has ended. -/
def State.grantBid (s0 : State) (t : Nat) (b : Bid) : State :=
  let s := s0.endTenure t
  match b with
  | .acc a =>
    let pool := a.rq == .mgmt || !s.ownTracker a.part a.port a.wr
    let free := s.freeTrackers a.port a.wr
    let trk := free.getD (Config.trackerPick s.free % free.length) 0
    { (s.modAcc a.aid fun y => { y with stage := .out, trk := trk, pool := pool }).modTab t fun x =>
      { x with tenure := some (.acc a.aid), left := a.beats } with free := s.free + 1 }
  | .stg r =>
    { s.modTab t fun x => { x with tenure := some (.stg r.id), left := r.beats } with
      stg := s.stg.map fun q => if q.id = r.id then { q with out := true } else q }
  | .pkt i p =>
    let port := t - 12
    let key := 4 * port + (if p.resp then 2 else 0) + b2n p.vc
    let own := p.owner.bind fun o => if p.resp then none else some (o.2.1, o.2.2)
    let sent := fun (r : RemReq) => own == some (r.mv, r.ch) && !r.sent && r.off == pOff p.bytes
      && r.xseq.toNat == pXseq p.bytes
    let rem := match s.peer.rem.findIdx? sent with
      | some j => s.peer.rem.modify j fun r => { r with sent := true }
      | none => s.peer.rem
    let back := (s.peer.owed.filter fun e => e.1 / 4 == port).head?
    let s1 := { s with peer := { s.peer with
      tx := s.peer.tx.eraseIdx i
      rem := rem
      used := s.peer.used.put 0 key (s.peer.used.get 0 key + 1)
      owed := match back with
        | none => s.peer.owed
        | some e => s.peer.owed.del e.1
      out := s.peer.out.ins port (match back with
        | none => p.bytes
        | some e => withCredits p.bytes (e.1 % 4) e.2) } }
    let s2 := match p.slot with
      | some q => s1.creditOwe q
      | none => s1
    s2.modTab t fun x => { x with
      tenure := some (.pkt { owner := own, xseq := BitVec.ofNat 8 (pXseq p.bytes), off := pOff p.bytes,
                             mv := (p.owner.map (·.2.1)).getD 0, buf := key, back := back })
      left := ceilDiv p.bytes.length 32 }

/-- The grant, and what a tile's write that leaves its slot lets the channel do. -/
def State.grant (s : State) (t : Nat) (b : Bid) : State :=
  let s1 := s.grantBid t b
  match b with
  | .acc a => match a.rq, a.kind with
    | .mover m, .dest _ | .mover m, .ecnos _ => if a.wr then s1.slotFreed m a.ch else s1
    | _, _ => s1
  | .pkt _ p => match p.owner with
    | some (_, m, c) => if p.resp then s1 else s1.slotFreed m c
    | none => s1
  | .stg _ => s1

/-- ARB_DECISION at table t. In DOZE the port fabric stands (R378). -/
def State.arbOp (s : State) (t : Nat) (parity : Bool) : State :=
  let x := s.tab t
  let k := x.seek x.ptr.toNat 256
  if s.bids t = [] ∨ s.clocked = false ∨ s.pwr.state = 2 then s
  else
    let s0 := if parity then
        { s with par := { s.par with reg := true, lroff := BitVec.ofNat 21 (0x20000 + 0x400 * t + 4 * (k / 8)) } }.logEvent
          0x22 0xFF (0x20000 + 0x400 * t + 4 * (k / 8))
      else s
    let won := fun (p : Nat) (bg : Bool) =>
      match s.turnBid t p with
      | none => s0
      | some b =>
        let losers := if bg then (s.contenders t).filter (· != p) else []
        let o := (b.who.map (·.2)).getD 0
        ((s0.grant t b).modTab t fun y =>
          let z := (y.won p bg).lose losers
          { z with turn := z.turn.put 0 p (o + 1) })
    let s1 := match s.decide' t k parity with
      | .owned p => won p false
      | .background p => won p true
      | .transit =>
        match (s.bids t).find? fun b => b.who == none with
        | some b =>
          let bg := x.own k != ownTransit || parity
          ((s0.grant t b).modTab t fun y => if bg then y.lose (s.contenders t) else y)
        | none => s0
      | .mgmt =>
        match (s.bids t).find? fun b => b.who.map (·.2) == some 66 with
        | some b => s0.grant t b
        | none => s0
      | .none => s0
    if s.decide' t k parity = .none then s1
    else
      let s2 := s1.modTab t fun y => { y with ptr := BitVec.ofNat 8 (k + 1) }
      if x.wraps k && x.pend then s2.applyCommit t else s2

/-- The halt of a Staging burst's channel (R277): of a tile formed or of one written. -/
def State.stgHog (s : State) (r : StgReq) : State :=
  let kind := if r.wr then 0 else 1
  let f := { faultOf (s.strmAt r.sid) r.sid r.mv r.ch 0x22 kind with dir := r.wr }
  let e : BusErr := { dir := r.wr, walk := false, resp := 0, kind := kind, va := 0, pa := 0 }
  if (s.ch r.mv r.ch).act ≠ some r.sid then s
  else if isEcn r.sid then (s.ecnFail r.mv r.ch r.tile f (some e)).ecnSettle r.mv r.ch r.sid
  else s.beginStop r.mv r.ch { tileStop false true r.tile f with err := some e }

/-- The halt of a channel whose read-ahead data were on their way to the spill area; outside its tiles the error is only
latched and recorded (log 111). -/
def State.spillHog (s : State) (m : Nat) (a : Access) : State :=
  let h := s.ch m a.ch
  let f := { s.busRec m a.ch a 0x22 0 h.tile with dir := true }
  let e := { busErrOf a 0 with dir := true }
  if a.drain then s
  else if h.ph = .tiles then s.beginStop m a.ch { tileStop false true h.tile f with err := some e }
  else (s.latchErr m a.ch e).pushFault a.part f

/-- A packet's beats have been discarded: its credit is free again, and the credits that it carried are still owed. -/
def State.unsend (s : State) (port : Nat) (k : PktTen) : State :=
  { s with peer := { s.peer with
      used := s.peer.used.put 0 k.buf (s.peer.used.get 0 k.buf - 1)
      owed := match k.back with
        | none => s.peer.owed
        | some e => s.peer.owed.put 0 e.1 (min 8 (s.peer.owed.get 0 e.1 + e.2))
      out := s.peer.out.del port } }

/-- HOG_CUTOFF: the holder's burst leaves nothing outside, and its channel takes FLT_HOG (R277, R278). -/
def State.hogOp (s : State) (t : Nat) : State :=
  let x := s.tab t
  let count := fun (st : State) (m : Nat) => (st.endTenure t).modTab t fun y =>
    { y with hogc := satInc y.hogc, hogmv := BitVec.ofNat 6 m }
  if t < 12 ∧ t % 2 = 0 then s
  else match x.tenure with
    | none => s
    | some (.acc aid) =>
      match s.findAcc aid with
      | none => s
      | some a =>
        let s1 := count (s.delAcc aid) (a.who.1)
        match a.rq, a.kind with
        | .mover _, .rxWrite j => if a.drain then s1 else s1.jobAnswer j a .slverr [] true
        | .mover m, .spillWrite _ _ => (s1.spillHog m a).settle m a.ch
        | .mgmt, k => if a.drain then s1 else s1.mgmtWritten k false
        | .mover m, .glacWrite | .mover m, .recWrite =>
          if a.drain then s1 else (s1.latchErr m a.ch (busErrOf a 0)).pushFault a.part (s1.busRec m a.ch a 0x22 0 0)
        | .mover m, .ecnos _ => if a.drain then s1 else s1.ecnBus m a.ch a.sid a 0x22 0 1
        | .mover m, _ =>
          if a.drain then s1.settle m a.ch else (s1.busError m a.ch a 0x22 0).settle m a.ch
        | .record, .cqRec c slot =>
          if a.drain then (if s1.acc.any fun b => b.kind == a.kind && !b.drain then s1 else s1.recordLanded c slot)
          else (s1.latchErr a.who.1 a.who.2 (busErrOf a 0)).recordFault a.sid false (s1.busRec a.who.1 a.who.2 a 0x22 0 0)
        | .record, .fqRec p => s1.fqAnswered a p false
        | _, _ => s1
    | some (.stg id) =>
      match s.stg.find? fun r => r.id == id with
      | none => s
      | some r => (count s r.mv).stgHog r
    | some (.pkt k) =>
      let s1 := (count s k.mv).unsend (t - 12) k
      match k.owner with
      | none => s1
      | some (m, c) =>
        match s1.peer.rem.find? fun r => r.mv == m && r.ch == c && r.xseq == k.xseq && r.off == k.off && r.sent,
          (s1.ch m c).act with
        | some r, some sid => (s1.delRem r).remoteStop r sid 0x22 0
        | _, _ => s1

/-- BACKOFF_EXPIRE (R271). -/
def State.backoffOp (s : State) (t p : Nat) : State := s.modTab t fun x => { x with backoff := x.backoff.put false p false }

/-- QUOTA_WINDOW_END (R272). -/
def State.quotaOp (s : State) (t : Nat) : State := s.modTab t fun x => { x with wins := [] }

/-! ### The tick (log 3) -/

/-- Movers with something to do. -/
def State.busyMovers (s : State) : List Nat :=
  sortU (s.chans.map (fun e => e.1 / 4) ++ s.acc.filterMap (fun a => rqMover a.rq))

/-- Credits owed on a port with nothing to send leave in CREDIT packets, one buffer's at a time (R297). -/
def State.creditOut (s : State) (port : Nat) : State :=
  match s.peer.owed.find? fun e => e.1 / 4 == port && e.2 != 0 with
  | none => s
  | some e =>
    if (s.peer.tx.any fun t => t.port == port) || (if port = 0 then s.pins.peer0 else s.pins.peer1) then s
    else { s with peer := { s.peer with
      owed := s.peer.owed.del e.1
      out := s.peer.out.ins port (s.creditPkt port (e.1 % 4) e.2) } }

/-- A beat of a running tenure passes. A metered read's passes in every cycle; of the other resources, whether the cycle is
a beat opportunity the spec leaves open (R263; log 57). -/
def State.tenureBeat (s : State) (t : Nat) : State :=
  let x := s.tab t
  if x.tenure.isNone then s
  else
    let pass := fun (u : State) =>
      if x.left ≤ 1 then u.endTenure t else u.modTab t fun y => { y with left := y.left - 1 }
    if t < 12 ∧ t % 2 = 0 then pass s
    else if (Config.freeByte s.free).getLsbD 0 then pass { s with free := s.free + 1 }
    else { s with free := s.free + 1 }

/-- A parity error strikes a held copy, if the cycle has one: a translation, a walk-cache entry, a descriptor or table
copy, a block of the coalescer, a burst read ahead, or a record of the Context Store (log 91). -/
def State.upset (s : State) : State :=
  let s0 := { s with free := s.free + 1 }
  match Config.upset s.free with
  | none => s0
  | some (what, k, i) =>
    let hurt := fun (e : DEnt) => { e with bad := true }
    match what.val with
    | 0 => s0.modMover k fun v => { v with utlb := v.utlb.modify i fun e => { e with bad := true } }
    | 1 => s0.modXlU k fun x => { x with l2 := x.l2.modify i fun e => { e with bad := true } }
    | 2 => s0.modXlU k fun x => { x with wc := x.wc.modify i fun e => { e with bad := true } }
    | 3 => s0.modDcU k fun d => { d with desc := d.desc.modify i hurt }
    | 4 => s0.modDcU k fun d => { d with tabs := d.tabs.modify i hurt }
    | 5 => s0.modChan k fun h => { h with coal := h.coal.modify i fun b => { b with bad := true } }
    | 6 => s0.modChan k fun h => { h with pf := h.pf.modify i fun e => (e.1, e.2.map fun r => { r with bad := true }) }
    | _ => if k < glacBase ∧ (s0.strmAt k).st ≠ .empty ∧ (s0.strmAt k).bad = 0
        then s0.modStrmAt k fun x => { x with bad := 1 } else s0

/-- Records whose write-back has met a parity error are quarantined (R365). -/
def State.badWrites (s : State) : State :=
  ((s.strms.filter fun e => e.2.bad == 2).map (·.1)).foldl State.recordParity s

/-- A value of 13 bits that the model leaves open (log 10): the line at which a Staging test stands (R375). -/
def freeLine (n : Nat) : BitVec 13 :=
  BitVec.ofNat 13 ((Config.freeByte n).toNat + 256 * (Config.freeByte (n + 1)).toNat)

/-- One cycle of cclk. -/
def State.tick (s : State) : State :=
  if s.clocked then
    let ms := s.busyMovers
    let s1 := ms.foldl (fun st m => ((st.arrayCycle m .input).arrayCycle m .output).issueCycle m) s
    let s2 := (s1.chans.map (·.1)).foldl State.charge s1
    let s3 := (s2.ropes.map (·.1)).foldl (fun st n =>
      let r := st.rope n
      (if r.rout && !r.ext && !r.rel then st.setRope n { r with rout := false } else st).ropeEval n) s2
    let s4 := if s3.inRun then (s3.creditOut 0).creditOut 1 else s3
    let s5 := (s4.chans.map (·.1)).foldl (fun st k => st.readAhead (k / 4) (k % 4)) s4
    let s6 := (s5.badWrites.tabs.map (·.1)).foldl State.tenureBeat s5.badWrites
    let s7 := if s6.stc.busy then { s6 with stc := { s6.stc with line := freeLine s6.free }, free := s6.free + 2 } else s6
    { s7.upset.applyIdle with cc := s5.cc + 1 }
  else s

/-! ### The events -/

/-- An arbiter decides (R268). -/
def execArbDecision (t : Fin 30) (slotParity : Bool) (s : State) : Host.Outcome State Fault Refusal :=
  .next (s.arbOp t slotParity)


/-- A back-off ends (R271). -/
def execBackoffExpire (t : Fin 30) (p : Fin 8) (s : State) : Host.Outcome State Fault Refusal := .next (s.backoffOp t p)

/-- A quota window ends (R272). -/
def execQuotaWindowEnd (t : Fin 30) (s : State) : Host.Outcome State Fault Refusal := .next (s.quotaOp t)

/-- A write of AR_COMMIT.GO (R274). -/
def execCommit (s : State) : Host.Outcome State Fault Refusal := .next (s.hostWrite .commit State.commitOp)

end Sys2Proof.Machine
end

