-- ==== Sys2Proof/Machine/Sha.lean ====
section
/-! DEFINITION. SHA-256 and ECDSA on curve P-256 (R325, R401), as FIPS 180-4 and FIPS 186-4 give them: the spec names the
two algorithms and states none of their constants (log 12). -/

namespace Sys2Proof.Machine

/-! ### SHA-256 -/

/-- Round constants. -/
def shaK : List (BitVec 32) :=
  [0x428a2f98, 0x71374491, 0xb5c0fbcf, 0xe9b5dba5, 0x3956c25b, 0x59f111f1, 0x923f82a4, 0xab1c5ed5] ++
  [0xd807aa98, 0x12835b01, 0x243185be, 0x550c7dc3, 0x72be5d74, 0x80deb1fe, 0x9bdc06a7, 0xc19bf174] ++
  [0xe49b69c1, 0xefbe4786, 0x0fc19dc6, 0x240ca1cc, 0x2de92c6f, 0x4a7484aa, 0x5cb0a9dc, 0x76f988da] ++
  [0x983e5152, 0xa831c66d, 0xb00327c8, 0xbf597fc7, 0xc6e00bf3, 0xd5a79147, 0x06ca6351, 0x14292967] ++
  [0x27b70a85, 0x2e1b2138, 0x4d2c6dfc, 0x53380d13, 0x650a7354, 0x766a0abb, 0x81c2c92e, 0x92722c85] ++
  [0xa2bfe8a1, 0xa81a664b, 0xc24b8b70, 0xc76c51a3, 0xd192e819, 0xd6990624, 0xf40e3585, 0x106aa070] ++
  [0x19a4c116, 0x1e376c08, 0x2748774c, 0x34b0bcb5, 0x391c0cb3, 0x4ed8aa4a, 0x5b9cca4f, 0x682e6ff3] ++
  [0x748f82ee, 0x78a5636f, 0x84c87814, 0x8cc70208, 0x90befffa, 0xa4506ceb, 0xbef9a3f7, 0xc67178f2]

/-- Initial hash value. -/
def shaInit : List (BitVec 32) :=
  [0x6a09e667, 0xbb67ae85, 0x3c6ef372, 0xa54ff53a, 0x510e527f, 0x9b05688c, 0x1f83d9ab, 0x5be0cd19]

/-- The `n` bytes of a value, most significant first. -/
def toBE (n v : Nat) : List Byte := (toLE n v).reverse

/-- The message padded to whole blocks. -/
def shaPad (l : List Byte) : List Byte :=
  l ++ [0x80] ++ List.replicate ((119 - l.length % 64) % 64) 0 ++ toBE 8 (8 * l.length)

/-- Words of 32 bits, big-endian. -/
def shaWords (l : List Byte) : List (BitVec 32) :=
  (List.range (l.length / 4)).map fun i => BitVec.ofNat 32 (beNat ((l.drop (4 * i)).take 4))

/-- The message schedule, newest word first: `n` words more. -/
def shaSched (w : List (BitVec 32)) : Nat → List (BitVec 32)
  | 0 => w
  | n + 1 =>
    let a := w.getD 14 0
    let b := w.getD 1 0
    let s0 := a.rotateRight 7 ^^^ a.rotateRight 18 ^^^ (a >>> 3)
    let s1 := b.rotateRight 17 ^^^ b.rotateRight 19 ^^^ (b >>> 10)
    shaSched ((s1 + w.getD 6 0 + s0 + w.getD 15 0) :: w) n

/-- One round on the eight working variables. -/
def shaRound (v : List (BitVec 32)) (kw : BitVec 32) : List (BitVec 32) :=
  let g := fun i => v.getD i 0
  let e := g 4
  let a := g 0
  let t1 := g 7 + (e.rotateRight 6 ^^^ e.rotateRight 11 ^^^ e.rotateRight 25) + ((e &&& g 5) ^^^ (~~~e &&& g 6)) + kw
  let t2 := (a.rotateRight 2 ^^^ a.rotateRight 13 ^^^ a.rotateRight 22) + ((a &&& g 1) ^^^ (a &&& g 2) ^^^ (g 1 &&& g 2))
  [t1 + t2, a, g 1, g 2, g 3 + t1, e, g 5, g 6]

/-- One block of 16 words. -/
def shaBlock (h w : List (BitVec 32)) : List (BitVec 32) :=
  let ws := (shaSched w.reverse 48).reverse
  let v := (shaK.zip ws).foldl (fun x e => shaRound x (e.1 + e.2)) h
  (h.zip v).map fun e => e.1 + e.2

/-- The blocks of a message. -/
def shaRun (h : List (BitVec 32)) (w : List (BitVec 32)) : Nat → List (BitVec 32)
  | 0 => h
  | n + 1 => shaRun (shaBlock h (w.take 16)) (w.drop 16) n

/-- SHA-256: 32 bytes. -/
def sha256 (l : List Byte) : List Byte :=
  let w := shaWords (shaPad l)
  ((shaRun shaInit w (w.length / 16)).map fun x => toBE 4 x.toNat).flatten

/-! ### P-256 -/

/-- The field prime. -/
def pP : Nat := 0xffffffff00000001000000000000000000000000ffffffffffffffffffffffff
/-- The coefficient b; a is p - 3. -/
def pB : Nat := 0x5ac635d8aa3a93e7b3ebbd55769886bc651d06b0cc53b0f63bce3c3e27d2604b
/-- The order of the base point. -/
def pN : Nat := 0xffffffff00000000ffffffffffffffffbce6faada7179e84f3b9cac2fc632551
/-- The base point. -/
def pG : Nat × Nat :=
  (0x6b17d1f2e12c4247f8bce6e563a440f277037d812deb33a0f4a13945d898c296,
   0x4fe342e2fe1a7f9b8ee7eb4a7c0f9e162bce33576b315ececbb6406837bf51f5)

/-- b to the power of the low bits of e, modulo m. -/
def powMod (b e m : Nat) : Nat → Nat
  | 0 => 1 % m
  | n + 1 =>
    let r := powMod (b * b % m) (e / 2) m n
    if e % 2 = 1 then b * r % m else r

/-- The inverse modulo a prime of at most 256 bits. -/
def invMod (a m : Nat) : Nat := powMod (a % m) (m - 2) m 256

/-- Sum of two points; none is the point at infinity. -/
def ecAdd : Option (Nat × Nat) → Option (Nat × Nat) → Option (Nat × Nat)
  | none, q => q
  | p, none => p
  | some (x1, y1), some (x2, y2) =>
    if x1 = x2 ∧ (y1 + y2) % pP = 0 then none
    else
      let l := if x1 = x2 then (3 * x1 * x1 + (pP - 3)) % pP * invMod (2 * y1) pP % pP
        else (y2 + (pP - y1)) % pP * invMod (x2 + (pP - x1)) pP % pP
      let x3 := (l * l + (pP - x1) + (pP - x2)) % pP
      some (x3, (l * (x1 + (pP - x3)) + (pP - y1)) % pP)

/-- Multiple of a point by the low bits of k. -/
def ecMul (k : Nat) (q : Option (Nat × Nat)) : Nat → Option (Nat × Nat)
  | 0 => none
  | n + 1 =>
    let r := ecMul (k / 2) (ecAdd q q) n
    if k % 2 = 1 then ecAdd q r else r

/-- The point lies on the curve. -/
def onCurve (x y : Nat) : Bool :=
  decide (x < pP) && decide (y < pP) && y * y % pP == (x * x % pP * x + (pP - 3) * x + pB) % pP

/-- ECDSA verification of a message under a public key. -/
def ecdsaOk (x y r s : Nat) (msg : List Byte) : Bool :=
  let w := invMod s pN
  let e := beNat (sha256 msg)
  onCurve x y && decide (1 ≤ r ∧ r < pN) && decide (1 ≤ s ∧ s < pN)
  && (match ecAdd (ecMul (e * w % pN) (some pG) 256) (ecMul (r * w % pN) (some (x, y)) 256) with
    | none => false
    | some q => q.1 % pN == r)

/-! ### The signature block (R325) -/

/-- The key of a signature block hashes to key_hash, octet by octet. -/
def keyOk (keyHash : BitVec 256) (sig : List Byte) : Bool := leNat (sha256 (sig.take 64)) == keyHash.toNat

/-- The signature of a block verifies over a message. -/
def sigOk (sig msg : List Byte) : Bool :=
  let f := fun (i : Nat) => beNat ((sig.drop (32 * i)).take 32)
  ecdsaOk (f 0) (f 1) (f 2) (f 3) msg

end Sys2Proof.Machine
end

