-- ==== Sys2Proof/Machine/Image.lean ====
section
/-! DEFINITION. The configuration image (R322 to R325, R329, R332, R404): header, section table and signature, and the NVM
that holds it (R318, R410). -/

namespace Sys2Proof.Machine

/-! ### Header and section table (R323, R324) -/

/-- Every byte of a range is zero. -/
def zeroBytes (l : List Byte) (lo n : Nat) : Bool := ((l.drop lo).take n).all (· == 0)

/-- SIZE of an image. -/
def imgSize (l : List Byte) : Nat := bfld l 8 0 32
/-- SEQ of an image. -/
def imgSeq (l : List Byte) : BitVec 32 := BitVec.ofNat 32 (bfld l 12 0 32)
/-- NSEC of an image. -/
def imgNsec (l : List Byte) : Nat := bfld l 5 0 8

/-- A section: TYPE, ATTR, OFFSET, LENGTH, DEST. -/
structure Section where
  type : Nat
  attr : Nat
  off : Nat
  len : Nat
  dest : Nat
deriving DecidableEq, Repr

/-- The 32 bytes of section table entry i. -/
def secRaw (l : List Byte) (i : Nat) : List Byte := (l.drop (256 + 32 * i)).take 32

/-- Section table entry i. -/
def secAt (l : List Byte) (i : Nat) : Section :=
  let e := secRaw l i
  { type := bfld e 0 0 16, attr := bfld e 2 0 2, off := bfld e 4 0 32, len := bfld e 8 0 32, dest := bfld e 16 0 48 }

/-- The sections of an image. -/
def sections (l : List Byte) : List Section := (List.range (min 24 (imgNsec l))).map (secAt l)

/-- An entry breaks a rule of its own. -/
def secBad (l : List Byte) (i : Nat) : Bool :=
  let e := secRaw l i
  let q := secAt l i
  let size := imgSize l
  q.type == 0 || decide (5 < q.type) || (if q.type = 3 then q.attr == 3 || q.dest % 64 != 0 else q.attr != 0 || q.dest != 0)
  || bfld e 2 2 6 != 0 || !zeroBytes e 3 1 || !zeroBytes e 12 4 || !zeroBytes e 22 10 || q.off % 16 != 0
  || ((q.type == 1 || q.type == 2 || q.type == 5) && q.len % 16 != 0) || (q.type == 4 && q.len % 64 != 0)
  || decide (q.off < 1024) || decide (size - 128 < q.off + q.len)

/-- Two sections overlap. -/
def secOverlap (a b : Section) : Bool :=
  decide (0 < a.len ∧ 0 < b.len ∧ a.off < b.off + b.len ∧ b.off < a.off + a.len)

/-- Header checks: the failure code, 0 for none. -/
def headerFail (l : List Byte) : Nat :=
  let size := imgSize l
  if bfld l 0 0 32 ≠ 0x4932544E ∨ bfld l 4 0 8 ≠ 1 ∨ imgNsec l = 0 ∨ 24 < imgNsec l ∨ size % 4096 ≠ 0 ∨ size < 4096
      ∨ 8388608 < size ∨ zeroBytes l 16 240 = false then 2
  else if bfld l 6 0 8 ≠ 2 ∨ 1 < bfld l 7 0 8 then 3
  else
    let ss := sections l
    let n := imgNsec l
    let many := fun (t : Nat) => decide (1 < (ss.filter fun q => q.type == t).length)
    if (List.range n).any (secBad l) = true ∨ zeroBytes l (256 + 32 * n) (32 * (24 - n)) = false
        ∨ (ss.zipIdx.any fun a => ss.zipIdx.any fun b => decide (a.2 < b.2) && secOverlap a.1 b.1) = true
        ∨ many 1 = true ∨ many 2 = true ∨ many 4 = true ∨ many 5 = true ∨ (ss.any fun q => q.type == 1) = false then 6
    else 0

/-- Key and signature of a whole image: the failure code, 0 for none (R325). -/
def signFail (l : List Byte) : Nat :=
  let size := imgSize l
  let sig := (l.drop (size - 128)).take 128
  if keyOk Config.keyHash sig = false then 4
  else if sigOk sig (l.take (size - 128)) = false then 5 else 0

/-- The bytes of the section of a type, if the image holds one. -/
def secBytes (l : List Byte) (t : Nat) : Option (List Byte) :=
  ((sections l).find? fun q => q.type == t).map fun q => (l.drop q.off).take q.len

/-! ### Script entries (R329) -/

/-- A script entry. -/
structure ScrEnt where
  op : Nat
  w64 : Bool
  cold : Bool
  fatal : Bool
  tmo : Nat
  addr : Nat
  val : Nat
deriving DecidableEq, Repr

/-- Entry i of a SCRIPT section. -/
def scrAt (l : List Byte) (i : Nat) : ScrEnt :=
  let e := (l.drop (16 * i)).take 16
  { op := bfld e 0 0 3, w64 := bbit e 0 3, cold := bbit e 0 4, fatal := bbit e 0 5, tmo := bfld e 1 0 5,
    addr := bfld e 2 0 48, val := bfld e 8 0 64 }

/-- An entry breaks a rule of its layout. -/
def scrBad (l : List Byte) (i : Nat) : Bool :=
  let e := (l.drop (16 * i)).take 16
  let q := scrAt l i
  let n := if q.w64 then 8 else 4
  decide (4 ≤ q.op) || (q.w64 && q.op != 1) || bfld e 0 6 2 != 0 || bfld e 1 5 3 != 0 || decide (23 < q.tmo)
  || ((q.op == 0 || q.op == 3) && q.addr != 0) || ((q.op == 1 || q.op == 2) && q.addr % n != 0)
  || (q.op == 3 && decide (2 ^ 32 ≤ q.val))

/-- Index of the first END, if there is one. -/
def scrEnd (l : List Byte) : Option Nat := (List.range (l.length / 16)).find? fun i => (scrAt l i).op == 0

/-- A SCRIPT section without END, or with a broken entry before it. -/
def scriptFail (l : List Byte) : Bool := match scrEnd l with
  | none => true
  | some n => (List.range (n + 1)).any (scrBad l)

/-! ### The NVM (R318, R410, R438) -/

/-- `n` bytes of the NVM from an address; an erased byte is 0xFF (log 7). -/
def nvmRead (m : SMap Byte) (a n : Nat) : List Byte := (List.range n).map fun i => SMap.get m 0xFF (a + i)

/-- Erase a range. -/
def nvmErase (m : SMap Byte) (a n : Nat) : SMap Byte := m.filter fun e => !(decide (a ≤ e.1) && decide (e.1 < a + n))

/-- Base of the log area: two counter sectors, then the mirror ring. -/
def nvmLog : Nat := 0x1000000

/-- A counter record: UCNT and its complement. -/
def ucntAt (m : SMap Byte) (i : Nat) : Option Nat :=
  let v := leNat (nvmRead m (nvmLog + 8 * i) 8)
  if fld v 0 32 + fld v 32 32 = 2 ^ 32 - 1 then some (fld v 0 32) else none

/-- Indices of counter records that hold anything: 512 in each of two sectors. -/
def ucntUsed (m : SMap Byte) : List Nat :=
  (List.range 1024).filter fun i => (List.range 8).any fun j => (SMap.find m (nvmLog + 8 * i + j)).isSome

/-- The current record: the valid one with the highest UCNT; 0 where none is valid. -/
def ucntNow (m : SMap Byte) : Nat × Option Nat :=
  (ucntUsed m).foldl (fun (b : Nat × Option Nat) i => match ucntAt m i with
    | none => b
    | some v => if b.2.isNone || decide (b.1 < v) then (v, some i) else b) (0, none)

/-- Append the counter's next value: behind the current record, or, where its sector is full, at the start of the other
sector, which is erased. -/
def ucntPut (m : SMap Byte) (v : Nat) : SMap Byte :=
  let put := fun (q : SMap Byte) (i : Nat) =>
    (toLE 8 (v % 2 ^ 32 + 2 ^ 32 * (2 ^ 32 - 1 - v % 2 ^ 32))).zipIdx.foldl
      (fun r e => SMap.put r 0xFF (nvmLog + 8 * i + e.2) e.1) q
  match (ucntNow m).2 with
  | none => put (nvmErase m nvmLog 0x1000) 0
  | some i =>
    let sec := i / 512
    match (List.range 512).find? fun k => decide (i % 512 < k) && !(ucntUsed m).contains (512 * sec + k) with
    | some k => put m (512 * sec + k)
    | none => put (nvmErase m (nvmLog + 0x1000 * (1 - sec)) 0x1000) (512 * (1 - sec))

/-- Entries that the mirror ring holds. -/
def ringSize : Nat := 65024

/-- Address of slot k of the ring. -/
def ringAddr (k : Nat) : Nat := nvmLog + 0x2000 + 16 * (k % ringSize)

/-- Slots of the ring that hold an entry, with its SEQ. -/
def ringSeqs (m : SMap Byte) : List (Nat × Nat) :=
  let slots := (m.filterMap fun e =>
    if nvmLog + 0x2000 ≤ e.1 ∧ e.1 < nvmLog + 0x100000 then some ((e.1 - nvmLog - 0x2000) / 16) else none).eraseDups
  slots.map fun k => (k, bfld (nvmRead m (ringAddr k) 16) 8 0 24)

/-- The newest mirrored SEQ, counted modulo 2^24, with its slot. -/
def ringLast (m : SMap Byte) : Option (Nat × Nat) :=
  (ringSeqs m).foldl (fun (b : Option (Nat × Nat)) q => match b with
    | none => some q
    | some o => if (q.2 + 2 ^ 24 - o.2) % 2 ^ 24 < 2 ^ 23 then some q else b) none

/-- The newest mirrored SEQ. -/
def ringNewest (m : SMap Byte) : Option Nat := (ringLast m).map (·.2)

/-- The slot behind the newest entry: the ring goes on there, whatever the SEQ (R410). -/
def ringNext (m : SMap Byte) : Nat := match ringLast m with
  | none => 0
  | some q => (q.1 + 1) % ringSize

/-- Write an entry into slot k of the ring; a sector is erased as the ring reaches its first slot. -/
def ringPut (m : SMap Byte) (k : Nat) (l : List Byte) : SMap Byte :=
  let m1 := if k % ringSize % 256 = 0 then nvmErase m (ringAddr k) 0x1000 else m
  l.zipIdx.foldl (fun r e => SMap.put r 0xFF (ringAddr k + e.2) e.1) m1

end Sys2Proof.Machine
end

