-- ==== Sys2Proof/Machine/Door.lean ====
section
/-! DEFINITION. The doorbell pages (R158, R196): tails and heads (R159, R160), aborts (R174), and what takes stopped
streams on (R197, R201, R202). -/

namespace Sys2Proof.Machine

/-- A write to the doorbell page of tenant t: ignored while the tenant is disabled or fenced (R250, R343). -/
def State.inPage (s : State) (t : Nat) (f : State → State) : State :=
  if (s.ten t).en && !s.tenFenced (BitVec.ofNat 8 t) then f s else s

/-- A doorbell write that names a stream of tenant t, outside every reset's domain (R174, R196, R343). -/
def State.inNamed (s : State) (t sid : Nat) (f : State → State) : State :=
  s.inPage t fun u =>
    let x := u.strmAt sid
    if x.st != .empty && x.ten.toNat == t && !u.strmFenced sid then f u else u

/-! ### Tails and heads -/

/-- The streams that wait for a slot to join, and are armed by queue q (R139). -/
def State.slotWaiters (s : State) (q : Nat) : List Nat :=
  (s.strms.filter fun e => e.2.st == .waiting && e.2.wait == .noSlots && e.2.queue.toNat == q).map (·.1)

/-- DB_SQ_TAIL of slot k. -/
def State.sqTailOp (s : State) (t k tail : Nat) : State :=
  match s.sqs.find? fun e => e.2.en && e.2.ten.toNat == t && e.2.dbslot.toNat == k with
  | none => s
  | some (q, x) =>
    if 2 ^ x.log2sz.toNat ≤ tail then s
    else
      let s1 := s.modSq q fun y => { y with tail := BitVec.ofNat 16 tail }
      (s1.queueReady q).makeReadies (s1.slotWaiters q)

/-- DB_CQ_HEAD of slot k. -/
def State.cqHeadOp (s : State) (t k head : Nat) : State :=
  match s.cqs.find? fun e => e.2.en && e.2.ten.toNat == t && e.2.dbslot.toNat == k with
  | none => s
  | some (c, x) =>
    if 2 ^ x.log2sz.toNat ≤ head then s
    else (s.modCq c fun y => { y with head := BitVec.ofNat 16 head }).pumpCq c

/-! ### DB_ABORT (R174) -/

/-- An abort held for the next command. -/
def State.holdAbort (s : State) (sid : Nat) : State := s.modStrmAt sid fun x => { x with abortHeld := true }

/-- The command at the stream's position ends with ST_ABORTED when the stream next runs; it has done nothing. -/
def State.abortWaiting (s : State) (sid : Nat) (k : CmdCtx) : State :=
  let x := s.strmAt sid
  let mine := fun (r : Rearm) => r.issuer == sid
  let s1 := match x.wait with
    | .rearmPending t => if x.st = StState.waiting ∧ (s.strmAt t).rpend.any mine
        then s.modStrmAt t fun y => { y with rpend := none } else s
    | _ => s
  let s2 := s1.modStrmAt sid fun y => { y with
    arrd := false
    cmd := some { k with
      aborted := true
      stage := .done
      unknown := k.unknown || k.undecoded || x.stopAt == StopAt.refusal } }
  ((s2.unpin sid).makeReady sid).wakeUp

/-- A command that executes on a channel and takes no part in the abort: it goes on, and the next one is aborted (R174). A
WAIT in its evaluation is abandoned: the stream is READY again at once, and executes the WAIT when it next runs
(R260). -/
def State.abortSpared (s : State) (m c sid : Nat) (k : CmdCtx) : State :=
  let s1 := (s.holdAbort sid).modCmd sid fun y => { y with spared := true }
  if cOpc k.raw = 8 ∧ (s.ch m c).ph = .decoded then
    ((s1.modCmd sid fun y => { y with stage := .raw, decoded := true }).makeReady sid).leave m c
  else s1

/-- An abort of a stream on channel c of Mover m. -/
def State.abortRunning (s : State) (m c sid : Nat) : State :=
  let h := s.ch m c
  match (s.strmAt sid).cmd with
  | none => s.holdAbort sid
  | some k =>
    if isData k.raw && h.ph != .done then
      ((s.modCh m c fun y => { y with
        abort := true, stop := none, slot := none, got := [], xl := [], inB := 0, outB := 0, dflt := none }).dropChan m c
          0).settle m c
    else s.abortSpared m c sid k

/-- An abort of a stream in WAITING: of its command, or, where only its record or a double entry is awaited, of its
next one. -/
def State.abortParked (s : State) (sid : Nat) : State :=
  let x := s.strmAt sid
  match x.wait, x.cmd with
  | .home, _ => s.holdAbort sid
  | .cqFull, _ => (s.holdAbort sid).makeReady sid
  | _, some k => if k.stage = .done then (s.holdAbort sid).makeReady sid else s.abortWaiting sid k
  | _, none => (s.holdAbort sid).makeReady sid

/-- An abort of a HALTED stream (R201, R202). -/
def State.abortHalted (s : State) (sid : Nat) : State :=
  let x := s.strmAt sid
  match x.stopAt, x.cmd with
  | .ring, _ => s.holdAbort sid
  | .program, _ => s.holdAbort sid
  | .record, _ => s.holdAbort sid
  | .recordArmed, _ => s.holdAbort sid
  | _, some k => s.abortWaiting sid k
  | _, none => (s.holdAbort sid).makeReady sid

/-- DB_ABORT. -/
def State.abortOp (s : State) (sid : Nat) : State :=
  let s1 := s.discardPending sid
  match (s.strmAt sid).st with
  | .running => match s.chanOf sid with
    | some (m, c) => if isEcn sid then s else s1.abortRunning m c sid
    | none => s
  | .waiting => if isEcn sid then s else s1.abortParked sid
  | .ready => if isEcn sid then s else (s1.holdAbort sid).dropShadow sid
  | .frozen => (s1.holdAbort sid).modCmd sid fun k => { k with spared := false }
  | .halted => s1.abortHalted sid
  | _ => s

/-! ### THAW, RESUME, SKIP (R197, R201, R202) -/

/-- Slots given to records of the stream that were not written: queue and slot. -/
def State.unwritten (s : State) (sid : Nat) : List (Nat × CqSlot) :=
  (s.cqs.map fun (c, q) => (q.given.filter fun g => g.item.sid == sid && !g.done
    && !s.acc.any fun a => a.kind == .cqRec c g.slot && !a.drain).map fun g => (c, g)).flatten

/-- Write the records again, each into the slot it was given. -/
def State.rewrite (s : State) (l : List (Nat × CqSlot)) : State :=
  l.foldl (fun st (c, g) =>
    match st.writeRecord c g.item g.slot g.ph with
    | (s1, none) => s1
    | (s1, some f) => s1.recordXlat f) s

/-- A record is dropped: its command is no longer outstanding, and its slot is passed over. -/
def State.dropRecord (s : State) (c : Nat) (g : CqSlot) : State :=
  let s1 := (s.outstDec g.item).modCq c fun q => { q with
    given := q.given.map fun y => if y.slot = g.slot
      then { y with done := true, item := { y.item with irq := false, outst := false } } else y }
  let qs := (s1.cq c).given.map fun y => y.item.queue.toNat
  (s1.cqAdvance c (s1.cq c).given).queuesReady (g.item.queue.toNat :: qs)

/-- A stopped stream goes on: READY, but for a wait of its own that is not over (R202). -/
def State.goReady (s : State) (sid : Nat) : State :=
  let x := s.strmAt sid
  if x.abortHeld || x.wait == .cqFull || s.waitOver x then s.makeReady sid
  else if s.homeBusy sid then s.setSt sid .waiting x.wait
  else (s.makeReady sid).modStrmAt sid fun y => { y with wait := x.wait }

/-- The queues that hold records of the stream. -/
def State.heldIn (s : State) (sid : Nat) : List Nat :=
  (s.cqs.filter fun e => e.2.held.any fun r => r.sid == sid).map (·.1)

/-- The record that stopped the stream is written, or dropped, and the stream goes on where it stopped; the records
held behind it follow. -/
def State.recordOn (s : State) (sid : Nat) (drop : Bool) : State :=
  let l := s.unwritten sid
  let s1 := (s.modStrmAt sid fun x => { x with recStop := none }).goReady sid
  let s2 := match drop, l with
    | true, (c, g) :: t => (s1.dropRecord c g).rewrite t
    | _, _ => s1.rewrite l
  (s2.heldIn sid).foldl State.pumpCq s2

/-- THAW of a FROZEN stream, RESUME of a HALTED one: what stopped it is tried again. -/
def State.againOp (s : State) (sid : Nat) : State :=
  let x := s.strmAt sid
  match x.stopAt with
  | .record => s.recordOn sid false
  | .recordArmed => s.recordOn sid false
  | .refusal => (s.modCmd sid fun k => { k with stage := .raw, drr := true, got := [], missing := [] }).goReady sid
  | .decodeRead => (s.modCmd sid fun k => { k with stage := .raw, got := [], missing := [] }).goReady sid
  | _ => s.goReady sid

/-- SKIP of the tile at the position: the rest of a data command goes on; any other command ends. -/
def State.skipTile (s : State) (sid : Nat) : State :=
  match (s.strmAt sid).cmd with
  | none => s
  | some k =>
    if isData k.raw && k.stage != .done then
      ((s.modCmd sid fun y => { y with skipped := true }).modStrmAt sid fun x => { x with ntile := x.ntile + 1 }).goReady sid
    else (s.modCmd sid fun y => { y with skipped := true, stage := .done }).goReady sid

/-- SKIP of a HALTED stream. -/
def State.skipOp (s : State) (sid : Nat) : State :=
  let x := s.strmAt sid
  let ended := fun (st : State) (f : CmdCtx → CmdCtx) => (st.modCmd sid f).goReady sid
  match x.stopAt with
  | .none => s
  | .tile => s.skipTile sid
  | .refusal => ended s fun k => { k with refused := true, unknown := true, stage := .done }
  | .decodeRead => ended s fun k => { k with refused := true, unknown := true, stage := .done }
  | .ring => s
  | .program =>
    (s.modStrmAt sid fun y => { y with cmd := some { CmdCtx.fresh 0 with
      refused := true, unknown := true, stage := .done, recQueue := y.queue } }).goReady sid
  | .record => s.recordOn sid true
  | .recordArmed => s.recordOn sid true
  | .readBack => ended s fun k => { k with skipped := true, stage := .done }
  | .flag =>
    match x.cmd with
    | none => s
    | some k =>
      if s.configRefused x k.raw then
        let f := faultOf x sid x.hmv.toNat x.hch.toNat fltRange (if x.pers then 6 else 4)
        (s.modStrmAt sid fun y => { y with stopAt := .refusal }).pushFault x.part.toNat f
      else ended (s.sigConfig sid k.raw) fun y => { y with skipped := true, stage := .done }
  | .slotTable =>
    match x.cmd with
    | none => (s.modStrmAt sid fun y => { y with wait := .noSlots }).goReady sid
    | some _ => ended s fun k => { k with fill := true }

/-- DB_THAW. -/
def State.thawOp (s : State) (sid : Nat) : State := if (s.strmAt sid).st = .frozen then s.againOp sid else s

/-- DB_RESUME. -/
def State.resumeOp (s : State) (sid : Nat) : State := if (s.strmAt sid).st = .halted then s.againOp sid else s

/-- DB_SKIP. -/
def State.skipHalted (s : State) (sid : Nat) : State := if (s.strmAt sid).st = .halted then s.skipOp sid else s

/-! ### The events -/

/-- A doorbell gives a queue a tail (R159). -/
def execDbSqTail (t : Fin 256) (k : Fin 64) (tail : BitVec 16) (s : State) : Host.Outcome State Fault Refusal :=
  .next (s.hostWrite (.dbSqTail t k tail) fun u => u.inPage t fun v => v.sqTailOp t k tail.toNat)

/-- A doorbell frees records (R160). -/
def execDbCqHead (t : Fin 256) (k : Fin 16) (head : BitVec 16) (s : State) : Host.Outcome State Fault Refusal :=
  .next (s.hostWrite (.dbCqHead t k head) fun u => u.inPage t fun v => v.cqHeadOp t k head.toNat)

/-- An abort (R174). -/
def execDbAbort (t : Fin 256) (sid : BitVec 21) (s : State) : Host.Outcome State Fault Refusal :=
  .next (s.hostWrite (.dbAbort t sid) fun u => u.inNamed t sid.toNat fun v => v.abortOp sid.toNat)

/-- A thaw of a FROZEN stream (R197). -/
def execDbThaw (t : Fin 256) (sid : BitVec 21) (s : State) : Host.Outcome State Fault Refusal :=
  .next (s.hostWrite (.dbThaw t sid) fun u => u.inNamed t sid.toNat fun v => v.thawOp sid.toNat)

/-- A resume of a HALTED stream (R201). -/
def execDbResume (t : Fin 256) (sid : BitVec 21) (s : State) : Host.Outcome State Fault Refusal :=
  .next (s.hostWrite (.dbResume t sid) fun u => u.inNamed t sid.toNat fun v => v.resumeOp sid.toNat)

/-- A skip of a HALTED stream's tile (R201). -/
def execDbSkip (t : Fin 256) (sid : BitVec 21) (s : State) : Host.Outcome State Fault Refusal :=
  .next (s.hostWrite (.dbSkip t sid) fun u => u.inNamed t sid.toNat fun v => v.skipHalted sid.toNat)

end Sys2Proof.Machine
end

