-- ==== Sys2Proof/Machine/Conf.lean ====
section
/-! DEFINITION. Host writes of configuration registers that have a row of their own: queues (R151 to R155, R191), tenants
(R247, R248), homes (R255), invalidations (R186, R187), counters, suspects, SOLO mode and STRM bindings. -/

namespace Sys2Proof.Machine

/-- A ring size is allowed. -/
def ringOk (l : BitVec 5) : Bool := decide (4 ≤ l.toNat ∧ l.toNat ≤ 16)

/-! ### Submission queues (R151, R154, R366) -/

/-- The fields of a GL_SQ_CFG write. -/
def Sq.cfg (x : Sq) (v : BitVec 64) : Sq :=
  let n := v.toNat
  { x with
    log2sz := BitVec.ofNat 5 (fld n 1 5), ten := BitVec.ofNat 8 (fld n 6 8), cq := BitVec.ofNat 8 (fld n 14 8),
    qout := BitVec.ofNat 8 (fld n 22 8), dbslot := BitVec.ofNat 6 (fld n 30 6), pfw := BitVec.ofNat 5 (fld n 36 5) }

/-- No configuration error of R154 or R366 stands against queue q. -/
def State.sqOk (s : State) (q : Nat) (x : Sq) : Bool :=
  let p := s.part (s.ten x.ten.toNat).part.toNat
  let c := s.cq x.cq.toNat
  ringOk x.log2sz && c.en && c.ten == x.ten
  && !(s.sqs.any fun e => e.1 != q && e.2.en && e.2.ten == x.ten && e.2.dbslot == x.dbslot)
  && p.qen && decide (p.qglo.toNat ≤ q / 64 ∧ q / 64 ≤ p.qghi.toNat) && !s.retired (q / 64)
  && (s.strmAt q).st == .empty

/-- The queue's stream goes from EMPTY to ARMED, with the home it was given. -/
def State.armQueue (s : State) (q : Nat) (x : Sq) : State :=
  let y := s.strmAt q
  s.setStrmAt q { Strm.reset with
    st := .armed, ten := x.ten, tgen := s.genOf x.ten, part := (s.ten x.ten.toNat).part, queue := BitVec.ofNat 10 q,
    pfw := x.pfw, hen := y.hen, hmv := y.hmv, hch := y.hch }

/-- An EMPTY record that keeps its home. -/
def Strm.emptied (y : Strm) : Strm := { Strm.reset with hen := y.hen, hmv := y.hmv, hch := y.hch }

/-- Queue q may be disabled. -/
def State.sqIdle (s : State) (q : Nat) : Bool :=
  (s.strmAt q).st == .armed
  && !(s.strms.any fun e => e.2.pers && e.2.queue.toNat == q && e.2.st != .empty && e.2.st != .armed)
  && !(s.cqs.any fun e => e.2.held.any fun r => r.queue.toNat == q)

/-- A write of GL_SQ_CFG. -/
def State.sqCfgOp (s : State) (q : Nat) (v : BitVec 64) : State :=
  let x := s.sq q
  let en := bit v.toNat 0
  if x.en then
    let s1 := s.setSq q { x with qout := BitVec.ofNat 8 (fld v.toNat 22 8) }
    if en then s1.queueReady q
    else if s1.sqIdle q then
      ((s1.modSq q fun y => { y with en := false }).unpin q).modStrmAt q Strm.emptied
    else s1.queueReady q
  else
    let y := x.cfg v
    if en && s.sqOk q y then (s.setSq q { y with en := true, head := 0, tail := 0 }).armQueue q y
    else s.setSq q y

/-! ### Completion queues (R155, R157) -/

/-- The fields of a GL_CQ_CFG write. -/
def Cq.cfg (x : Cq) (v : BitVec 64) : Cq :=
  let n := v.toNat
  { x with
    log2sz := BitVec.ofNat 5 (fld n 1 5), ten := BitVec.ofNat 8 (fld n 6 8), irq := BitVec.ofNat 4 (fld n 14 4),
    msi := bit n 18, dbslot := BitVec.ofNat 4 (fld n 19 4) }

/-- Records of queue c that are on their way no longer count. -/
def State.cqQuit (s : State) (c : Nat) : State :=
  let mine := fun (a : Access) => match a.kind with
    | .cqRec k _ => k == c
    | _ => false
  let s1 := (s.cq c).given.foldl (fun st g => st.outstDec g.item) s
  { s1.modCq c (fun x => { x with en := false, given := [] }) with
    acc := (s1.acc.filter fun a => !(mine a && !inFlight a)).map fun a => if mine a then { a with drain := true } else a }

/-- A write of GL_CQ_CFG. -/
def State.cqCfgOp (s : State) (c : Nat) (v : BitVec 64) : State :=
  let x := s.cq c
  let en := bit v.toNat 0
  if x.en then
    if !en && !(s.sqs.any fun e => e.2.en && e.2.cq.toNat == c) then s.cqQuit c else s
  else
    let y := x.cfg v
    let ok := ringOk y.log2sz && !(s.cqs.any fun e => e.1 != c && e.2.en && e.2.ten == y.ten && e.2.dbslot == y.dbslot)
    s.setCq c (if en && ok then { y with en := true, tail := 0, head := 0, ph := true, given := [], held := [] } else y)

/-! ### Fault queues (R191) -/

/-- A write of PT_FQ_CFG. -/
def State.fqCfgOp (s : State) (p : Nat) (v : BitVec 64) : State :=
  let q := (s.part p).fq
  let n := v.toNat
  let put := fun (st : State) (y : Fq) => st.modPart p fun x => { x with fq := y }
  if q.en then
    if bit n 0 then s
    else
      let lost := min (q.lost.toNat + q.buf.length) 0xFFFF
      put { s with acc := s.acc.map fun a => if a.kind = .fqRec p then { a with drain := true } else a }
        { q with en := false, lost := BitVec.ofNat 16 lost, buf := [], busy := false }
  else
    let y := { q with
      log2sz := BitVec.ofNat 5 (fld n 1 5), irq := BitVec.ofNat 4 (fld n 6 4), msi := bit n 10,
      base := BitVec.ofNat 36 (fld n 12 36) }
    put s (if bit n 0 && ringOk y.log2sz then { y with en := true, tail := 0, head := 0, ph := true, buf := [] } else y)

/-- A write of PT_FQ_HEAD. -/
def State.fqHeadOp (s : State) (p : Nat) (head : BitVec 16) : State :=
  (s.modPart p fun x => { x with fq := { x.fq with head := head } }).pumpFq p

/-! ### Tenants (R247, R248) -/

/-- Nothing of the tenant stands against its disable. -/
def State.tenIdle (s : State) (t : Nat) : Bool :=
  !(s.sqs.any fun e => e.2.en && e.2.ten.toNat == t) && !(s.cqs.any fun e => e.2.en && e.2.ten.toNat == t)
  && !(s.strms.any fun e => e.2.st != .empty && e.2.ten.toNat == t)

/-- A write of GL_TENANT. -/
def State.tenantOp (s : State) (t : Nat) (v : BitVec 64) : State :=
  let x := s.ten t
  let n := v.toNat
  let en := bit n 0
  let w := fld n 16 16
  let ok := if en then x.avail && (s.part x.part.toNat).en && w != 0 else s.tenIdle t
  let cerr := x.cerr && !bit n 32
  s.setTen t (if ok then { x with en := en, weight := BitVec.ofNat 16 w, cerr := cerr } else { x with cerr := true })

/-! ### Homes (R255, R348) -/

/-- A write of PT_HOME. -/
def State.homeOp (s : State) (p : Nat) (v : BitVec 32) : State :=
  let n := v.toNat
  let q := fld n 0 10
  let m := fld n 10 6
  let hen := bit n 18
  let x := s.strmAt q
  let ok := (s.ten (s.sq q).ten.toNat).part.toNat == p && (x.st == .empty || x.st == .armed)
    && (!hen || ((s.part p).mvmask.getLsbD m && !(s.mover m).oos))
  if ok then s.modStrmAt q fun y => { y with
      hen := hen, hmv := BitVec.ofNat 6 m, hch := BitVec.ofNat 2 (fld n 16 2) }
  else s.modPart p fun y => { y with homeDrop := true }

/-! ### Invalidation (R186, R187) -/

/-- An invalidation: of one tenant, of one page of it, or of all. -/
inductive InvScope where
  | tenant (t : BitVec 8)
  | page (t : BitVec 8) (va : Nat)
  | all
deriving DecidableEq, Repr

/-- Tenants that match. -/
def InvScope.hits (i : InvScope) (t : BitVec 8) : Bool := match i with
  | .tenant u => t == u
  | .page u _ => t == u
  | .all => true

/-- TLB entries that match. -/
def InvScope.drops (i : InvScope) (e : TlbE) : Bool := match i with
  | .tenant u => e.ten == u
  | .page u va => e.ten == u && e.vpn == va / pageSize e.lvl.toNat
  | .all => true

/-- Drop the matching entries, and discard the walks in flight. -/
def State.invCaches (s : State) (i : InvScope) : State :=
  { s with
    movers := (s.movers.map fun (m, v) => (m, { v with utlb := v.utlb.filter fun e => !i.drops e })).filter fun e =>
      e.2 ≠ Mover.reset
    xl := (s.xl.map fun (p, x) => (p, { x with
      l2 := x.l2.filter fun e => !i.drops e
      wc := x.wc.filter fun e => !i.hits e.ten
      walk := x.walk.map fun w => if i.hits w.req.ten then { w with discard := true } else w })).filter fun e =>
        e.2 ≠ Xl.reset }

/-- A read that its Mover has not issued, with an address from a dropped translation. -/
def invAgain (i : InvScope) (a : Access) : Bool :=
  a.stage == .issue && a.space == 0 && !a.phys && !a.wr && i.hits a.ten

/-- Unissued reads are translated again. -/
def State.invReads (s : State) (i : InvScope) : State :=
  let l := s.acc.filter (invAgain i)
  let s1 := l.foldl (fun st a => (st.modAcc a.aid fun b => { b with stage := .xlat }).modXlU a.part fun x => { x with
    queue := x.queue ++ [{ ten := a.ten, gen := a.gen, va := a.va, wr := a.permW, aid := a.aid }] }) s
  (List.range 8).foldl (fun st p => if (st.xlU p).walk.isNone ∧ (st.xlU p).queue ≠ [] then st.pumpWalks p else st) s1

/-- A tile whose writes have not begun has its destination translated again (step 2). -/
def State.invTile (s : State) (i : InvScope) (k : Nat) : State :=
  let (m, c) := (k / 4, k % 4)
  let h := s.ch m c
  match h.act with
  | none => s
  | some sid =>
    let x := s.strmAt sid
    match x.cmd with
    | none => s
    | some cmd =>
      if !i.hits x.ten || h.ph != .tiles || h.stop.isSome || h.abort || h.xl == [] then s
      else
        let probe := fun (a : Access) => ofChan m c a && a.kind == .probe h.tile
        (({ s with acc := s.acc.filter fun a => !probe a }.modCh m c fun y => { y with xl := [] }).probeDest m c sid
          h.tile (runGeo x cmd)).1

/-- An access that is of no tenant. -/
def ofNoTenant : AKind → Bool
  | .fqRec _ | .msi | .mgmt | .mbRead | .sheet | .glacZero | .script | .bootData => true
  | _ => false

/-- A write of a tile. -/
def isTileWrite : AKind → Bool
  | .dest _ | .ecnos _ => true
  | _ => false

/-- An access that BUSY waits for (step 4): any of a matching tenant that is outstanding, and the writes of a tile begun. -/
def invWait (i : InvScope) (a : Access) : Bool :=
  i.hits a.ten && !ofNoTenant a.kind && (inFlight a || (a.wr && a.stage == .issue && isTileWrite a.kind))

/-- A walk that an invalidation has discarded has not ended: it may still read through an old table. -/
def State.oldWalk (s : State) : Bool := s.xl.any fun e => match e.2.walk with
  | some w => w.discard
  | none => false

/-- A write of TR_INV. -/
def State.invOp (s : State) (i : InvScope) : State :=
  if s.inv.busy then { s with inv := { s.inv with drop := true } }
  else
    let l : List Access := s.acc.filter (invWait i)
    let s1 : State := { s with inv := { s.inv with busy := true, waits := l.map (·.aid) } }
    let s2 := (s1.invCaches i).invReads i
    (s2.chans.map (·.1)).foldl (fun st k => st.invTile i k) s2

/-- INV_DONE. -/
def State.invDoneOp (s : State) : State :=
  if ((s.acc ++ s.sink).any fun a => s.inv.waits.contains a.aid) || s.oldWalk then s
  else { s with inv := { s.inv with busy := false, waits := [] } }

/-! ### Counters, suspects, SOLO mode (R229, R356, R357) -/

/-- CLR of a counter. -/
def State.cntClearOp (s : State) (m k : Nat) : State :=
  s.modCnt (cntKey m k) fun x => { x with arr := 0, next := 0, dent := false }

/-- CLR of a suspect list. -/
def State.suspClearOp (s : State) (m : Nat) : State :=
  s.modMover m fun v => { v with susp := [], sovf := false, froz := false }

/-- Streams homed on the Mover wait for it, or become READY, as it now takes them (R164). -/
def State.rehome (s : State) (m : Nat) : State :=
  let l := (s.strms.filter fun (k, x) => x.hen && x.hmv.toNat == m && x.st == .ready && s.homeBusy k).map (·.1)
  let s1 := l.foldl (fun st k => (st.dropShadow k).setWait k .home) s
  [0, 1, 2, 3].foldl (fun st c => st.wakeHome m c) s1

/-- A write of MV_RCTL: shadow sets that hold a stream of another tenant are dropped. -/
def State.soloOp (s : State) (m : Nat) (v : BitVec 32) : State :=
  let s1 := s.modMover m fun x => { x with solo := bit v.toNat 0, solot := BitVec.ofNat 8 (fld v.toNat 1 8) }
  let barred := (([0, 1, 2, 3].filterMap fun c => (s1.ch m c).shadow).filter fun k => s1.soloBars m (s1.strmAt k).ten)
  (barred.foldl State.dropShadow s1).rehome m

/-! ### STRM bindings (R433) -/

/-- A write of GL_STRM of TDEST d: one that would enable it against a condition takes no effect. -/
def State.strmBindOp (s : State) (d : Nat) (v : BitVec 64) : State :=
  let q := s.strmP d
  let n := v.toNat
  if q.en then
    let x := s.strmAt q.sid.toNat
    let moving := x.st == .running && x.cmd.any fun k => cOpc k.raw == 1
    if bit n 0 || moving then s
    else s.setStrmP d { q with en := false, buf := [], inFrame := false, skip := false, rows := [], cur := [], curBad := false }
  else
    let y := { q with
      pack := BitVec.ofNat 2 (fld n 1 2), sid := BitVec.ofNat 21 (fld n 3 21), ten := BitVec.ofNat 8 (fld n 24 8) }
    let x := s.strmAt y.sid.toNat
    let ok := (s.ten y.ten.toNat).en && x.st != .empty && x.pers && x.ten == y.ten && x.tgen == s.genOf y.ten && x.hen
      && !x.rcv && !((List.range 4).any fun e => e != d && (s.strmP e).en && (s.strmP e).sid == y.sid)
    if bit n 0 && !ok then s else s.setStrmP d { y with en := bit n 0 }

/-! ### The events -/

/-- GL_SQ_CFG written with EN=1 (R154). -/
def execSqEnable (q : Fin 1024) (v : BitVec 64) (s : State) : Host.Outcome State Fault Refusal :=
  .next (s.hostWrite (.sqEnable q v) fun u => u.sqCfgOp q (v ||| 1))

/-- GL_SQ_CFG written with EN=0 (R154). -/
def execSqDisable (q : Fin 1024) (v : BitVec 64) (s : State) : Host.Outcome State Fault Refusal :=
  .next (s.hostWrite (.sqDisable q v) fun u => u.sqCfgOp q (v &&& ~~~1))

/-- GL_CQ_CFG written with EN=1 (R155). -/
def execCqEnable (c : Fin 256) (v : BitVec 64) (s : State) : Host.Outcome State Fault Refusal :=
  .next (s.hostWrite (.cqEnable c v) fun u => u.cqCfgOp c (v ||| 1))

/-- GL_CQ_CFG written with EN=0 (R155). -/
def execCqDisable (c : Fin 256) (v : BitVec 64) (s : State) : Host.Outcome State Fault Refusal :=
  .next (s.hostWrite (.cqDisable c v) fun u => u.cqCfgOp c (v &&& ~~~1))

/-- PT_FQ_CFG written with EN=1 (R191). -/
def execFqEnable (p : Fin 8) (v : BitVec 64) (s : State) : Host.Outcome State Fault Refusal :=
  .next (s.hostWrite (.fqEnable p v) fun u => u.fqCfgOp p (v ||| 1))

/-- PT_FQ_CFG written with EN=0 (R191). -/
def execFqDisable (p : Fin 8) (v : BitVec 64) (s : State) : Host.Outcome State Fault Refusal :=
  .next (s.hostWrite (.fqDisable p v) fun u => u.fqCfgOp p (v &&& ~~~1))

/-- PT_FQ_HEAD written (R191). -/
def execFqHead (p : Fin 8) (head : BitVec 16) (s : State) : Host.Outcome State Fault Refusal :=
  .next (s.hostWrite (.fqHead p head) fun u => u.fqHeadOp p head)

/-- GL_TENANT written with EN=1 (R248). -/
def execTenantEnable (t : Fin 256) (v : BitVec 64) (s : State) : Host.Outcome State Fault Refusal :=
  .next (s.hostWrite (.tenantEnable t v) fun u => u.tenantOp t (v ||| 1))

/-- GL_TENANT written with EN=0 (R248). -/
def execTenantDisable (t : Fin 256) (v : BitVec 64) (s : State) : Host.Outcome State Fault Refusal :=
  .next (s.hostWrite (.tenantDisable t v) fun u => u.tenantOp t (v &&& ~~~1))

/-- PT_HOME written (R255). -/
def execPtHome (p : Fin 8) (v : BitVec 32) (s : State) : Host.Outcome State Fault Refusal :=
  .next (s.hostWrite (.ptHome p v) fun u => u.homeOp p v)

/-- TR_INV written with SCOPE 0 (R187). -/
def execInvTenant (t : BitVec 8) (s : State) : Host.Outcome State Fault Refusal :=
  .next (s.hostWrite (.invTenant t) fun u => u.invOp (.tenant t))

/-- TR_INV written with SCOPE 1 (R187). -/
def execInvPage (t : BitVec 8) (vpage : BitVec 36) (s : State) : Host.Outcome State Fault Refusal :=
  .next (s.hostWrite (.invPage t vpage) fun u => u.invOp (.page t (vpage.toNat * 4096)))

/-- TR_INV written with SCOPE 2 (R187). -/
def execInvAll (s : State) : Host.Outcome State Fault Refusal := .next (s.hostWrite .invAll fun u => u.invOp .all)

/-- An invalidation ends (R187). -/
def execInvDone (s : State) : Host.Outcome State Fault Refusal := .next s.invDoneOp

/-- SF_CNT.CLR written (R229). -/
def execCounterClear (m : Fin 64) (k : Fin 64) (s : State) : Host.Outcome State Fault Refusal :=
  .next (s.hostWrite (.counterClear m k) fun u => u.cntClearOp m k)

/-- MV_SUSPCTL.CLR written (R356). -/
def execSuspectClear (m : Fin 64) (s : State) : Host.Outcome State Fault Refusal :=
  .next (s.hostWrite (.suspectClear m) fun u => u.suspClearOp m)

/-- MV_RCTL written (R357). -/
def execSoloMode (m : Fin 64) (v : BitVec 32) (s : State) : Host.Outcome State Fault Refusal :=
  .next (s.hostWrite (.soloMode m v) fun u => u.soloOp m v)

/-- GL_STRM written (R433). -/
def execStrmBind (d : Fin 4) (v : BitVec 64) (s : State) : Host.Outcome State Fault Refusal :=
  .next (s.hostWrite (.strmBind d v) fun u => u.strmBindOp d v)

end Sys2Proof.Machine
end

