-- ==== Sys2Proof/Machine/Pins.lean ====
section
/-! DEFINITION. What happens at the pins: STRM beats (R430 to R435), rope lines (R236, R384, R440), and resets of the
ports (R445). -/

namespace Sys2Proof.Machine

/-! ### STRM (R430, R434) -/

/-- The channel, and its stream, that takes its source from TDEST d. -/
def State.strmUser (s : State) (d : Nat) : Option (Nat × Nat × Nat) :=
  (s.chans.findSome? fun e => match e.2.act with
    | none => none
    | some sid => if (s.strmAt sid).cmd.any fun k => k.td == some d && k.stage == .tiles then some (e.1, sid) else none).map
      fun e => (e.1 / 4, e.1 % 4, e.2)

/-- Whether a frame of d has begun for its command. -/
def StrmP.begun (q : StrmP) : Bool := q.inFrame || q.rows != []

/-- A beat is lost inside a frame: the remaining rows are FILL, and beats are discarded up to the next start of frame
(step 4 of R434). -/
def State.strmCut (s : State) (d : Nat) : State :=
  match s.strmUser d with
  | none => s
  | some (m, c, sid) =>
    let q := s.strmP d
    let past := fun (k : CmdCtx) =>
      k.strmEnd || k.fill || decide (((runGeo (s.strmAt sid) k).sd.dim 1).extent ≤ q.rows.length)
    if !q.begun || (s.strmAt sid).cmd.any past then s
    else
      let gone := q.buf.takeWhile fun b => !b.user
      let q1 := { q with
        ferr := satInc q.ferr, buf := q.buf.drop gone.length, cur := [], inFrame := false, curBad := true
        skip := decide (q.buf.length = gone.length) }
      ((s.setStrmP d q1).modCmd sid fun k => { k with strmEnd := true }).advanceTile m c sid (s.ch m c).tile

/-- The channel takes what it can of the beats that wait. -/
def State.strmFeed (s : State) (d : Nat) : State :=
  match s.strmUser d with
  | none => s
  | some (m, c, sid) =>
    let h := s.ch m c
    match (s.strmAt sid).cmd with
    | none => s
    | some k =>
      if h.ph = .tiles ∧ h.slot = none ∧ h.stop = none ∧ h.abort = false ∧ k.fill = false ∧ k.strmEnd = false then
        let g := runGeo (s.strmAt sid) k
        (s.strmPull sid d (g.sd.dim 0).extent (g.sd.dim 1).extent (g.rowsNeeded h.tile)).advanceTile m c sid h.tile
      else s

/-- TKEEP of a beat keeps the rule: all ones, or on the last beat of a line a run of ones from bit 0. -/
def keepOk (keep : BitVec 32) (last : Bool) : Bool :=
  if last then keep != 0 && keep &&& (keep + 1) == 0 else keep == BitVec.allOnes 32

/-- The valid bytes of a beat. -/
def keepBytes (keep : BitVec 32) (data : List Byte) : List Byte :=
  (List.range 32).filterMap fun i => if keep.getLsbD i then some (data.getD i 0) else none

/-- STRM takes beats (R430, R444). -/
def State.strmOpen (s : State) : Bool :=
  s.inRun && !s.pins.strm && s.pwr.state != 3 && s.pwr.state != 4 && s.pwr.state != 5

/-- STRM_BEAT. -/
def State.strmBeatOp (s : State) (d : Nat) (data : List Byte) (keep : BitVec 32) (last user : Bool) : State :=
  if s.strmOpen = false then s
  else
    let s0 := s.awake
    let q := s0.strmP d
    if q.en = false then s0.setStrmP d { q with ovf := satInc q.ovf }
    else
      let q1 := if user then { q with frames := satInc q.frames } else q
      if 256 ≤ q1.buf.length then (s0.setStrmP d { q1 with ovf := satInc q1.ovf }).strmCut d
      else if q1.skip && !user then
        let px := decide (keepBytes keep data ≠ [])
        s0.setStrmP d { q1 with ferr := if px && !q1.curBad then satInc q1.ferr else q1.ferr, curBad := q1.curBad || px }
      else
        let b : Beat := { data := keepBytes keep data, last := last, user := user, bad := !keepOk keep last }
        (s0.setStrmP d { q1 with buf := q1.buf ++ [b], skip := false, curBad := q1.curBad && !user }).strmFeed d

/-! ### Rope pins (R236, R384) -/

/-- The Sync File is powered and clocked (R378, R444). -/
def State.syncUp (s : State) : Bool := s.clocked

/-- rope_in[n] rises. -/
def State.ropeRiseOp (s : State) (n : Nat) : State :=
  let r := s.rope n
  if s.pwr.off || r.rin then s
  else if s.pwr.state = 4 ∨ s.pwr.state = 5 then
    { s.modRope n (fun q => { q with rin := true }) with
      pwr := { s.pwr with rose := s.pwr.rose ||| BitVec.ofNat 16 (2 ^ n) } }
  else if s.syncUp && r.en && r.ext then s.ropeIn n
  else s.modRope n fun q => { q with rin := true, low := false }

/-- rope_in[n] falls. -/
def State.ropeFallOp (s : State) (n : Nat) : State :=
  if s.pwr.off || !(s.rope n).rin then s
  else if s.syncUp then s.ropeDown n
  else s.modRope n fun q => { q with rin := false, low := true }

/-! ### Port resets (R445) -/

/-- Ports of a reset input: 0 and 1 are FAR, 2 to 5 are NEAR. -/
def rstPorts : RstPort → List Nat
  | .far0 => [0]
  | .far1 => [1]
  | .near => [2, 3, 4, 5]
  | _ => []

/-- A reset input is asserted, or released. -/
def Pins.put (x : Pins) (p : RstPort) (v : Bool) : Pins := match p with
  | .far0 => { x with far0 := v }
  | .far1 => { x with far1 := v }
  | .near => { x with near := v }
  | .peer0 => { x with peer0 := v }
  | .peer1 => { x with peer1 := v }
  | .strm => { x with strm := v }
  | .host => { x with host := v }

/-- Level of a reset input. -/
def Pins.get (x : Pins) : RstPort → Bool
  | .far0 => x.far0
  | .far1 => x.far1
  | .near => x.near
  | .peer0 => x.peer0
  | .peer1 => x.peer1
  | .strm => x.strm
  | .host => x.host

/-- A read of decode ends as SLVERR. -/
def State.decodeLost (s : State) (m : Nat) (a : Access) : State :=
  let s1 := (s.delAcc a.aid).decodeBus m a.ch a 2
  if s1.decodeReads m a.ch = [] then State.goOn m a.ch a.sid (s1.decodeEnd m a.ch a.sid) else s1

/-- An outstanding access ends as SLVERR. -/
def State.endsBad (s : State) (aid : Nat) : State :=
  match s.findAcc aid with
  | none => s
  | some a =>
    let m := (rqMover a.rq).getD 0
    match a.kind with
    | .ring => if a.drain then s.sourceOp aid [] .slverr false else s.fetchedOp m a.ch [] .slverr
    | .program => if a.drain then s.sourceOp aid [] .slverr false else s.fetchedOp m a.ch [] .slverr
    | .decode _ => if a.drain then s.sourceOp aid [] .slverr false else s.decodeLost m a
    | .slotTable => if a.drain then s.sourceOp aid [] .slverr false
        else ((s.delAcc aid).busError m a.ch a (busCode false) 2).settle m a.ch
    | .readBack => s.readBackOp aid .slverr
    | .flag => s.flagOp aid .slverr
    | .cqRec _ _ => s.cqWrittenOp aid .slverr
    | .fqRec _ => s.fqWrittenOp aid .slverr
    | .walkRead => if a.drain then s.delAcc aid else s.walkOp a.part 0 .slverr false
    | .glacRead _ _ => s.glacierOp aid [] .slverr
    | .ecnos _ => if !a.drain && !a.wr && (s.ch m a.ch).ph == .ecnFetch then s.ecnDescriptorOp m a.ch [] .slverr
        else if a.wr then s.writeRespOp aid .slverr else s.sourceOp aid [] .slverr false
    | .script => if a.drain then s.delAcc aid else (s.delAcc aid).scriptLost
    | _ => if a.wr then s.writeRespOp aid .slverr else s.sourceOp aid [] .slverr false

/-- QIDS: the IDs of partition p that the sink still holds (R341). -/
def State.countQids (s : State) : State :=
  (List.range 8).foldl (fun st p =>
    let n := min 0xFF (s.sink.filter fun a => a.part == p).length
    st.modRstE p fun e => { e with qids := BitVec.ofNat 8 n }) s

/-- A memory port's reset: its accesses end, and its quarantined IDs are free. -/
def State.memReset (s : State) (ports : List Nat) : State :=
  let s1 := { s with sink := s.sink.filter fun a => !ports.contains a.port }.countQids
  ((s1.acc.filter fun a => a.stage == .out && ports.contains a.port).map (·.aid)).foldl State.endsBad s1

/-- Requests received through a port are discarded: they go unanswered, their credits are not owed, and a tracker holds
none of them. -/
def State.dropJobs (s : State) (port : Nat) : State :=
  let l := s.peer.jobs.filter fun j => j.port == port && !j.drain
  let s1 := l.foldl (fun st j => st.endJob { j with drain := true }) s
  let lost := fun (f : FinTrk) => f.held.any fun h => l.any fun j => j.id == h.1
  (List.range l.length).foldl (fun st _ => st.peDrop port) { s1 with peer := { s1.peer with
    fin := s1.peer.fin.map fun (k, f) => (k, if lost f then { f with held := none } else f) } }

/-- A peer port's reset: requests sent through it time out, and packets that lie in its receive buffers are
discarded: those in transit, and the requests received. -/
def State.peerReset (s' : State) (port : Nat) : State :=
  let s := s'.dropJobs port
  let inBuf := fun (t : TxPkt) => t.slot.any fun k => k / 4 == port
  let lost := (s.peer.tx.filter inBuf).length
  let s1 := { s with peer := { s.peer with
    tx := s.peer.tx.filter fun t => !inBuf t
    used := s.peer.used.filter fun e => e.1 / 4 != port
    owed := s.peer.owed.filter fun e => e.1 / 4 != port } }
  let s2 := (List.range lost).foldl (fun st _ => st.peDrop port) s1
  let l := (s2.peer.rem.filter fun r => r.port == port && r.sent).map fun r => (r.mv, r.ch)
  l.foldl (fun st r => st.timeoutOp r.1 r.2) s2

/-- The reset of STRM: the ingress buffers are emptied. -/
def State.strmReset (s : State) : State :=
  (List.range 4).foldl (fun st d =>
    let st1 := st.modStrmP d fun q => { q with buf := [] }
    st1.strmCut d) s

/-- PORT_RESET_ASSERT. -/
def State.portAssertOp (s : State) (p : RstPort) : State :=
  if s.pins.get p || s.pwr.off then s
  else
    let s1 := { s with pins := s.pins.put p true }
    match p with
    | .far0 => s1.memReset [0]
    | .far1 => s1.memReset [1]
    | .near => s1.memReset [2, 3, 4, 5]
    | .peer0 => s1.peerReset 0
    | .peer1 => s1.peerReset 1
    | .strm => s1.strmReset
    | .host => { s1 with host := { s1.host with latch := none, held := none, wait := s1.host.wait.filter fun c => !isRead c } }

/-- PORT_RESET_RELEASE: a peer port starts again with 8 credits for each buffer. -/
def State.portReleaseOp (s : State) (p : RstPort) : State :=
  if s.pwr.off then s
  else
    let s1 := { s with pins := s.pins.put p false }
    let fresh := fun (port : Nat) => { s1 with peer := { s1.peer with
      used := s1.peer.used.filter fun e => e.1 / 4 != port
      owed := s1.peer.owed.filter fun e => e.1 / 4 != port } }
    match p with
    | .peer0 => fresh 0
    | .peer1 => fresh 1
    | _ => s1

/-! ### The events -/

/-- A beat on STRM (R434). -/
def execStrmBeat (d : Fin 4) (data : List Byte) (keep : BitVec 32) (last user : Bool) (s : State) :
    Host.Outcome State Fault Refusal := .next (s.strmBeatOp d data keep last user)

/-- rope_in[n] rises (R236). -/
def execRopeInRise (n : Fin 16) (s : State) : Host.Outcome State Fault Refusal := .next (s.ropeRiseOp n)

/-- rope_in[n] falls (R236). -/
def execRopeInFall (n : Fin 16) (s : State) : Host.Outcome State Fault Refusal := .next (s.ropeFallOp n)


/-- A port's reset input is released (R445). -/
def execPortResetRelease (p : RstPort) (s : State) : Host.Outcome State Fault Refusal := .next (s.portReleaseOp p)

end Sys2Proof.Machine
end

