-- ==== Sys2Proof/Machine/Power.lean ====
section
/-! DEFINITION. The power states (R378 to R388): gated Movers, DOZE, the drain and the save of RETAIN and its wake, and the
removal of power. The restore stands beside the parity errors it can meet (`Parity.lean`). -/

namespace Sys2Proof.Machine

/-- GL_PWRSTAT.STATE: LIGHT while a Mover is gated and no deeper state holds (R378, R387). -/
def State.pwrCode (s : State) : Nat :=
  if s.pwr.state = 0 ∧ s.movers.any (fun e => e.2.gated) = true then 1 else s.pwr.state.toNat

/-! ### LIGHT (R379) -/

/-- Clock gating of a Mover ends. -/
def State.ungate (s : State) (m : Nat) : State := s.modMover m fun v => { v with gated := false }

/-- Nothing keeps Mover m from being gated. -/
def State.gateable (s : State) (m : Nat) : Bool :=
  let e := s.rstE (s.partOf m)
  (List.range 4).all (fun c =>
    let h := s.ch m c
    h.act.isNone && h.shadow.isNone && h.loading.isNone)
  && !(s.acc.any fun a => a.mv == some m || rqMover a.rq == some m)
  && !(s.peer.rem.any fun r => r.mv == m)
  && !(s.peer.jobs.any fun j => (s.strmAt j.sid).hmv.toNat == m)
  && (s.mover m).phase == 0 && !(s.mover m).req && !s.moverFenced m
  && !(e.queue.any fun q => q.unit == 3 || (q.unit == 2 && q.target.toNat == m)) && !e.tests.contains m

/-- MOVER_GATE. -/
def State.moverGateOp (s : State) (m : Nat) : State :=
  if s.clocked && s.pwr.lgen && (s.pwr.state == 0 || s.pwr.state == 3) && s.gateable m then
    s.modMover m fun v => { v with gated := true }
  else s

/-! ### DOZE (R380, R381) -/

/-- The block is idle. -/
def State.dozeIdle (s : State) : Bool :=
  (List.range 64).all (fun m => (s.mover m).gated)
  && !(s.strms.any fun e => e.2.st == .ready)
  && s.chans.all (fun e => e.2.shadow.isNone && e.2.loading.isNone)
  && s.acc == [] && s.xl.all (fun e => e.2.walk.isNone && e.2.queue == [])
  && s.peer.rem == [] && s.peer.tx == [] && s.peer.jobs == []
  && !s.arb.pend && s.blk.isNone && s.rst.all (fun e => !e.2.busy && e.2.queue == []) && !s.mg.busy

/-- DOZE_ENTER. -/
def State.dozeEnterOp (s : State) : State :=
  if s.inRun && s.clocked && s.pwr.dzen && s.pwr.state == 0 && s.dozeIdle then
    { s with pwr := { s.pwr with
        state := 2
        dzcnt := satInc s.pwr.dzcnt
        wake := false } }
  else s

/-- DOZE_WAKE: the wake starts. -/
def State.dozeWakeOp (s : State) : State :=
  if s.pwr.state = 2 then { s with pwr := { s.pwr with wake := true } } else s

/-- DOZE_WAKE_DONE: the block is ACTIVE. -/
def State.dozeWakeDoneOp (s : State) : State :=
  if s.pwr.state = 2 ∧ s.pwr.wake = true then
    { s with pwr := { s.pwr with
        state := 0
        wake := false } }
  else s

/-! ### RETAIN (R382, R383) -/

/-- A reset is in progress or queued in some partition, or block-wide. -/
def State.anyReset (s : State) : Bool := s.blk.isSome || s.rst.any fun e => e.2.busy || e.2.queue != []

/-- What a request for RETAIN must not meet. -/
def State.retainBarred (s : State) : Bool :=
  !s.inRun || s.anyReset || s.movers.any (fun e => e.2.phase == 1 || e.2.phase == 2) || s.stc.busy

/-- A request for RETAIN: the drain begins, and shadow sets and loads for them are dropped. -/
def State.retainReq (s : State) : State :=
  if s.retainBarred then { s with pwr := { s.pwr with drop := true } }
  else
    let l := (s.chans.filterMap fun e => e.2.shadow) ++ s.chans.filterMap fun e => e.2.loading
    let s1 := l.foldl State.dropShadow s
    { s1 with pwr := { s1.pwr with
        state := 3
        rreq := true } }

/-- The drain has ended: no channel holds a stream, every access has its response, and no packet is in progress. -/
def State.retainQuiet (s : State) : Bool :=
  s.chans.all (fun e => e.2.act.isNone && e.2.shadow.isNone && e.2.loading.isNone)
  && s.acc == [] && s.xl.all (fun e => e.2.walk.isNone && e.2.queue == [])
  && s.peer.rem == [] && s.peer.tx == []
  && s.peer.jobs.all fun j => j.fin.any fun k => ((s.fin k).held.map (·.1)) == some j.id

/-- What a rope line keeps while the rope watch logic is off: the levels of its pins. -/
def Rope.pinsOnly (r : Rope) : Rope := { Rope.reset with rin := r.rin, rout := r.rout }

/-- RETAIN_DRAINED: the Sync File and the rope lines are saved, the translation caches emptied, the power taken down. -/
def State.retainDrainedOp (s : State) : State :=
  if s.pwr.state = 3 ∧ s.retainQuiet = true then
    let pins : SMap Rope := (s.ropes.map fun (n, r) => (n, r.pinsOnly)).filter fun (_, r) => r ≠ Rope.reset
    let mvs : SMap Mover := (s.movers.map fun (m, v) => (m, { v with utlb := [] })).filter fun (_, v) => v ≠ Mover.reset
    let s1 : State := { s with
      pwr := { s.pwr with
        state := 4
        rose := 0
        save := some (s.cnts, s.ropes) }
      cnts := []
      ropes := pins
      xl := []
      movers := mvs }
    s1.logEvent 0x60 0xFF (1 + 2 * s.pwr.lwake.toNat)
  else s

/-- Code of a wake source. -/
def wakeCode : WakeSrc → Nat
  | .host => 1
  | .rope _ => 2
  | .peer _ => 3
  | .strm => 4
  | .mgmt => 5
  | .reset => 6

/-- A wake source is enabled. -/
def State.wakeOn (s : State) : WakeSrc → Bool
  | .host => true
  | .rope n => s.pwr.wakem.getLsbD n
  | .peer _ => s.pwr.pwake
  | .strm => s.pwr.swake
  | .mgmt => true
  | .reset => true

/-- RETAIN_WAKE: an entry still in its drain is cancelled; RETAIN begins its wake. -/
def State.retainWakeOp (s : State) (w : WakeSrc) : State :=
  if s.wakeOn w = false then s
  else if s.pwr.state = 4 then
    { s with pwr := { s.pwr with
        state := 5
        lwake := BitVec.ofNat 3 (wakeCode w) } }
  else s.drainCancel

/-! ### OFF (R385) -/

/-- Write bytes into the NVM from an address; an erased byte is 0xFF (log 7). -/
def State.nvmPut (s : State) (a : Nat) (l : List Byte) : State :=
  { s with nvm := l.zipIdx.foldl (fun m e => m.put 0xFF (a + e.2) e.1) s.nvm }

/-- NVM address of an image slot; true is slot B (R318). -/
def slotBase (b : Bool) : Nat := if b then 0x800000 else 0

/-- What the programming of an image leaves where it stops short. Its pages of 256 bytes are programmed in ascending order
from byte 1,024 on, and bytes 0 to 1,023 last: before the page at which it stops they hold the image, behind it they are
erased, and each byte of that page holds what was being written or is erased (R9, R385, R415). Which page that is, is a
free value (log 10), but the last one, which completes the header, is not it. After an NVM error (`wild`) the header is
erased again, and what the rest holds is open. -/
def State.tornSlot (s : State) (wild : Bool) : State :=
  match s.mg.work.bind (·.update) with
  | none => s
  | some (b, img) =>
    let n := img.length
    let body := n - 1024
    let stop := (Config.pageStop s.free % (n / 256 - 1)) * 256
    let at' := fun (i : Nat) => if 1024 ≤ i then i - 1024 else body + i
    let byte := fun (i : Nat) =>
      let v := Config.freeByte (s.free + 1 + i)
      if wild then (if i < 1024 then 0xFF else v)
      else if at' i < stop ∨ (at' i < stop + 256 ∧ v.getLsbD 0 = true) then img.getD i 0xFF else 0xFF
    { s.nvmPut (slotBase b) ((List.range n).map byte) with free := s.free + 1 + n }

/-- POWER_OFF: nothing is kept but the NVM; the serial of the free values runs on. An image being programmed into the NVM
is left partly written, with its header erased (R415). -/
def State.powerOffOp (s : State) : State :=
  let u := s.tornSlot false
  { State.reset with
    pending := u.pending, free := u.free, nextAid := u.nextAid, nvm := u.nvm
    pwr := { Pwr.reset with off := true } }

/-! ### The events -/

/-- A Mover idle for 64 cc is clock-gated (R379). -/
def execMoverGate (m : Fin 64) (s : State) : Host.Outcome State Fault Refusal := .next (s.moverGateOp m)

/-- The block enters DOZE (R380). -/
def execDozeEnter (s : State) : Host.Outcome State Fault Refusal := .next s.dozeEnterOp

/-- A wake event reaches the core in DOZE (R381). -/
def execDozeWake (s : State) : Host.Outcome State Fault Refusal := .next s.dozeWakeOp

/-- The wake from DOZE ends (R381). -/
def execDozeWakeDone (s : State) : Host.Outcome State Fault Refusal := .next s.dozeWakeDoneOp

/-- GL_PWRCTL.RREQ is written 1 (R382). -/
def execRetainRequest (s : State) : Host.Outcome State Fault Refusal := .next (s.hostWrite .retainRequest State.retainReq)

/-- The drain for RETAIN ends (R382). -/
def execRetainDrained (s : State) : Host.Outcome State Fault Refusal := .next s.retainDrainedOp

/-- A wake source of RETAIN (R383). -/
def execRetainWake (src : WakeSrc) (s : State) : Host.Outcome State Fault Refusal := .next (s.retainWakeOp src)

/-- Power is removed (R385). -/
def execPowerOff (s : State) : Host.Outcome State Fault Refusal := .next s.powerOffOp

end Sys2Proof.Machine
end

