-- ==== Sys2Proof/Machine/Sheet.lean ====
section
/-! DEFINITION. What the management core reports: the words of GL_ID, GL_BOOTSTAT, GL_ESC and GL_PWRSTAT (R450, R334, R352,
R387), log entries as bytes (R408), and the contact sheet (R416, R417). -/

namespace Sys2Proof.Machine

/-! ### Words -/

/-- GL_ID (R450). -/
def idWord : Nat := 0x000008404E320201

/-- GL_BOOTSTAT. -/
def State.bootWord (s : State) : Nat :=
  let b := s.boot
  pack [(4, b.state.toNat), (1, b2n b.slot), (1, b2n b.fallbk), (2, 0), (4, b.faila.toNat), (4, b.failb.toNat),
    (16, b.scridx.toNat), (32, b.seq.toNat)]

/-- ESCW in ms (R327, R352). -/
def State.escMs (s : State) : Nat :=
  let w := fld s.boot.imgcfg.toNat 11 16
  (if w = 0 then 60 else w) * 1000

/-- ESCN. -/
def State.escN (s : State) : Nat :=
  let n := fld s.boot.imgcfg.toNat 3 8
  if n = 0 then 5 else n

/-- A recovery reset made at a millisecond lies within the window that ends now. -/
def State.inWindow (s : State) (ms : BitVec 32) : Bool := decide ((s.mg.ms - ms).toNat < s.escMs)

/-- CNT: recovery resets in the window. -/
def State.escCnt (s : State) : Nat := min 0xFF (s.esc.hist.filter fun h => s.inWindow h.2.2).length

/-- GL_ESC. -/
def State.escWord (s : State) : Nat :=
  let e := s.esc
  pack [(8, s.escCnt), (1, b2n e.oos), (1, b2n e.pcr), (2, e.mode.toNat), (1, b2n e.drop), (1, b2n e.raised), (2, 0),
    (3, e.runit.toNat), (5, 0), (8, e.rtgt.toNat), (32, e.last.toNat)]

/-- GL_PWRSTAT. -/
def State.pwrWord (s : State) : Nat :=
  let p := s.pwr
  pack [(3, s.pwrCode), (1, b2n p.canc), (1, b2n p.drop), (3, 0), (3, p.lwake.toNat), (5, 0), (16, p.dzcnt.toNat)]

/-- An entry of the event log as 16 bytes. -/
def LogE.bytes (e : LogE) : List Byte :=
  toLE 16 (pack [(32, e.tms.toNat), (10, (Config.tsub e.seq.toNat).val), (2, e.sev.toNat), (4, 0), (8, e.code.toNat),
    (8, e.src.toNat), (24, e.seq.toNat), (40, e.arg.toNat)])

/-! ### The contact sheet (R416) -/

/-- A stream's position: of an active stream, that of its channel. -/
def State.liveRec (s : State) (sid : Nat) : Strm :=
  let x := s.strmAt sid
  match s.chanOf sid with
  | some (m, c) =>
    let h := s.ch m c
    { x with
      ntile := if h.ph = .tiles then BitVec.ofNat 40 h.tile else x.ntile
      lfsr := h.lfsr }
  | none => x

/-- KIND and TGT of a wait. -/
def waitWord : Wait → Nat × Nat
  | .counter k _ => (1, k % 64)
  | .dblCounter k _ _ => (1, k % 64)
  | .rope n _ => (2, n)
  | .dblRope n _ _ => (2, n)
  | _ => (3, 0)

/-- A record in the sheet: the wait stands in place of a WAITING record's check value. -/
def State.sheetRec (s : State) (sid : Nat) : List Byte :=
  let x := s.liveRec sid
  if x.st = .waiting then
    let w := waitWord x.wait
    strmBody x ++ toLE 4 (pack [(8, w.1), (8, w.2)])
  else strmBytes x

/-- The entry of channel c of Mover m. -/
def State.sheetChan (s : State) (m c : Nat) : List Byte :=
  let h := s.ch m c
  let v := s.mover m
  let sid := h.act.getD 0
  let cmd := h.act.bind fun k => (s.strmAt k).cmd
  let out := (s.acc.filter fun a => a.rq == .mover m && a.ch == c && inFlight a).length
  let ntile := match h.act with
    | some k => (s.liveRec k).ntile.toNat
    | none => 0
  toLE 32 (pack [(8, m), (8, c), (1, b2n h.act.isSome), (1, b2n h.shadow.isSome), (1, b2n v.oos), (1, b2n v.gated), (4, 0),
    (8, 0), (24, sid), (8, 0), (24, h.shadow.getD 0), (8, 0), (8, (cmd.map fun k => cOpc k.raw).getD 0), (8, s.dpri m c),
    (16, 0), (32, h.run), (16, out), (16, 0), (40, ntile)])

/-- Streams of the channels' active sets, in channel order. -/
def State.activeSids (s : State) : List Nat := s.chans.filterMap fun e => e.2.act

/-- On-block records that the FULL part adds. -/
def State.fullSids (s : State) : List Nat :=
  (s.strms.filter fun e => decide (e.1 < glacBase)
    && (e.2.st == .ready || e.2.st == .waiting || e.2.st == .frozen || e.2.st == .halted || e.2.st == .quarantined)).map (·.1)

/-- A contact sheet: cause 1 a request, 2 escalation; at most `len` bytes, whole records (and entries, where not even
those fit) omitted from the end. `seq` is the SEQ of its log entry. -/
def State.sheet (s : State) (cause : Nat) (full : Bool) (len seq : Nat) : List Byte :=
  let sids := s.activeSids ++ (if full then s.fullSids else [])
  let put := sids.take ((len - 8256) / 64)
  let head := toLE 64 (pack [(32, 0x4353544E), (8, cause), (24, 0), (32, s.mg.ms.toNat), (32, seq), (64, s.bootWord),
    (64, s.escWord), (32, put.length), (1, b2n (decide (put.length < sids.length ∨ len < 8256)))])
  let chans := ((List.range 256).map fun k => s.sheetChan (k / 4) (k % 4)).flatten
  let keep := if len < 64 then 0 else if len < 8256 then 64 + (len - 64) / 32 * 32 else len
  (head ++ chans ++ (put.map s.sheetRec).flatten).take keep

/-- The records that the FULL part reads from the Context Store: one that fails its parity quarantines its stream (R365). -/
def State.sheetReads (s : State) (len : Nat) : State :=
  ((((s.activeSids ++ s.fullSids).take ((len - 8256) / 64)).drop s.activeSids.length).filter fun k =>
    (s.strmAt k).bad != 0).foldl State.recordParity s

/-- Bytes of a sheet without the FULL part, of 256 active records. -/
def sheetMax : Nat := 24640

/-! ### The capture (R417) -/

/-- Capture a contact sheet at a fence, if MG_CSADDR.EN asks for it, to be written when `due` comes (`Mg.csDue`); a newer
capture replaces one not yet written. Its header holds the number of the log's next entry (log 94). -/
def State.sheetTake (s : State) (due : Nat) : State :=
  if s.mg.csEn then { s with mg := { s.mg with
      cs := some (s.sheet 2 false sheetMax s.mg.nseq.toNat)
      csDue := due } }
  else s

/-- A sheet that waited for a partition's reset waits for RUN, as the whole block is reset. -/
def State.sheetLater (s : State) : State :=
  if s.mg.cs.isSome then { s with mg := { s.mg with csDue := 8 } } else s

end Sys2Proof.Machine
end

