-- ==== Sys2Proof/Machine/Reset.lean ====
section
/-! DEFINITION. Resets (chapter 14: R339 to R361): requests and their queues, the stop bath, what each reset removes, the
Mover's self-test, escalation, and the block out of service. -/

namespace Sys2Proof.Machine

/-! ### Domains (R339, R343) -/

/-- The domain of a reset. -/
inductive Dom where
  | ten (t : Nat)
  | mover (m : Nat)
  | part (p : Nat)
  | block
deriving DecidableEq, Repr

/-- Domain of a unit and target. -/
def domOf (unit target : Nat) : Dom :=
  if unit = 1 then .ten target else if unit = 2 then .mover target else if unit = 3 then .part target else .block

/-- Write of a completion record. -/
def isCqRec : AKind → Bool
  | .cqRec _ _ => true
  | _ => false

/-- Read of a glacier record. -/
def isGlacRead : AKind → Bool
  | .glacRead _ _ => true
  | _ => false

/-- Accesses made on behalf of a domain. The management core's lie in none (R351). -/
def State.inDom (s : State) (d : Dom) (a : Access) : Bool := match d with
  | .ten t => (a.ten.toNat == t && ((rqMover a.rq).isSome || isCqRec a.kind))
      || (isGlacRead a.kind && (s.strmAt a.sid).ten.toNat == t)
  | .mover m => a.rq == .mover m || (a.mv == some m && isCqRec a.kind)
      || (match a.kind with
        | .glacRead k _ => k == m
        | _ => false)
  | .part p => a.part == p && a.rq != .mgmt
  | .block => a.rq != .mgmt

/-- Issued: by its Mover, or, of a walk engine or record writer, granted. -/
def issuedAcc (a : Access) : Bool := a.stage == .out || (a.stage == .arb && (rqMover a.rq).isSome)

/-- Channels of a domain: those that run its streams, and those of its Movers. -/
def State.chanInDom (s : State) (d : Dom) (k : Nat) (h : Chan) : Bool := match d with
  | .ten t => h.act.any fun sid => (s.strmAt sid).ten.toNat == t
  | .mover m => k / 4 == m
  | .part p => s.partOf (k / 4) == p || h.act.any fun sid => (s.strmAt sid).part.toNat == p
  | .block => true

/-- Streams of a domain, for its shadow sets and receive requests. -/
def strmInDom (d : Dom) (x : Strm) : Bool := match d with
  | .ten t => x.ten.toNat == t
  | .mover m => x.rcv && x.hmv.toNat == m
  | .part p => x.part.toNat == p
  | .block => true

/-- Packets of a domain. -/
def pktInDom (d : Dom) (t : TxPkt) : Bool := match d with
  | .ten u => t.owner.isSome && t.ten.toNat == u
  | .mover m => t.owner.any fun o => o.2.1 == m
  | .part p => t.owner.any fun o => o.1 == p
  | .block => true

/-- Completion records of a domain. -/
def State.recInDom (s : State) (d : Dom) (r : CqRec) : Bool := match d with
  | .ten t => (s.strmAt r.sid).ten.toNat == t
  | .mover m => r.mv == m
  | .part p => (s.strmAt r.sid).part.toNat == p
  | .block => true

/-! ### The fence (R343, R346) -/

/-- Where a RUNNING stream stands: its stop, or the earliest tile of which something has not been issued, or has been
sent and not been acknowledged (R347). -/
def State.haltPos (s : State) (m c sid : Nat) : StopAt × Nat :=
  let x := s.strmAt sid
  let h := s.ch m c
  match h.stop with
  | some q => (q.stopAt, q.ntile.toNat)
  | none =>
    match x.cmd with
    | none => (if x.pers then .program else .ring, 0)
    | some k =>
      if h.ph = .slots then (.slotTable, 0)
      else match k.stage with
        | .raw => (.tile, if k.skipped then x.ntile.toNat else 0)
        | .copies => (.tile, if k.skipped then x.ntile.toNat else 0)
        | .tiles =>
          let left := s.acc.filterMap fun a =>
            if ofChan m c a && !issuedAcc a then (match a.kind with
              | .dest n => some n
              | _ => none) else none
          let rem := (s.peer.rem.filter fun r => r.mv == m && r.ch == c && r.wr).map (·.tile)
          (.tile, (left ++ rem).foldl min h.tile)
        | .readBack => (.readBack, h.tile)
        | .done => (if h.ph = .flag then .flag else .tile, 0)

/-- Fence channel k: its stream's position is kept, nothing of it is under way any more, and its transfer number
advances. The stream stays RUNNING until the stop bath ends. -/
def State.fenceChan (s : State) (k : Nat) : State :=
  let (m, c) := (k / 4, k % 4)
  let s1 := match (s.chan k).act with
    | none => s
    | some sid =>
      let pos := s.haltPos m c sid
      s.modStrmAt sid fun x => { x with
        stopAt := pos.1
        ntile := BitVec.ofNat 40 pos.2
        lfsr := (s.chan k).lfsr
        abortHeld := false
        recStop := none
        cmd := x.cmd.map fun (y : CmdCtx) => if y.stage = CStage.raw then { y with got := [], missing := [] } else y }
  let mine := fun (t : TxPkt) => !t.resp && t.owner.any fun o => o.2.1 == m && o.2.2 == c
  { (s1.modChan k fun h => { h with
      ph := .idle, got := [], bad := false, slot := none, xl := [], stop := none, abort := false, dflt := none, inB := 0,
      outB := 0, pf := [], coal := [], xseq := h.xseq + 1 }) with
    stg := s1.stg.filter fun r => !(r.mv == m && r.ch == c)
    peer := { s1.peer with
      rem := s1.peer.rem.filter fun r => !(r.mv == m && r.ch == c)
      tx := s1.peer.tx.filter fun t => !mine t } }

/-- Walks whose reads have been withdrawn end; the engine serves the walks that still wait. -/
def State.fenceWalks (s : State) : State :=
  (s.xl.map (·.1)).foldl (fun st p =>
    let q := st.xlU p
    let live := st.acc.any fun a => a.kind == .walkRead && a.part == p
    if q.walk.isSome && !live then (st.modXlU p fun x => { x with walk := none }).pumpWalks p
    else if q.walk.isNone && q.queue != [] then st.pumpWalks p else st) s

/-- A stream whose held record was dropped no longer waits for a slot. -/
def State.unhold (s : State) (sid : Nat) : State :=
  let x := s.strmAt sid
  if x.st = .waiting ∧ x.wait = .cqFull ∧ s.hasHeld sid = false then s.makeReady sid else s

/-- Completion records of the domain: those not issued are dropped, and those issued raise no interrupt. -/
def State.fenceRecords (s : State) (d : Dom) : State :=
  let held := (s.cqs.map fun e => e.2.held.filter (s.recInDom d)).flatten
  let s1 := held.foldl State.outstDec s
  let s2 := { s1 with cqs := s1.cqs.map fun e => (e.1, { e.2 with
      held := e.2.held.filter fun r => !s1.recInDom d r
      given := e.2.given.map fun g => if s1.recInDom d g.item
        then { g with item := { g.item with irq := false } } else g }) }
  let s3 := (held.map (·.sid)).foldl State.unhold s2
  let gone := (s3.cqs.map fun (c, q) => (q.given.filter fun g => s3.recInDom d g.item && !g.done
    && !s3.acc.any fun a => a.kind == .cqRec c g.slot).map fun g => (c, g)).flatten
  gone.foldl (fun st e => st.dropRecord e.1 e.2) s3

/-- Requests received for streams of the domain: their accesses are awaited, and nothing is answered. -/
def State.fenceJobs (s : State) (d : Dom) : State :=
  let l := s.peer.jobs.filter fun j => strmInDom d (s.strmAt j.sid)
  let s1 := l.foldl State.endJob s
  let lost := fun (f : FinTrk) => f.held.any fun h => l.any fun j => j.id == h.1
  { s1 with peer := { s1.peer with
      tx := s1.peer.tx.filter fun t => !pktInDom d t
      fin := (s1.peer.fin.map fun (k, f) => (k, if lost f then { f with held := none } else f)).filter fun (_, f) =>
        f ≠ FinTrk.reset } }

/-- Packets of a tenant or a partition that have not been sent are discarded at their ports, and count in DROP (R300). -/
def State.countUnsent (s : State) (d : Dom) : State :=
  match d with
  | .ten _ | .part _ => ((s.peer.tx.filter (pktInDom d)).map (·.port)).foldl State.peDrop s
  | _ => s

/-- Step 1 of the stop bath. -/
def State.fence (s' : State) (d : Dom) : State :=
  let s := s'.countUnsent d
  let ks := (List.range 256).filter fun k => s.chanInDom d k (s.chan k)
  let sh := (s.chans.map fun e => ([e.2.shadow, e.2.loading].filterMap id).map fun k => (e.1, k)).flatten
  let out := (sh.filter fun e => strmInDom d (s.strmAt e.2) || (match d with
    | .mover m => e.1 / 4 == m
    | .part p => s.partOf (e.1 / 4) == p
    | _ => false)).map (·.2)
  let s1 := out.foldl State.dropShadow (ks.foldl State.fenceChan s)
  let s2 := s1.fenceJobs d
  let await := fun (a : Access) => if s2.inDom d a && a.kind != AKind.walkRead then { a with drain := true, after := false } else a
  let s3 := { s2 with acc := (s2.acc.filter fun (a : Access) => !(s2.inDom d a && !issuedAcc a)).map await }
  (s3.fenceRecords d).fenceWalks

/-- Entries of a tenant's new generation, left from 256 teardowns earlier, are dropped (R396). -/
def State.dropGen (s : State) (t g : BitVec 8) : State :=
  let tlb := fun (l : List TlbE) => l.filter fun e => !(e.ten == t && e.gen == g)
  let de := fun (l : List DEnt) => l.filter fun e => !(e.ten == t && e.gen == g)
  { s with
    movers := (s.movers.map fun (m, v) => (m, { v with utlb := tlb v.utlb })).filter fun (_, v) => v ≠ Mover.reset
    xl := (s.xl.map fun (p, x) => (p, { x with
      l2 := tlb x.l2
      wc := x.wc.filter fun e => !(e.ten == t && e.gen == g) })).filter fun (_, x) => x ≠ Xl.reset
    dc := (s.dc.map fun (p, x) => (p, ({ desc := de x.desc, tabs := de x.tabs } : DCache))).filter fun (_, x) =>
      x ≠ DCache.reset }

/-- Step 1 of R345: the tenant is disabled under its next generation. -/
def State.genUp (s : State) (t : Nat) : State :=
  let g := (s.ten t).gen + 1
  (s.modTen t fun x => { x with en := false, weight := 0, gen := g }).dropGen (BitVec.ofNat 8 t) g

/-- Tenants of a partition. -/
def State.tenantsOf (s : State) (p : Nat) : List Nat :=
  (List.range 256).filter fun t => (s.ten t).part.toNat == p

/-- Movers of a partition. -/
def State.moversOf (s : State) (p : Nat) : List Nat := (List.range 64).filter fun m => (s.part p).mvmask.getLsbD m

/-- A Mover meets a reset: its clock runs, its suspects freeze at a Mover reset, and an online test is abandoned. -/
def State.meetReset (s : State) (freeze : Bool) (m : Nat) : State :=
  s.modMover m fun v => { v with gated := false, froz := v.froz || freeze, phase := 0, req := false }

/-! ### What resets remove (R345, R347, R350) -/

/-- A record becomes EMPTY; what its channel and its slots held is free. -/
def State.removeStrm (s : State) (sid : Nat) : State :=
  let x := s.strmAt sid
  let s1 := match s.chanOf sid with
    | some (m, c) => ((s.endBoundary m c sid false).freeWindow m c x.part.toNat).modCh m c Chan.vacate
    | none => s
  let s2 := ((s1.dropShadow sid).unpin sid).freeSlots x.part.toNat x.slots
  let s3 := if isEcn sid then s2.modEcnCh (sid - 1024) fun e => { e with busy := false, abort := false } else s2
  s3.setStrmAt sid Strm.reset

/-- The far record of a glacier stream is written to zero, by the partition's record writer. -/
def State.zeroGlac (s : State) (sid : Nat) : State :=
  let x := s.strmAt sid
  if sid < glacBase ∨ x.st = .empty then s
  else
    let p := x.part.toNat
    s.pushPhys { blankAcc p .record 0 .glacZero true (s.glacAddr p sid) 64 with
      sid := sid, data := List.replicate 64 0, en := List.replicate 64 true } (s.part p).glacAttr.toNat

/-- Remove streams, by ID. -/
def State.removeAll (s : State) (l : List Nat) : State := l.foldl (fun st k => (st.zeroGlac k).removeStrm k) s

/-- Steps 3 and 4 of R345 for tenant t. -/
def State.removeTenant (s : State) (t : Nat) : State :=
  let b := BitVec.ofNat 8 t
  let s1 := s.removeAll ((s.strms.filter fun e => e.2.ten == b).map (·.1))
  let unbind := fun (q : StrmP) => { q with
    en := false, pack := 0, sid := 0, ten := 0, buf := [], inFrame := false, skip := false, rows := [], cur := [],
    curBad := false }
  let s2 := (List.range 4).foldl (fun st d => if (st.strmP d).ten = b then st.modStrmP d unbind else st) s1
  let p := (s.ten t).part.toNat
  let s3 := s2.modPart p fun x => { x with ftab := x.ftab.filter fun e => e.2.ten != b }
  { (s3.modTen t fun x => { x with
      cyc := 0, vt := 0, active := false, placed := 0, rootEn := false, wattr := 0, root := 0 }) with
    sqs := s3.sqs.filter fun e => e.2.ten != b
    cqs := s3.cqs.filter fun e => e.2.ten != b
    cnts := s3.cnts.filter fun e => !(e.2.bound && e.2.ten == b)
    dc := (s3.dc.map fun (k, x) => (k, ({ desc := x.desc.filter fun e => e.ten != b,
                                          tabs := x.tabs.filter fun e => e.ten != b } : DCache))).filter fun (_, x) =>
      x ≠ DCache.reset }

/-- A stream goes to HALTED at its saved position, and no fault record is written (step 2 of R347). -/
def State.haltAt (s : State) (sid : Nat) : State := s.setSt sid .halted .none

/-- A WAITING stream goes to HALTED before its waiting command: the values that a REARM left are withdrawn, a registered
arrival is forgotten, and the command is decoded anew. -/
def State.haltWaiting (s : State) (sid : Nat) : State :=
  let x := s.strmAt sid
  let mine := fun (r : Rearm) => r.issuer == sid
  let s1 := match x.wait with
    | .rearmPending t => if (s.strmAt t).rpend.any mine then s.modStrmAt t fun y => { y with rpend := none } else s
    | _ => s
  (s1.modStrmAt sid fun y => { y with
    ntile := 0
    arrd := false
    abortHeld := false
    stopAt := if y.cmd.isSome then .tile else if y.pers then .program else .ring
    cmd := y.cmd.map fun (k : CmdCtx) => if k.stage = CStage.done ∨ k.stage = CStage.tiles then k
      else { k with stage := .raw, got := [], missing := [] } }).haltAt sid

/-- Step 2 of R347. -/
def State.haltMover (s : State) (m : Nat) : State :=
  let run := [0, 1, 2, 3].filterMap fun c => (s.ch m c).act.map fun sid => (c, sid)
  let s1 := run.foldl (fun (st : State) (e : Nat × Nat) =>
    let st1 := if isEcn e.2 then st.modEcnCh (e.2 - 1024) fun q => { q with
        next := if (st.ecnCh (e.2 - 1024)).d = 0 then q.next else q.cur } else st
    (st1.haltAt e.2).leaveOnly m e.1) s
  let w := (s1.strms.filter fun e => e.2.hen && e.2.hmv.toNat == m && e.2.st == .waiting).map (·.1)
  (w.foldl State.haltWaiting s1).wakeUp

/-- A rope line across a reset of Mover m: its arrivals are withdrawn, and rope_in is taken only after the line has been
seen low again (R236). -/
def Rope.dropMover (r : Rope) (m : Nat) : Rope :=
  let b := ~~~(BitVec.ofNat 64 (2 ^ m))
  if r.mmask.getLsbD m then { r with arr := r.arr &&& b, pend := r.pend &&& b, taken := false, low := !r.rin } else r

/-- Step 3 of R347: counters, rope arrivals, channels with their turns (R65), micro-TLB and test control are cleared. -/
def State.clearMover (s : State) (m : Nat) : State :=
  let ch := fun (st : State) (c : Nat) => st.modCh m c fun h => { Chan.reset with xseq := h.xseq }
  let s1 := [0, 1, 2, 3].foldl ch s
  { (s1.modMover m fun v => { v with
      utlb := [], req := false, phase := 0, tpass := false, tfail := false, tdrop := false
      turnI := 3, turnO := 3, turnR := 3, turnW := 3, turnX := 3 }) with
    cnts := s1.cnts.filter fun e => e.1 / 64 != m
    ropes := (s1.ropes.map fun (n, r) => (n, r.dropMover m)).filter fun (_, r) => r ≠ Rope.reset }

/-- Steps 2 to 4 of R350 for partition p; its Movers in service are tested. The numbering of generations goes on
(log 103). -/
def State.clearPart (s : State) (p : Nat) : State :=
  let s1 := (s.tenantsOf p).foldl State.removeTenant s
  let s2 := s1.removeAll ((s1.strms.filter fun e => e.2.part.toNat == p && e.2.st != .empty).map (·.1))
  let ms := s2.moversOf p
  let s3 := ms.foldl State.clearMover s2
  let s4 := ms.foldl (fun (st : State) m => st.modMover m fun v => { v with
    solo := false, solot := 0, susp := [], sovf := false, froz := false }) s3
  { (s4.modPart p fun x => { x with
      fq := Fq.reset, ftab := [], quantum := Part.reset.quantum, homeDrop := false, pfUsed := 0, bsUsed := 0, spUsed := 0 })
    with
    ecn := s4.ecn.filter fun e => e.1 / 8 != p
    xl := s4.xl.filter fun e => e.1 != p
    dc := s4.dc.filter fun e => e.1 != p }

/-! ### The block (R344, R351, R355, R359) -/

/-- An access of a mailbox request. -/
def ofMailbox : AKind → Bool
  | .mgmt | .mbRead => true
  | _ => false

/-- A mailbox request in progress ends with ABORTED; an image being programmed is left partly written (R414, R415). -/
def State.mbAbort (s : State) : State :=
  if s.mg.busy then
    let s1 := s.tornSlot false
    let op := (s.mg.work.map (·.op)).getD 0
    ({ s1 with
      acc := (s1.acc.filter fun (a : Access) => !(ofMailbox a.kind && a.stage != Stage.out)).map fun (a : Access) =>
        if ofMailbox a.kind then { a with drain := true } else a
      mg := { s1.mg with
        busy := false
        done := true
        status := 6
        work := none } }).logEvent 0x40 0xFF (op.toNat + 256 * 6)
  else s

/-- A rope line across a block reset: rope_out stays high until rope_in has been seen low (R440). -/
def Rope.block (r : Rope) : Rope :=
  { Rope.reset with rin := r.rin, low := !r.rin, rout := r.rout && r.rin, rel := r.rout && r.rin }

/-- The block after a block reset's stop bath: all at its reset value but the always-on domain, the pins, the NVM, the
test and SMBus ports, and the management core's own accesses. -/
def State.blockState (s : State) : State :=
  let u := s.mbAbort
  let g := u.mg
  { State.reset with
    pending := u.pending, cc := u.cc, nextAid := u.nextAid, seq := u.seq, free := u.free
    boot := { Boot.reset with
      state := 2
      cold := false }
    pins := u.pins, esc := u.esc
    dbg := { Dbg.reset with
      refusedAt := u.dbg.refusedAt
      lock := u.dbg.lock }
    host := u.host
    ropes := (u.ropes.map fun (n, r) => (n, r.block)).filter fun (_, r) => r ≠ Rope.reset
    acc := u.acc.filter fun (a : Access) => a.rq == Requester.mgmt
    peer := { Peer.reset with
      used := u.peer.used
      owed := u.peer.owed }
    mg := { g with
      mbreq := [], busy := false, done := false, drop := false, ien := false, status := 0, mbrsp := [], work := none }
    nvm := u.nvm, smb := u.smb, tap := u.tap, pwr := { Pwr.reset with off := u.pwr.off } }

/-- The end of a block reset's stop bath: what it removes is gone, and start runs from step 2 (R351). -/
def State.blockDone (s : State) : State := s.blockState.logEvent 0x10 0xFF (4 + 8)

/-- The block goes out of service (R355): a contact sheet, an event, and a power cycle asked for. -/
def State.outOfService (s : State) : State :=
  let s1 := ((s.sheetTake 9).logEvent 0x12 0xFF s.escCnt)
  let stop := fun (e : RstEng) =>
    { e with busy := false, sbath := false, unit := 0, target := 0, rcv := false, lunit := 5, ltarget := 0 }
  let eng : SMap RstEng := (s1.rst.map fun (p, e) => (p, stop e)).filter fun (_, e) => e ≠ RstEng.reset
  ({ s1 with
    blk := none
    rst := eng
    esc := { s1.esc with oos := true }
    boot := { s1.boot with state := 14 }
    mg := { s1.mg with
      pwrcyc := true
      csDue := 9 } }).sheetOut

/-! ### Escalation (R352 to R354) -/

/-- The scheme in force: the count of resets in a window, or the ladder (R327). -/
def State.ladder (s : State) : Bool :=
  let mode := fld s.boot.imgcfg.toNat 1 2
  if mode = 1 then false else if mode = 2 then true else s.peer.en && decide (5 ≤ s.peer.nchip.toNat)

/-- A recovery reset enters the kept times. -/
def State.escNote (s : State) (unit target : Nat) : State :=
  { s with esc := { s.esc with
      last := s.mg.ms
      hist := (BitVec.ofNat 3 unit, BitVec.ofNat 8 target, s.mg.ms) :: s.esc.hist } }

/-- The last recovery reset of the target at the unit lies within the window. -/
def State.recurs (s : State) (unit target : Nat) : Bool :=
  match s.esc.hist.find? fun h => h.1.toNat == unit && h.2.1.toNat == target with
  | some h => s.inWindow h.2.2
  | none => false

/-- Under the count scheme, one more recovery reset takes the block out of service. -/
def State.countFull (s : State) : Bool :=
  !s.ladder && decide (s.escN - 1 ≤ ((s.esc.hist.take s.escN).filter fun h => s.inWindow h.2.2).length)

/-- A reset performed at a larger unit, or raised by R348, is marked and logged. -/
def State.escRaise (s : State) (p unit target : Nat) : State :=
  ({ s with esc := { s.esc with
      raised := true
      runit := BitVec.ofNat 3 unit
      rtgt := BitVec.ofNat 8 target } }).logEvent 0x11 p (unit + 256 * target)

/-! ### Starting a reset (R342, R343) -/

/-- Fence the whole block: resets in progress stop, and the queues are emptied. -/
def State.beginBlock (s : State) (unit : Nat) (raised : Bool) : State :=
  let s0 := s.awake.sheetLater
  let s1 := if raised then s0.sheetTake 8 else s0
  let s2 := (List.range 64).foldl (fun st m => st.meetReset false m) s1
  let s3 := (List.range 8).foldl (fun (st : State) p => st.modRstE p fun e => { e with
    busy := true, unit := BitVec.ofNat 3 unit, sbath := true, target := 0, rcv := true, queue := [], tests := [] }) s2
  { s3 with
    blk := some (BitVec.ofNat 3 unit)
    stc := { s3.stc with busy := false } }.fence .block

/-- Fence a tenant, a Mover or a partition. -/
def State.beginReset (s : State) (p unit target : Nat) (rcv raised : Bool) : State :=
  let s0 := s.awake
  let s1 := if raised then s0.sheetTake p else s0
  let s2 := s1.modRstE p fun (e : RstEng) => { e with
    busy := true, unit := BitVec.ofNat 3 unit, sbath := true, target := BitVec.ofNat 8 target, rcv := rcv, tests := [] }
  if unit = 1 then (s2.fence (.ten target)).genUp target
  else if unit = 2 then (s2.meetReset true target).fence (.mover target)
  else
    let s3 := (s2.moversOf p).foldl (fun st m => st.meetReset false m) s2
    (s3.tenantsOf p).foldl State.genUp (s3.fence (.part p))

/-- A reset of partition p starts: one that escalation raised is marked as it is performed. -/
def State.startReset (s : State) (p unit target : Nat) (rcv raised : Bool) : State :=
  (if raised then s.escRaise p unit target else s).beginReset p unit target rcv raised

/-- A reset that escalation counts enters the kept times and starts, or waits behind the one in progress. -/
def State.launch (s : State) (p unit target : Nat) (raised : Bool) : State :=
  let s1 := s.escNote unit target
  if (s1.rstE p).busy then s1.modRstE p fun e => { e with
    queue := e.queue ++ [{ unit := BitVec.ofNat 3 unit, target := BitVec.ofNat 8 target, rcv := true, raised := raised,
                           ms := s.mg.ms }] }
  else s1.startReset p unit target true raised

/-- A partition reset that is raised starts at once: the reset in progress stops where it is. -/
def State.preempt (s : State) (p : Nat) : State :=
  ((s.escNote 3 p).modRstE p fun e => { e with busy := false, sbath := false, tests := [] }).startReset p 3 p true true

/-- A recovery reset of a partition's domain is requested, and escalation decides at once what is performed (R353, R354):
the reset itself, one of a larger unit, or none, as the block goes out of service. `raised` tells that R348 raises it. -/
def State.recover (s : State) (p unit target : Nat) (raised : Bool) : State :=
  if s.countFull then (s.escNote unit target).beginBlock 5 raised
  else if !(s.ladder && s.recurs unit target) then (if raised then s.preempt p else s.launch p unit target false)
  else if unit = 1 then
    match (s.moversOf p).filter fun m => (s.mover m).susp.contains (BitVec.ofNat 8 target) with
    | [] => s.preempt p
    | ms => ms.foldl (fun st m => st.launch p 2 m true) s
  else if unit = 2 then s.preempt p
  else ((s.escRaise p 4 0).escNote 4 0).beginBlock 4 true

/-- A block reset or a power cycle is requested: a recovery reset, which escalation may raise. -/
def State.startBlock (s : State) (unit : Nat) : State :=
  if s.countFull then (s.escNote unit 0).beginBlock 5 false
  else if s.ladder && s.recurs unit 0 && unit == 4 then ((s.escRaise 0xFF 5 0).escNote 5 0).beginBlock 5 true
  else (s.escNote unit 0).beginBlock unit false

/-- A request for a reset (R340, R342, R360): a write of GL_RST, of the host, the management core or the block itself. -/
def State.requestReset (s : State) (unit target : Nat) (rcv : Bool) : State :=
  if unit = 0 ∨ 6 ≤ unit ∨ s.inRun = false ∨ s.esc.oos = true ∨ s.blk.isSome = true then s
  else if 4 ≤ unit then
    if target ≠ 0 then { s with esc := { s.esc with drop := true } } else s.startBlock unit
  else
    let p := if unit = 1 then (if (s.ten target).avail then (s.ten target).part.toNat else 8)
      else if unit = 2 then (if target < 64 then s.partOf target else 8)
      else if target < 8 ∧ (s.part target).en = true then target else 8
    if 8 ≤ p then { s with esc := { s.esc with drop := true } }
    else
      let e := s.rstE p
      let r := rcv || decide (unit ≠ 1)
      if e.busy = true ∧ e.unit.toNat = unit ∧ e.target.toNat = target then s
      else if e.busy = true ∧ 4 ≤ e.queue.length then s.modRstE p fun x => { x with drop := true }
      else if r then s.recover p unit target false
      else if e.busy then s.modRstE p fun x => { x with
        queue := x.queue ++ [{ unit := 1, target := BitVec.ofNat 8 target, rcv := false, raised := false, ms := s.mg.ms }] }
      else s.beginReset p unit target false false

/-- A partition reset raised at once under R348: the reset in progress stops where it is. -/
def State.raisePart (s : State) (p : Nat) : State :=
  if s.blk.isSome ∨ 8 ≤ p then s else s.recover p 3 p true

/-! ### Completion -/

/-- Whether a queued request lies in the domain of a completed reset. -/
def absorbs (unit : BitVec 3) (target : BitVec 8) (q : RstReq) : Bool :=
  unit == 3 || (q.unit == unit && q.target == target)

/-- An absorbed request leaves the kept times (R342). -/
def State.unNote (s : State) (q : RstReq) : State :=
  if q.rcv then
    let hist := s.esc.hist.erase (q.unit, q.target, q.ms)
    { s with esc := { s.esc with hist := hist, last := ((hist.head?).map (·.2.2)).getD 0 } }
  else s

/-- A reset of partition p is done: what it contained is absorbed, channels take streams again, a contact sheet is
written, and the next request starts. -/
def State.resetDone (s : State) (p : Nat) : State :=
  let e := s.rstE p
  let arg := e.unit.toNat + 8 * b2n e.rcv + 256 * e.target.toNat
  let q := e.queue.filter fun r => !absorbs e.unit e.target r
  let s1 := (s.modRstE p fun x => { x with
    busy := false, unit := 0, target := 0, sbath := false, rcv := false, lunit := e.unit, ltarget := e.target, tests := [],
    queue := q.drop 1 }).logEvent 0x10 p arg
  let s0 := (e.queue.filter (absorbs e.unit e.target)).foldl State.unNote s1
  let s2 := ((s0.moversOf p).foldl State.rehome s0).wakeUp.ropeEvalAll.sheetDue p
  match q with
  | [] => s2
  | r :: _ => s2.startReset p r.unit.toNat r.target.toNat r.rcv r.raised

/-- A reset whose stop bath is over is done once its self-tests have ended and its glacier records are written. -/
def State.resetCheck (s : State) (p : Nat) : State :=
  let e := s.rstE p
  if e.busy && !e.sbath && e.tests == [] && s.blk.isNone && !(s.acc.any fun a => a.kind == .glacZero && a.part == p) then
    s.resetDone p
  else s

/-- Every partition's reset, brought up to date. -/
def State.resetChecks (s : State) : State := (List.range 8).foldl State.resetCheck s

/-- The remaining steps after the stop bath of partition p's reset. -/
def State.bathEnds (s : State) (p : Nat) : State :=
  let e := s.rstE p
  let t := e.target.toNat
  let s1 := s.modRstE p fun x => { x with sbath := false }
  if e.unit = 1 then
    let s2 := s1.removeTenant t
    ((s2.moversOf p).foldl (fun st m => [0, 1, 2, 3].foldl (fun (u : State) c =>
      if (u.ch m c).act.isNone then u.refill m c else u) st) s2).resetCheck p
  else if e.unit = 2 then
    (((s1.haltMover t).clearMover t).modRstE p fun x => { x with tests := [t] }).resetCheck p
  else
    let s2 := s1.clearPart p
    (s2.modRstE p fun x => { x with tests := (s2.moversOf p).filter fun m => !(s2.mover m).oos }).resetCheck p

/-- Accesses that the stop bath of partition p still awaits. -/
def State.bathLeft (s : State) (p : Nat) : List Access :=
  s.acc.filter (s.inDom (domOf (s.rstE p).unit.toNat (s.rstE p).target.toNat))

/-- Abandon accesses to the response sink (R344): those never granted hold no ID and are gone. -/
def State.abandon (s : State) (f : Access → Bool) : State :=
  let l : List Access := (s.acc.filter fun a => f a && a.stage == .out).map fun (a : Access) => { a with drain := false }
  let s1 := { s with acc := s.acc.filter fun a => !f a, sink := s.sink ++ l }
  let drops := (l.filterMap fun a => match a.kind with
    | .cqRec c slot => ((s1.cq c).given.find? fun g => g.slot == slot && !g.done).map fun g => (c, g)
    | _ => none)
  (drops.foldl (fun st e => st.dropRecord e.1 e.2) s1).fenceWalks.countQids

/-- STOP_BATH_DRAINED of partition p, or block-wide. -/
def State.drainedOp (s : State) (p : Option Nat) : State :=
  match p with
  | some p =>
    let e := s.rstE p
    if s.blk.isSome || !e.busy || !e.sbath || s.bathLeft p != [] then s
    else (s.modRstE p fun x => { x with abnd := 0 }).bathEnds p
  | none =>
    match s.blk with
    | none => s
    | some u =>
      if (s.acc.filter (s.inDom .block)) ≠ [] then s
      else if u = 4 then s.blockDone else s.outOfService

/-- STOP_BATH_TIMEOUT of partition p, or block-wide. -/
def State.timeoutBath (s : State) (p : Option Nat) : State :=
  match p with
  | some p =>
    let e := s.rstE p
    if s.blk.isSome || !e.busy || !e.sbath then s
    else
      let d := domOf e.unit.toNat e.target.toNat
      let n := min 0xFFFF ((s.acc.filter fun a => s.inDom d a && a.stage == .out).length)
      ((s.abandon (s.inDom d)).modRstE p fun x => { x with abnd := BitVec.ofNat 16 n }).bathEnds p
  | none =>
    match s.blk with
    | none => s
    | some u =>
      let n := fun (p : Nat) => min 0xFFFF ((s.acc.filter fun a => a.part == p && a.stage == .out).length)
      let s1 := (List.range 8).foldl (fun (st : State) p => st.modRstE p fun x => { x with abnd := BitVec.ofNat 16 (n p) })
        (s.abandon (s.inDom .block))
      if u = 4 then s1.blockDone else s1.outOfService

/-- SINK_LATE_RESPONSE: the ID and the tracker are free. -/
def State.sinkOp (s : State) (aid : Nat) : State :=
  ({ s with sink := s.sink.filter fun a => a.aid != aid }).countQids

/-! ### The Mover's self-test (R347, R348) -/

/-- A Mover goes out of service during a reset: its partition is reset, unless it is already being reset. -/
def State.moverOut (s : State) (m : Nat) (hang testf : Bool) : State :=
  let p := s.partOf m
  let s1 := (s.modMover m fun v => { v with oos := true, hang := v.hang || hang, testf := v.testf || testf }).logEvent 0x13 m
    (b2n hang + 2 * b2n testf)
  let s2 := s1.modRstE p fun e => { e with tests := e.tests.erase m }
  if (s.rstE p).unit = 2 then s2.ropeEvalAll.raisePart p else s2.ropeEvalAll.resetCheck p

/-- MOVER_SELFTEST_DONE. -/
def State.selftestOp (s : State) (m : Nat) (pass : Bool) : State :=
  let p := s.partOf m
  let e := s.rstE p
  if 8 ≤ p || !e.busy || e.sbath || s.blk.isSome || !e.tests.contains m then s
  else if pass then (s.modRstE p fun x => { x with tests := x.tests.erase m }).resetCheck p
  else s.moverOut m false true

/-- MOVER_RESET_TIMEOUT. -/
def State.moverHangOp (s : State) (m : Nat) : State :=
  let p := s.partOf m
  let e := s.rstE p
  if 8 ≤ p || !e.busy || s.blk.isSome || !(e.tests.contains m || (e.unit == 2 && e.target.toNat == m)) then s
  else s.moverOut m true false

/-! ### The events -/

/-- GL_RST written with UNIT 1 (R345). -/
def execResetTenant (t : Fin 256) (rcv : Bool) (s : State) : Host.Outcome State Fault Refusal :=
  .next (s.hostWrite (.resetTenant t rcv) fun u => u.requestReset 1 t rcv)

/-- GL_RST written with UNIT 2 (R347). -/
def execResetMover (m : Fin 64) (s : State) : Host.Outcome State Fault Refusal :=
  .next (s.hostWrite (.resetMover m) fun u => u.requestReset 2 m true)

/-- GL_RST written with UNIT 3 (R350). -/
def execResetPartition (p : Fin 8) (s : State) : Host.Outcome State Fault Refusal :=
  .next (s.hostWrite (.resetPartition p) fun u => u.requestReset 3 p true)

/-- GL_RST written with UNIT 4 (R351). -/
def execResetBlock (s : State) : Host.Outcome State Fault Refusal := .next (s.hostWrite .resetBlock fun u => u.requestReset 4 0 true)

/-- GL_RST written with UNIT 5 (R351, R355). -/
def execResetPowerCycle (s : State) : Host.Outcome State Fault Refusal :=
  .next (s.hostWrite .resetPowerCycle fun u => u.requestReset 5 0 true)

/-- A stop bath has drained (R343). -/
def execStopBathDrained (p : Option (Fin 8)) (s : State) : Host.Outcome State Fault Refusal :=
  .next (s.drainedOp (p.map (·.val)))

/-- A stop bath runs out (R343). -/
def execStopBathTimeout (p : Option (Fin 8)) (s : State) : Host.Outcome State Fault Refusal :=
  .next (s.timeoutBath (p.map (·.val)))

/-- A late response reaches the sink (R344). -/
def execSinkLateResponse (aid : Nat) (s : State) : Host.Outcome State Fault Refusal := .next (s.sinkOp aid)

/-- A self-test of a reset ends (R347). -/
def execMoverSelftestDone (m : Fin 64) (pass : Bool) (s : State) : Host.Outcome State Fault Refusal :=
  .next (s.selftestOp m pass)

/-- A Mover reset is not done within 2^20 cc (R348). -/
def execMoverResetTimeout (m : Fin 64) (s : State) : Host.Outcome State Fault Refusal := .next (s.moverHangOp m)

/-- The response of a write (R170); the last zero write of a reset's glacier records lets the reset complete. -/
def execWriteResponse (aid : Nat) (r : Resp) (s : State) : Host.Outcome State Fault Refusal :=
  .next (s.writeRespOp aid r).resetChecks

/-- A tenure is cut off (R277). -/
def execHogCutoff (t : Fin 30) (s : State) : Host.Outcome State Fault Refusal := .next (s.hogOp t).resetChecks

end Sys2Proof.Machine
end

