-- ==== Sys2Proof/Machine/Test.lean ====
section
/-! DEFINITION. Online tests of Movers (R371 to R374) and of Staging (R375). -/

namespace Sys2Proof.Machine

/-! ### Movers -/

/-- A write of MV_TCTL.REQ (R371, R374). -/
def State.testReqOp (s : State) (m : Nat) : State :=
  let e := s.rstE (s.partOf m)
  let v := s.mover m
  if (s.movers.any fun q => q.1 != m && q.2.phase != 0) || v.oos || s.blk.isSome || e.busy || e.queue != [] then
    s.modMover m fun q => { q with tdrop := true }
  else if v.phase != 0 then s
  else
    let s1 := s.modMover m fun q => { q with req := true, phase := 1, gated := false }
    let sh := (List.range 4).filterMap (fun c => (s1.ch m c).shadow) ++ (List.range 4).filterMap fun c => (s1.ch m c).loading
    (sh.foldl State.dropShadow s1).rehome m

/-- No channel of the Mover holds a stream, and every access of it has its response. -/
def State.testQuiet (s : State) (m : Nat) : Bool :=
  (List.range 4).all (fun c =>
    let h := s.ch m c
    h.act.isNone && h.shadow.isNone && h.loading.isNone)
  && !(s.acc.any fun a => a.rq == .mover m && (inFlight a || decide (a.ch < 4)))

/-- MOVER_TEST_DRAINED: the test begins. -/
def State.testDrainedOp (s : State) (m : Nat) : State :=
  if (s.mover m).phase = 1 ∧ s.testQuiet m = true then s.modMover m fun v => { v with phase := 2 } else s

/-- MOVER_TEST_DONE: on a pass the Mover takes streams again; on a failure it stays out of service, and the streams
homed on it are HALTED before their next command (R372). -/
def State.testDoneOp (s : State) (m : Nat) (pass : Bool) : State :=
  if (s.mover m).phase ≠ 2 then s
  else if pass then (s.modMover m fun v => { v with req := false, phase := 0, tpass := true }).rehome m
  else
    let s1 := (s.modMover m fun v => { v with req := false, phase := 0, tfail := true, oos := true }).logEvent 0x13 m 0
    let l := (s1.strms.filter fun e => e.2.hen && e.2.hmv.toNat == m && (e.2.st == .ready || e.2.st == .waiting)).map (·.1)
    (l.foldl State.haltWaiting s1).wakeUp.ropeEvalAll

/-! ### Staging (R375) -/

/-- A write of GL_STCTL.GO for bank group g. -/
def State.stGoOp (s : State) (g : Nat) : State :=
  if s.stc.busy then { s with stc := { s.stc with drop := true } }
  else { s with
    stc := { s.stc with
      group := BitVec.ofNat 3 g
      busy := true
      line := freeLine s.free }
    free := s.free + 2 }


/-- STAGING_TEST_DONE, with the bank of the first failure. -/
def State.stDoneOp (s : State) (bad : Option Nat) : State :=
  if s.stc.busy = false then s
  else
    let c := { s.stc with busy := false, line := freeLine s.free }
    let c1 := match bad with
      | none => { c with pass := true }
      | some b => if b / 4 = c.group.toNat then { c with fail := true, fbank := BitVec.ofNat 5 b } else s.stc
    { s with stc := c1, free := s.free + 2 }

/-! ### The events -/

/-- MV_TCTL.REQ is written 1 (R371). -/
def execMoverTestReq (m : Fin 64) (s : State) : Host.Outcome State Fault Refusal :=
  .next (s.hostWrite (.moverTestReq m) fun u => u.testReqOp m)

/-- A Mover under test has drained (R372). -/
def execMoverTestDrained (m : Fin 64) (s : State) : Host.Outcome State Fault Refusal := .next (s.testDrainedOp m)

/-- An online test ends (R373). -/
def execMoverTestDone (m : Fin 64) (pass : Bool) (s : State) : Host.Outcome State Fault Refusal :=
  .next (s.testDoneOp m pass)

/-- GL_STCTL.GO is written 1 (R375). -/
def execStagingTestGo (g : Fin 8) (s : State) : Host.Outcome State Fault Refusal := .next (s.hostWrite (.stagingTestGo g) fun u => u.stGoOp g)

/-- A Staging test ends (R375). -/
def execStagingTestDone (bad : Option (Fin 32)) (s : State) : Host.Outcome State Fault Refusal :=
  .next (s.stDoneOp (bad.map (·.val)))

end Sys2Proof.Machine
end

