-- ==== Sys2Proof/Machine/Mgmt.lean ====
section
/-! DEFINITION. The management core's duties (R405 to R417): sensors, limits and critical actions, the event log mirror, the
watchdog, PWRCYC_REQ, and the mailbox with the image update. -/

namespace Sys2Proof.Machine

/-- The management core runs: power is present and the always-on reset is released. -/
def State.mgmtUp (s : State) : Bool := !s.pwr.off && !s.pins.aon

/-! ### Limits (R406) -/

/-- A limit is held after a sample: crossed now, or held before and not yet returned by `back` inside it. -/
def holds (was : Bool) (v limit back : Int) : Bool := decide (limit < v) || (was && decide (limit - back < v))

/-- Deviation of a voltage from 750 mV. -/
def deviation (v : BitVec 16) : Int := |(v.toNat : Int) - 750|

/-- Index of the highest reading, and the reading. -/
def hottest (l : List (BitVec 16)) : Nat × BitVec 16 :=
  l.zipIdx.foldl (fun b e => if b.2.toInt < e.1.toInt then (e.2, e.1) else b) (0, l.headD 0)

/-- Limits held after a sample. -/
def Mg.limits (g : Mg) (temps volts : List (BitVec 16)) : BitVec 10 :=
  let t := (hottest temps).2.toInt
  let d := fun (i : Nat) => deviation (volts.getD i 750)
  let w := fun (i : Nat) => holds (g.lim.getLsbD (2 + i)) (d i) g.vwarn.toNat 10
  let c := fun (i : Nat) => holds (g.lim.getLsbD (6 + i)) (d i) g.vcrit.toNat 10
  BitVec.ofNat 10 (pack [(1, b2n (holds (g.lim.getLsbD 0) t g.twarn.toInt 32)),
    (1, b2n (holds (g.lim.getLsbD 1) t g.tcrit.toInt 32)),
    (1, b2n (w 0)), (1, b2n (w 1)), (1, b2n (w 2)), (1, b2n (w 3)),
    (1, b2n (c 0)), (1, b2n (c 1)), (1, b2n (c 2)), (1, b2n (c 3))])

/-- ALRT bits of conditions that persist: limits held and clock faults. -/
def persistent (lim : BitVec 10) (clkf : BitVec 9) : BitVec 9 :=
  BitVec.ofNat 9 (pack [(1, b2n (lim.getLsbD 0)), (1, b2n (lim.getLsbD 1)),
    (1, b2n (fld lim.toNat 2 4 != 0)), (1, b2n (fld lim.toNat 6 4 != 0)), (1, 0), (1, b2n (clkf != 0))])

/-- Clock monitors whose reset input is released: cclk, fclk0, fclk1, nclk, pclk0, pclk1, sclk, hclk; mclk always. -/
def Pins.clockMask (x : Pins) : BitVec 9 :=
  BitVec.ofNat 9 (pack [(1, b2n !x.core), (1, b2n !x.far0), (1, b2n !x.far1), (1, b2n !x.near), (1, b2n !x.peer0),
    (1, b2n !x.peer1), (1, b2n !x.strm), (1, b2n !x.host), (1, 1)])

/-! ### Critical actions (R360, R407) -/

/-- RETAIN asked for by the firmware; a request in RETAIN or on its way there changes nothing. -/
def State.mgmtRetain (s : State) : State :=
  if 3 ≤ s.pwr.state.toNat then s
  else if s.retainBarred then
    { s.retainReq with mg := { s.mg with retry := true } }.logEvent 0x60 0xFF (2 * s.pwr.lwake.toNat)
  else { s.awake.retainReq with mg := { s.mg with retry := false } }

/-- A power cycle asked for by the firmware: in RETAIN it follows the wake (R360, R383). -/
def State.mgmtCycle (s : State) : State :=
  if s.pwr.state = 4 ∨ s.pwr.state = 5 then
    { s.retainWakeOp .reset with esc := { s.esc with held := true } }
  else (s.retainWakeOp .reset).requestReset 5 0 true

/-- Apply a critical action: `now` that its limit has just been crossed, `held` that it holds. -/
def State.critical (s : State) (act : BitVec 2) (now held : Bool) : State :=
  if act = 1 then (if now || (held && s.mg.retry) then s.mgmtRetain else s)
  else if act = 2 ∧ now = true then s.mgmtCycle else s

/-- Milliseconds after a refused response in which a CHREQ is ignored (R400). -/
def refusalMs : Nat := 1000

/-- A refusal of a response 1 s or more ago no longer counts. -/
def Dbg.ages (d : Dbg) (ms : BitVec 32) : Dbg :=
  { d with refusedAt := d.refusedAt.filter fun t => decide ((ms - t).toNat < refusalMs) }

/-! ### SENSOR_SAMPLE and DROOP -/

/-- Write the events of bits that have risen: code, and the source and argument of bit i. -/
def State.riseEvents (s : State) (old new : Nat) (l : List (Nat × Nat × Nat × Nat)) : State :=
  l.foldl (fun st e => if bit new e.1 && !bit old e.1 then st.logEvent e.2.1 e.2.2.1 e.2.2.2 else st) s

/-- SENSOR_SAMPLE: a millisecond has passed. -/
def State.sampleOp (s : State) (temps volts : List (BitVec 16)) (clk : BitVec 9) : State :=
  if s.mgmtUp = false then s
  else
    let g := s.mg
    let lim := g.limits temps volts
    let cf := clk &&& s.pins.clockMask
    let hot := hottest temps
    let v := fun (i : Nat) => (volts.getD i 750).toNat
    let s1 : State := { s with dbg := s.dbg.ages (g.ms + 1), mg := { g with
      ms := g.ms + 1
      temps := temps
      volts := volts
      dsamp := g.droops
      clkf := cf
      lim := lim
      alrt := g.alrt ||| persistent lim cf } }
    let s2 := s1.riseEvents g.lim.toNat lim.toNat ([(0, 0x30, hot.1, hot.2.toNat), (1, 0x31, hot.1, hot.2.toNat)]
      ++ (List.range 4).map (fun i => (2 + i, 0x32, i, v i)) ++ (List.range 4).map fun i => (6 + i, 0x33, i, v i))
    let s3 := s2.riseEvents g.clkf.toNat cf.toNat ((List.range 9).map fun i => (i, 0x35, i, 0))
    let rise := fun (n w : Nat) => decide (fld (lim &&& ~~~ g.lim).toNat n w ≠ 0)
    let held := fun (n w : Nat) => decide (fld lim.toNat n w ≠ 0)
    let s4 := (s3.critical g.tact (rise 1 1) (held 1 1)).critical g.vact (rise 6 4) (held 6 4)
    if held 1 1 || held 6 4 then s4 else { s4 with mg := { s4.mg with retry := false } }

/-- DROOP of monitor i. -/
def State.droopOp (s : State) (i : Nat) : State :=
  if s.mgmtUp = false then s
  else
    let n := satInc (s.mg.droops.get 0 i)
    { s with mg := { s.mg with droops := s.mg.droops.put 0 i n } }.logEvent 0x34 i n.toNat

/-! ### The watchdog, the mirror, PWRCYC_REQ (R405, R410, R419) -/

/-- MGMT_WATCHDOG: a request in progress ends with ABORTED, and the restart is logged. -/
def State.watchdogOp (s : State) : State := if s.mgmtUp then s.mbAbort.logEvent 0x70 0xFF 0 else s

/-- Entries that go into the mirror's next page of 16, oldest first. -/
def Mg.page (g : Mg) : List LogE :=
  let left := (g.nseq - g.mseq).toNat
  let n := min left (16 - g.mpos % 16)
  ((g.log.take left).reverse).take n

/-- LOG_MIRROR. The mirror ranks last of the management core's duties: it waits while a mailbox request is in progress
(R405). -/
def State.mirrorOp (s : State) : State :=
  if s.mgmtUp = false ∨ s.mg.busy = true then s
  else
    let l := s.mg.page
    { s with
      nvm := l.zipIdx.foldl (fun m e => ringPut m (s.mg.mpos + e.2) e.1.bytes) s.nvm
      mg := { s.mg with
        mseq := s.mg.mseq + BitVec.ofNat 24 l.length
        mpos := (s.mg.mpos + l.length) % ringSize } }

/-- PWRCYC_REQ_RISE. -/
def State.pwrcycOp (s : State) : State :=
  if s.mg.pwrcyc && !s.mg.pin then
    { s with
      mg := { s.mg with pin := true }
      esc := { s.esc with pcr := true } }
  else s

/-! ### The mailbox (R412 to R414) -/

/-- STATUS codes. -/
inductive MbEnd where
  | ok
  | refused
  | bus
  | image
  | nvm
  | stale
deriving DecidableEq, Repr

/-- Encoding of STATUS. -/
def MbEnd.code : MbEnd → Nat
  | .ok => 1
  | .refused => 2
  | .bus => 3
  | .image => 4
  | .nvm => 5
  | .stale => 7

/-- A request ends: DONE and STATUS are set, and the log holds event 0x40. -/
def State.mbEnd (s : State) (op : Nat) (st : MbEnd) (fail : Nat) : State :=
  { s with mg := { s.mg with
      busy := false
      done := true
      status := BitVec.ofNat 4 st.code
      work := none } }.logEvent 0x40 0xFF (op % 256 + 256 * st.code + 4096 * fail)

/-- Put words of the request, or of the response. -/
def putWords (m : SMap (BitVec 64)) (l : List (BitVec 64)) : SMap (BitVec 64) :=
  l.zipIdx.foldl (fun q e => q.put 0 e.2 e.1) m

/-- Word k of the request. -/
def State.mbWord (s : State) (k : Nat) : BitVec 64 := s.mg.mbreq.get 0 k

/-- The response's first words. -/
def State.mbResp (s : State) (l : List (BitVec 64)) : State := { s with mg := { s.mg with mbrsp := putWords s.mg.mbrsp l } }

/-- A request that goes on after the command that started it. -/
def State.mbWorks (s : State) (w : MbWork) : State := { s with mg := { s.mg with work := some w } }

/-- An address operand: a physical far address of a multiple. -/
def farAddr (a : BitVec 64) (mult : Nat) : Bool := decide (a.toNat < 2 ^ 48) && a.toNat % mult == 0

/-- Bytes of the newest `n` log entries, oldest first, and the SEQ of the first. -/
def Mg.newest (g : Mg) (n : Nat) : List Byte × Nat :=
  let l := (g.log.take n).reverse
  ((l.map LogE.bytes).flatten, ((l.head?).map (·.seq.toNat)).getD g.nseq.toNat)

/-- Droop counts at the last sample, as bytes. -/
def Mg.droopBytes (g : Mg) : List Byte := ((List.range 4).map fun i => toLE 2 (g.dsamp.get 0 i).toNat).flatten

/-- Readings as bytes. -/
def readBytes (n : Nat) (l : List (BitVec 16)) : List Byte := ((List.range n).map fun i => toLE 2 (l.getD i 0).toNat).flatten

/-- The sensors' response: the first four words of the contents of SMBus commands 0x10 to 0x12. -/
def Mg.sensorWords (g : Mg) : List (BitVec 64) :=
  let b := readBytes 8 g.temps ++ readBytes 4 g.volts ++ g.droopBytes
  (List.range 4).map fun k => BitVec.ofNat 64 (leNat ((b.drop (8 * k)).take 8))

/-- CONTACT: the sheet is captured, and its writes begin (R416). -/
def State.mbContactGo (s : State) (addr w2 : BitVec 64) : State :=
  if farAddr addr 64 = false then s.mbEnd 2 .refused 0
  else
    let l := s.sheet 1 (bit w2.toNat 32) (fld w2.toNat 0 32) s.mg.nseq.toNat
    (((if bit w2.toNat 32 then s.sheetReads (fld w2.toNat 0 32) else s).mbResp [BitVec.ofNat 64 l.length]).mbWorks
      { op := 2, update := none, head := false, bus := false }).mgmtWrite .mgmt addr.toNat l

/-- LOGCOPY: the newest entries are written in SEQ order. -/
def State.mbLogGo (s : State) (addr n : BitVec 64) : State :=
  let k := fld n.toNat 0 13
  if farAddr addr 16 = false ∨ k = 0 ∨ 4096 < k then s.mbEnd 3 .refused 0
  else
    let l := s.mg.newest k
    ((s.mbResp [BitVec.ofNat 64 l.2]).mbWorks { op := 3, update := none, head := false, bus := false }).mgmtWrite .mgmt
      addr.toNat l.1

/-- THRESH. -/
def State.mbThreshGo (s : State) (w1 w2 : BitVec 64) : State :=
  let h := fun (k : Nat) => BitVec.ofNat 16 (fld w1.toNat (16 * k) 16)
  let ta := fld w2.toNat 0 2
  let va := fld w2.toNat 2 2
  if (h 1).toInt ≤ (h 0).toInt ∨ (h 3).toNat ≤ (h 2).toNat ∨ ta = 3 ∨ va = 3 then s.mbEnd 5 .refused 0
  else
    { s with mg := { s.mg with
        twarn := h 0
        tcrit := h 1
        vwarn := h 2
        vcrit := h 3
        tact := BitVec.ofNat 2 ta
        vact := BitVec.ofNat 2 va
        amask := BitVec.ofNat 8 (fld w2.toNat 8 8) } }.mbEnd 5 .ok 0

/-- RETAIN: one that R382 ignores ends with REFUSED. -/
def State.mbRetainGo (s : State) : State :=
  if s.retainBarred then s.retainReq.mbEnd 6 .refused 0 else s.retainReq.mbEnd 6 .ok 0

/-- UPDATE: step 1 reads bytes 0 to 1,023 of the image (R415). -/
def State.mbUpdateGo (s : State) (addr : BitVec 64) : State :=
  if farAddr addr 4096 = false then s.mbEnd 1 .refused 0
  else (s.mbWorks { op := 1, update := none, head := false, bus := false }).mgmtReads addr.toNat 1024

/-- Perform the request that the words hold. -/
def State.mbPerform (s : State) : State :=
  let op := fld (s.mbWord 0).toNat 0 8
  if op = 1 then s.mbUpdateGo (s.mbWord 1)
  else if op = 2 then s.mbContactGo (s.mbWord 1) (s.mbWord 2)
  else if op = 3 then s.mbLogGo (s.mbWord 1) (s.mbWord 2)
  else if op = 4 then (s.mbResp s.mg.sensorWords).mbEnd 4 .ok 0
  else if op = 5 then s.mbThreshGo (s.mbWord 1) (s.mbWord 2)
  else if op = 6 then s.mbRetainGo
  else s.mbEnd op .refused 0

/-- A GO: ignored with DROP while a request is in progress. -/
def State.mbGo (s : State) : State :=
  if s.mg.busy then { s with mg := { s.mg with drop := true } }
  else { s with mg := { s.mg with busy := true } }.mbPerform

/-- The words of a request are written, and GO. -/
def State.mbRequest (s : State) (l : List (BitVec 64)) : State :=
  if s.mg.busy then { s with mg := { s.mg with drop := true } }
  else { s with mg := { s.mg with mbreq := putWords s.mg.mbreq l } }.mbGo

/-! ### The image update (R415) -/

/-- An UPDATE whose image is being read, all of its reads granted. -/
def State.mbAwaits (s : State) : Bool :=
  s.mg.busy && (s.mg.work.any fun w => w.op == 1 && w.update.isNone)
  && !s.acc.any fun a => a.kind == .mbRead && !a.drain && a.stage != .out

/-- The reads of an image have their responses: an error, now or before. -/
def State.mbReadBad (s : State) (r : Resp) : Bool :=
  (s.mg.work.any fun w => w.bus) || (!respOk r && s.acc.any fun a => a.kind == .mbRead && !a.drain)

/-- The reads of an image that are still outstanding are answered. -/
def State.mbReadsDone (s : State) : State := { s with acc := s.acc.filter fun a => !(a.kind == .mbRead && !a.drain) }

/-- The image arrives. Its first 1,024 bytes are checked (step 1), and the whole image is read; its signature is verified
(step 2), the sectors of the other slot are erased (step 3), and the image is read again to be programmed (step 4). -/
def State.updateData (s' : State) (addr size : BitVec 64) (data : List Byte) (r : Resp) : State :=
  let s := s'.mbReadsDone
  let slot := !s.boot.slot
  let seq := imgSeq data
  let fail := headerFail data
  let word := fun (code : Nat) => [BitVec.ofNat 64 (pack [(4, code), (1, b2n slot), (27, 0), (32, seq.toNat)])]
  let bad := fun (st : MbEnd) (code : Nat) => (s.mbResp (word code)).mbEnd 1 st code
  if s'.mbReadBad r then s.mbEnd 1 .bus 0
  else if fail ≠ 0 then bad .image fail
  else if imgSize data ≠ size.toNat then bad .image 2
  else if (seq - s.boot.seq).toInt ≤ 0 then bad .stale 0
  else if (s.mg.work.any fun w => w.head) = false then
    (s.mbWorks { op := 1, update := none, head := true, bus := false }).mgmtReads addr.toNat size.toNat
  else
    let sig := signFail data
    if sig ≠ 0 then bad .image sig
    else
      let n := ceilDiv size.toNat 65536 * 65536
      (({ s with nvm := nvmErase s.nvm (slotBase slot) n }.mbResp (word 0)).mbWorks
        { op := 1, update := some (slot, data.take size.toNat), head := true, bus := false }).mgmtReads addr.toNat size.toNat

/-- MB_UPDATE: a GO, or the image that the reads of an UPDATE in progress return. -/
def State.mbUpdateOp (s : State) (addr size : BitVec 64) (data : List Byte) (r : Resp) : State :=
  if s.mbAwaits && s.mbWord 1 == addr && s.mbWord 2 == size then s.updateData addr size data r
  else s.hostWrite (.mbUpdate addr size data r) fun u => u.mbRequest [1, addr, size]

/-- MAILBOX_REQUEST_END: the last far access has its response, or the NVM is written; `nvmOk` tells that no step met an
NVM error and the read-back matched. A contact sheet written without an error is recorded by event 0x41. -/
def State.mbEndOp (s : State) (r : Resp) (nvmOk : Bool) : State :=
  match s.mg.work with
  | none => s
  | some w =>
    if !s.mg.busy || s.acc.any (fun a => (a.kind == .mgmt || (a.kind == .mbRead && a.stage != .out)) && !a.drain) then s
    else
      let op := w.op.toNat
      match w.update with
      | none =>
        if op = 1 then s
        else if w.bus then s.mbEnd op .bus 0
        else (if op = 2 then s.logEvent 0x41 0xFF (s.mg.mbrsp.get 0 0).toNat else s).mbEnd op .ok 0
      | some (slot, img) =>
        let s1 := s.mbReadsDone
        if s.mbReadBad r then (s1.tornSlot false).mbEnd 1 .bus 0
        else if nvmOk then (s1.nvmPut (slotBase slot) img).mbEnd 1 .ok 0
        else (s1.tornSlot true).mbEnd 1 .nvm 0

/-! ### The events -/

/-- A sample of every sensor (R406, R407). -/
def execSensorSample (temps volts : List (BitVec 16)) (clk : BitVec 9) (s : State) : Host.Outcome State Fault Refusal :=
  .next (s.sampleOp temps volts clk)

/-- A droop is counted (R406). -/
def execDroop (i : Fin 4) (s : State) : Host.Outcome State Fault Refusal := .next (s.droopOp i)

/-- The management core restarts (R405). -/
def execMgmtWatchdog (s : State) : Host.Outcome State Fault Refusal := .next s.watchdogOp

/-- A page of the event log is mirrored (R410). -/
def execLogMirror (s : State) : Host.Outcome State Fault Refusal := .next s.mirrorOp

/-- PWRCYC_REQ rises (R419). -/
def execPwrcycReqRise (s : State) : Host.Outcome State Fault Refusal := .next s.pwrcycOp

/-- Mailbox UPDATE (R415). -/
def execMbUpdate (addr size : BitVec 64) (data : List Byte) (r : Resp) (s : State) : Host.Outcome State Fault Refusal :=
  .next (s.mbUpdateOp addr size data r)

/-- Mailbox CONTACT (R416). -/
def execMbContact (addr w2 : BitVec 64) (s : State) : Host.Outcome State Fault Refusal :=
  .next (s.hostWrite (.mbContact addr w2) fun u => u.mbRequest [2, addr, w2])

/-- Mailbox LOGCOPY (R413). -/
def execMbLogcopy (addr n : BitVec 64) (s : State) : Host.Outcome State Fault Refusal :=
  .next (s.hostWrite (.mbLogcopy addr n) fun u => u.mbRequest [3, addr, n])

/-- Mailbox SENSORS (R413). -/
def execMbSensors (s : State) : Host.Outcome State Fault Refusal := .next (s.hostWrite .mbSensors fun u => u.mbRequest [4])

/-- Mailbox THRESH (R413). -/
def execMbThresh (w1 w2 : BitVec 64) (s : State) : Host.Outcome State Fault Refusal :=
  .next (s.hostWrite (.mbThresh w1 w2) fun u => u.mbRequest [5, w1, w2])

/-- Mailbox RETAIN (R413). -/
def execMbRetain (s : State) : Host.Outcome State Fault Refusal := .next (s.hostWrite .mbRetain fun u => u.mbRequest [6])

/-- A mailbox request ends (R412). -/
def execMailboxRequestEnd (r : Resp) (nvmOk : Bool) (s : State) : Host.Outcome State Fault Refusal :=
  .next (s.mbEndOp r nvmOk)

end Sys2Proof.Machine
end

