-- ==== Sys2Proof/Machine/Dbg.lean ====
section
/-! DEFINITION. The debug lock (R398 to R401), the SMBus slave (R418, R419, R439), and the test ports (R377, R441, R451). -/

namespace Sys2Proof.Machine

/-! ### The debug lock (R398 to R401) -/

/-- The challenge block. -/
def challenge (scope : BitVec 2) (ucnt seq : Nat) (nonce : BitVec 128) : BitVec 256 :=
  BitVec.ofNat 256 (pack [(32, 0x5544544E), (8, scope.toNat), (24, 0), (32, ucnt), (32, seq), (128, nonce.toNat)])


/-- CHREQ: UCNT is counted up in the NVM, and a challenge is ready; one in use or being verified is void. -/
def State.chreqOp (s : State) : State :=
  if s.dbg.refusedAt.any (fun t => decide ((s.mg.ms - t).toNat < refusalMs)) then s
  else
    let n := ((ucntNow s.nvm).1 + 1) % 2 ^ 32
    let seq := if s.inRun then s.boot.seq.toNat else 0
    { s with
      nvm := ucntPut s.nvm n
      free := s.free + 1
      dbg := { s.dbg with
        state := 1
        chal := challenge s.dbg.scope n seq (Config.noise s.free) } }

/-- VGO: ignored unless a challenge is ready. -/
def State.vgoOp (s : State) : State := if s.dbg.state = 1 then { s with dbg := { s.dbg with state := 2 } } else s

/-- RELOCK: any unlock and any challenge end. -/
def State.relockOp (s : State) : State :=
  { s with dbg := { s.dbg with
      state := 0
      grant := 0 } }

/-- A write of SCOPE: ignored unless STATE is 0, 3 or 4. -/
def State.scopeOp (s : State) (v : BitVec 2) : State :=
  if s.dbg.state = 1 ∨ s.dbg.state = 2 then s else { s with dbg := { s.dbg with scope := v } }

/-- The response passes the checks of R401. -/
def State.unlockOk (s : State) : Bool :=
  let sig := toLE 128 s.dbg.resp.toNat
  keyOk Config.keyHash sig && sigOk sig (toLE 32 s.dbg.chal.toNat)

/-- UNLOCK_VERIFIED. -/
def State.verifiedOp (s : State) : State :=
  if s.dbg.state ≠ 2 then s
  else if s.unlockOk then
    { s with dbg := { s.dbg with
        state := 3
        grant := s.dbg.scope } }.logEvent 0x50 0xFF (3 + 8 * s.dbg.scope.toNat)
  else
    { s with dbg := { s.dbg with
        state := 4
        refusedAt := some s.mg.ms } }.logEvent 0x50 0xFF (4 + 8 * s.dbg.scope.toNat)

/-- The locked instructions are refused (R398): until step 6 has loaded GL_IMGCFG, in FAIL or out of service, or while the
DEBUG_LOCK loaded last is 1 (log 95). -/
def State.debugLocked (s : State) : Bool := s.dbg.lock || s.boot.state == 14

/-- Bit of the scope is open. -/
def State.scopeOpen (s : State) (k : Nat) : Bool := !s.debugLocked || s.dbg.grant.getLsbD k

/-! ### SMBus (R418, R419, R439) -/

/-- The packet error code of SMBus 3.1: CRC-8 with polynomial x^8 + x^2 + x + 1 over every byte of the transaction, the
addresses included (log 96). -/
def crc8 (l : List Byte) : Byte :=
  l.foldl (fun c b => (List.range 8).foldl (fun (x : Byte) _ => if x.msb then (x <<< 1) ^^^ 0x07 else x <<< 1) (c ^^^ b)) 0

/-- The address byte of a write to the slave; a read's is one more. -/
def State.smbAddr (s : State) : Byte := BitVec.ofNat 8 (2 * s.smb.addr.toNat)

/-- A transaction ends without bytes of response. -/
def State.smbEnd (s : State) : State := { s with smb := { s.smb with out := [], pec := 0 } }

/-- A transaction ends with bytes of response, and the error code over it: `sent` are the bytes that go before them. -/
def State.smbGive (s : State) (sent l : List Byte) : State :=
  { s with smb := { s.smb with out := l, pec := crc8 (sent ++ l) } }

/-- The response of a block read. -/
def State.smbAnswer (s : State) (code : Byte) (l : List Byte) : State :=
  s.smbGive [s.smbAddr, code, s.smbAddr + 1, BitVec.ofNat 8 l.length] l

/-- A command that every state serves. -/
def State.smbDo (s : State) (f : State → State) : State := if s.mgmtUp then f s else s

/-- A command that writes `sent` behind its address: one whose error code is given and wrong is refused (R439). -/
def State.smbTake (s : State) (sent : List Byte) (pec : Option Byte) (f : State → State) : State :=
  if pec.any (fun b => b != crc8 (s.smbAddr :: sent)) then s.smbEnd else f s

/-- An unlock command, refused in RETAIN and its wake. -/
def State.smbUnlock (s : State) (f : State → State) : State :=
  s.smbDo fun u => if u.pwr.state = 4 ∨ u.pwr.state = 5 then u.smbEnd else f u

/-- MG_FWVER. -/
def State.fwWord (s : State) : Nat := pack [(16, s.mg.fwver.toNat), (1, b2n s.mg.fwres)]

/-- FAIL or out of service: ALRT bit 8. -/
def State.failed (s : State) : Bool := s.boot.state == 14

/-- ALRT as read. -/
def State.alrtWord (s : State) : Nat := s.mg.alrt.toNat % 256 + 256 * b2n s.failed

/-- ALERT_N is low. -/
def State.alertLow (s : State) : Bool := s.failed || decide ((BitVec.ofNat 8 s.mg.alrt.toNat) &&& s.mg.amask ≠ 0)

/-- EVENTS: droop counts, clock fault bits, ALRT. -/
def State.eventBytes (s : State) : List Byte := s.mg.droopBytes ++ toLE 2 s.mg.clkf.toNat ++ toLE 2 s.alrtWord

/-- LOGREAD: the entry of a SEQ, or all ones where SRAM no longer holds it. -/
def State.logBytes (s : State) (seq : BitVec 24) : List Byte :=
  match s.mg.log.find? fun e => e.seq == seq with
  | some e => e.bytes
  | none => List.replicate 16 0xFF

/-- ALERTCLR: bits whose condition persists stay set. -/
def State.alertClear (s : State) (w : BitVec 16) : State :=
  let keep := persistent s.mg.lim s.mg.clkf
  { s with mg := { s.mg with alrt := s.mg.alrt &&& ~~~(BitVec.ofNat 9 w.toNat &&& ~~~keep) } }.smbEnd

/-- RESP: 32 bytes of the response at one of the four offsets. -/
def State.smbRespOp (s : State) (off : BitVec 8) (data : List Byte) : State :=
  let o := off.toNat
  if o % 32 = 0 ∧ o < 128 then
    let l := toLE 128 s.dbg.resp.toNat
    { s with dbg := { s.dbg with
        resp := BitVec.ofNat 1024 (leNat (l.take o ++ data.take 32 ++ l.drop (o + 32))) } }.smbEnd
  else s.smbEnd

/-! ### The test ports (R377, R441, R451) -/

/-- Power is present and trst_n is high: the test ports work whatever the clocks of the block. -/
def State.tapUp (s : State) : Bool := !s.pwr.off

/-- The TAP selects an instruction, and its data register holds a value to shift out. -/
def State.tapSet (s : State) (ir : TapIr) (dr : BitVec 32) : State :=
  if s.tapUp then { s with tap := { s.tap with
    ir := ir
    dr := dr } } else s

/-- The wrapper selects an instruction, or WS_BYPASS where it is refused. -/
def State.wrapSet (s : State) (ok : Bool) (i : WrapIr) : State :=
  if s.tapUp then { s with tap := { s.tap with wir := if ok then i else .bypass } } else s

/-- The IDCODE (R451). -/
def idcodeWord : BitVec 32 := BitVec.ofNat 32 (pack [(1, 1), (11, Config.mfr.toNat), (16, 0x4E32), (4, 1)])

/-- FAIL, or the core reset asserted. -/
def State.testState (s : State) : Bool := s.pins.core || s.failed

/-- An SRAM of the management core is march-tested, and what it held is destroyed: free values stand there (R377; log 84).
What any other SRAM held, step 2 of start writes to zero before it is read again (R320). -/
def State.mbistOp (s : State) (sram : BitVec 8) : State :=
  let f := s.free
  let b := fun (i : Nat) => Config.freeByte (f + i)
  let w := fun (i : Nat) => BitVec.ofNat 16 ((b (2 * i)).toNat + 256 * (b (2 * i + 1)).toNat)
  match (Config.sramOf sram).val with
  | 1 => { s with free := f + 131072, mg := { s.mg with fw := (List.range s.mg.fw.length).map b } }
  | 2 =>
    let e := fun (i : Nat) => Config.logNoise (f + i)
    { s with free := f + 4096, mg := { s.mg with log := s.mg.log.zipIdx.map fun (o, i) => { o with
        tms := (e i).1, sev := (e i).2.1, code := (e i).2.2.1, src := (e i).2.2.2.1, arg := (e i).2.2.2.2 } } }
  | 3 => { s with free := f + 40000, mg := { s.mg with
      twarn := w 0, tcrit := w 1, vwarn := w 2, vcrit := w 3, tact := (w 4).extractLsb' 0 2, vact := (w 4).extractLsb' 2 2
      amask := (w 4).extractLsb' 8 8, cs := s.mg.cs.map fun l => (List.range l.length).map fun i => b (16 + i) } }
  | _ => s

/-- WS_MBIST. -/
def State.wsMbist (s : State) (sram : BitVec 8) : State :=
  (if s.testState && s.tapUp then s.mbistOp sram else s).wrapSet s.testState (.mbist sram)

/-- EXTEST outside its allowed state is refused, and the wrapper selects WS_BYPASS. -/
def State.extestOp (s : State) : State := if s.testState then s.tapSet .extest s.tap.dr else s.wrapSet false .bypass

/-- trst_n resets the TAP and the wrapper only. -/
def State.tapResetOp (s : State) : State := { s with tap := { ir := .idcode, wir := .bypass, dr := 0 } }

/-! ### The events -/

/-- GL_DBGCTL.CHREQ written 1 (R400). -/
def execChreq (s : State) : Host.Outcome State Fault Refusal := .next (s.hostWrite .chreq State.chreqOp)

/-- GL_DBGCTL.VGO written 1 (R401). -/
def execVgo (s : State) : Host.Outcome State Fault Refusal := .next (s.hostWrite .vgo State.vgoOp)

/-- GL_DBGCTL.RELOCK written 1 (R398). -/
def execRelock (s : State) : Host.Outcome State Fault Refusal := .next (s.hostWrite .relock State.relockOp)

/-- The verification of a response ends (R401). -/
def execUnlockVerified (s : State) : Host.Outcome State Fault Refusal := .next s.verifiedOp

/-- SMBus ID (R418): the low word of the ID register, and MG_FWVER. -/
def execSmbId (s : State) : Host.Outcome State Fault Refusal :=
  .next (s.smbDo fun u => u.smbAnswer 0x01 (toLE 4 (idWord % 2 ^ 32) ++ toLE 4 u.fwWord))

/-- SMBus STATUS (R418). -/
def execSmbStatus (s : State) : Host.Outcome State Fault Refusal :=
  .next (s.smbDo fun u => u.smbAnswer 0x02 (toLE 8 u.bootWord ++ toLE 8 u.escWord ++ toLE 8 u.pwrWord))

/-- SMBus TEMP (R418). -/
def execSmbTemp (s : State) : Host.Outcome State Fault Refusal :=
  .next (s.smbDo fun u => u.smbAnswer 0x10 (readBytes 8 u.mg.temps))

/-- SMBus VOLT (R418). -/
def execSmbVolt (s : State) : Host.Outcome State Fault Refusal :=
  .next (s.smbDo fun u => u.smbAnswer 0x11 (readBytes 4 u.mg.volts))

/-- SMBus EVENTS (R418). -/
def execSmbEvents (s : State) : Host.Outcome State Fault Refusal :=
  .next (s.smbDo fun u => u.smbAnswer 0x12 u.eventBytes)

/-- SMBus LOGREAD (R418). -/
def execSmbLogread (seq : BitVec 24) (s : State) : Host.Outcome State Fault Refusal :=
  .next (s.smbDo fun u => u.smbGive
    ([u.smbAddr, 0x20, 3] ++ toLE 3 seq.toNat ++ [u.smbAddr + 1, 16]) (u.logBytes seq))

/-- SMBus ALERTCLR (R419). -/
def execSmbAlertclr (w : BitVec 16) (s : State) (pec : Option Byte := none) : Host.Outcome State Fault Refusal :=
  .next (s.smbDo fun u => u.smbTake (0x30 :: toLE 2 w.toNat) pec fun v => v.alertClear w)

/-- SMBus CHREQ (R400, R418). -/
def execSmbChreq (scope : BitVec 8) (s : State) (pec : Option Byte := none) : Host.Outcome State Fault Refusal :=
  .next (s.smbUnlock fun u => u.smbTake [0x40, scope] pec fun v => ((v.scopeOp (BitVec.ofNat 2 scope.toNat)).chreqOp).smbEnd)

/-- SMBus CHAL (R418). -/
def execSmbChal (s : State) : Host.Outcome State Fault Refusal :=
  .next (s.smbUnlock fun u => u.smbAnswer 0x41 (toLE 32 u.dbg.chal.toNat))

/-- SMBus RESP (R418). -/
def execSmbResp (off : BitVec 8) (data : List Byte) (s : State) (pec : Option Byte := none) :
    Host.Outcome State Fault Refusal :=
  .next (s.smbUnlock fun u => u.smbTake ([0x42, 33, off] ++ data) pec fun v => v.smbRespOp off data)

/-- SMBus VGO (R401, R418). -/
def execSmbVgo (s : State) (pec : Option Byte := none) : Host.Outcome State Fault Refusal :=
  .next (s.smbUnlock fun u => u.smbTake [0x43] pec fun v => v.vgoOp.smbEnd)

/-- SMBus DBGSTAT, a read of one byte (R418). -/
def execSmbDbgstat (s : State) : Host.Outcome State Fault Refusal :=
  .next (s.smbUnlock fun u => u.smbGive [u.smbAddr, 0x44, u.smbAddr + 1]
    (toLE 1 (u.dbg.state.toNat + 8 * u.dbg.grant.toNat)))

/-- The Alert Response Address (0x0C, read) is answered with the block's own address while ALERT_N is low (R419). -/
def execSmbAlertResponse (s : State) : Host.Outcome State Fault Refusal :=
  .next (s.smbDo fun u => if u.alertLow then u.smbGive [0x19] (toLE 1 (2 * u.smb.addr.toNat)) else u.smbEnd)

/-- The slave abandons its transaction (R439). -/
def execSmbusTimeout (s : State) : Host.Outcome State Fault Refusal := .next (s.smbDo State.smbEnd)

/-- TAP BYPASS (R377). -/
def execBypass (s : State) : Host.Outcome State Fault Refusal := .next (s.tapSet .bypass 0)

/-- TAP IDCODE (R451). -/
def execIdcode (s : State) : Host.Outcome State Fault Refusal := .next (s.tapSet .idcode idcodeWord)

/-- TAP SAMPLE/PRELOAD (R377). -/
def execSamplePreload (s : State) : Host.Outcome State Fault Refusal := .next (s.tapSet .samplePreload s.tap.dr)

/-- TAP EXTEST (R377). -/
def execExtest (s : State) : Host.Outcome State Fault Refusal := .next s.extestOp

/-- Wrapper WS_BYPASS (R377). -/
def execWsBypass (s : State) : Host.Outcome State Fault Refusal := .next (s.wrapSet s.pins.core .bypass)

/-- Wrapper WS_EXTEST (R377). -/
def execWsExtest (s : State) : Host.Outcome State Fault Refusal := .next (s.wrapSet s.pins.core .extest)

/-- Wrapper WS_INTEST (R377, R398). -/
def execWsIntest (s : State) : Host.Outcome State Fault Refusal := .next (s.wrapSet (s.pins.core && s.scopeOpen 1) .intest)

/-- Wrapper WS_MBIST (R377). -/
def execWsMbist (sram : BitVec 8) (s : State) : Host.Outcome State Fault Refusal := .next (s.wsMbist sram)

/-- Wrapper WS_SCAN (R377, R398). -/
def execWsScan (s : State) : Host.Outcome State Fault Refusal := .next (s.wrapSet (s.pins.core && s.scopeOpen 1) .scan)

/-- Wrapper WS_DEBUG (R377, R398). -/
def execWsDebug (s : State) : Host.Outcome State Fault Refusal := .next (s.wrapSet (s.scopeOpen 0) .debug)

/-- trst_n (R441). -/
def execTapReset (s : State) : Host.Outcome State Fault Refusal := .next s.tapResetOp

end Sys2Proof.Machine
end

