-- ==== Sys2Proof/Machine/RegMap.lean ====
section
/-! DEFINITION. The register window (R426, R449 to R453): where each register lies, what it reads as (R10), what a host write
does, and the HOST port's read latch and held write. -/

namespace Sys2Proof.Machine

/-! ### The index (R452) -/

/-- A register. Counters are named 64m + k; `n` of a Mover is a channel, of a partition an Ecnos channel or a slot. -/
inductive Reg where
  | glId
  | imgcfg
  | bootstat
  | rst
  | esc
  | rststat (p : Nat)
  | parstat
  | stctl
  | granret (k : Nat)
  | pwrctl
  | pwrstat
  | pwrgate
  | hostsec
  | dbgctl
  | dbgchal (k : Nat)
  | dbgresp (k : Nat)
  | irqen
  | irqmap
  | msiaddr
  | msidata
  | cqpend (k : Nat)
  | fqpend
  | strm (d : Nat)
  | strmstat (d : Nat)
  | tenant (t : Nat)
  | tacct (t : Nat)
  | cqCfg (c : Nat)
  | cqBase (c : Nat)
  | cqStat (c : Nat)
  | sqCfg (q : Nat)
  | sqBase (q : Nat)
  | sqStat (q : Nat)
  | ptCfg (p : Nat)
  | ptMvmask (p : Nat)
  | ptStg (p : Nat)
  | ptGran (p : Nat)
  | ptSpill (p : Nat)
  | ptSpillsz (p : Nat)
  | ptGlac (p : Nat)
  | ptGlacn (p : Nat)
  | ptSched (p : Nat)
  | ptHome (p : Nat)
  | ptHomest (p : Nat)
  | ptIssue (p : Nat)
  | ptNwin (p k : Nat)
  | ptEcnLo (p : Nat)
  | ptEcnHi (p : Nat)
  | fqCfg (p : Nat)
  | fqStat (p : Nat)
  | fqHead (p : Nat)
  | ftabSlot (p n : Nat)
  | ecnCtrl (p n : Nat)
  | ecnStat (p n : Nat)
  | ecnDesc (p n : Nat)
  | ecnCur (p n : Nat)
  | arSlot (t w : Nat)
  | arTctl (t : Nat)
  | arTstat (t : Nat)
  | arPri
  | arQuota
  | arCommit
  | arCstat
  | arQos
  | arTrkF (p : Nat)
  | arTrkN (p : Nat)
  | mvRctl (m : Nat)
  | mvRstat (m : Nat)
  | mvTctl (m : Nat)
  | errVa (m n : Nat)
  | errPa (m n : Nat)
  | errInf (m n : Nat)
  | susp (m k : Nat)
  | suspctl (m : Nat)
  | sfCnt (key : Nat)
  | ropeM (n : Nat)
  | ropeS (n : Nat)
  | ropeA (n : Nat)
  | ropeP (n : Nat)
  | trRoot (t : Nat)
  | trInv
  | trInvStat
  | peCfg
  | peDir
  | peTmo
  | peStat (n : Nat)
  | peFftab (k : Nat)
  | mbReq (k : Nat)
  | mbCtl
  | mbRsp (k : Nat)
  | fwver
  | csaddr
  | logstat
  | dbTail (t k : Nat)
  | dbHead (t k : Nat)
  | dbAbort (t : Nat)
  | dbThaw (t : Nat)
  | dbResume (t : Nat)
  | dbSkip (t : Nat)
deriving DecidableEq, Repr

/-- Index of an offset in an array of registers. -/
def arr (o base stride n : Nat) : Option Nat :=
  if base ≤ o ∧ o < base + stride * n ∧ (o - base) % stride = 0 then some ((o - base) / stride) else none

/-- The register at an offset, if there is one there. -/
def one (o base : Nat) (r : Reg) : Option Reg := if o = base then some r else none

/-- The first register found. -/
def firstReg (l : List (Option Reg)) : Option Reg := l.findSome? id

/-- Global registers, 0x0000 to 0x1FFF. -/
def glReg (o : Nat) : Option Reg :=
  firstReg [one o 0 .glId, one o 0x100 .imgcfg, one o 0x108 .bootstat, one o 0x200 .rst, one o 0x210 .esc,
    (arr o 0x240 8 8).map .rststat, one o 0x300 .parstat, one o 0x310 .stctl, (arr o 0x400 8 10).map .granret,
    one o 0x500 .pwrctl, one o 0x508 .pwrstat, one o 0x510 .pwrgate, one o 0x600 .hostsec, one o 0x700 .dbgctl,
    (arr o 0x708 8 4).map .dbgchal, (arr o 0x740 8 16).map .dbgresp, one o 0x800 .irqen, one o 0x808 .irqmap,
    one o 0x820 .msiaddr, one o 0x828 .msidata, (arr o 0x840 8 4).map .cqpend, one o 0x860 .fqpend,
    (arr o 0x900 16 4).map .strm, (arr o 0x908 16 4).map .strmstat]

/-- Registers of partition p, at an offset in its 4 KiB. -/
def ptReg (p o : Nat) : Option Reg :=
  firstReg [one o 0x00 (.ptCfg p), one o 0x08 (.ptMvmask p), one o 0x10 (.ptStg p), one o 0x18 (.ptGran p),
    one o 0x20 (.ptSpill p), one o 0x28 (.ptSpillsz p), one o 0x30 (.ptGlac p), one o 0x38 (.ptGlacn p),
    one o 0x40 (.ptSched p), one o 0x50 (.ptHome p), one o 0x54 (.ptHomest p), one o 0x200 (.ptIssue p),
    (arr o 0x300 8 8).map (.ptNwin p), one o 0x340 (.ptEcnLo p), one o 0x348 (.ptEcnHi p), one o 0x400 (.fqCfg p),
    one o 0x408 (.fqStat p), one o 0x410 (.fqHead p), (arr o 0x800 8 8).map (.ftabSlot p),
    (arr o 0xC00 32 8).map (.ecnCtrl p), (arr o 0xC04 32 8).map (.ecnStat p), (arr o 0xC08 32 8).map (.ecnDesc p),
    (arr o 0xC10 32 8).map (.ecnCur p)]

/-- Arbitration, at an offset from 0x2_0000. -/
def arReg (o : Nat) : Option Reg :=
  if o < 0x7800 then
    let t := o / 0x400
    firstReg [(arr (o % 0x400) 0 4 32).map (.arSlot t), one (o % 0x400) 0x100 (.arTctl t),
      one (o % 0x400) 0x108 (.arTstat t)]
  else
    firstReg [one o 0x8000 .arPri, one o 0x8008 .arQuota, one o 0x8010 .arCommit, one o 0x8014 .arCstat,
      one o 0x8020 .arQos, (arr o 0x8100 8 8).map .arTrkF, (arr o 0x8140 8 8).map .arTrkN]

/-- Registers of Mover m, at an offset in its 1 KiB. -/
def mvReg (m o : Nat) : Option Reg :=
  firstReg [one o 0x00 (.mvRctl m), one o 0x08 (.mvRstat m), one o 0x10 (.mvTctl m), (arr o 0x100 32 4).map (.errVa m),
    (arr o 0x108 32 4).map (.errPa m), (arr o 0x110 32 4).map (.errInf m), (arr o 0x200 8 8).map (.susp m),
    one o 0x240 (.suspctl m)]

/-- Translation, peer and management registers. -/
def farReg (o : Nat) : Option Reg :=
  firstReg [(arr o 0xC0000 8 256).map .trRoot, one o 0xC1000 .trInv, one o 0xC1008 .trInvStat, one o 0xE0000 .peCfg,
    one o 0xE0008 .peDir, one o 0xE0010 .peTmo, (arr o 0xE0100 8 2).map .peStat, (arr o 0xE0F00 4 16).map .peFftab,
    (arr o 0xF0000 8 8).map .mbReq, one o 0xF0040 .mbCtl, (arr o 0xF0080 8 4).map .mbRsp, one o 0xF00C0 .fwver,
    one o 0xF00C8 .csaddr, one o 0xF00D0 .logstat]

/-- The doorbell page of tenant t. -/
def dbReg (t o : Nat) : Option Reg :=
  firstReg [(arr o 0 8 64).map (.dbTail t), (arr o 0x800 8 16).map (.dbHead t), one o 0xF00 (.dbAbort t),
    one o 0xF08 (.dbThaw t), one o 0xF10 (.dbResume t), one o 0xF18 (.dbSkip t)]

/-- The register whose first word lies at an offset. -/
def regLo (o : Nat) : Option Reg :=
  if o < 0x2000 then glReg o
  else if o < 0x4000 then firstReg [(arr o 0x2000 16 256).map .tenant, (arr o 0x2008 16 256).map .tacct]
  else if o < 0x8000 then
    firstReg [(arr o 0x4000 32 256).map .cqCfg, (arr o 0x4008 32 256).map .cqBase, (arr o 0x4010 32 256).map .cqStat]
  else if o < 0x10000 then
    firstReg [(arr o 0x8000 32 1024).map .sqCfg, (arr o 0x8008 32 1024).map .sqBase, (arr o 0x8010 32 1024).map .sqStat]
  else if o < 0x18000 then ptReg ((o - 0x10000) / 0x1000) (o % 0x1000)
  else if o < 0x20000 then none
  else if o < 0x30000 then arReg (o - 0x20000)
  else if o < 0x40000 then none
  else if o < 0x50000 then mvReg ((o - 0x40000) / 0x400) (o % 0x400)
  else if o < 0x80000 then none
  else if o < 0x88000 then (arr o 0x80000 8 4096).map .sfCnt
  else if o < 0x88200 then
    firstReg [(arr o 0x88000 32 16).map .ropeM, (arr o 0x88008 32 16).map .ropeS, (arr o 0x88010 32 16).map .ropeA,
      (arr o 0x88018 32 16).map .ropeP]
  else if o < 0x100000 then farReg o
  else if o < 0x200000 then dbReg ((o - 0x100000) / 0x1000) (o % 0x1000)
  else none

/-- Registers of 64 bits. -/
def Reg.wide : Reg → Bool
  | .stctl => false
  | .hostsec => false
  | .dbgctl => false
  | .irqen => false
  | .msidata => false
  | .fqpend => false
  | .ptCfg _ => false
  | .ptStg _ => false
  | .ptSpillsz _ => false
  | .ptSched _ => false
  | .ptHome _ => false
  | .ptHomest _ => false
  | .ptIssue _ => false
  | .ecnCtrl _ _ => false
  | .ecnStat _ _ => false
  | .arSlot _ _ => false
  | .arTctl _ => false
  | .arPri => false
  | .arCommit => false
  | .arCstat => false
  | .arQos => false
  | .mvRctl _ => false
  | .mvRstat _ => false
  | .mvTctl _ => false
  | .errInf _ _ => false
  | .suspctl _ => false
  | .trInvStat => false
  | .peDir => false
  | .peTmo => false
  | .peFftab _ => false
  | .mbCtl => false
  | .fwver => false
  | .dbTail _ _ => false
  | .dbHead _ _ => false
  | .dbAbort _ => false
  | .dbThaw _ => false
  | .dbResume _ => false
  | .dbSkip _ => false
  | _ => true

/-- The register at a word offset, and whether the word is its high half. -/
def regAt (o : Nat) : Option (Reg × Bool) :=
  match regLo o with
  | some r => some (r, false)
  | none => if 4 ≤ o then (regLo (o - 4)).bind fun r => if r.wide then some (r, true) else none else none

/-! ### What registers read as (R10) -/

/-- A stream waits on a counter. -/
def State.cntWaited (s : State) (key : Nat) : Bool := s.strms.any fun e => e.2.st == .waiting && (match e.2.wait with
  | .counter k _ => k == key
  | .dblCounter k _ _ => k == key
  | _ => false)

/-- A stream waits on a rope line. -/
def State.ropeWaited (s : State) (n : Nat) : Bool := s.strms.any fun e => e.2.st == .waiting && (match e.2.wait with
  | .rope k _ => k == n
  | .dblRope k _ _ => k == n
  | _ => false)

/-- The bits of a predicate on 0 to n − 1. -/
def bitsOf (n : Nat) (f : Nat → Bool) : Nat := ((List.range n).map fun i => b2n (f i) * 2 ^ i).sum

/-- Registers of a partition that the image sets (R169, R188, R190, R242). -/
def Part.cfgWord (x : Part) : Nat := pack [(1, b2n x.en), (1, b2n x.spillEn), (8, x.eten.toNat)]

/-- PT_GRAN. -/
def Part.granWord (x : Part) : Nat :=
  pack [(1, b2n x.qen), (4, x.qglo.toNat), (4, x.qghi.toNat), (7, 0), (1, b2n x.ren), (10, x.rglo.toNat), (5, 0),
    (10, x.rghi.toNat)]

/-- A register with ATTR at bit 1 and a page number at bit 12. -/
def attrBase (en : Bool) (attr : BitVec 2) (base : BitVec 36) : Nat :=
  pack [(1, b2n en), (2, attr.toNat), (9, 0), (36, base.toNat)]

/-- PT_NWIN. -/
def NWin.word (w : NWin) : Nat :=
  pack [(1, b2n w.en), (2, w.port.toNat), (1, b2n w.rd), (1, b2n w.wr), (7, 0), (28, w.base.toNat), (24, w.size.toNat)]

/-- GL_SQ_CFG. -/
def Sq.word (x : Sq) : Nat :=
  pack [(1, b2n x.en), (5, x.log2sz.toNat), (8, x.ten.toNat), (8, x.cq.toNat), (8, x.qout.toNat), (6, x.dbslot.toNat),
    (5, x.pfw.toNat)]

/-- GL_CQ_CFG. -/
def Cq.word (x : Cq) : Nat :=
  pack [(1, b2n x.en), (5, x.log2sz.toNat), (8, x.ten.toNat), (4, x.irq.toNat), (1, b2n x.msi), (4, x.dbslot.toNat)]

/-- GL_CQ_STAT. -/
def Cq.statWord (x : Cq) : Nat :=
  pack [(16, x.tail.toNat), (16, x.head.toNat), (1, b2n x.ph), (1, b2n (x.en && x.statFull))]

/-- PT_FQ_CFG. -/
def Fq.word (x : Fq) : Nat :=
  pack [(1, b2n x.en), (5, x.log2sz.toNat), (4, x.irq.toNat), (1, b2n x.msi), (1, 0), (36, x.base.toNat)]

/-- PT_FQ_STAT. -/
def Fq.statWord (x : Fq) : Nat :=
  pack [(16, x.tail.toNat), (16, x.head.toNat), (1, b2n x.ph), (7, x.held), (16, x.lost.toNat)]

/-- GL_TENANT. -/
def Tenant.word (x : Tenant) : Nat :=
  pack [(1, b2n x.en), (3, x.part.toNat), (1, b2n x.avail), (3, 0), (8, x.gen.toNat), (16, x.weight.toNat), (1, b2n x.cerr)]

/-- PT_FTAB_SLOT. A slot that a LOAD has taken reads STATE 2 until the LOAD completes (log 102). -/
def FSlot.word (x : FSlot) : Nat :=
  pack [(8, x.gen.toNat), (8, x.ten.toNat), (2, if x.gen = 0 then 0 else if x.current then 1 else 2), (1, b2n x.keep),
    (13, 0), (21, x.pins)]

/-- SF_CNT. -/
def Cnt.word (x : Cnt) (waited : Bool) : Nat :=
  pack [(32, x.value.toNat), (2, x.mode.toNat), (4, x.part.toNat), (4, x.arr.toNat), (4, x.next.toNat), (1, b2n x.bound),
    (1, b2n x.ovf), (1, b2n x.unf), (1, b2n x.dent), (1, b2n waited), (8, x.ten.toNat)]

/-- SF_ROPES. -/
def Rope.word (x : Rope) (waited : Bool) : Nat :=
  pack [(32, x.round.toNat), (3, x.part.toNat), (1, b2n x.ext), (1, b2n x.en), (1, b2n x.dent), (1, b2n x.rin),
    (1, b2n x.rout), (1, b2n waited)]

/-- GL_RSTSTAT. -/
def RstEng.word (e : RstEng) : Nat :=
  pack [(1, b2n e.busy), (3, e.unit.toNat), (1, b2n e.sbath), (3, min 4 e.queue.length), (8, e.target.toNat), (1, b2n e.drop),
    (3, e.lunit.toNat), (4, 0), (8, e.ltarget.toNat), (16, e.abnd.toNat), (8, e.qids.toNat)]

/-- GL_PARSTAT. -/
def ParStat.word (x : ParStat) : Nat :=
  pack [(1, b2n x.data), (1, b2n x.recE), (1, b2n x.reg), (1, b2n x.cache), (1, b2n x.beat), (3, 0), (21, x.lroff.toNat),
    (3, 0), (16, x.dcnt.toNat), (16, x.rcnt.toNat)]

/-- GL_STCTL. GO reads 0 (log 23). -/
def Stc.word (x : Stc) : Nat :=
  pack [(3, x.group.toNat), (1, 0), (1, b2n x.busy), (1, b2n x.pass), (1, b2n x.fail), (1, b2n x.drop), (13, x.line.toNat),
    (5, x.fbank.toNat)]

/-- GL_PWRCTL. -/
def Pwr.ctlWord (x : Pwr) : Nat :=
  pack [(1, b2n x.lgen), (1, b2n x.dzen), (12, x.dzidle.toNat), (1, b2n x.rreq), (1, b2n x.pwake), (1, b2n x.swake), (15, 0),
    (16, x.wakem.toNat)]

/-- GL_DBGCTL: its actions read as 0. -/
def Dbg.word (x : Dbg) : Nat := pack [(3, 0), (2, x.scope.toNat), (3, x.state.toNat), (2, x.grant.toNat)]

/-- GL_STRM. -/
def StrmP.word (x : StrmP) : Nat := Machine.pack [(1, b2n x.en), (2, x.pack.toNat), (21, x.sid.toNat), (8, x.ten.toNat)]

/-- GL_STRMSTAT. -/
def StrmP.statWord (x : StrmP) : Nat :=
  Machine.pack [(16, x.frames.toNat), (16, x.ovf.toNat), (16, x.lerr.toNat), (16, x.ferr.toNat)]

/-- AR_TSTAT. -/
def Tab.statWord (x : Tab) : Nat := pack [(8, x.ptr.toNat), (1, b2n x.pend), (7, 0), (8, x.hogc.toNat), (6, x.hogmv.toNat)]

/-- MV_TCTL. -/
def Mover.testWord (v : Mover) : Nat :=
  pack [(1, b2n v.req), (2, v.phase.toNat), (1, b2n v.tpass), (1, b2n v.tfail), (1, b2n v.tdrop)]

/-- MV_CH_ERRINF. -/
def Chan.infWord (h : Chan) : Nat :=
  pack [(1, b2n h.errValid), (1, b2n h.errOvf), (1, b2n h.errDir), (1, b2n h.errWalk), (2, h.errResp.toNat), (2, 0),
    (8, h.errKind.toNat)]

/-- PT_ECN_STAT. -/
def Ecn.statWord (e : Ecn) : Nat := pack [(1, b2n e.busy), (1, b2n e.done), (1, b2n e.err), (5, 0), (8, e.fcode.toNat)]

/-- PE_CFG. -/
def Peer.cfgWord (x : Peer) : Nat :=
  pack [(4, x.chip.toNat), (1, b2n x.en), (5, x.nchip.toNat), (1, b2n x.dl0), (1, b2n x.dl1)]

/-- PE_FFTAB. -/
def FfEnt.word (x : FfEnt) : Nat := pack [(1, b2n x.en), (4, x.chip.toNat), (6, x.mover.toNat), (2, x.ch.toNat)]

/-- PE_STAT. -/
def PeStat.word (x : PeStat) : Nat := pack [(16, x.crce.toNat), (16, x.fwdcrc.toNat), (16, x.loss.toNat), (16, x.drop.toNat)]

/-- MG_MBCTL. GO reads 0 (log 23). -/
def Mg.ctlWord (g : Mg) : Nat :=
  pack [(1, 0), (1, b2n g.busy), (1, b2n g.done), (1, b2n g.drop), (1, b2n g.ien), (3, 0), (4, g.status.toNat)]

/-- The shadow's word w of a table (R265). -/
def Tab.slotWord (x : Tab) (w : Nat) : Nat := pack ((List.range 8).map fun j => (4, (x.shadow.get 0 (8 * w + j)).toNat))

/-- The current value of a register. -/
def State.regVal (s : State) : Reg → Nat
  | .glId => idWord
  | .imgcfg => s.boot.imgcfg.toNat
  | .bootstat => s.bootWord
  | .rst => 0
  | .esc => s.escWord
  | .rststat p => (s.rstE p).word
  | .parstat => s.par.word
  | .stctl => s.stc.word
  | .granret k => bitsOf 64 fun j => s.granRet.get false (64 * k + j)
  | .pwrctl => s.pwr.ctlWord
  | .pwrstat => s.pwrWord
  | .pwrgate => bitsOf 64 fun m => (s.mover m).gated
  | .hostsec => pack [(1, b2n s.hsec.priven), (1, b2n s.hsec.viol), (14, 0), (16, s.hsec.vcnt.toNat)]
  | .dbgctl => s.dbg.word
  | .dbgchal k => fld s.dbg.chal.toNat (64 * k) 64
  | .dbgresp _ => 0
  | .irqen => s.irq.en.toNat
  | .irqmap => pack [(4, s.irq.parirq.toNat), (4, s.irq.mbirq.toNat), (32, s.irq.ecnirq.toNat)]
  | .msiaddr => 4 * s.irq.msiaddr.toNat
  | .msidata => s.irq.msidata.toNat
  | .cqpend k => bitsOf 64 fun j => (s.cq (64 * k + j)).pend
  | .fqpend => bitsOf 8 fun p => (s.part p).fq.pend
  | .strm d => (s.strmP d).word
  | .strmstat d => (s.strmP d).statWord
  | .tenant t => (s.ten t).word
  | .tacct t => (s.ten t).cyc.toNat
  | .cqCfg c => (s.cq c).word
  | .cqBase c => 4096 * (s.cq c).base.toNat
  | .cqStat c => (s.cq c).statWord
  | .sqCfg q => (s.sq q).word
  | .sqBase q => 4096 * (s.sq q).base.toNat
  | .sqStat q => pack [(16, (s.sq q).head.toNat), (16, (s.sq q).tail.toNat), (8, (s.sq q).outst.toNat),
      (4, stCode (s.strmAt q).st)]
  | .ptCfg p => (s.part p).cfgWord
  | .ptMvmask p => (s.part p).mvmask.toNat
  | .ptStg p => pack [(10, (s.part p).pfa.toNat), (6, 0), (10, (s.part p).bsa.toNat)]
  | .ptGran p => (s.part p).granWord
  | .ptSpill p => attrBase false (s.part p).spillAttr (s.part p).spillBase
  | .ptSpillsz p => (s.part p).spillSz.toNat
  | .ptGlac p => attrBase false (s.part p).glacAttr (s.part p).glacBase
  | .ptGlacn p => pack [(20, (s.part p).gfirst.toNat), (21, (s.part p).gcnt.toNat)]
  | .ptSched p => (s.part p).quantum.toNat
  | .ptHome _ => 0
  | .ptHomest p => b2n (s.part p).homeDrop
  | .ptIssue p => (s.part p).issue.toNat
  | .ptNwin p k => ((s.part p).nwin.get NWin.reset k).word
  | .ptEcnLo p => attrBase (s.part p).ecnEn (s.part p).ecnAttr (s.part p).ecnLo
  | .ptEcnHi p => 4096 * (s.part p).ecnHi.toNat
  | .fqCfg p => (s.part p).fq.word
  | .fqStat p => (s.part p).fq.statWord
  | .fqHead _ => 0
  | .ftabSlot p n => ((s.part p).ftab.get FSlot.reset n).word
  | .ecnCtrl p n => let e := s.ecnCh (8 * p + n); pack [(1, b2n e.busy), (1, b2n e.abort), (1, b2n e.iena)]
  | .ecnStat p n => (s.ecnCh (8 * p + n)).statWord
  | .ecnDesc p n => 32 * (s.ecnCh (8 * p + n)).desc.toNat
  | .ecnCur p n => (s.ecnCh (8 * p + n)).cur.toNat
  | .arSlot t w => (s.tab t).slotWord w
  | .arTctl t => b2n (s.tab t).lock
  | .arTstat t => (s.tab t).statWord
  | .arPri => s.arb.pri.toNat
  | .arQuota => s.arb.quota.toNat
  | .arCommit => 0
  | .arCstat => pack [(1, b2n s.arb.pend), (1, b2n s.arb.drop), (1, b2n s.arb.cerr)]
  | .arQos => s.arb.qos.toNat
  | .arTrkF p => (s.part p).trkF.toNat
  | .arTrkN p => (s.part p).trkN.toNat
  | .mvRctl m => pack [(1, b2n (s.mover m).solo), (8, (s.mover m).solot.toNat)]
  | .mvRstat m => pack [(1, b2n (s.mover m).oos), (1, b2n (s.mover m).hang), (1, b2n (s.mover m).testf)]
  | .mvTctl m => (s.mover m).testWord
  | .errVa m n => (s.ch m n).errva.toNat
  | .errPa m n => (s.ch m n).errpa.toNat
  | .errInf m n => (s.ch m n).infWord
  | .susp m k => pack ((List.range 8).map fun j => (8, ((s.mover m).susp.getD (8 * k + j) 0).toNat))
  | .suspctl m => pack [(1, 0), (7, (s.mover m).susp.length), (1, b2n (s.mover m).sovf), (1, b2n (s.mover m).froz)]
  | .sfCnt key => (s.cnt key).word (s.cntWaited key)
  | .ropeM n => (s.rope n).mmask.toNat
  | .ropeS n => (s.rope n).word (s.ropeWaited n)
  | .ropeA n => (s.rope n).arr.toNat
  | .ropeP n => (s.rope n).pend.toNat
  | .trRoot t => attrBase (s.ten t).rootEn (s.ten t).wattr (s.ten t).root
  | .trInv => 0
  | .trInvStat => pack [(1, b2n s.inv.busy), (1, b2n s.inv.drop)]
  | .peCfg => s.peer.cfgWord
  | .peDir => s.peer.dir.toNat
  | .peTmo => s.peer.tmo.toNat
  | .peStat n => (s.peer.stat.get PeStat.reset n).word
  | .peFftab k => (s.peer.fftab.get FfEnt.reset k).word
  | .mbReq k => (s.mg.mbreq.get 0 k).toNat
  | .mbCtl => s.mg.ctlWord
  | .mbRsp k => (s.mg.mbrsp.get 0 k).toNat
  | .fwver => s.fwWord
  | .csaddr => pack [(1, b2n s.mg.csEn), (5, 0), (42, s.mg.csAddr.toNat)]
  | .logstat => pack [(24, s.mg.nseq.toNat), (24, s.mg.mseq.toNat), (16, s.mg.lost.toNat)]
  | .dbTail _ _ => 0
  | .dbHead _ _ => 0
  | .dbAbort _ => 0
  | .dbThaw _ => 0
  | .dbResume _ => 0
  | .dbSkip _ => 0

/-! ### Host writes (R10, R426, R453) -/

/-- W1C of a field of bits: each 1 written clears its bit. -/
def w1c {w : Nat} (x : BitVec w) (v lo : Nat) : BitVec w := x &&& ~~~(BitVec.ofNat w (fld v lo w))

/-- W1C of a flag. -/
def w1cb (x : Bool) (v i : Nat) : Bool := x && !bit v i

/-- GL_PWRCTL: the settings, then RREQ (R379, R382). -/
def State.pwrctlOp (s : State) (v : Nat) : State :=
  let s1 : State := { s with pwr := { s.pwr with
    lgen := bit v 0
    dzen := bit v 1
    dzidle := BitVec.ofNat 12 (fld v 2 12)
    pwake := bit v 15
    swake := bit v 16
    wakem := BitVec.ofNat 16 (fld v 32 16) } }
  let s2 := if bit v 0 then s1 else (s1.movers.map (·.1)).foldl State.ungate s1
  if bit v 14 then s2.retainReq else s2

/-- GL_DBGCTL: SCOPE, then the actions in the order of their bits. -/
def State.dbgctlOp (s : State) (v : Nat) : State :=
  let s1 := s.scopeOp (BitVec.ofNat 2 (fld v 3 2))
  let s2 := if bit v 0 then s1.chreqOp else s1
  let s3 := if bit v 1 then s2.vgoOp else s2
  if bit v 2 then s3.relockOp else s3

/-- GL_DBGRESP k. -/
def State.dbgrespOp (s : State) (k v : Nat) : State :=
  let old := s.dbg.resp.toNat
  let new := old - fld old (64 * k) 64 * 2 ^ (64 * k) + v % 2 ^ 64 * 2 ^ (64 * k)
  { s with dbg := { s.dbg with resp := BitVec.ofNat 1024 new } }

/-- GL_STCTL: GROUP, the flags, then GO. -/
def State.stctlOp (s : State) (v : Nat) : State :=
  let s1 : State := { s with stc := { s.stc with
    group := if s.stc.busy then s.stc.group else BitVec.ofNat 3 (fld v 0 3)
    pass := w1cb s.stc.pass v 5
    fail := w1cb s.stc.fail v 6
    drop := w1cb s.stc.drop v 7 } }
  if bit v 3 then s1.stGoOp s1.stc.group.toNat else s1

/-- MV_TCTL: the flags, then REQ. -/
def State.tctlOp (s : State) (m v : Nat) : State :=
  let s1 := s.modMover m fun x => { x with tpass := w1cb x.tpass v 3, tfail := w1cb x.tfail v 4, tdrop := w1cb x.tdrop v 5 }
  if bit v 0 then s1.testReqOp m else s1

/-- PT_ECN_CTRL: IENA, then START, then ABORT. -/
def State.ecnCtrlOp (s : State) (p n v : Nat) : State :=
  let s1 := s.modEcnCh (8 * p + n) fun e => { e with iena := bit v 2 }
  let s2 := if bit v 0 then s1.ecnStartOp p n else s1
  if bit v 1 then s2.ecnAbortOp p n else s2

/-- TR_ROOT: while EN is 1, only EN may be written. WATTR 3 is a reserved encoding: it leaves EN at 0 and is not stored
(R7, R184). -/
def State.rootOp (s : State) (t v : Nat) : State :=
  s.modTen t fun x =>
    if x.rootEn then { x with rootEn := bit v 0 }
    else { x with
      rootEn := bit v 0 && fld v 1 2 != 3
      wattr := if fld v 1 2 = 3 then x.wattr else BitVec.ofNat 2 (fld v 1 2)
      root := BitVec.ofNat 36 (fld v 12 36) }

/-- TR_INV, by its SCOPE; 3 is ignored. -/
def State.trInvOp (s : State) (v : Nat) : State :=
  let t := BitVec.ofNat 8 (fld v 48 8)
  match fld v 56 2 with
  | 0 => s.invOp (.tenant t)
  | 1 => s.invOp (.page t (fld v 12 36 * 4096))
  | 2 => s.invOp .all
  | _ => s

/-- SF_CNT: the flags, and CLR (R229). -/
def State.sfCntOp (s : State) (key v : Nat) : State :=
  let s1 := s.modCnt key fun x => { x with ovf := w1cb x.ovf v 47, unf := w1cb x.unf v 48, dent := w1cb x.dent v 49 }
  if bit v 63 then s1.cntClearOp (key / 64) (key % 64) else s1

/-- MG_MBCTL: IEN and the flags, then GO. -/
def State.mbctlOp (s : State) (v : Nat) : State :=
  let s1 : State := { s with mg := { s.mg with
    ien := bit v 4
    done := w1cb s.mg.done v 2
    drop := w1cb s.mg.drop v 3 } }
  if bit v 0 then s1.mbGo else s1

/-- AR_SLOT word w of table t goes into the shadow, unless the table is locked. -/
def State.arSlotOp (s : State) (t w v : Nat) : State :=
  s.modTab t fun x => if x.lock then x else
    { x with shadow := (List.range 8).foldl (fun m j => m.put 0 (8 * w + j) (BitVec.ofNat 4 (fld v (4 * j) 4))) x.shadow }

/-- A write of all of a register. -/
def State.regWrite (s : State) (r : Reg) (v : Nat) : State :=
  let v64 := BitVec.ofNat 64 v
  match r with
  | .rst => s.requestReset (fld v 0 3) (fld v 8 8) (bit v 3)
  | .esc => { s with esc := { s.esc with drop := w1cb s.esc.drop v 12, raised := w1cb s.esc.raised v 13 } }
  | .rststat p => s.modRstE p fun e => { e with drop := w1cb e.drop v 16 }
  | .parstat => { s with par := { s.par with
      data := w1cb s.par.data v 0, recE := w1cb s.par.recE v 1, reg := w1cb s.par.reg v 2, cache := w1cb s.par.cache v 3,
      beat := w1cb s.par.beat v 4 } }
  | .stctl => s.stctlOp v
  | .pwrctl => s.pwrctlOp v
  | .pwrstat => { s with pwr := { s.pwr with canc := w1cb s.pwr.canc v 3, drop := w1cb s.pwr.drop v 4 } }
  | .hostsec => { s with hsec := { s.hsec with priven := s.hsec.priven || bit v 0, viol := w1cb s.hsec.viol v 1 } }
  | .dbgctl => s.dbgctlOp v
  | .dbgresp k => s.dbgrespOp k v
  | .irqen => { s with irq := { s.irq with en := BitVec.ofNat 16 v } }
  | .irqmap => { s with irq := { s.irq with
      parirq := BitVec.ofNat 4 (fld v 0 4), mbirq := BitVec.ofNat 4 (fld v 4 4), ecnirq := BitVec.ofNat 32 (fld v 8 32) } }
  | .msiaddr => { s with irq := { s.irq with msiaddr := BitVec.ofNat 46 (fld v 2 46) } }
  | .msidata => { s with irq := { s.irq with msidata := BitVec.ofNat 32 v } }
  | .cqpend k => ((List.range 64).filter (bit v)).foldl (fun st j =>
      st.modCq (64 * k + j) fun q => { q with pend := false }) s
  | .fqpend => ((List.range 8).filter (bit v)).foldl (fun st p =>
      st.modPart p fun x => { x with fq := { x.fq with pend := false } }) s
  | .strm d => s.strmBindOp d v64
  | .strmstat d => s.modStrmP d fun q => { q with
      frames := w1c q.frames v 0, ovf := w1c q.ovf v 16, lerr := w1c q.lerr v 32, ferr := w1c q.ferr v 48 }
  | .tenant t => s.tenantOp t v64
  | .cqCfg c => s.cqCfgOp c v64
  | .cqBase c => s.modCq c fun q => if q.en then q else { q with base := BitVec.ofNat 36 (fld v 12 36) }
  | .sqCfg q => s.sqCfgOp q v64
  | .sqBase q => s.modSq q fun x => if x.en then x else { x with base := BitVec.ofNat 36 (fld v 12 36) }
  | .ptSched p => s.modPart p fun x => { x with quantum := BitVec.ofNat 24 v }
  | .ptHome p => s.homeOp p (BitVec.ofNat 32 v)
  | .ptHomest p => s.modPart p fun x => { x with homeDrop := w1cb x.homeDrop v 0 }
  | .fqCfg p => s.fqCfgOp p v64
  | .fqStat p => s.modPart p fun x => { x with fq := { x.fq with lost := w1c x.fq.lost v 40 } }
  | .fqHead p => s.fqHeadOp p (BitVec.ofNat 16 v)
  | .ecnCtrl p n => s.ecnCtrlOp p n v
  | .ecnStat p n => s.modEcnCh (8 * p + n) fun e => { e with done := w1cb e.done v 1, err := w1cb e.err v 2 }
  | .ecnDesc p n => s.modEcnCh (8 * p + n) fun e => { e with desc := BitVec.ofNat 43 (fld v 5 43) }
  | .arSlot t w => s.arSlotOp t w v
  | .arTstat t => s.modTab t fun x => { x with hogc := w1c x.hogc v 16 }
  | .arPri => { s with arb := { s.arb with pri := BitVec.ofNat 32 v } }
  | .arQuota => { s with arb := { s.arb with quota := v64 } }
  | .arCommit => if bit v 0 then s.commitOp else s
  | .arCstat => { s with arb := { s.arb with drop := w1cb s.arb.drop v 1, cerr := w1cb s.arb.cerr v 2 } }
  | .mvRctl m => s.soloOp m (BitVec.ofNat 32 v)
  | .mvTctl m => s.tctlOp m v
  | .errInf m n => s.modCh m n fun h => { h with errValid := w1cb h.errValid v 0, errOvf := w1cb h.errOvf v 1 }
  | .suspctl m => if bit v 0 then s.suspClearOp m else s
  | .sfCnt key => s.sfCntOp key v
  | .ropeS n => s.modRope n fun x => { x with dent := w1cb x.dent v 37 }
  | .trRoot t => s.rootOp t v
  | .trInv => s.trInvOp v
  | .trInvStat => { s with inv := { s.inv with drop := w1cb s.inv.drop v 1 } }
  | .peTmo => if 16 ≤ fld v 0 5 ∧ fld v 0 5 ≤ 30 then { s with peer := { s.peer with tmo := BitVec.ofNat 5 v } } else s
  | .peStat n => s.modStat n fun x => { x with
      crce := w1c x.crce v 0, fwdcrc := w1c x.fwdcrc v 16, loss := w1c x.loss v 32, drop := w1c x.drop v 48 }
  | .mbReq k => if s.mg.busy then s else { s with mg := { s.mg with mbreq := s.mg.mbreq.put 0 k v64 } }
  | .mbCtl => s.mbctlOp v
  | .csaddr => { s with mg := { s.mg with csEn := bit v 0, csAddr := BitVec.ofNat 42 (fld v 6 42) } }
  | .logstat => { s with mg := { s.mg with lost := w1c s.mg.lost v 48 } }
  | .dbTail t k => s.inPage t fun u => u.sqTailOp t k (fld v 0 16)
  | .dbHead t k => s.inPage t fun u => u.cqHeadOp t k (fld v 0 16)
  | .dbAbort t => s.inNamed t (fld v 0 21) fun u => u.abortOp (fld v 0 21)
  | .dbThaw t => s.inNamed t (fld v 0 21) fun u => u.thawOp (fld v 0 21)
  | .dbResume t => s.inNamed t (fld v 0 21) fun u => u.resumeOp (fld v 0 21)
  | .dbSkip t => s.inNamed t (fld v 0 21) fun u => u.skipHalted (fld v 0 21)
  -- registers of RO and IMG fields alone
  | .glId => s
  | .imgcfg => s
  | .bootstat => s
  | .granret _ => s
  | .pwrgate => s
  | .dbgchal _ => s
  | .tacct _ => s
  | .cqStat _ => s
  | .sqStat _ => s
  | .ptCfg _ => s
  | .ptMvmask _ => s
  | .ptStg _ => s
  | .ptGran _ => s
  | .ptSpill _ => s
  | .ptSpillsz _ => s
  | .ptGlac _ => s
  | .ptGlacn _ => s
  | .ptIssue _ => s
  | .ptNwin _ _ => s
  | .ptEcnLo _ => s
  | .ptEcnHi _ => s
  | .ftabSlot _ _ => s
  | .ecnCur _ _ => s
  | .arTctl _ => s
  | .arQos => s
  | .arTrkF _ => s
  | .arTrkN _ => s
  | .mvRstat _ => s
  | .errVa _ _ => s
  | .errPa _ _ => s
  | .susp _ _ => s
  | .ropeM _ => s
  | .ropeA _ => s
  | .ropeP _ => s
  | .peCfg => s
  | .peDir => s
  | .peFftab _ => s
  | .mbRsp _ => s
  | .fwver => s

/-- The low half that a write of the high half alone leaves in force: RW and CMT fields keep their values, and W1C, W1S
and WO fields do not act. -/
def State.keepLow (s : State) (r : Reg) : Nat :=
  let low := s.regVal r % 2 ^ 32
  match r with
  | .irqmap => low
  | .msiaddr => low
  | .strm _ => low
  | .tenant _ => low
  | .cqCfg _ => low
  | .cqBase _ => low
  | .sqCfg _ => low
  | .sqBase _ => low
  | .fqCfg _ => low
  | .ecnDesc _ _ => low
  | .arQuota => low
  | .trRoot _ => low
  | .mbReq _ => low
  | .csaddr => low
  | .pwrctl => low - fld low 14 1 * 2 ^ 14
  | .dbgresp k => fld s.dbg.resp.toNat (64 * k) 32
  | _ => 0

/-- A write of the high half alone. PT_FQ_HEAD holds nothing there, and its low half does not act. -/
def State.writeHigh (s : State) (r : Reg) (v : BitVec 32) : State := match r with
  | .fqHead _ => s
  | _ => s.regWrite r (s.keepLow r + 2 ^ 32 * v.toNat)

/-- A word write that the port performs, at a word offset. -/
def State.wordWrite (s : State) (o : Nat) (r : Reg) (hi : Bool) (v : BitVec 32) : State :=
  let h := s.host.held
  let s1 : State := { s with host := { s.host with held := none } }
  if hi then
    match h with
    | some (a, low) => if a + 4 = o then s1.regWrite r (low.toNat + 2 ^ 32 * v.toNat) else s1.writeHigh r v
    | none => s1.writeHigh r v
  else if r.wide then { s with host := { s.host with held := some (o, v) } }
  else s1.regWrite r v.toNat

/-! ### The HOST port (R392, R426) -/

/-- An unprivileged access below the doorbell pages is refused under PRIVEN. -/
def State.privBars (s : State) (o : Nat) (priv : Bool) : Bool := s.hsec.priven && !priv && decide (o < 0x100000)

/-- A refused access is counted. -/
def State.violate (s : State) : State :=
  { s with hsec := { s.hsec with
      viol := true
      vcnt := satInc s.hsec.vcnt } }

/-- REGISTER_WRITE. -/
def State.hostWordWrite (s : State) (off : BitVec 21) (v : BitVec 32) (strb : BitVec 4) (priv : Bool) : State :=
  let o := off.toNat / 4 * 4
  s.hostDo (.registerWrite off v strb priv) fun u =>
    if u.privBars o priv then u.violate
    else if strb != 0xF then u
    else match regAt o with
      | none => u
      | some (r, hi) => u.wordWrite o r hi v

/-- A word read that the port performs: the value, and the read latch. -/
def State.wordRead (s : State) (o : Nat) (r : Reg) (hi : Bool) : State :=
  let v := s.regVal r
  let give := fun (x : BitVec 32) (l : Option (Nat × BitVec 32)) =>
    { s with host := { s.host with
        rdata := x
        latch := l } }
  let high := BitVec.ofNat 32 (v / 2 ^ 32)
  if hi then
    match s.host.latch with
    | some (a, x) => if a + 4 = o then give x none else give high s.host.latch
    | none => give high none
  else give (BitVec.ofNat 32 v) (if r.wide then some (o, high) else s.host.latch)

/-- A read that returns 0. -/
def State.readZero (s : State) : State := { s with host := { s.host with rdata := 0 } }

/-- Registers that HOST answers before RUN (R335). -/
def Reg.early : Reg → Bool
  | .glId => true
  | .bootstat => true
  | _ => false

/-- Registers that HOST answers in DRAIN, RETAIN and WAKE (R384). -/
def Reg.prompt : Reg → Bool
  | .glId => true
  | .bootstat => true
  | .esc => true
  | .pwrstat => true
  | .pwrgate => true
  | _ => false


/-- REGISTER_READ: the data goes to the port. In DRAIN, RETAIN and WAKE the registers of `prompt` answer at once, whatever
AxPROT, behind a held read only (R384, R392). -/
def State.hostWordRead (s : State) (off : BitVec 21) (priv : Bool) : State :=
  let o := off.toNat / 4 * 4
  if s.pwr.off || s.pins.host || s.pins.aon then s
  else
    let early := (regAt o).any fun e => e.1.early
    let prompt := (regAt o).any fun e => e.1.prompt
    let get := fun (u : State) => match regAt o with
      | none => u.readZero
      | some (r, hi) => u.wordRead o r hi
    if s.inRun = false then (if early then get s else s.readZero)
    else if 3 ≤ s.pwr.state.toNat ∧ prompt = true ∧ s.host.wait.all (fun c => !isRead c) = true then get s
    else if s.hostHeld then s.hostHold (.registerRead off priv)
    else
      let u := s.drainCancel
      if u.privBars o priv then u.violate.readZero
      else get u

/-! ### The events -/

/-- A host write (R426). -/
def execRegisterWrite (off : BitVec 21) (v : BitVec 32) (strb : BitVec 4) (priv : Bool) (s : State) :
    Host.Outcome State Fault Refusal := .next (s.hostWordWrite off v strb priv)

/-- A host read (R426). -/
def execRegisterRead (off : BitVec 21) (priv : Bool) (s : State) : Host.Outcome State Fault Refusal :=
  .next (s.hostWordRead off priv)

end Sys2Proof.Machine
end

