-- ==== Sys2Proof/Machine/Parity.lean ====
section
/-! DEFINITION. Parity of stream records and registers: the scrub (R365 to R368), a register byte that fails (R369), and the
restore at the end of the wake from RETAIN, which reads the saved registers back (R384). -/

namespace Sys2Proof.Machine

/-! ### The scrub (R368) -/

/-- The next record that the scrub reads, from ID `n` on: those of retired granules are skipped. -/
def State.scrubNext (s : State) (n : Nat) : Nat :=
  if s.retired (n / 64) then
    match (List.range 640).find? fun g => decide (n / 64 < g) && !s.retired g with
    | some g => 64 * g
    | none => glacBase
  else n

/-- SCRUB_READ of the next record, which passes or fails its parity. The scrub goes on in DOZE (R378, R381). -/
def State.scrubReadOp (s : State) (parity : Bool) : State :=
  let n := s.scrubNext s.scrub
  if s.inRun = false ∨ s.clocked = false ∨ glacBase ≤ n then s
  else
    let s1 := { s with scrub := n + 1 }
    if parity || (s1.strmAt n).bad != 0 then s1.recordParity n else s1

/-- SCRUB_PASS: a new pass begins. -/
def State.scrubPassOp (s : State) : State := if s.clocked then { s with scrub := 0 } else s

/-! ### Registers (R369) -/

/-- Class of a register: who holds its content. -/
inductive RegClass where
  | image
  | tenant (t : Nat)
  | part (p : Nat)
  | other
deriving DecidableEq, Repr

/-- The class of a word of a register; a queue or counter in use has its tenant as owner, and SF_ROPES divides between its
halves. `alt` names the second of two things at one offset: of GL_TENANT the IMG fields PART and AVAIL beside the
tenant-held EN and WEIGHT, of AR_SLOT, AR_PRI and AR_QUOTA the uncommitted shadow beside the live value. -/
def State.regClass (s : State) (r : Reg) (hi alt : Bool) : RegClass := match r with
  | .imgcfg => .image
  | .ptCfg _ => .image
  | .ptMvmask _ => .image
  | .ptStg _ => .image
  | .ptGran _ => .image
  | .ptSpill _ => .image
  | .ptSpillsz _ => .image
  | .ptGlac _ => .image
  | .ptGlacn _ => .image
  | .ptIssue _ => .image
  | .ptNwin _ _ => .image
  | .ptEcnLo _ => .image
  | .ptEcnHi _ => .image
  | .arSlot _ _ => if alt then .other else .image
  | .arTctl _ => .image
  | .arPri => if alt then .other else .image
  | .arQuota => if alt then .other else .image
  | .arQos => .image
  | .arTrkF _ => .image
  | .arTrkN _ => .image
  | .ropeM _ => .image
  | .peCfg => .image
  | .peDir => .image
  | .peFftab _ => .image
  | .ropeS n => if hi then .image else .part (s.rope n).part.toNat
  | .ropeA n => .part (s.rope n).part.toNat
  | .ropeP n => .part (s.rope n).part.toNat
  | .ftabSlot p _ => .part p
  | .tenant t => if alt then .image else .tenant t
  | .tacct t => .tenant t
  | .trRoot t => .tenant t
  | .sqCfg q => if (s.sq q).en then .tenant (s.sq q).ten.toNat else .other
  | .sqBase q => if (s.sq q).en then .tenant (s.sq q).ten.toNat else .other
  | .sqStat q => if (s.sq q).en then .tenant (s.sq q).ten.toNat else .other
  | .cqCfg c => if (s.cq c).en then .tenant (s.cq c).ten.toNat else .other
  | .cqBase c => if (s.cq c).en then .tenant (s.cq c).ten.toNat else .other
  | .cqStat c => if (s.cq c).en then .tenant (s.cq c).ten.toNat else .other
  | .sfCnt k => if (s.cnt k).bound then .tenant (s.cnt k).ten.toNat else .other
  | _ => .other

/-- A 64-bit piece of a wide register returns to 0. -/
def clear64 {w : Nat} (x : BitVec w) (k : Nat) : BitVec w := x &&& ~~~(BitVec.ofNat w ((2 ^ 64 - 1) * 2 ^ (64 * k)))

/-- Word w of a table's rota, eight slots, returns to its reset value. -/
def rotaClear (m : SMap (BitVec 4)) (w : Nat) : SMap (BitVec 4) :=
  (List.range 8).foldl (fun q j => q.put 0 (8 * w + j) 0) m

/-- A register of the class `other`, or an uncommitted shadow value, returns to its reset value. Fields that report where a
reset, the power state or start stands now stay: they hold nothing of their own. -/
def State.regReset (s : State) (r : Reg) : State := match r with
  | .bootstat => { s with boot := { s.boot with slot := false, fallbk := false, faila := 0, failb := 0, scridx := 0, seq := 0 } }
  | .esc => { s with esc := { s.esc with
      drop := false, raised := false, runit := 0, rtgt := 0, last := 0, hist := [] } }
  | .rststat p => s.modRstE p fun e => { e with drop := false, lunit := 0, ltarget := 0, abnd := 0 }
  | .parstat => { s with par := ParStat.reset }
  | .stctl => { s with stc := Stc.reset }
  | .granret k => { s with granRet := s.granRet.filter fun e => e.1 / 64 != k }
  | .pwrctl => { s with pwr := { s.pwr with
      lgen := true, dzen := false, dzidle := 0x010, pwake := false, swake := false, wakem := 0 } }
  | .pwrstat => { s with pwr := { s.pwr with canc := false, drop := false, lwake := 0, dzcnt := 0 } }
  | .hostsec => { s with hsec := { priven := false, viol := false, vcnt := 0 } }
  | .dbgctl => { s with dbg := { s.dbg with scope := 0, state := 0, grant := 0 } }
  | .dbgchal k => { s with dbg := { s.dbg with chal := clear64 s.dbg.chal k } }
  | .dbgresp k => { s with dbg := { s.dbg with resp := clear64 s.dbg.resp k } }
  | .irqen => { s with irq := { s.irq with en := 0 } }
  | .irqmap => { s with irq := { s.irq with parirq := 0, mbirq := 0, ecnirq := 0 } }
  | .msiaddr => { s with irq := { s.irq with msiaddr := 0 } }
  | .msidata => { s with irq := { s.irq with msidata := 0 } }
  | .cqpend k => (List.range 64).foldl (fun st j => st.modCq (64 * k + j) fun q => { q with pend := false }) s
  | .fqpend => (List.range 8).foldl (fun st p => st.modPart p fun x => { x with fq := { x.fq with pend := false } }) s
  | .strm d => s.modStrmP d fun q => { StrmP.reset with frames := q.frames, ovf := q.ovf, lerr := q.lerr, ferr := q.ferr }
  | .strmstat d => s.modStrmP d fun q => { q with frames := 0, ovf := 0, lerr := 0, ferr := 0 }
  | .cqCfg c => s.modCq c fun q => { q with en := false, log2sz := 0, ten := 0, irq := 0, msi := false, dbslot := 0 }
  | .cqBase c => s.modCq c fun q => { q with base := 0 }
  | .cqStat c => s.modCq c fun q => { q with tail := 0, head := 0, ph := true }
  | .sqCfg k => s.modSq k fun q => { q with en := false, log2sz := 0, ten := 0, cq := 0, qout := 0, dbslot := 0, pfw := 0 }
  | .sqBase k => s.modSq k fun q => { q with base := 0 }
  | .sqStat k => s.modSq k fun q => { q with head := 0, tail := 0, outst := 0 }
  | .ptSched p => s.modPart p fun x => { x with quantum := Part.reset.quantum }
  | .ptHomest p => s.modPart p fun x => { x with homeDrop := false }
  | .fqCfg p => (s.fqCfgOp p 0).fqCfgOp p 0
  | .fqStat p => s.modPart p fun x => { x with fq := { x.fq with tail := 0, head := 0, ph := false, lost := 0 } }
  | .ecnCtrl p n => s.modEcnCh (8 * p + n) fun e => { e with iena := false }
  | .ecnStat p n => s.modEcnCh (8 * p + n) fun e => { e with done := false, err := false, fcode := 0 }
  | .ecnDesc p n => s.modEcnCh (8 * p + n) fun e => { e with desc := 0 }
  | .ecnCur p n => s.modEcnCh (8 * p + n) fun e => { e with cur := 0 }
  | .arTstat t => s.modTab t fun x => { x with hogc := 0, hogmv := 0 }
  | .arCstat => { s with arb := { s.arb with drop := false, cerr := false } }
  | .mvRctl m => s.soloOp m 0
  | .mvRstat m => s.modMover m fun v => { v with oos := false, hang := false, testf := false }
  | .mvTctl m =>
    (s.modMover m fun v => { v with req := false, phase := 0, tpass := false, tfail := false, tdrop := false }).rehome m
  | .errVa m n => s.modCh m n fun h => { h with errva := 0 }
  | .errPa m n => s.modCh m n fun h => { h with errpa := 0 }
  | .errInf m n => s.modCh m n fun h => { h with
      errValid := false, errOvf := false, errDir := false, errWalk := false, errResp := 0, errKind := 0 }
  | .susp m k => s.modMover m fun v => { v with susp := v.susp.zipIdx.map fun e => if e.2 / 8 = k then 0 else e.1 }
  | .suspctl m => s.suspClearOp m
  | .sfCnt k => s.setCnt k Cnt.reset
  | .trInvStat => { s with inv := { s.inv with drop := false } }
  | .peTmo => { s with peer := { s.peer with tmo := Peer.reset.tmo } }
  | .peStat n => s.modStat n fun _ => PeStat.reset
  | .mbReq k => { s with mg := { s.mg with mbreq := s.mg.mbreq.put 0 k 0 } }
  | .mbCtl => { s with mg := { s.mg with done := false, drop := false, ien := false, status := 0 } }
  | .mbRsp k => { s with mg := { s.mg with mbrsp := s.mg.mbrsp.put 0 k 0 } }
  | .csaddr => { s with mg := { s.mg with csEn := false, csAddr := 0 } }
  | .logstat => { s with mg := { s.mg with nseq := 0, mseq := 0, lost := 0 } }
  | .fwver => { s with mg := { s.mg with fwver := 0, fwres := false } }
  | .arSlot t w => s.modTab t fun x => { x with shadow := rotaClear x.shadow w }
  | .arPri => { s with arb := { s.arb with pri := 0 } }
  | .arQuota => { s with arb := { s.arb with quota := quotaReset } }
  -- registers that hold nothing of their own, and those of the other classes
  | .glId => s
  | .imgcfg => s
  | .rst => s
  | .pwrgate => s
  | .tenant _ => s
  | .tacct _ => s
  | .ptCfg _ => s
  | .ptMvmask _ => s
  | .ptStg _ => s
  | .ptGran _ => s
  | .ptSpill _ => s
  | .ptSpillsz _ => s
  | .ptGlac _ => s
  | .ptGlacn _ => s
  | .ptHome _ => s
  | .ptIssue _ => s
  | .ptNwin _ _ => s
  | .ptEcnLo _ => s
  | .ptEcnHi _ => s
  | .fqHead _ => s
  | .ftabSlot _ _ => s
  | .arTctl _ => s
  | .arCommit => s
  | .arQos => s
  | .arTrkF _ => s
  | .arTrkN _ => s
  | .ropeM _ => s
  | .ropeS _ => s
  | .ropeA _ => s
  | .ropeP _ => s
  | .trRoot _ => s
  | .trInv => s
  | .peCfg => s
  | .peDir => s
  | .peFftab _ => s
  | .dbTail _ _ => s
  | .dbHead _ _ => s
  | .dbAbort _ => s
  | .dbThaw _ => s
  | .dbResume _ => s
  | .dbSkip _ => s

/-- A byte of the register at a window offset fails parity: the register's own offset is recorded (R370), and its class
decides what follows. The copy of an image-held register, which the management core keeps, may fail as well. -/
def State.regParityOp (s : State) (off : BitVec 21) (copyBad alt : Bool) : State :=
  match regAt (off.toNat / 4 * 4) with
  | none => s
  | some (r, hi) =>
    let c := s.regClass r hi alt
    let ro := off.toNat / 4 * 4 - (if hi then 4 else 0)
    let s1 := if c = .other then s.regReset r else s
    let s2 := { s1 with par := { s1.par with
      reg := true
      lroff := BitVec.ofNat 21 ro } }.logEvent 0x22 0xFF ro
    match c with
    | .image => if copyBad then s2.requestReset 4 0 true else s2
    | .tenant t => if (s2.ten t).avail then s2.requestReset 1 t true else s2
    | .part p => if (s2.part p).en then s2.requestReset 3 p true else s2
    | .other => s2

/-! ### The wake from RETAIN (R384) -/

/-- Rope line n after the restore: what its pin did in RETAIN takes effect; a rise is an arrival. -/
def State.ropeBack (s : State) (rose : Bool) (now : Bool) (n : Nat) : State :=
  let s1 := if rose then (s.ropeFallOp n).ropeRiseOp n else s
  if now then s1 else s1.ropeFallOp n

/-- The Sync File and the rope lines as they were saved, the pins as they were then. -/
def State.restored (s : State) : State :=
  let sv := s.pwr.save.getD ([], [])
  { s with
    pwr := { s.pwr with
      state := 0
      rreq := false
      rose := 0
      save := none }
    cnts := sv.1
    ropes := sv.2
    scrub := 0 }

/-- RETAIN_WAKE_DONE; `bad` lists the registers whose saved bytes fail parity. -/
def State.retainDoneOp (s : State) (bad : List (BitVec 21)) : State :=
  if s.pwr.state ≠ 5 then s
  else
    let s1 := (List.range 16).foldl (fun (st : State) n => st.ropeBack (s.pwr.rose.getLsbD n) (s.rope n).rin n) s.restored
    let s2 := s1.wakeUp.logEvent 0x60 0xFF (2 * s.pwr.lwake.toNat)
    let s3 := bad.foldl (fun st off => st.regParityOp off false false) s2
    if s3.esc.held then ({ s3 with esc := { s3.esc with held := false } }).requestReset 5 0 true else s3

/-! ### The events -/

/-- The scrub reads a record (R368). -/
def execScrubRead (parity : Bool) (s : State) : Host.Outcome State Fault Refusal := .next (s.scrubReadOp parity)

/-- A pass of the scrub begins (R368). -/
def execScrubPass (s : State) : Host.Outcome State Fault Refusal := .next s.scrubPassOp

/-- A register fails parity (R369). -/
def execRegParityRewrite (off : BitVec 21) (copyBad : Bool) (s : State) (alt : Bool := false) :
    Host.Outcome State Fault Refusal :=
  .next (if s.inRun ∧ s.clocked then s.regParityOp off copyBad alt else s)

/-- The wake from RETAIN ends (R384). -/
def execRetainWakeDone (bad : List (BitVec 21)) (s : State) : Host.Outcome State Fault Refusal := .next (s.retainDoneOp bad)

end Sys2Proof.Machine
end

