-- ==== Sys2Proof/Machine/Boot.lean ====
section
/-! DEFINITION. Start (R320 to R338): the always-on and core resets (R444, R446), the choice of a slot, the image's registers
and their checks, the foreign register script, the DATA copy, the host-type registers, the boot streams and the handover. -/

namespace Sys2Proof.Machine

/-! ### The registers that an image sets (R326) -/

/-- How a REGS entry may name a register. -/
inductive BootClass where
  | never
  | img
  | start
  | host
  | tenant
deriving DecidableEq, Repr

/-- The class of a register. -/
def bootClass : Reg → BootClass
  | .ptCfg _ => .img
  | .ptMvmask _ => .img
  | .ptStg _ => .img
  | .ptGran _ => .img
  | .ptSpill _ => .img
  | .ptSpillsz _ => .img
  | .ptGlac _ => .img
  | .ptGlacn _ => .img
  | .ptIssue _ => .img
  | .ptNwin _ _ => .img
  | .ptEcnLo _ => .img
  | .ptEcnHi _ => .img
  | .tenant _ => .tenant
  | .arTctl _ => .img
  | .arTrkF _ => .img
  | .arTrkN _ => .img
  | .arQos => .img
  | .ropeM _ => .img
  | .ropeS _ => .img
  | .peCfg => .img
  | .peDir => .img
  | .peFftab _ => .img
  | .imgcfg => .img
  | .arSlot _ _ => .start
  | .arPri => .start
  | .arQuota => .start
  | .trRoot _ => .host
  | .cqCfg _ => .host
  | .cqBase _ => .host
  | .sqCfg _ => .host
  | .sqBase _ => .host
  | .ptSched _ => .host
  | .ptHome _ => .host
  | .peTmo => .host
  | _ => .never

/-- A REGS entry. -/
structure RegEnt where
  off : Nat
  w64 : Bool
  rsv : Bool                    -- a reserved bit is not 0
  val : Nat
deriving DecidableEq, Repr

/-- The entries of a REGS section. -/
def regEnts (l : List Byte) : List RegEnt :=
  (List.range (l.length / 16)).map fun i =>
    let e := (l.drop (16 * i)).take 16
    { off := bfld e 0 0 32, w64 := bbit e 4 0, rsv := bfld e 4 1 7 != 0 || !zeroBytes e 5 3, val := bfld e 8 0 64 }

/-- An entry that ends the attempt with code 7. -/
def RegEnt.bad (e : RegEnt) : Bool :=
  e.rsv || e.off % (if e.w64 then 8 else 4) != 0 || (!e.w64 && decide (2 ^ 32 ≤ e.val)) || (match regLo e.off with
    | none => true
    | some r => r.wide != e.w64 || bootClass r == .never || (match r with
      | .tenant _ => !bit e.val 0 && fld e.val 16 16 != 0
      | .ropeS _ => fld e.val 0 32 != 0 || fld e.val 37 27 != 0
      | _ => false))

/-- The REGS section breaks a rule of R326. -/
def regsBad (l : List RegEnt) : Bool := l.any RegEnt.bad || !decide (l.map (·.off)).Nodup

/-- The registers that the entries name, with their values, in order. -/
def regVals (l : List RegEnt) : List (Reg × Nat) := l.filterMap fun e => (regLo e.off).map fun r => (r, e.val)

/-- A table's rota word (R265). -/
def rotaPut (m : SMap (BitVec 4)) (w v : Nat) : SMap (BitVec 4) :=
  (List.range 8).foldl (fun q j => q.put 0 (8 * w + j) (BitVec.ofNat 4 (fld v (4 * j) 4))) m

/-- Every table's background parameters. -/
def State.allTabs (s : State) (f : Tab → Tab) : State := (List.range 30).foldl (fun st t => st.modTab t f) s

/-- Load an IMG field or a starting value (step 6). -/
def State.imgPut (s : State) (r : Reg) (v : Nat) : State := match r with
  | .ptCfg p => s.modPart p fun x => { x with en := bit v 0, spillEn := bit v 1, eten := BitVec.ofNat 8 (fld v 2 8) }
  | .ptMvmask p => s.modPart p fun x => { x with mvmask := BitVec.ofNat 64 v }
  | .ptStg p => s.modPart p fun x => { x with pfa := BitVec.ofNat 10 (fld v 0 10), bsa := BitVec.ofNat 10 (fld v 16 10) }
  | .ptGran p => s.modPart p fun x => { x with
      qen := bit v 0, qglo := BitVec.ofNat 4 (fld v 1 4), qghi := BitVec.ofNat 4 (fld v 5 4), ren := bit v 16,
      rglo := BitVec.ofNat 10 (fld v 17 10), rghi := BitVec.ofNat 10 (fld v 32 10) }
  | .ptSpill p => s.modPart p fun x => { x with
      spillAttr := BitVec.ofNat 2 (fld v 1 2), spillBase := BitVec.ofNat 36 (fld v 12 36) }
  | .ptSpillsz p => s.modPart p fun x => { x with spillSz := BitVec.ofNat 24 v }
  | .ptGlac p => s.modPart p fun x => { x with
      glacAttr := BitVec.ofNat 2 (fld v 1 2), glacBase := BitVec.ofNat 36 (fld v 12 36) }
  | .ptGlacn p => s.modPart p fun x => { x with
      gfirst := BitVec.ofNat 20 (fld v 0 20), gcnt := BitVec.ofNat 21 (fld v 20 21) }
  | .ptIssue p => s.modPart p fun x => { x with issue := BitVec.ofNat 32 v }
  | .ptNwin p k =>
    let w : NWin := {
      en := bit v 0, port := BitVec.ofNat 2 (fld v 1 2), rd := bit v 3, wr := bit v 4,
      base := BitVec.ofNat 28 (fld v 12 28), size := BitVec.ofNat 24 (fld v 40 24) }
    s.modPart p fun x => { x with nwin := x.nwin.put NWin.reset k w }
  | .ptEcnLo p => s.modPart p fun x => { x with
      ecnEn := bit v 0, ecnAttr := BitVec.ofNat 2 (fld v 1 2), ecnLo := BitVec.ofNat 36 (fld v 12 36) }
  | .ptEcnHi p => s.modPart p fun x => { x with ecnHi := BitVec.ofNat 36 (fld v 12 36) }
  | .tenant t => s.modTen t fun x => { x with part := BitVec.ofNat 3 (fld v 1 3), avail := bit v 4 }
  | .arTctl t => s.modTab t fun x => { x with lock := bit v 0 }
  | .arSlot t w => s.modTab t fun x => { x with live := rotaPut x.live w v, shadow := rotaPut x.shadow w v }
  | .arPri => { s with arb := { s.arb with pri := BitVec.ofNat 32 v } }.allTabs fun x => { x with pri := BitVec.ofNat 32 v }
  | .arQuota => { s with arb := { s.arb with quota := BitVec.ofNat 64 v } }.allTabs fun x =>
      { x with quota := BitVec.ofNat 64 v }
  | .arQos => { s with arb := { s.arb with qos := BitVec.ofNat 32 v } }
  | .arTrkF p => s.modPart p fun x => { x with trkF := BitVec.ofNat 64 v }
  | .arTrkN p => s.modPart p fun x => { x with trkN := BitVec.ofNat 64 v }
  | .ropeM n => s.modRope n fun x => { x with mmask := BitVec.ofNat 64 v }
  | .ropeS n => s.modRope n fun x => { x with part := BitVec.ofNat 3 (fld v 32 3), ext := bit v 35, en := bit v 36 }
  | .peCfg => { s with peer := { s.peer with
      chip := BitVec.ofNat 4 (fld v 0 4), en := bit v 4, nchip := BitVec.ofNat 5 (fld v 5 5), dl0 := bit v 10,
      dl1 := bit v 11 } }
  | .peDir => { s with peer := { s.peer with dir := BitVec.ofNat 32 v } }
  | .peFftab k =>
    let f : FfEnt := {
      en := bit v 0, chip := BitVec.ofNat 4 (fld v 1 4), mover := BitVec.ofNat 6 (fld v 5 6),
      ch := BitVec.ofNat 2 (fld v 11 2) }
    { s with peer := { s.peer with fftab := s.peer.fftab.put FfEnt.reset k f } }
  | .imgcfg => { s with boot := { s.boot with imgcfg := BitVec.ofNat 64 v } }
  | _ => s

/-! ### The image checks (R328 and what it names) -/

/-- A nonzero reserved bit, or a reserved value, of an IMG register (R328). -/
def State.imgValBad (s : State) (r : Reg) (v : Nat) : Bool := match r with
  | .tenant _ => false
  | .ropeS _ => false
  | .imgcfg => fld v 43 21 != 0 || fld v 1 2 == 3
  | .arTrkF _ => fld v 9 7 != 0 || fld v 24 8 != 0 || fld v 41 7 != 0 || fld v 56 8 != 0
  | .arTrkN _ => (List.range 4).any fun n => fld v (16 * n + 13) 3 != 0
  | .ptIssue _ => (List.range 16).any fun k => fld v (2 * k) 2 == 3
  | .peDir => (List.range 16).any fun k => fld v (2 * k) 2 == 3
  | .ptSpill _ => s.regVal r != v || fld v 1 2 == 3
  | .ptGlac _ => s.regVal r != v || fld v 1 2 == 3
  | .ptEcnLo _ => s.regVal r != v || fld v 1 2 == 3
  | _ => bootClass r == .img && s.regVal r != v

/-- Two ranges, each a base and a length, share something. -/
def rangesMeet (a b : Nat × Nat) : Bool := decide (0 < a.2 ∧ 0 < b.2 ∧ a.1 < b.1 + b.2 ∧ b.1 < a.1 + a.2)

/-- Spill and glacier areas. -/
def Part.areas (x : Part) : List (Nat × Nat) :=
  [(x.spillBase.toNat * 4096, x.spillSz.toNat * 4096), (x.glacBase.toNat * 4096, x.gcnt.toNat * 64)]

/-- Queue granules, record granules and glacier indices of a partition. -/
def Part.owns (x : Part) : List (Nat × Nat) :=
  [(if x.qen then (x.qglo.toNat, x.qghi.toNat + 1 - x.qglo.toNat) else (0, 0)),
   (if x.ren then (x.rglo.toNat, x.rghi.toNat + 1 - x.rglo.toNat) else (0, 0)), (x.gfirst.toNat, x.gcnt.toNat)]

/-- Two of a list share something. -/
def anyMeet (l : List (Nat × Nat)) : Bool :=
  l.zipIdx.any fun a => l.zipIdx.any fun b => decide (a.2 < b.2) && rangesMeet a.1 b.1

/-- Partition p alone breaks a rule (R169, R242, R243, R328). -/
def State.partBad (s : State) (p : Nat) : Bool :=
  let x := s.part p
  let slot := fun (k : Nat) => fld x.issue.toNat (2 * k) 2
  let blank := { x with nwin := [], ecnEn := false, ecnAttr := 0, ecnLo := 0, ecnHi := 0, trkF := 0, trkN := 0 } == Part.reset
  (if x.en then x.mvmask == 0 || !((List.range 16).any fun k => slot k == 0) || !((List.range 16).any fun k => slot k == 1)
    else !blank)
  || (x.qen && decide (x.qghi.toNat < x.qglo.toNat))
  || (x.ren && (decide (x.rghi.toNat < x.rglo.toNat) || decide (x.rglo.toNat < 17) || decide (639 < x.rghi.toNat)))
  || x.gfirst.toNat % 64 != 0 || x.gcnt.toNat % 64 != 0 || decide (2 ^ 20 < x.gfirst.toNat + x.gcnt.toNat)
  || (x.ecnEn && ((s.ten x.eten.toNat).part.toNat != p || decide (x.ecnHi.toNat < x.ecnLo.toNat)))
  || x.nwin.any fun e => (e.2.en && e.2.size == 0) || decide (2 ^ 28 < e.2.base.toNat + e.2.size.toNat)

/-- Partitions share something, or their areas overlap, or the pool is too small (R243). -/
def State.partsBad (s : State) : Bool :=
  let ps := (List.range 8).map s.part
  let share := fun (k : Nat) => anyMeet (ps.map fun x => x.owns.getD k (0, 0))
  let movers := (List.range 64).any fun m => decide (1 < (ps.filter fun x => x.mvmask.getLsbD m).length)
  movers || share 0 || share 1 || share 2 || anyMeet (ps.map Part.areas).flatten
  || decide (768 < (ps.map fun x => x.pfa.toNat + x.bsa.toNat).sum)

/-- Tracker reservations above a port's limit, or no pool tracker left on a far port (R280, R424). -/
def State.trackersBad (s : State) : Bool :=
  let sum := fun (port : Nat) (wr : Bool) => ((List.range 8).map fun p => (s.part p).reserve port wr).sum
  (List.range 6).any fun port => [false, true].any fun wr =>
    decide (trkLimit port wr < sum port wr + (if port < 2 then 1 else 0))

/-- Peer routes (R285). -/
def Peer.bad (x : Peer) : Bool :=
  let dir := fun (k : Nat) => fld x.dir.toNat (2 * k) 2
  x.en && (x.nchip == 0 || decide (16 < x.nchip.toNat) || dir x.chip.toNat != 0
    || (List.range 16).any fun k => if x.nchip.toNat ≤ k then dir k != 0 else k != x.chip.toNat && dir k == 0)

/-- A rope line in use whose mask is 0 or leaves its partition (R233). -/
def State.ropeBad (s : State) (n : Nat) : Bool :=
  let r := s.rope n
  r.en && (r.mmask == 0 || r.mmask &&& ~~~(s.part r.part.toNat).mvmask != 0)

/-- The loaded values fail a check of step 6: code 8. -/
def State.configBad (s : State) (l : List (Reg × Nat)) (secs : List Section) : Bool :=
  let areas := ((List.range 8).map fun p => (s.part p).areas).flatten
  (l.any fun e => s.imgValBad e.1 e.2) || (List.range 8).any s.partBad || s.partsBad || s.trackersBad || s.peer.bad
  || (List.range 16).any s.ropeBad || (List.range 30).any (fun t => s.badRota t (s.tab t).live)
  || secs.any fun q => q.type == 3 && areas.any fun a => rangesMeet a (q.dest, q.len)

/-! ### Attempts (R333, R334) -/

/-- A failure code in a slot's field, with its event. -/
def State.failCode (s : State) (b : Bool) (code : Nat) : State :=
  { s with boot := if b then { s.boot with failb := BitVec.ofNat 4 code } else { s.boot with faila := BitVec.ofNat 4 code } }.logEvent
    0x02 0xFF (code + 16 * b2n b)

/-- An access of the boot sequencer. -/
def isBootAcc (a : Access) : Bool := a.kind == .script || a.kind == .bootData || a.kind == .bootRead

/-- Of the accesses in progress those of the management core go on; what the attempt has outstanding is awaited and
discarded, and what it has not presented is not made. -/
def bootAccs (l : List Access) : List Access :=
  let stays := fun (a : Access) => a.rq == .mgmt && !isBootAcc a
  (l.filter fun a => stays a || a.stage == .out).map fun a => if stays a then a else { a with drain := true }

/-- What step 6 or 10 may have written returns to its reset value (DEBUG_LOCK acts as before step 6, log 95), Staging holds
zeros, and step 11's records are EMPTY. -/
def State.bootClear (s : State) : State :=
  let bare := fun (r : Rope) => { r with
    mmask := 0, round := 0, part := 0, ext := false, en := false, dent := false, arr := 0, pend := 0, taken := false }
  { s with
    boot := { s.boot with imgcfg := 0, img := [], strs := [], ldImg := none, lost := false }
    dbg := { s.dbg with lock := true }
    rst := []
    tens := []
    sqs := []
    cqs := []
    parts := []
    ecn := []
    xl := []
    dc := []
    tabs := []
    arb := Arb.reset
    movers := []
    chans := []
    cnts := []
    ropes := (s.ropes.map fun (n, r) => (n, bare r)).filter fun (_, r) => r ≠ Rope.reset
    strms := []
    acc := bootAccs s.acc
    peer := { Peer.reset with
      used := s.peer.used
      owed := s.peer.owed } }

/-- FAIL. -/
def State.bootStuck (s : State) : State :=
  { s with boot := { s.boot with
      state := 14
      running := false
      cold := false } }

/-- The first 1,024 bytes of a slot. -/
def State.slotHead (s : State) (b : Bool) : List Byte := nvmRead s.nvm (slotBase b) 1024

/-- Step 4 begins with a slot. -/
def State.trySlot (s : State) (b : Bool) : State :=
  let l := s.slotHead b
  { s with boot := { s.boot with
      state := 4
      slot := b
      seq := imgSeq l
      size := imgSize l
      running := false
      sidx := 0 } }

/-- The attempt of the selected slot fails: the fallback is tried, or the block stays in FAIL. -/
def State.bootFail (s : State) (code : Nat) : State :=
  let b := s.boot.slot
  let s1 := (s.failCode b code).bootClear
  let tried := b :: s.boot.tried
  let s2 := { s1 with boot := { s1.boot with tried := tried } }
  match s2.boot.cands.find? fun c => !tried.contains c with
  | some c => s2.trySlot c
  | none => s2.bootStuck

/-- Step 3: the candidates, the later SEQ first (R322). The header of slot `lost` could not be read (R319). -/
def State.selectSlot (s : State) (lost : Option Bool) : State :=
  let code := fun (b : Bool) => if lost = some b then 1 else headerFail (s.slotHead b)
  let s1 := [false, true].foldl (fun (st : State) b => if code b = 0 then st else st.failCode b (code b)) s
  let later := (imgSeq (s.slotHead false) - imgSeq (s.slotHead true)).msb
  let c := (if later then [true, false] else [false, true]).filter fun b => decide (code b = 0)
  let s2 := { s1 with boot := { s1.boot with
    cands := c
    tried := [] } }
  match c with
  | [] => s2.bootStuck
  | b :: _ => s2.trySlot b

/-! ### Steps 4 to 7 -/

/-- The image that step 4 has read into Staging. -/
def State.bootImage (s : State) : List Byte := s.boot.img

/-- Step 4 reads the image of the selected slot (R320). -/
def State.readImage (s : State) : State :=
  { s with boot := { s.boot with img := nvmRead s.nvm (slotBase s.boot.slot) s.boot.size } }

/-- The entries of its REGS section. -/
def bootRegs (img : List Byte) : List (Reg × Nat) := regVals (regEnts ((secBytes img 1).getD []))

/-- Sections whose content breaks a rule of its format: code 6. -/
def formatFail (img : List Byte) : Bool :=
  (secBytes img 2).any scriptFail || (secBytes img 5).any fun f => decide (131072 < f.length)

/-- The IMG fields and the starting values, loaded. DEBUG_LOCK acts from then on as loaded, 0 where no entry names
GL_IMGCFG (R326, R398). -/
def State.loadRegs (s : State) (l : List (Reg × Nat)) : State :=
  let t := (l.filter fun e => bootClass e.1 != .host).foldl (fun st e => st.imgPut e.1 e.2) s
  { t with dbg := { t.dbg with lock := t.boot.imgcfg.getLsbD 0 } }

/-- Firmware copied by step 7, or that of ROM (R404). -/
def State.loadFirmware (s : State) (img : List Byte) : State := match secBytes img 5 with
  | some f => { s with mg := { s.mg with
      fw := f
      fwver := BitVec.ofNat 16 (bfld f 0 0 16)
      fwres := false } }
  | none => { s with mg := { s.mg with
      fwver := 1
      fwres := true } }

/-- Steps 4 to 7 with the slot that is being tried; they end at step 8. -/
def State.loadSlot (s' : State) : State :=
  let s := s'.readImage
  let img := s.bootImage
  if signFail img ≠ 0 then s.bootFail (signFail img)
  else if headerFail img ≠ 0 then s.bootFail (headerFail img)
  else if formatFail img then s.bootFail 6
  else if regsBad (regEnts ((secBytes img 1).getD [])) then s.bootFail 7
  else
    let l := bootRegs img
    let s1 := s.loadRegs l
    if s1.configBad l (sections img) then s1.bootFail 8
    else
      let s2 := s1.loadFirmware img
      { s2 with boot := { s2.boot with state := 8 } }

/-- Start may go on: power, clocks and resets allow it. -/
def State.startable (s : State) : Bool := !s.pwr.off && !s.pins.aon && !s.pins.core && !s.esc.oos

/-- Steps 2 and 3 are behind the block, or can be. -/
def State.atSlots (s : State) : State :=
  if s.boot.state = 2 ∨ s.boot.state = 3 then s.selectSlot none else s

/-- BOOT_IMAGE_LOAD. -/
def State.imageLoadOp (s : State) : State :=
  if s.startable = false then s
  else
    let s1 := s.atSlots
    if s1.boot.state = 4 then s1.loadSlot else s1

/-- NVM_READ_TIMEOUT: a read of a slot's header, or of the selected slot's image, has run out: the slot's attempt ends with
code 1. -/
def State.nvmTimeoutOp (s : State) (slot : Bool) : State :=
  if s.startable = false then s
  else if s.boot.state = 2 ∨ s.boot.state = 3 then s.selectSlot (some slot)
  else if s.boot.state = 4 ∧ s.boot.slot = slot then s.bootFail 1
  else s

/-! ### The script (R329, R330) -/

/-- The SCRIPT section. -/
def State.script (s : State) : List Byte := (secBytes s.bootImage 2).getD []

/-- The next entry to run from index i on: COLD entries are skipped in a start that does not follow the always-on
reset. -/
def State.scriptFrom (s : State) (i : Nat) : Nat :=
  let l := s.script
  ((List.range (l.length / 16)).find? fun k => decide (i ≤ k) && ((scrAt l k).op == 0 || !(scrAt l k).cold || s.boot.cold)).getD i

/-- The entry that runs. -/
def State.scriptNow (s : State) : Option ScrEnt :=
  if s.startable && s.boot.running && s.boot.state == 8 then some (scrAt s.script s.boot.sidx) else none

/-- The access of the entry that runs: a WRITE's, or a POLL's read, on FAR0 with AxCACHE 0 and AxQOS 0. -/
def State.scriptIssue (s : State) : State := match s.scriptNow with
  | none => s
  | some e =>
    if e.op = 1 then
      let n := if e.w64 then 8 else 4
      s.pushFar0 { blankAcc 8 .mgmt 0 .script true e.addr n with data := toLE n e.val, en := List.replicate n true }
    else if e.op = 2 then s.pushFar0 (blankAcc 8 .mgmt 0 .script false e.addr 4)
    else s

/-- Step 9 begins: the DATA sections are written, in ascending order each (R331). -/
def State.dataStart (s : State) : State :=
  ((sections s.bootImage).filter fun q => q.type == 3).foldl
    (fun st q => st.far0Write .bootData q.attr q.dest ((s.bootImage.drop q.off).take q.len))
    { s with boot := { s.boot with
      state := 9
      running := false } }

/-- BOOT_SCRIPT_START: FAR0 is out of reset. -/
def State.scriptStartOp (s : State) : State :=
  if s.startable && s.boot.state == 8 && !s.boot.running && !s.portHeld 0 then
    if (secBytes s.bootImage 2).isNone then s.dataStart
    else State.scriptIssue { s with boot := { s.boot with
      running := true
      sidx := s.scriptFrom 0 } }
  else s

/-- The entry is over, and the next one begins. -/
def State.scriptNext (s : State) : State :=
  State.scriptIssue { s with boot := { s.boot with sidx := s.scriptFrom (s.boot.sidx + 1) } }

/-- An entry ends whose access has no response yet: one not presented is not made, one presented is awaited. -/
def State.scriptDrop (s : State) : State :=
  { s with acc := (s.acc.filter fun (a : Access) => !(a.kind == .script && a.stage != .out)).map fun (a : Access) =>
      if a.kind = .script then { a with drain := true } else a }

/-- The entry fails. -/
def State.scriptFails (s : State) (fatal : Bool) : State :=
  let s1 := s.scriptDrop.logEvent 0x03 0xFF (s.boot.sidx % 65536 + 65536 * b2n fatal)
  if fatal then
    { s1 with boot := { s1.boot with scridx := BitVec.ofNat 16 s.boot.sidx } }.bootFail 9
  else s1.scriptNext


/-- Run `f` on the entry that runs, if it has operation `op`. -/
def State.onEntry (s : State) (op : Nat) (f : ScrEnt → State) : State :=
  match s.scriptNow with
  | none => s
  | some e => if e.op = op then f e else s

/-- An access of the boot sequencer that has been answered with an error, or been lost, fails its entry, its copy or its
boot stream (R330, R331, R332, R337). -/
def State.bootCheck (s : State) : State :=
  if s.startable = false ∨ 12 ≤ s.boot.state.toNat then s
  else if s.boot.lost then
    let s1 := { s with boot := { s.boot with lost := false } }
    if s.boot.state = 9 then s1.bootFail 10
    else match s1.scriptNow with
      | some e => s1.scriptFails e.fatal
      | none => s1
  else if s.boot.state = 11 ∧ s.acc.any (fun a => a.kind == .bootRead && !a.drain) = false then s.bootFail 11
  else s

/-- The response of the running entry's access, if it is outstanding: an error fails the entry. -/
def State.scriptAnswer (s : State) (op : Nat) (r : Resp) (f : State → ScrEnt → State) : State :=
  if s.boot.lost then s.bootCheck
  else s.onEntry op fun e =>
    match s.acc.find? fun a => a.kind == .script && a.stage == .out && !a.drain with
    | none => s
    | some a => if respOk r then f (s.delAcc a.aid) e else (s.delAcc a.aid).scriptFails e.fatal

/-- SCRIPT_WRITE: its response. -/
def State.scriptWriteOp (s : State) (r : Resp) : State := s.scriptAnswer 1 r fun t _ => t.scriptNext

/-- SCRIPT_POLL: a read's data and response; a POLL not satisfied reads again. -/
def State.scriptPollOp (s : State) (data : BitVec 32) (r : Resp) : State :=
  s.scriptAnswer 2 r fun t e =>
    if data &&& BitVec.ofNat 32 (fld e.val 0 32) = BitVec.ofNat 32 (fld e.val 32 32) then t.scriptNext else t.scriptIssue

/-- SCRIPT_END. -/
def State.scriptEndOp (s : State) : State := s.onEntry 0 fun _ => s.dataStart

/-- SCRIPT_TIME_LIMIT: the entry that runs fails as FATAL. -/
def State.scriptLimitOp (s : State) : State := if s.scriptNow.isSome then s.scriptFails true else s

/-! ### Steps 9 to 12 -/

/-- One host-type write; `none` where a rule ignores or refuses it (R326). -/
def State.hostEntry (s : State) (r : Reg) (v : Nat) : Option State :=
  let t := s.regWrite r v
  match r with
  | .tenant k => if bit v 0 = false then some s else if (t.ten k).cerr then none else some t
  | .trRoot k => if bit v 0 && !(t.ten k).rootEn then none else some t
  | .cqCfg c => if bit v 0 && !(t.cq c).en then none else some t
  | .cqBase c => if (s.cq c).en then none else some t
  | .sqCfg q => if bit v 0 && !(t.sq q).en then none else some t
  | .sqBase q => if (s.sq q).en then none else some t
  | .ptHome p => if (t.part p).homeDrop then none else some t
  | .peTmo => if 16 ≤ fld v 0 5 ∧ fld v 0 5 ≤ 30 then some t else none
  | .ptSched _ => some t
  | _ => some s

/-- The host-type entries in order (step 10). -/
def State.hostEntries (s : State) : List (Reg × Nat) → Option State
  | [] => some s
  | e :: l => (s.hostEntry e.1 e.2).bind fun t => t.hostEntries l

/-- A boot stream's image breaks a rule of a LOAD (R148, R166). -/
def State.bootImageBad (s : State) (p : Nat) (i : List Byte) : Bool :=
  let home := bfld i 6 0 6
  imageRangeBad i || (bbit i 0 5 && (!(s.part p).mvmask.getLsbD home || (s.mover home).oos))
  || bfld i 8 0 48 % (if bbit i 0 6 then 128 else 4096) != 0

/-- The placement descriptor `pl` of a receive stream's image breaks a rule (R290). -/
def bootPlaceBad (i pl : List Byte) : Bool :=
  let d := parseDesc pl
  let b := bfld i 24 0 48
  let e := if b = 0 then d else { d with base := b }
  bbit i 0 6 && ((e.check pl true 0 1).isSome || placementBad pl e)

/-- A glacier record that start loads is written by the partition's record writer. -/
def State.bootGlac (s : State) (sid : Nat) : State :=
  let x := s.strmAt sid
  let p := x.part.toNat
  if sid < glacBase then s
  else s.pushPhys { blankAcc p .record 0 .glacWrite true (s.glacAddr p sid) 64 with
    sid := sid, ten := x.ten, gen := x.tgen, data := strmBytes x, en := List.replicate 64 true } (s.part p).glacAttr.toNat

/-- A STREAMS entry is refused before its image is read (R148, R332). -/
def State.bootEntBad (s : State) (e : List Byte) : Bool :=
  let sid := bfld e 0 0 21
  let q := bfld e 4 0 10
  bfld e 0 21 3 != 0 || bfld e 3 5 3 != 0 || bfld e 4 10 6 != 0 || !zeroBytes e 6 2 || !zeroBytes e 14 2
    || !zeroBytes e 40 24 || bfld e 8 0 48 % 64 != 0 || !(s.sq q).en
    || !((s.strmAt sid).st == .empty && s.idOk (s.strmAt q).part.toNat sid)

/-- One STREAMS entry (R332), with the image `i` and the placement descriptor `pl` that far memory holds for it: a LOAD on
its queue, and a REARM. -/
def State.bootStream (s : State) (e i pl : List Byte) : State :=
  let sid := bfld e 0 0 21
  let q := bfld e 4 0 10
  let x := s.strmAt q
  let r : Rearm := {
    bmask := BitVec.ofNat 4 (bfld e 3 0 4), b0 := BitVec.ofNat 48 (bfld e 16 0 48), b1 := BitVec.ofNat 48 (bfld e 22 0 48),
    b2 := BitVec.ofNat 48 (bfld e 28 0 48), b3 := BitVec.ofNat 48 (bfld e 34 0 48), queue := BitVec.ofNat 10 q, issuer := q }
  let z := strmOfImage i
  let y := { z.withBases r with
    st := .armed
    ten := x.ten
    tgen := x.tgen
    part := x.part
    queue := x.queue
    place := if z.rcv then pl else [] }
  let s1 := (s.setStrmAt sid y).bootGlac sid
  if bbit e 3 4 && !z.rcv then s1.rearmNow sid r else s1

/-- Step 12 (R335). -/
def State.handOver (s : State) : State :=
  let fb := s.boot.tried != []
  ({ s with
    boot := { s.boot with
      state := 13
      fallbk := fb
      cold := false
      strs := [] }
    esc := { s.esc with mode := if s.ladder then 2 else 1 } }.logEvent 0x01 0xFF
      (s.boot.seq.toNat + 2 ^ 32 * b2n fb)).sheetDue 8

/-- The STREAMS entry at which step 11 stands. -/
def State.bootEntry (s : State) : List Byte := (s.boot.strs.drop (64 * s.boot.sidx)).take 64

/-- A read of step 11, through the translation of the entry's tenant: a fault ends the attempt. -/
def State.bootRead (s : State) (va len : Nat) : State :=
  let q := bfld s.bootEntry 4 0 10
  let x := s.strmAt q
  match s.makeFar { blankAcc x.part.toNat .mgmt 0 .bootRead false va len with sid := q, ten := x.ten, gen := x.tgen } with
  | (t, none) => t
  | (t, some _) => t.bootFail 11

/-- The next boot stream's image is read; behind the last one the block is handed over (R332, R335). -/
def State.bootLoad (s : State) : State :=
  if s.boot.strs.length ≤ 64 * s.boot.sidx then s.handOver
  else if s.bootEntBad s.bootEntry then s.bootFail 11
  else s.bootRead (bfld s.bootEntry 8 0 48) 64

/-- The entry's image and placement descriptor are known: a refusal ends the attempt. -/
def State.bootPlaced (s : State) (i pl : List Byte) : State :=
  if bootPlaceBad i pl then s.bootFail 11
  else
    let t := s.bootStream s.bootEntry i pl
    State.bootLoad { t with boot := { t.boot with
      sidx := t.boot.sidx + 1
      ldImg := none } }

/-- A read of step 11 returns. A receive stream's image is followed by its placement descriptor (R290); a copy that fails
parity is read again (R363). -/
def State.bootGot (s : State) (a : Access) (data : List Byte) (r : Resp) (parity : Bool) : State :=
  let s1 := s.delAcc a.aid
  if !respOk r then s1.bootFail 11
  else if parity then (s1.cacheParity 0xFF a.sid).bootRead a.va a.len
  else match s.boot.ldImg with
    | some i => s1.bootPlaced i data
    | none =>
      if s1.bootImageBad a.part data then s1.bootFail 11
      else if bbit data 0 6 then
        { s1 with boot := { s1.boot with ldImg := some data } }.bootRead (bfld data 8 0 48) 128
      else s1.bootPlaced data []

/-- Steps 10 to 12: Staging is written to zero, the host-type entries act, and the boot streams are loaded. -/
def State.bootEnds (s : State) : State :=
  let img := s.bootImage
  let host := (bootRegs img).filter fun e => bootClass e.1 == .host || bootClass e.1 == .tenant
  let s1 := { s with boot := { s.boot with
    img := []
    strs := (secBytes img 4).getD [] } }
  match s1.hostEntries host with
  | some t => State.bootLoad { t with boot := { t.boot with
      state := 11
      sidx := 0 } }
  | none => s1.bootFail 11

/-- BOOT_DATA_DONE: the responses to the DATA copy's last writes. -/
def State.dataDoneOp (s : State) (rs : List Resp) : State :=
  let mine := fun (a : Access) => a.kind == .bootData && !a.drain
  if s.startable = false ∨ s.boot.state ≠ 9 then s
  else if s.boot.lost then s.bootCheck
  else if s.acc.any fun a => mine a && a.stage != .out then s
  else if s.acc.any mine && !rs.all respOk then s.bootFail 10
  else State.bootEnds { s with acc := s.acc.filter fun (a : Access) => !mine a }

/-- SOURCE_READ_RESPONSE, to a read of step 11 or to any other. -/
def State.readRespOp (s : State) (aid : Nat) (data : List Byte) (r : Resp) (parity : Bool) : State :=
  match s.acc.find? fun a => a.aid == aid && a.kind == .bootRead && a.stage == .out && !a.drain with
  | some a => if s.startable then s.bootGot a data r parity else s
  | none => s.sourceOp aid data r parity

/-! ### The always-on reset and the core reset (R320, R337, R444, R446) -/

/-- AON_RESET_ASSERT. Of the block nothing is kept but the NVM. -/
def State.aonAssertOp (s : State) : State :=
  let u := s.tornSlot false
  { State.reset with
    pending := u.pending, free := u.free, nextAid := u.nextAid, nvm := u.nvm
    pwr := { Pwr.reset with off := u.pwr.off } }

/-- AON_RESET_RELEASE: power is present, step 1 is done, and step 2 waits. SEQ of the event log goes on behind the newest
entry of the mirror (R410). -/
def State.aonReleaseOp (s : State) (addr : BitVec 7) : State :=
  if s.pins.aon = false then s
  else
    let n := match ringNewest s.nvm with
      | none => 0
      | some q => BitVec.ofNat 24 (q + 1)
    { s with
      pins := { s.pins with aon := false }
      pwr := { s.pwr with off := false }
      boot := { s.boot with
        state := 2
        cold := true }
      smb := { s.smb with addr := addr }
      mg := { s.mg with
        nseq := n
        mseq := n
        mpos := ringNext s.nvm } }

/-- CORE_RESET_ASSERT: a block reset without a stop bath. Responses outstanding are awaited in the sink, rope_out is low
while the reset lasts (R440), and the start returns to step 2. -/
def State.coreAssertOp (s : State) : State :=
  if s.pins.aon || s.pwr.off || s.pins.core then s
  else
    let old := (s.sink ++ s.acc.filter fun a => a.stage == .out).map fun (a : Access) => { a with drain := true }
    let cold := s.boot.cold
    let fall := fun (x : Rope) => { x with rout := false, rel := false }
    let u := s.sheetLater
    let t := { u with
      acc := []
      sink := []
      mg := { u.mg with csOut := none }
      host := { u.host with wait := [] }
      esc := { u.esc with held := false } }.blockState
    let lines : SMap Rope := (t.ropes.map fun (n, x) => (n, fall x)).filter fun (_, x) => x ≠ Rope.reset
    { t with
      pins := { t.pins with core := true }
      sink := old
      ropes := lines
      boot := { t.boot with
        state := if s.esc.oos then 14 else 2
        cold := cold } }.countQids

/-- CORE_RESET_RELEASE: the march tests find granules and perhaps a Staging bank that fail. It ends the march tests of a
block reset as well. -/
def State.coreReleaseOp (s : State) (bad : List Nat) (badBank : Bool) : State :=
  let s1 := { s with pins := { s.pins with core := false } }
  if s.pwr.off || s.pins.aon || s.esc.oos || s.boot.state != 2 then s1
  else
    let s2 := (bad.filter (· < 640)).foldl (fun (st : State) g =>
      { st with granRet := st.granRet.put false g true }.logEvent 0x23 0xFF g) s1
    if badBank then ((s2.failCode false 12).failCode true 12).bootStuck
    else { s2 with boot := { s2.boot with state := 3 } }

/-! ### The events -/

/-- aon_rst_n is asserted (R444). -/
def execAonResetAssert (s : State) : Host.Outcome State Fault Refusal := .next s.aonAssertOp

/-- aon_rst_n is released (R320). -/
def execAonResetRelease (addr : BitVec 7) (s : State) : Host.Outcome State Fault Refusal := .next (s.aonReleaseOp addr)

/-- core_rst_n is asserted (R446). -/
def execCoreResetAssert (s : State) : Host.Outcome State Fault Refusal := .next s.coreAssertOp

/-- core_rst_n is released, and the march tests run (R320). -/
def execCoreResetRelease (badGranules : List Nat) (badBank : Bool) (s : State) : Host.Outcome State Fault Refusal :=
  .next (s.coreReleaseOp badGranules badBank)

/-- Steps 3 to 7 of start (R320). -/
def execBootImageLoad (s : State) : Host.Outcome State Fault Refusal := .next s.imageLoadOp

/-- A read of the flash runs out (R319). -/
def execNvmReadTimeout (s : State) (slot : Bool := false) : Host.Outcome State Fault Refusal := .next (s.nvmTimeoutOp slot)

/-- The script begins (R330). -/
def execBootScriptStart (s : State) : Host.Outcome State Fault Refusal := .next s.scriptStartOp

/-- A script WRITE (R330). -/
def execScriptWrite (r : Resp) (s : State) : Host.Outcome State Fault Refusal := .next (s.scriptWriteOp r)

/-- A script POLL (R330). -/
def execScriptPoll (data : BitVec 32) (r : Resp) (s : State) : Host.Outcome State Fault Refusal :=
  .next (s.scriptPollOp data r)

/-- A script DELAY is over (R330). -/
def execScriptDelay (s : State) : Host.Outcome State Fault Refusal := .next (s.onEntry 3 fun _ => s.scriptNext)

/-- A script END (R330). -/
def execScriptEnd (s : State) : Host.Outcome State Fault Refusal := .next s.scriptEndOp

/-- A POLL runs out (R330). -/
def execScriptPollTimeout (s : State) : Host.Outcome State Fault Refusal :=
  .next (s.onEntry 2 fun e => s.scriptFails e.fatal)

/-- The script runs longer than SCRMAX (R330). -/
def execScriptTimeLimit (s : State) : Host.Outcome State Fault Refusal := .next s.scriptLimitOp

/-- The DATA copy ends, and steps 10 to 12 follow (R331, R332, R335). -/
def execBootDataDone (r : Resp) (rest : List Resp) (s : State) : Host.Outcome State Fault Refusal :=
  .next (s.dataDoneOp (r :: rest))

/-- Read data arrives (R63, R332). -/
def execSourceReadResponse (aid : Nat) (data : List Byte) (r : Resp) (parity : Bool) (s : State) :
    Host.Outcome State Fault Refusal := .next (s.readRespOp aid data r parity)

/-- A page walk read returns (R182); a boot stream's read that faults ends the attempt (R332). -/
def execWalkReadResponse (p : Fin 8) (entry : BitVec 64) (r : Resp) (parity : Bool) (s : State) :
    Host.Outcome State Fault Refusal := .next (s.walkOp p entry r parity).bootCheck

/-- The reset of a port is asserted (R337, R445). -/
def execPortResetAssert (p : RstPort) (s : State) : Host.Outcome State Fault Refusal :=
  .next (s.portAssertOp p).resetChecks.bootCheck

end Sys2Proof.Machine
end

