-- ==== Sys2Proof/Machine/Dispatch.lean ====
section
/-! DEFINITION. The effect of every command on everything but the queue: one arm per row of the opcode table. -/

namespace Sys2Proof.Machine

/-- The command's effect. -/
def exec (i : Instr) (s : State) : Host.Outcome State Fault Refusal :=
  match i with
  | .nop m c => Sys2Proof.Machine.execNop m c s
  | .transfer m c => Sys2Proof.Machine.execTransfer m c s
  | .gather m c => Sys2Proof.Machine.execGather m c s
  | .scatter m c => Sys2Proof.Machine.execScatter m c s
  | .meter m c => Sys2Proof.Machine.execMeter m c s
  | .wait m c => Sys2Proof.Machine.execWait m c s
  | .signal m c => Sys2Proof.Machine.execSignal m c s
  | .signalConfigure m c => Sys2Proof.Machine.execSignalConfigure m c s
  | .barrier m c => Sys2Proof.Machine.execBarrier m c s
  | .fence m c => Sys2Proof.Machine.execFence m c s
  | .rearm m c => Sys2Proof.Machine.execRearm m c s
  | .load m c => Sys2Proof.Machine.execLoad m c s
  | .unload m c => Sys2Proof.Machine.execUnload m c s
  | .loop m c => Sys2Proof.Machine.execLoop m c s
  | .tableLoad m c => Sys2Proof.Machine.execTableLoad m c s
  | .tableRelease m c => Sys2Proof.Machine.execTableRelease m c s
  | .ecnosDescriptor m c data r => Sys2Proof.Machine.execEcnosDescriptor m c data r s
  | .commandFetched m c data r => Sys2Proof.Machine.execCommandFetched m c data r s
  | .decodeReadsDone m c ds parity => Sys2Proof.Machine.execDecodeReadsDone m c ds parity s
  | .walkReadResponse p entry r parity => Sys2Proof.Machine.execWalkReadResponse p entry r parity s
  | .sourceReadResponse aid data r parity => Sys2Proof.Machine.execSourceReadResponse aid data r parity s
  | .tileReady m c parity => Sys2Proof.Machine.execTileReady m c parity s
  | .writeResponse aid r => Sys2Proof.Machine.execWriteResponse aid r s
  | .readBackResponse aid r => Sys2Proof.Machine.execReadBackResponse aid r s
  | .flagWriteResponse aid r => Sys2Proof.Machine.execFlagWriteResponse aid r s
  | .commandComplete m c => Sys2Proof.Machine.execCommandComplete m c s
  | .completionRecordWritten aid r => Sys2Proof.Machine.execCompletionRecordWritten aid r s
  | .faultRecordWritten aid r => Sys2Proof.Machine.execFaultRecordWritten aid r s
  | .sequencerChoice p m c parity => Sys2Proof.Machine.execSequencerChoice p m c parity s
  | .glacierRecordLoaded aid data r => Sys2Proof.Machine.execGlacierRecordLoaded aid data r s
  | .arrayAgeing m side c => Sys2Proof.Machine.execArrayAgeing m side c s
  | .issueAgeing m cls c => Sys2Proof.Machine.execIssueAgeing m cls c s
  | .arbDecision t slotParity => Sys2Proof.Machine.execArbDecision t slotParity s
  | .hogCutoff t => Sys2Proof.Machine.execHogCutoff t s
  | .backoffExpire t p => Sys2Proof.Machine.execBackoffExpire t p s
  | .quotaWindowEnd t => Sys2Proof.Machine.execQuotaWindowEnd t s
  | .commit => Sys2Proof.Machine.execCommit s
  | .dbSqTail t k tail => Sys2Proof.Machine.execDbSqTail t k tail s
  | .dbCqHead t k head => Sys2Proof.Machine.execDbCqHead t k head s
  | .dbAbort t sid => Sys2Proof.Machine.execDbAbort t sid s
  | .dbThaw t sid => Sys2Proof.Machine.execDbThaw t sid s
  | .dbResume t sid => Sys2Proof.Machine.execDbResume t sid s
  | .dbSkip t sid => Sys2Proof.Machine.execDbSkip t sid s
  | .sqEnable q v => Sys2Proof.Machine.execSqEnable q v s
  | .sqDisable q v => Sys2Proof.Machine.execSqDisable q v s
  | .cqEnable c v => Sys2Proof.Machine.execCqEnable c v s
  | .cqDisable c v => Sys2Proof.Machine.execCqDisable c v s
  | .fqEnable p v => Sys2Proof.Machine.execFqEnable p v s
  | .fqDisable p v => Sys2Proof.Machine.execFqDisable p v s
  | .fqHead p head => Sys2Proof.Machine.execFqHead p head s
  | .tenantEnable t v => Sys2Proof.Machine.execTenantEnable t v s
  | .tenantDisable t v => Sys2Proof.Machine.execTenantDisable t v s
  | .ptHome p v => Sys2Proof.Machine.execPtHome p v s
  | .invTenant t => Sys2Proof.Machine.execInvTenant t s
  | .invPage t vpage => Sys2Proof.Machine.execInvPage t vpage s
  | .invAll => Sys2Proof.Machine.execInvAll s
  | .invDone => Sys2Proof.Machine.execInvDone s
  | .counterClear m k => Sys2Proof.Machine.execCounterClear m k s
  | .suspectClear m => Sys2Proof.Machine.execSuspectClear m s
  | .soloMode m v => Sys2Proof.Machine.execSoloMode m v s
  | .strmBind d v => Sys2Proof.Machine.execStrmBind d v s
  | .ecnosStart p n => Sys2Proof.Machine.execEcnosStart p n s
  | .ecnosAbort p n => Sys2Proof.Machine.execEcnosAbort p n s
  | .registerWrite off v strb priv => Sys2Proof.Machine.execRegisterWrite off v strb priv s
  | .resetTenant t rcv => Sys2Proof.Machine.execResetTenant t rcv s
  | .resetMover m => Sys2Proof.Machine.execResetMover m s
  | .resetPartition p => Sys2Proof.Machine.execResetPartition p s
  | .resetBlock => Sys2Proof.Machine.execResetBlock s
  | .resetPowerCycle => Sys2Proof.Machine.execResetPowerCycle s
  | .stopBathDrained p => Sys2Proof.Machine.execStopBathDrained p s
  | .stopBathTimeout p => Sys2Proof.Machine.execStopBathTimeout p s
  | .sinkLateResponse aid => Sys2Proof.Machine.execSinkLateResponse aid s
  | .moverSelftestDone m pass => Sys2Proof.Machine.execMoverSelftestDone m pass s
  | .moverResetTimeout m => Sys2Proof.Machine.execMoverResetTimeout m s
  | .moverTestReq m => Sys2Proof.Machine.execMoverTestReq m s
  | .moverTestDrained m => Sys2Proof.Machine.execMoverTestDrained m s
  | .moverTestDone m pass => Sys2Proof.Machine.execMoverTestDone m pass s
  | .stagingTestGo g => Sys2Proof.Machine.execStagingTestGo g s
  | .stagingTestDone bad => Sys2Proof.Machine.execStagingTestDone bad s
  | .scrubRead parity => Sys2Proof.Machine.execScrubRead parity s
  | .scrubPass => Sys2Proof.Machine.execScrubPass s
  | .regParityRewrite off copyBad alt => Sys2Proof.Machine.execRegParityRewrite off copyBad s alt
  | .peerWrite port pkt => Sys2Proof.Machine.execPeerWrite port pkt s
  | .peerRdreq port pkt => Sys2Proof.Machine.execPeerRdreq port pkt s
  | .peerRdrsp port pkt => Sys2Proof.Machine.execPeerRdrsp port pkt s
  | .peerWack port pkt => Sys2Proof.Machine.execPeerWack port pkt s
  | .peerNack port pkt => Sys2Proof.Machine.execPeerNack port pkt s
  | .peerCredit port pkt => Sys2Proof.Machine.execPeerCredit port pkt s
  | .packetForward port pkt gap => Sys2Proof.Machine.execPacketForward port pkt gap s
  | .receiveWritesLanded job => Sys2Proof.Machine.execReceiveWritesLanded job s
  | .receiveReadsDone job => Sys2Proof.Machine.execReceiveReadsDone job s
  | .finalRelease k => Sys2Proof.Machine.execFinalRelease k s
  | .rxLoss port hdr => Sys2Proof.Machine.execRxLoss port hdr s
  | .peerTimeout m c => Sys2Proof.Machine.execPeerTimeout m c s
  | .strmBeat d data keep last user => Sys2Proof.Machine.execStrmBeat d data keep last user s
  | .ropeInRise n => Sys2Proof.Machine.execRopeInRise n s
  | .ropeInFall n => Sys2Proof.Machine.execRopeInFall n s
  | .moverGate m => Sys2Proof.Machine.execMoverGate m s
  | .dozeEnter => Sys2Proof.Machine.execDozeEnter s
  | .dozeWake => Sys2Proof.Machine.execDozeWake s
  | .dozeWakeDone => Sys2Proof.Machine.execDozeWakeDone s
  | .retainRequest => Sys2Proof.Machine.execRetainRequest s
  | .retainDrained => Sys2Proof.Machine.execRetainDrained s
  | .retainWake src => Sys2Proof.Machine.execRetainWake src s
  | .retainWakeDone bad => Sys2Proof.Machine.execRetainWakeDone bad s
  | .powerOff => Sys2Proof.Machine.execPowerOff s
  | .aonResetAssert => Sys2Proof.Machine.execAonResetAssert s
  | .aonResetRelease addr => Sys2Proof.Machine.execAonResetRelease addr s
  | .coreResetAssert => Sys2Proof.Machine.execCoreResetAssert s
  | .coreResetRelease badGranules badBank => Sys2Proof.Machine.execCoreResetRelease badGranules badBank s
  | .bootImageLoad => Sys2Proof.Machine.execBootImageLoad s
  | .nvmReadTimeout slot => Sys2Proof.Machine.execNvmReadTimeout s slot
  | .bootScriptStart => Sys2Proof.Machine.execBootScriptStart s
  | .scriptWrite r => Sys2Proof.Machine.execScriptWrite r s
  | .scriptPoll data r => Sys2Proof.Machine.execScriptPoll data r s
  | .scriptDelay => Sys2Proof.Machine.execScriptDelay s
  | .scriptEnd => Sys2Proof.Machine.execScriptEnd s
  | .scriptPollTimeout => Sys2Proof.Machine.execScriptPollTimeout s
  | .scriptTimeLimit => Sys2Proof.Machine.execScriptTimeLimit s
  | .bootDataDone r rest => Sys2Proof.Machine.execBootDataDone r rest s
  | .portResetAssert p => Sys2Proof.Machine.execPortResetAssert p s
  | .portResetRelease p => Sys2Proof.Machine.execPortResetRelease p s
  | .sensorSample temps volts clk => Sys2Proof.Machine.execSensorSample temps volts clk s
  | .droop n => Sys2Proof.Machine.execDroop n s
  | .mgmtWatchdog => Sys2Proof.Machine.execMgmtWatchdog s
  | .logMirror => Sys2Proof.Machine.execLogMirror s
  | .pwrcycReqRise => Sys2Proof.Machine.execPwrcycReqRise s
  | .mbUpdate addr size data r => Sys2Proof.Machine.execMbUpdate addr size data r s
  | .mbContact addr w2 => Sys2Proof.Machine.execMbContact addr w2 s
  | .mbLogcopy addr n => Sys2Proof.Machine.execMbLogcopy addr n s
  | .mbSensors => Sys2Proof.Machine.execMbSensors s
  | .mbThresh w1 w2 => Sys2Proof.Machine.execMbThresh w1 w2 s
  | .mbRetain => Sys2Proof.Machine.execMbRetain s
  | .chreq => Sys2Proof.Machine.execChreq s
  | .vgo => Sys2Proof.Machine.execVgo s
  | .relock => Sys2Proof.Machine.execRelock s
  | .unlockVerified => Sys2Proof.Machine.execUnlockVerified s
  | .smbId => Sys2Proof.Machine.execSmbId s
  | .smbStatus => Sys2Proof.Machine.execSmbStatus s
  | .smbTemp => Sys2Proof.Machine.execSmbTemp s
  | .smbVolt => Sys2Proof.Machine.execSmbVolt s
  | .smbEvents => Sys2Proof.Machine.execSmbEvents s
  | .smbLogread seq => Sys2Proof.Machine.execSmbLogread seq s
  | .smbAlertclr w pec => Sys2Proof.Machine.execSmbAlertclr w s pec
  | .smbChreq scope pec => Sys2Proof.Machine.execSmbChreq scope s pec
  | .smbChal => Sys2Proof.Machine.execSmbChal s
  | .smbResp off data pec => Sys2Proof.Machine.execSmbResp off data s pec
  | .smbVgo pec => Sys2Proof.Machine.execSmbVgo s pec
  | .smbDbgstat => Sys2Proof.Machine.execSmbDbgstat s
  | .smbAlertResponse => Sys2Proof.Machine.execSmbAlertResponse s
  | .bypass => Sys2Proof.Machine.execBypass s
  | .idcode => Sys2Proof.Machine.execIdcode s
  | .samplePreload => Sys2Proof.Machine.execSamplePreload s
  | .extest => Sys2Proof.Machine.execExtest s
  | .wsBypass => Sys2Proof.Machine.execWsBypass s
  | .wsExtest => Sys2Proof.Machine.execWsExtest s
  | .wsIntest => Sys2Proof.Machine.execWsIntest s
  | .wsMbist sram => Sys2Proof.Machine.execWsMbist sram s
  | .wsScan => Sys2Proof.Machine.execWsScan s
  | .wsDebug => Sys2Proof.Machine.execWsDebug s
  | .tapReset => Sys2Proof.Machine.execTapReset s
  | .registerRead off priv => Sys2Proof.Machine.execRegisterRead off priv s
  | .slotTableReadDone m c data r => Sys2Proof.Machine.execSlotTableReadDone m c data r s
  | .mailboxRequestEnd r nvmOk => Sys2Proof.Machine.execMailboxRequestEnd r nvmOk s
  | .smbusTimeout => Sys2Proof.Machine.execSmbusTimeout s

end Sys2Proof.Machine
end

