-- ==== Sys2Proof/Machine/Step.lean ====
section
/-! DEFINITION. One step: the command at the front of the queue, applied whole; with nothing waiting, a HOST access whose turn
has come, or one cycle of the core clock. -/

namespace Sys2Proof.Machine

/-- Perform the HOST access that has waited longest, and leave the others waiting (R384). -/
def hostStep (s : State) (c : Instr) (u : State) : Host.Outcome State Fault Refusal :=
  match exec c u with
  | .next t => .next (s.hostRest t)
  | o => o

/-- Take the command at the front of the queue and apply it with the queue's rest; an empty queue is a tick of cclk, or the
turn of a HOST access that has waited (log 3). -/
def step (s : State) : Host.Outcome State Fault Refusal :=
  match s.pending with
  | [] => match s.hostTurn with
    | none => .next s.tick
    | some (c, u) => hostStep s c u
  | c :: rest => exec c { s with pending := rest }

/-- The word's command, if it spells one, at the front of the queue. -/
def State.withFetchWord (s : State) (nbits w : Nat) : State :=
  match decodeTableWord nbits w with
  | some c => { s with pending := c :: s.pending }
  | none => s

end Sys2Proof.Machine
end

