-- ==== Sys2Proof/Safety.lean ====
section
/-! DEFINITION. What counts as a safe run, and the conditions on the state in whose terms the statements are made. -/

namespace Sys2Proof

/-- `k` steps from `s` all answer a next state. -/
def Safe (k : Nat) (s : Machine.State) : Prop :=
  match k with
  | 0 => True
  | n + 1 => ∃ t, Machine.step s = .next t ∧ Safe n t

namespace Machine

/-- Channel c of Mover m holds the command k of stream sid, decoded and neither stopped nor aborted. -/
structure State.Holds (s : State) (m c sid : Nat) (k : CmdCtx) : Prop where
  act : (s.ch m c).act = some sid
  ph : (s.ch m c).ph = .decoded
  stop : (s.ch m c).stop = none
  abort : (s.ch m c).abort = false
  cmd : (s.strmAt sid).cmd = some k

/-- The command k of stream sid has had its effect on channel c of Mover m: its completion phase is all that is left of
it. -/
structure State.Done (t : State) (m c sid : Nat) (k : CmdCtx) : Prop where
  act : (t.ch m c).act = some sid
  ph : (t.ch m c).ph = .done
  cmd : (t.strmAt sid).cmd = some { k with stage := .done }

/-- Every stream but `sid` and every channel but that of m and c are as before. -/
def State.Others (s t : State) (m c sid : Nat) : Prop :=
  (∀ j, j ≠ sid → t.strmAt j = s.strmAt j) ∧ ∀ j, j ≠ 4 * m + c → t.chan j = s.chan j

/-- The block serves writes of the HOST port: RUN, the port out of reset, neither RETAIN nor its wake, and no access met
there still waits. -/
structure State.Serves (s : State) : Prop where
  run : s.boot.state = 13
  host : s.pins.host = false
  retain : s.pwr.state ≠ 4
  wake : s.pwr.state ≠ 5
  wait : s.host.wait = []

/-- The state in which a write finds the block: DOZE has ended, a drain for RETAIN is cancelled, and a held low half is
discarded. -/
def State.reached (s : State) : State :=
  { s with
    host := { s.host with held := none }
    pwr := if s.pwr.state = 2 then { s.pwr with state := 0, wake := false }
      else if s.pwr.state = 3 then { s.pwr with state := 0, canc := true, rreq := false } else s.pwr }

/-- The management core is up: power is present and the always-on reset released. -/
structure State.Managed (s : State) : Prop where
  power : s.pwr.off = false
  aon : s.pins.aon = false

end Machine

end Sys2Proof
end

