-- ==== Sys2Proof/Certificates/Slice0/Obligations.lean ====
section
/-! DEFINITION. The statements for the provers. -/

open Sys2Proof Sys2Proof.Machine

/-! ### The queue -/

/-- A step runs the command at the front of the queue on the state with the queue's rest. With an empty queue the block
ticks; but where HOST accesses wait that were met in RETAIN or its wake, and the block has left both, the one that has
waited longest is performed, and the others go on waiting behind it (R384). -/
def Obligations.step_runs_front : Prop :=
  (∀ (s : State) (c : Instr) (q : List Instr), step { s with pending := c :: q } = exec c { s with pending := q }) ∧
  (∀ s : State, s.pending = [] → s.host.wait = [] ∨ s.pwr.state = 4 ∨ s.pwr.state = 5 → step s = .next s.tick) ∧
  ∀ (s t : State) (c : Instr) (l : List Instr), s.pending = [] → s.host.wait = c :: l → s.pwr.state ≠ 4 →
    s.pwr.state ≠ 5 → exec c { s with host := { s.host with wait := [] } } = .next t →
    step s = .next { t with host := { t.host with wait := l ++ t.host.wait } }

/-! ### Stream commands -/

/-- NOP and FENCE: once every earlier command has completed, the command has no effect but its completion (R141, R147).
WAIT on a counter (KIND 1) or a rope line (KIND 2) whose condition holds completes and changes nothing else (R145,
R225): in BARRIER mode and on a line the 32-bit difference is taken as signed, in the other modes the comparison is
unsigned. -/
def Obligations.nop_fence_and_wait_complete : Prop :=
  (∀ (s : State) (m : Fin 64) (c : Fin 4) (sid : Nat) (k : CmdCtx), s.Holds m c sid k →
     (cOpc k.raw = 0 → ∃ t, exec (.nop m c) s = .next t ∧ t.Done m c sid k ∧ s.Others t m c sid
       ∧ t = { s with strms := t.strms, chans := t.chans }) ∧
     (cOpc k.raw = 11 → ∃ t, exec (.fence m c) s = .next t ∧ t.Done m c sid k ∧ s.Others t m c sid
       ∧ t = { s with strms := t.strms, chans := t.chans })) ∧
  (∀ (s : State) (m : Fin 64) (c : Fin 4) (sid : Nat) (k : CmdCtx), s.Holds m c sid k → cOpc k.raw = 8 →
     (let q := s.cnt (64 * (s.strmAt sid).hmv.toNat + cf k.raw 9 0 6)
      let line := s.rope (cf k.raw 9 0 6)
      let w := BitVec.ofNat 32 (cf k.raw 12 0 32)
      if cf k.raw 8 0 2 = 1 then (if q.mode = 0 then 0 ≤ (q.value - w).toInt else w.toNat ≤ q.value.toNat)
      else 0 ≤ (line.round - w).toInt) →
     ∃ t, exec (.wait m c) s = .next t ∧ t.Done m c sid k ∧ s.Others t m c sid
       ∧ t = { s with strms := t.strms, chans := t.chans })

/-- SIGNAL with SOP=0 and neither a flag write nor an attached signal completes, and changes nothing else. With an
attached signal to a counter in COUNT or LANDING mode that passes its check, VALUE takes the signed increment,
saturating, with OVF and UNF; no other counter and no rope line changes, and the command completes. With a flag write
whose page the Mover's micro-TLB maps for writing, the write is issued with its 4 or 8 bytes, and the other effects
await its response (R146, R225, R228). SIGNAL with SOP=1 and neither a flag write nor an attached signal, of a stream
with a home, on a counter that is not bound to another tenant and, in BARRIER mode, is not in a round: MODE, PART and
VALUE of counter CTGT of the home Mover take CMODE, CPART and CINIT; ARR, NEXT, OVF, UNF and DENT are cleared; the
counter is bound to the stream's tenant; no other counter and no rope line changes, and the command completes (R146,
R223, R224). -/
def Obligations.signals : Prop :=
  (∀ (s : State) (m : Fin 64) (c : Fin 4) (sid : Nat) (k : CmdCtx), s.Holds m c sid k → cOpc k.raw = 9 →
     cf k.raw 8 0 2 = 0 →
     (cb k.raw 8 2 = false → cSkind k.raw = 0 → ∃ t, exec (.signal m c) s = .next t
       ∧ t.Done m c sid { k with sigDone := true } ∧ s.Others t m c sid ∧ t = { s with strms := t.strms, chans := t.chans }) ∧
     (cb k.raw 8 2 = false → cSkind k.raw = 1 → s.syncOk (s.strmAt sid) .signal 1 (cStgt k.raw) = true →
       (s.cnt (64 * (s.strmAt sid).hmv.toNat + cStgt k.raw)).mode ≠ 0 →
       let key := 64 * (s.strmAt sid).hmv.toNat + cStgt k.raw
       let q := s.cnt key
       let v : Int := q.value.toNat + sgn (cf k.raw 6 0 16) 16
       ∃ t, exec (.signal m c) s = .next t
         ∧ t.cnt key = { q with
             value := if 2 ^ 32 ≤ v then 0xFFFFFFFF else if v < 0 then 0 else BitVec.ofInt 32 v
             ovf := q.ovf || decide (2 ^ 32 ≤ v)
             unf := q.unf || decide (v < 0) }
         ∧ (∀ j, j ≠ key → t.cnt j = s.cnt j) ∧ t.ropes = s.ropes
         ∧ (∀ j, j ≠ 4 * m.val + c.val → t.chan j = s.chan j)
         ∧ (∀ j, j ≠ sid → (∀ e ∈ s.strms, e.1 = j → e.2.st ≠ .waiting) → t.strmAt j = s.strmAt j)
         ∧ t.Done m c sid { k with sigDone := true }) ∧
     (cb k.raw 8 2 = true → let x := s.strmAt sid
       let va := cf k.raw 16 0 48
       let n := if cb k.raw 8 3 then 8 else 4
       (s.ten x.ten.toNat).rootEn = true →
       (∀ e ∈ (s.mover m).utlb, e.bad = false) → (∀ e ∈ (s.xlU x.part.toNat).l2, e.bad = false) →
       ∀ e, ((s.mover m).utlb.find? fun e => e.maps x.ten x.tgen va) = some e → e.wr = true →
       ∃ t, exec (.signal m c) s = .next t ∧ (t.chan (4 * m.val + c.val)).ph = .flag ∧ t.cnts = s.cnts ∧ t.ropes = s.ropes
         ∧ t.strms = s.strms ∧ ∃ a ∈ t.acc, a.aid = s.nextAid ∧ a.kind = .flag ∧ a.wr = true ∧ a.va = va ∧ a.len = n
           ∧ a.pa = e.pa va ∧ a.data = toLE n (cf k.raw 24 0 64) ∧ a.en = List.replicate n true)) ∧
  (∀ (s : State) (m : Fin 64) (c : Fin 4) (sid : Nat) (k : CmdCtx), s.Holds m c sid k → cOpc k.raw = 9 →
     cf k.raw 8 0 2 = 1 → cb k.raw 8 2 = false → cSkind k.raw = 0 → (s.strmAt sid).hen = true →
     cf k.raw 9 0 2 ≠ 3 → (cf k.raw 9 0 2 = 0 ↔ cf k.raw 10 0 4 ≠ 0) →
     let key := 64 * (s.strmAt sid).hmv.toNat + cf k.raw 11 0 6
     let q := s.cnt key
     (q.bound = true → q.ten = (s.strmAt sid).ten ∧ (q.mode = 0 → q.arr = 0 ∧ q.next = 0)) →
     ∃ t, exec (.signalConfigure m c) s = .next t
       ∧ t.cnt key = { value := BitVec.ofNat 32 (cf k.raw 12 0 32), mode := BitVec.ofNat 2 (cf k.raw 9 0 2),
                       part := BitVec.ofNat 4 (cf k.raw 10 0 4), arr := 0, next := 0, bound := true, ovf := false,
                       unf := false, dent := false, ten := (s.strmAt sid).ten }
       ∧ (∀ j, j ≠ key → t.cnt j = s.cnt j) ∧ t.ropes = s.ropes
       ∧ (∀ j, j ≠ 4 * m.val + c.val → t.chan j = s.chan j)
       ∧ (∀ j, j ≠ sid → (∀ e ∈ s.strms, e.1 = j → e.2.st ≠ .waiting) → t.strmAt j = s.strmAt j)
       ∧ t.Done m c sid { k with sigDone := true })

/-- BARRIER on a BARRIER-mode counter, by the channel whose arrival is the last one: the round completes, VALUE increases
by 1, ARR takes NEXT and NEXT is cleared, and the BARRIER completes with its arrival registered. Where the arrivals
held in NEXT make up the next round, that round completes as well (R230, R231). -/
def Obligations.barrier_completes_round : Prop :=
  ∀ (s : State) (m : Fin 64) (c : Fin 4) (sid : Nat) (k : CmdCtx), s.Holds m c sid k → cOpc k.raw = 10 →
    cf k.raw 8 0 2 = 1 → (s.strmAt sid).arrd = false →
    let key := 64 * (s.strmAt sid).hmv.toNat + cf k.raw 9 0 6
    let q := s.cnt key
    q.mode = 0 → q.bound = true → q.arr &&& BitVec.ofNat 4 (2 ^ c.val) = 0 →
    q.arr ||| BitVec.ofNat 4 (2 ^ c.val) = q.part →
    (∀ e ∈ s.strms, ∀ r, e.2.wait ≠ .dblCounter key r true) →
    ∃ t, exec (.barrier m c) s = .next t
      ∧ t.cnt key = (if q.next = q.part then { q with value := q.value + 2, arr := 0, next := 0 }
          else { q with value := q.value + 1, arr := q.next, next := 0 })
      ∧ (∀ j, j ≠ key → t.cnt j = s.cnt j) ∧ t.ropes = s.ropes
      ∧ t.Done m c sid k ∧ (t.strmAt sid).arrd = true ∧ (t.strmAt sid).ntile.toNat = (q.value + 1).toNat

/-- REARM of an ARMED stream of the submitting tenant, without a Firn pin, which nothing keeps from running: the base
registers of BMASK are loaded, PC and PASS become 0, the submitting queue becomes the stream's queue, the stream is
READY, and the REARM completes at once. REARM of an ARMED receive stream loads the base registers of BMASK and leaves
it ARMED. No third stream changes (R148, R290). LOAD of a stream below the glacier IDs, from an image that keeps the
rules, into an EMPTY record that the partition owns: the target is ARMED, with the submitting stream's tenant,
generation, partition and queue, the program, home and window of the image, and the base registers of BMASK over the
image's; of a receive stream the placement descriptor is kept. UNLOAD of an ARMED stream of the tenant without a Firn
pin makes it EMPTY. Both complete, and no third stream changes (R148, R166, R290). -/
def Obligations.rearm_load_unload : Prop :=
  (∀ (s : State) (m : Fin 64) (c : Fin 4) (sid : Nat) (k : CmdCtx), s.Holds m c sid k → cOpc k.raw = 16 →
     cRop k.raw = 0 →
     let x := s.strmAt sid
     let y := s.strmAt (cTarget k.raw)
     cTarget k.raw ≠ sid → y.pers = true → y.ten = x.ten → y.tgen = x.tgen → x.tgen = (s.ten x.ten.toNat).gen → y.st = .armed →
     let based := fun (z : Strm) =>
       z.b0 = (if cb k.raw 11 0 then BitVec.ofNat 48 (cf k.raw 16 0 48) else y.b0)
       ∧ z.b1 = (if cb k.raw 11 1 then BitVec.ofNat 48 (cf k.raw 24 0 48) else y.b1)
       ∧ z.b2 = (if cb k.raw 11 2 then BitVec.ofNat 48 (cf k.raw 32 0 48) else y.b2)
       ∧ z.b3 = (if cb k.raw 11 3 then BitVec.ofNat 48 (cf k.raw 40 0 48) else y.b3)
     (y.rcv = false → y.fgenp = 0 → s.homeOut (cTarget k.raw) = false → s.homeBusy (cTarget k.raw) = false →
       s.hasHeld (cTarget k.raw) = false →
       ∃ t, exec (.rearm m c) s = .next t ∧ t.Done m c sid k
         ∧ (let z := t.strmAt (cTarget k.raw)
            based z ∧ z = { y with st := .ready, wait := .none, pc := 0, pass := 0, queue := x.queue, b0 := z.b0, b1 := z.b1,
                                   b2 := z.b2, b3 := z.b3, readySeq := z.readySeq, stopAt := z.stopAt })
         ∧ (∀ j, j ≠ sid → j ≠ cTarget k.raw → t.strmAt j = s.strmAt j)
         ∧ t = { s with strms := t.strms, chans := t.chans, tens := t.tens, seq := t.seq }) ∧
     (y.rcv = true → ∃ t, exec (.rearm m c) s = .next t ∧ t.Done m c sid k
         ∧ (let z := t.strmAt (cTarget k.raw)
            based z ∧ z = { y with b0 := z.b0, b1 := z.b1, b2 := z.b2, b3 := z.b3 })
         ∧ (∀ j, j ≠ sid → j ≠ cTarget k.raw → t.strmAt j = s.strmAt j)
         ∧ t = { s with strms := t.strms, chans := t.chans })) ∧
  (∀ (s : State) (m : Fin 64) (c : Fin 4) (sid : Nat) (k : CmdCtx), s.Holds m c sid k → cOpc k.raw = 16 →
     cTarget k.raw ≠ sid → cTarget k.raw < 40960 →
     let x := s.strmAt sid
     let y := s.strmAt (cTarget k.raw)
     let i := k.copy 8
     x.tgen = (s.ten x.ten.toNat).gen →
     (cRop k.raw = 1 → y.st = .empty → s.idOk x.part.toNat (cTarget k.raw) = true → imageRangeBad i = false →
       bfld i 8 0 48 % (if bbit i 0 6 then 128 else 4096) = 0 →
       ∃ t, exec (.load m c) s = .next t ∧ t.Done m c sid k
         ∧ t.strmAt (cTarget k.raw) = { Strm.reset with
             st := .armed, pers := true, hen := bbit i 0 5, rcv := bbit i 0 6, ten := x.ten, tgen := x.tgen, part := x.part
             queue := x.queue, hmv := BitVec.ofNat 6 (bfld i 6 0 6), hch := BitVec.ofNat 2 (bfld i 6 6 2)
             plen := BitVec.ofNat 7 (bfld i 7 0 7), paddr := BitVec.ofNat 48 (bfld i 8 0 48)
             pfw := BitVec.ofNat 5 (bfld i 15 0 5)
             b0 := BitVec.ofNat 48 (if cb k.raw 11 0 then cf k.raw 16 0 48 else bfld i 24 0 48)
             b1 := BitVec.ofNat 48 (if cb k.raw 11 1 then cf k.raw 24 0 48 else bfld i 30 0 48)
             b2 := BitVec.ofNat 48 (if cb k.raw 11 2 then cf k.raw 32 0 48 else bfld i 36 0 48)
             b3 := BitVec.ofNat 48 (if cb k.raw 11 3 then cf k.raw 40 0 48 else bfld i 42 0 48)
             lctr := BitVec.ofNat 6 (bfld i 54 0 6), place := if bbit i 0 6 then k.copy 9 else [] }
         ∧ (∀ j, j ≠ sid → j ≠ cTarget k.raw → t.strmAt j = s.strmAt j)
         ∧ t = { s with strms := t.strms, chans := t.chans }) ∧
     (cRop k.raw = 2 → y.pers = true → y.ten = x.ten → y.tgen = x.tgen → y.st = .armed → y.fgenp = 0 →
       ∃ t, exec (.unload m c) s = .next t ∧ t.Done m c sid k
         ∧ t.strmAt (cTarget k.raw) = Strm.reset ∧ (∀ j, j ≠ sid → j ≠ cTarget k.raw → t.strmAt j = s.strmAt j)
         ∧ t = { s with strms := t.strms, chans := t.chans, parts := t.parts }
         ∧ (y.slots = [] → t.part y.part.toNat = s.part y.part.toNat)
         ∧ ∀ p, p ≠ y.part.toNat → t.part p = s.part p))

/-- LOOP with BAT=0 and nothing pending: PASS increases by 1, the stream takes LCNT from the command, and the arming ends
exactly when LCNT ≠ 0 and PASS = LCNT (R149). -/
def Obligations.loop_counts_passes : Prop :=
  ∀ (s : State) (m : Fin 64) (c : Fin 4) (sid : Nat) (k : CmdCtx), s.Holds m c sid k → cOpc k.raw = 17 →
    k.stage = .copies → cb k.raw 12 0 = false → (s.strmAt sid).rpend = none → k.endArm = false → k.toArmed = false →
    let n := (s.strmAt sid).pass + 1
    let l := BitVec.ofNat 32 (cf k.raw 8 0 32)
    let last := decide (l ≠ 0 ∧ n = l)
    ∃ t, exec (.loop m c) s = .next t ∧ (t.strmAt sid).pass = n ∧ (t.strmAt sid).lcnt = l
      ∧ t.Done m c sid { k with pass := n, endArm := last, toArmed := last } ∧ s.Others t m c sid
      ∧ t.acc = s.acc ∧ t.cnts = s.cnts ∧ t.ropes = s.ropes

/-- TABLE LOAD of a stream without a Firn pin, where slot n is the lowest free one: the slot takes the curve, owned by the
tenant and not yet current; TABLE RELEASE clears KEEP of the generation named. Both complete (R107, R109). -/
def Obligations.table_commands : Prop :=
  ∀ (s : State) (m : Fin 64) (c : Fin 4) (sid : Nat) (k : CmdCtx), s.Holds m c sid k → cOpc k.raw = 18 →
    (s.strmAt sid).fgenp = 0 →
    let p := (s.strmAt sid).part.toNat
    (cb k.raw 8 0 = false → ∀ n, s.freeSlot p = some n → ∃ t, exec (.tableLoad m c) s = .next t
      ∧ (let f := (t.part p).ftab.get FSlot.reset n
         f.curve = BitVec.ofNat 256 (leNat (k.copy 7)) ∧ f.ten = (s.strmAt sid).ten ∧ f.current = false
         ∧ f.keep = cb k.raw 8 1 ∧ f.pins = 0)
      ∧ (∀ i, i ≠ n → (t.part p).ftab.get FSlot.reset i = (s.part p).ftab.get FSlot.reset i)
      ∧ (t.chan (4 * m + c)).ph = .done) ∧
    (cb k.raw 8 0 = true → ∀ n, s.genSlot p (s.strmAt sid).ten (cf k.raw 9 0 8) = some n →
      ∃ t, exec (.tableRelease m c) s = .next t ∧ ((t.part p).ftab.get FSlot.reset n).keep = false
      ∧ ((t.part p).ftab.get FSlot.reset n).curve = ((s.part p).ftab.get FSlot.reset n).curve
      ∧ (∀ i, i ≠ n → (t.part p).ftab.get FSlot.reset i = (s.part p).ftab.get FSlot.reset i)
      ∧ t.Done m c sid { k with tslot := some n })

/-- The start of a data command whose descriptors are held and pass, whose near beats the windows allow, and of which
nothing has been read ahead, with no translation cached. TRANSFER and METER without Firn, a remote side or a STRM
source: tile 0 starts, with the LFSR seeded where RND is 2 and SEED is not 0; the reads made cover every byte that the
tile reads, and each far page that it writes is to be translated. GATHER and SCATTER whose list entries have not been
read: the reads made cover every entry that tile 0 needs (R60, R63, R85, R126, R143, R189). -/
def Obligations.data_commands_start : Prop :=
  ∀ (s : State) (m : Fin 64) (c : Fin 4) (sid : Nat) (k : CmdCtx), s.Holds m c sid k → k.stage = .copies →
    s.placesTo sid k 5 = none → k.skipped = false → cRwr k.raw = false → cRrd k.raw = false →
    let x := s.strmAt sid
    let g := geoOf x k
    (cFgen k.raw ≠ 0 → (s.genSlot x.part.toNat x.ten (cFgen k.raw)).isSome = true) →
    (s.ten x.ten.toNat).rootEn = true → (s.mover m).utlb = [] → (s.xlU x.part.toNat).l2 = [] →
    (∀ e ∈ (s.xlU x.part.toNat).wc, e.bad = false) → (s.ch m c).pf = [] → 0 < g.tiles →
    g.sd.firn = false → (g.meter = false → g.dd.firn = false) → s.nearBad x.part.toNat 0 { k with td := none } g = none →
    let started := fun (t : State) => (t.ch m c).act = some sid ∧ (t.ch m c).ph = .tiles ∧ (t.ch m c).tile = 0
      ∧ (t.strmAt sid).ntile = 0 ∧ ((t.strmAt sid).cmd.map (·.stage)) = some .tiles
      ∧ (t.ch m c).lfsr = (if cRnd k.raw = 2 ∧ cSeed k.raw ≠ 0 then BitVec.ofNat 32 (cSeed k.raw) else (s.ch m c).lfsr)
      ∧ (∀ j, j ≠ sid → t.strmAt j = s.strmAt j) ∧ (∀ j, j ≠ 4 * m.val + c → t.chan j = s.chan j)
      ∧ t = { s with strms := t.strms, chans := t.chans, acc := t.acc, nextAid := t.nextAid, xl := t.xl }
    let covers := fun (t : State) (kind : AKind) (space v : Nat) =>
      ∃ a ∈ t.acc, a.kind = kind ∧ a.rq = .mover m ∧ a.ch = c ∧ a.wr = false ∧ a.space = space ∧ a.va ≤ v ∧ v < a.va + a.len
    (s.tdestOf sid = none → g.tileReads 0 ≠ [] →
      let done := fun (t : State) => started t
        ∧ (∀ v ∈ g.tileReads 0, covers t (.source 0) (if g.sd.space then g.sd.nport + 1 else 0) v)
        ∧ (g.meter = true ∨ g.dd.space = false → ∀ v ∈ g.tileAddrs 0, ∃ a ∈ t.acc, a.kind = .probe 0 ∧ a.rq = .mover m ∧ a.ch = c
            ∧ a.va / 4096 = v / 4096)
      (cOpc k.raw = 1 → ∃ t, exec (.transfer m c) s = .next t ∧ done t) ∧
      (cOpc k.raw = 4 → ∃ t, exec (.meter m c) s = .next t ∧ done t)) ∧
    (k.idx = [] → g.tileEntries 0 ≠ [] →
      let z := entSize (cIfmt k.raw) (cImask k.raw)
      let done := fun (t : State) => started t
        ∧ ∀ e ∈ g.tileEntries 0, ∀ i, i < z → covers t (.list 0) 0 (cIaddr k.raw + e * z + i)
      (cOpc k.raw = 2 → ∃ t, exec (.gather m c) s = .next t ∧ done t) ∧
      (cOpc k.raw = 3 → ∃ t, exec (.scatter m c) s = .next t ∧ done t))

/-! ### The life of a command -/

/-- A command read with OKAY. A ring slot that holds a NOP: HEAD moves on round the ring, OUTST increases by 1, and the
channel holds the command, decoded. A pair of a program that holds a NOP at PC: likewise, PC unchanged. The read of a
TABLE LOAD's image, kept as its copy: the command is decoded (R12, R106, R153, R159, R166, R306, R307). -/
def Obligations.commands_read : Prop :=
  ∀ (s : State) (m : Fin 64) (c : Fin 4) (sid : Nat) (data : List Byte) (a : Access),
    let x := s.strmAt sid
    let plain := fun (r : BitVec 512) => cOpc r = 0 ∧ reservedZero r = true ∧ cSkind r = 0
    (s.ch m c).act = some sid → (s.ch m c).stop = none → (s.ch m c).abort = false → x.abortHeld = false →
    ((s.ch m c).ph = .fetch → (s.acc.find? fun b => ofChan m c b && (b.kind == .ring || b.kind == .program) && b.stage == .out) = some a →
      (a.kind = .ring → x.pers = false → plain (cmdOf data) → ∃ t k, exec (.commandFetched m c data .okay) s = .next t
        ∧ t.Holds m c sid k ∧ k.raw = cmdOf data ∧ k.stage = .copies ∧ k.recQueue = x.queue
        ∧ t.sq sid = { s.sq sid with
            head := BitVec.ofNat 16 (((s.sq sid).head.toNat + 1) % 2 ^ (s.sq sid).log2sz.toNat), outst := (s.sq sid).outst + 1 }
        ∧ (∀ j, j ≠ sid → t.sq j = s.sq j) ∧ t.acc = s.acc.filter (fun b => b.aid ≠ a.aid)
        ∧ s.Others t m c sid ∧ t = { s with sqs := t.sqs, strms := t.strms, chans := t.chans, acc := t.acc }) ∧
      (a.kind = .program → x.pers = true → x.ran = true → a.va = x.paddr.toNat + 128 * (x.pc.toNat / 2) →
        x.pc.toNat + 1 ≠ x.plen.toNat → (∀ e ∈ (s.dcU x.part.toNat).tabs, e.bad = false) → plain (cmdOf (data.drop (64 * (x.pc.toNat % 2)))) →
        ∃ t k, exec (.commandFetched m c data .okay) s = .next t ∧ t.Holds m c sid k
        ∧ k.raw = cmdOf (data.drop (64 * (x.pc.toNat % 2))) ∧ (t.strmAt sid).pc = x.pc
        ∧ s.Others t m c sid ∧ t = { s with strms := t.strms, chans := t.chans, acc := t.acc, dc := t.dc })) ∧
    (∀ k, x.cmd = some k → (s.ch m c).ph = .dreads → (s.ch m c).dflt = none → (s.ch m c).bad = false → (s.ch m c).got = [] →
      s.decodeReads m c = [a] → a.stage = .out → k.got = [] → k.missing = [7] → cOpc k.raw = 18 → cb k.raw 8 0 = false →
      let v := cf k.raw 16 0 48
      v % 32 = 0 → a.va = v / 64 * 64 → data.length = 64 → curveBad ((data.drop (v % 64)).take 32) = false →
      ∃ t k', exec (.decodeReadsDone m c [(data, .okay)] false) s = .next t ∧ t.Holds m c sid k'
        ∧ k'.raw = k.raw ∧ k'.stage = .copies ∧ k'.copy 7 = (data.drop (v % 64)).take 32 ∧ k'.missing = []
        ∧ t.acc = s.acc.filter (fun b => b.aid ≠ a.aid) ∧ s.Others t m c sid
        ∧ t = { s with strms := t.strms, chans := t.chans, acc := t.acc, dc := t.dc })

/-- A slot step boundary whose table asks for one thing, the JOIN of an EMPTY slot that the Staging allotment can hold:
with the boundary the slot is to be ACTIVE with the entry's space and offsets, and every other slot to stay as it is;
the space is held from now on, and STATE 1 and ACK = SEQ are written to the entry's bytes 2 and 3. The stream's slots
change only when the table has been written (R134 to R138, R202). -/
def Obligations.slot_joins : Prop :=
  ∀ (s : State) (m : Fin 64) (c : Fin 4) (sid base : Nat) (data : List Byte) (n : Fin 256) (l : List Access),
    let x := s.strmAt sid
    let p := x.part.toNat
    let ent := fun (i : Nat) => (data.drop (32 * i)).take 32
    let rsv := bfld (ent n) 4 0 16
    (s.ch m c).act = some sid → (s.ch m c).ph = .slots → (s.ch m c).stop = none → (s.ch m c).got = [] →
    (s.acc.filter fun a => ofChan m c a && a.kind == .slotTable) = l → (∀ a ∈ l, a.stage = .out) →
    l.map (·.va) = (List.range 4).map (fun i => base + 2048 * i) → data.length = 8192 →
    (∀ i, i < 256 → i ≠ n.val → bfld (ent i) 1 0 8 = bfld (ent i) 3 0 8) → bfld (ent n) 1 0 8 ≠ bfld (ent n) 3 0 8 →
    bfld (ent n) 0 0 2 = 1 → x.slots.find n = none → 0 < rsv → rsv ≤ 256 → (s.part p).bsUsed + rsv ≤ (s.part p).bsa.toNat →
    slotSpace x.slots 1 ≤ (s.part p).bsUsed → slotSpace x.slots 2 ≤ (s.part p).spUsed →
    (∀ e ∈ x.slots, e.2.st = 2 → e.2.units ≠ []) →
    (s.ten x.ten.toNat).rootEn = true → (s.mover m).utlb = [] → (s.xlU p).l2 = [] →
    ∃ t b, exec (.slotTableReadDone m c data .okay) s = .next t ∧ (t.ch m c).bnd = some b
      ∧ b.find n = some { st := 1, rsv := BitVec.ofNat 16 rsv, ord := 0, units := []
                          soff := BitVec.ofNat 48 (bfld (ent n) 8 0 48)
                          doff := BitVec.ofNat 48 (bfld (ent n) 16 0 48) }
      ∧ (∀ i, i ≠ n.val → b.find i = x.slots.find i) ∧ t.strms = s.strms
      ∧ (t.part p).bsUsed = (s.part p).bsUsed + rsv ∧ (t.part p).spUsed = (s.part p).spUsed
      ∧ (∃ a ∈ t.acc, a.kind = .slotWrite ∧ a.wr = true ∧ a.va = base + 32 * n + 2 ∧ a.len = 2
          ∧ a.data = [1, BitVec.ofNat 8 (bfld (ent n) 1 0 8)] ∧ a.en = [true, true])
      ∧ (∀ j, j ≠ p → t.part j = s.part j) ∧ (∀ j, j ≠ 4 * m.val + c → t.chan j = s.chan j)

/-- A page walk's read, in RUN, for a source read of a Mover, with no other walk waiting. A valid leaf of level 0 with the
permission ends the walk: the access has its physical address and waits for its issue, and the translation stands
first in the micro-TLB and the L2 TLB. A valid entry that is not a leaf leads to the read of the entry of the next
level (R180, R182, R185). -/
def Obligations.page_walks : Prop :=
  ∀ (s : State) (p : Fin 8) (entry : BitVec 64) (w : Walk) (a b : Access) (m n : Nat),
    s.boot.state = 13 → (s.xlU p).walk = some w → (s.xlU p).queue = [] → w.discard = false →
    (s.acc.find? fun a => a.rq == .walk && a.part == p.val && a.stage == .out && !a.drain) = some a →
    s.findAcc w.req.aid = some b → b.aid ≠ a.aid → b.rq = .mover m → b.kind = .source n → w.req.va = b.va → w.req.wr = b.permW →
    entry.getLsbD 0 = true → entry.extractLsb' 6 6 = 0 → entry.extractLsb' 48 16 = 0 →
    let page := (entry.extractLsb' 12 36).toNat
    (w.lvl = 0 → entry.getLsbD 1 = true → entry.extractLsb' 4 2 ≠ 3 → entry.getLsbD (if w.req.wr then 3 else 2) = true →
      let e : TlbE := { ten := w.req.ten, gen := w.req.gen, lvl := 0, vpn := b.va / 4096, ppn := page, rd := entry.getLsbD 2
                        wr := entry.getLsbD 3, attr := entry.extractLsb' 4 2 }
      ∃ t b', exec (.walkReadResponse p entry .okay false) s = .next t ∧ t.findAcc b.aid = some b'
        ∧ b' = { b with pa := page * 4096 + b.va % 4096, stage := .issue, cache := b'.cache, port := b'.port, qos := b'.qos }
        ∧ b'.cache = (if entry.extractLsb' 4 2 = 0 then 0x0 else if entry.extractLsb' 4 2 = 1 then 0x3 else 0xF)
        ∧ t.acc.map (·.aid) = (s.acc.filter fun q => q.aid ≠ a.aid).map (·.aid)
        ∧ (t.xlU p).walk = none ∧ (t.xlU p).l2.head? = some e ∧ (t.mover m).utlb.head? = some e
        ∧ t = { s with acc := t.acc, xl := t.xl, movers := t.movers }) ∧
    (w.lvl ≠ 0 → entry.getLsbD 1 = false → entry.extractLsb' 2 4 = 0 →
      let l := w.lvl.toNat - 1
      ∃ t w' a', exec (.walkReadResponse p entry .okay false) s = .next t
        ∧ (t.xlU p).walk = some w' ∧ w'.req = w.req ∧ w'.lvl = w.lvl - 1 ∧ w'.tbl.toNat = page
        ∧ t.acc = (s.acc.filter fun q => q.aid ≠ a.aid) ++ [a'] ∧ a'.kind = .walkRead ∧ a'.wr = false ∧ a'.len = 8
        ∧ a'.pa = page * 4096 + 8 * (b.va / 2 ^ (12 + 9 * l) % 512)
        ∧ t = { s with acc := t.acc, nextAid := s.nextAid + 1, xl := t.xl })

/-- Data of one of several source reads of a tile go to the read reorder space, and the others are awaited. TILE_READY of
the command's last tile, which lies whole in its slot and whose destination is far and translated: its writes carry,
enabled, exactly the bytes of the tile, the last one at each address, at the physical addresses of its pages; the tile
is left and NTILE counts on (R59, R62, R63, R309, R422). -/
def Obligations.tiles : Prop :=
  ∀ (s : State) (m : Fin 64) (c : Fin 4) (sid : Nat), (s.ch m c).act = some sid → isEcn sid = false →
    (∀ (a b : Access) (n : Nat) (data : List Byte), s.findAcc a.aid = some a → a.rq = .mover m → a.ch = c.val →
      a.kind = .source n → a.stage = .out → a.wr = false → a.drain = false →
      b ∈ s.acc → b.aid ≠ a.aid → ofChan m c b = true → b.kind = .source n →
      ∃ t, exec (.sourceReadResponse a.aid data .okay false) s = .next t
        ∧ t.ch m c = { s.ch m c with got := (a.va, data) :: (s.ch m c).got }
        ∧ (∀ j, j ≠ 4 * m.val + c → t.chan j = s.chan j) ∧ t.acc = s.acc.filter (fun q => q.aid ≠ a.aid)
        ∧ t = { s with chans := t.chans, acc := t.acc }) ∧
    (∀ (k : CmdCtx) (tl : TileSlot), (s.strmAt sid).cmd = some k → (s.ch m c).slot = some tl → (s.ch m c).ph = .tiles →
      (s.ch m c).stop = none → (s.ch m c).abort = false → (∀ a ∈ s.acc, ofChan m c a = true → a.kind ≠ .probe tl.tile) →
      s.slotAwaits m c tl.tile = false →
      let g := runGeo (s.strmAt sid) k
      let bytes := lastWrites tl.bytes
      g.rwr = false → (g.dd.space && !g.meter) = false → g.tiles = tl.tile + 1 → tl.bytes ≠ [] → (∀ e ∈ tl.bytes, e.1 < 2 ^ 48) →
      ∃ t, exec (.tileReady m c .good) s = .next t
        ∧ (∀ v b, bytes.find v = some b → ∃ a ∈ t.acc, a.kind = .dest tl.tile ∧ a.wr = true ∧ a.stage = .issue
            ∧ a.va ≤ v ∧ a.data[v - a.va]? = some b ∧ a.en[v - a.va]? = some true
            ∧ ∀ pg at', (s.ch m c).xl.find (v / 4096) = some (pg, at') → a.pa + (v - a.va) = pg.toNat * 4096 + v % 4096)
        ∧ (∀ a ∈ t.acc, a ∉ s.acc → a.kind = .dest tl.tile
            ∧ ∀ i, a.en[i]? = some true → bytes.find (a.va + i) = a.data[i]?)
        ∧ (∀ a ∈ s.acc, a ∈ t.acc) ∧ (t.ch m c).slot = none ∧ (t.ch m c).tile = tl.tile + 1 ∧ (t.ch m c).lfsr = (s.ch m c).lfsr
        ∧ (t.strmAt sid).ntile = BitVec.ofNat 40 (tl.tile + 1) ∧ s.Others t m c sid
        ∧ t = { s with strms := t.strms, chans := t.chans, acc := t.acc, nextAid := t.nextAid, stg := t.stg, free := t.free })

/-- OKAY responses. Of one of several writes of tiles, where no reset is under way: its enabled bytes count as written. Of
the read-back: the command has had its effect. Of the flag write of a SIGNAL without configuration and attached
signal: likewise (R59, R146, R170, R172). -/
def Obligations.write_responses : Prop :=
  ∀ (s : State) (m : Fin 64) (a : Access) (k : CmdCtx), s.findAcc a.aid = some a → a.rq = .mover m → a.stage = .out →
    a.drain = false → (s.ch m a.ch).act = some a.sid → (s.strmAt a.sid).cmd = some k → a.ch < 4 →
    let left := s.acc.filter fun q => q.aid ≠ a.aid
    (∀ (b : Access) (n : Nat), (∀ p : Fin 8, (s.rstE p).busy = false) → a.kind = .dest n → a.wr = true → (s.ch m a.ch).stop = none → (s.ch m a.ch).abort = false →
      b ∈ left → b.rq = .mover m → b.ch = a.ch → b.wr = true → b.kind = .dest n → b.drain = false →
      ∃ t k', exec (.writeResponse a.aid .okay) s = .next t ∧ (t.strmAt a.sid).cmd = some k' ∧ k' = { k with ok := k'.ok }
        ∧ (∀ j, k'.ok.get 0 j = k.ok.get 0 j + if j = n then (a.en.filter id).length else 0)
        ∧ (∀ j, j ≠ a.sid → t.strmAt j = s.strmAt j) ∧ t.acc = left ∧ t = { s with strms := t.strms, acc := t.acc }) ∧
    (a.kind = .readBack → ∃ t, exec (.readBackResponse a.aid .okay) s = .next t ∧ t.Done m a.ch a.sid k
      ∧ s.Others t m a.ch a.sid ∧ t.acc = left ∧ t = { s with strms := t.strms, chans := t.chans, acc := t.acc }) ∧
    (a.kind = .flag → cf k.raw 8 0 2 = 0 → cSkind k.raw = 0 → ∃ t, exec (.flagWriteResponse a.aid .okay) s = .next t
      ∧ t.Done m a.ch a.sid { k with sigDone := true } ∧ s.Others t m a.ch a.sid ∧ t.acc = left
      ∧ t = { s with strms := t.strms, chans := t.chans, acc := t.acc })

/-- The completion phase of a command without a signal. Of a queue's stream, with room in its completion queue and no
further slot to read: the record has the next slot, its write is made, the stream is ARMED and leaves the channel. Of
a program's command that needs no record: PC moves on, to 0 at the end, and the read of the next pair is made (R157,
R159, R160, R166, R171, R310). No translation is cached. -/
def Obligations.commands_complete : Prop :=
  ∀ (s : State) (m : Fin 64) (c : Fin 4) (sid : Nat) (k : CmdCtx),
    let x := s.strmAt sid
    let p := x.part.toNat
    (s.ch m c).act = some sid → (s.ch m c).ph = .done → (s.ch m c).stop = none → s.writesOut m c = false → x.cmd = some k →
    cSkind k.raw = 0 → k.slot = none → k.tslot = none → k.toArmed = false → k.aborted = false → x.abortHeld = false →
    x.recStop = none → x.wait = .none → x.stopAt = .none → s.hasHeld sid = false → s.mustLeave m sid = false →
    (s.ch m c).run < (s.part p).quantum.toNat → (∀ e ∈ s.strms, e.1 = sid → e.2.st ≠ .waiting) →
    (let cq := (s.sq k.recQueue.toNat).cq.toNat
     let q := s.cq cq
     let slot := (q.tail.toNat + q.given.length) % 2 ^ q.log2sz.toNat
     x.pers = false → s.readable sid = false → x.rpend = none → (s.ch m c).shadow = none → sid < 1024 → q.held = [] → q.full = false →
      (s.ten q.ten.toNat).rootEn = true → (s.xlU (s.ten q.ten.toNat).part.toNat).l2 = [] →
      (∀ e ∈ (s.xlU (s.ten q.ten.toNat).part.toNat).wc, e.bad = false) → ∃ t, exec (.commandComplete m c) s = .next t
        ∧ (∃ g, t.cq cq = { q with given := q.given ++ [g] } ∧ g.slot = slot ∧ g.done = false ∧ g.item.sid = sid
            ∧ g.item.bits.extractLsb' 0 16 = BitVec.ofNat 16 (cTag k.raw))
        ∧ (∃ a ∈ t.acc, a.kind = .cqRec cq slot ∧ a.wr = true ∧ a.va = q.base.toNat * 4096 + 32 * slot ∧ a.len = 32
            ∧ a.data.length = 32)
        ∧ (∀ j, j ≠ cq → t.cq j = s.cq j) ∧ (t.strmAt sid).st = .armed ∧ (t.strmAt sid).cmd = none
        ∧ (t.ch m c).act = none ∧ t.sqs = s.sqs ∧ t.cnts = s.cnts) ∧
    (x.pers = true → recordDue x k = false → cOpc k.raw ≠ 17 → x.ran = true →
      let pc : BitVec 6 := if x.plen.toNat ≤ x.pc.toNat + 1 then 0 else x.pc + 1
      let pair := x.paddr.toNat + 128 * (pc.toNat / 2)
      s.cached p x.ten x.tgen pair = none → (∀ e ∈ (s.dcU p).desc ++ (s.dcU p).tabs, e.bad = false) →
      (∀ e ∈ (s.xlU p).wc, e.bad = false) → (s.ten x.ten.toNat).rootEn = true → (s.mover m).utlb = [] → (s.xlU p).l2 = [] →
      ∃ t, exec (.commandComplete m c) s = .next t
        ∧ t.strmAt sid = { x with cmd := none, ntile := 0, arrd := false, pc := pc } ∧ (t.ch m c).act = some sid
        ∧ (t.ch m c).ph = .fetch
        ∧ (∃ a ∈ t.acc, a.kind = .program ∧ a.wr = false ∧ a.va = pair ∧ a.len = 128)
        ∧ t.cqs = s.cqs ∧ s.Others t m c sid
        ∧ t = { s with strms := t.strms, chans := t.chans, acc := t.acc, nextAid := t.nextAid, xl := t.xl })

/-- A record's write has its response. OKAY for the completion record in the oldest slot given out: TAIL passes it, PH
turns at the end of the ring, PEND is set where the record raises an interrupt, and OUTST of a queue's command falls.
A fault record: with OKAY TAIL passes it likewise and PEND is set; with an error it is counted in LOST (R157, R159,
R160, R191, R215, R427). -/
def Obligations.records_written : Prop :=
  ∀ (s : State) (a : Access), s.findAcc a.aid = some a → a.stage = .out → a.drain = false →
    (∀ (c slot : Nat) (g : CqSlot) (l : List CqSlot), a.kind = .cqRec c slot → (s.cq c).given = g :: l → g.slot = slot →
      (∀ h ∈ l, h.slot ≠ slot ∧ h.done = false) →
      let q := s.cq c
      let n := (q.tail.toNat + 1) % 2 ^ q.log2sz.toNat
      let sq := g.item.queue.toNat
      ∃ t, exec (.completionRecordWritten a.aid .okay) s = .next t
        ∧ t.cq c = { q with
            tail := BitVec.ofNat 16 n, ph := if n = 0 then !q.ph else q.ph, given := l, pend := q.pend || g.item.irq }
        ∧ (∀ j, j ≠ c → t.cq j = s.cq j)
        ∧ t.sq sq = { s.sq sq with outst := (s.sq sq).outst - if g.item.outst ∧ (s.sq sq).outst ≠ 0 then 1 else 0 }
        ∧ (∀ j, j ≠ sq → t.sq j = s.sq j) ∧ ∀ b ∈ s.acc, b.aid ≠ a.aid → b ∈ t.acc) ∧
    (∀ p, a.kind = .fqRec p → (s.part p).fq.buf = [] →
      let q := (s.part p).fq
      let n := (q.tail.toNat + 1) % 2 ^ q.log2sz.toNat
      (∃ t, exec (.faultRecordWritten a.aid .okay) s = .next t
        ∧ (t.part p).fq = { q with tail := BitVec.ofNat 16 n, ph := if n = 0 then !q.ph else q.ph, busy := false, pend := true }
        ∧ (∀ j, j ≠ p → t.part j = s.part j)) ∧
      (∃ t, exec (.faultRecordWritten a.aid .slverr) s = .next t
        ∧ (t.part p).fq = { q with busy := false, lost := BitVec.ofNat 16 (min 0xFFFF (q.lost.toNat + 1)) }
        ∧ (∀ j, j ≠ p → t.part j = s.part j) ∧ t.acc = s.acc.filter fun b => b.aid ≠ a.aid))

/-- Ecnos channels. START of an idle channel starts the chain at DESC, its stream READY for the partition's Ecnos tenant;
with Ecnos mode off, or granule 16 retired, it fetches nothing, CUR takes DESC, ERR is set and FCODE is FLT_ECNOS_OFF
or FLT_RECORD. ABORT of a chain that is on no channel ends it with DONE. A descriptor that arrives with OKAY and
passes its checks is the one being run, and the reads of its first tile cover the tile's source bytes, or name its
fixed source (R43, R44, R177, R190, R366). -/
def Obligations.ecnos_channels : Prop :=
  ∀ s : State,
    (s.Serves → ∀ p n : Fin 8,
      let k := 8 * p.val + n
      let e := s.ecnCh k
      let x := s.part p
      let others := fun (u : State) => ∀ j, j ≠ k → u.ecnCh j = s.ecnCh j
      (e.busy = false → x.ecnEn = false → ∃ u, exec (.ecnosStart p n) s = .next u ∧ others u ∧ u = { s.reached with ecn := u.ecn }
        ∧ u.ecnCh k = { e with cur := BitVec.ofNat 48 (e.desc.toNat * 32), err := true, fcode := 0x16 }) ∧
      (e.busy = false → x.ecnEn = true → x.en = true → s.granRet.get false 16 = true → ∃ u, exec (.ecnosStart p n) s = .next u
        ∧ others u ∧ u = { s.reached with ecn := u.ecn }
        ∧ u.ecnCh k = { e with cur := BitVec.ofNat 48 (e.desc.toNat * 32), err := true, fcode := 0x48 }) ∧
      (e.busy = false → x.ecnEn = true → x.en = true → s.granRet.get false 16 = false → s.hasHeld (1024 + k) = false →
        ∃ u, exec (.ecnosStart p n) s = .next u ∧ others u
        ∧ u.ecnCh k = { e with busy := true, next := BitVec.ofNat 48 (e.desc.toNat * 32) }
        ∧ u.strmAt (1024 + k) = { Strm.reset with
            st := .ready, ten := x.eten, tgen := (s.ten x.eten.toNat).gen, part := BitVec.ofNat 3 p, readySeq := s.seq }
        ∧ (∀ j, j ≠ 1024 + k → u.strmAt j = s.strmAt j)
        ∧ u = { s.reached with ecn := u.ecn, strms := u.strms, tens := u.tens, seq := s.seq + 1 }) ∧
      (e.busy = true → exec (.ecnosStart p n) s = .next s.reached) ∧
      (e.busy = false → exec (.ecnosAbort p n) s = .next s.reached) ∧
      (e.busy = true → (∀ h ∈ s.chans, h.2.act ≠ some (1024 + k)) → ∃ u, exec (.ecnosAbort p n) s = .next u ∧ others u
        ∧ u.ecnCh k = { e with busy := false, abort := false, done := true } ∧ u.strmAt (1024 + k) = Strm.reset
        ∧ (∀ j, j ≠ 1024 + k → u.strmAt j = s.strmAt j) ∧ u.acc = s.acc)) ∧
    (∀ (m : Fin 64) (c : Fin 4) (k : Nat) (data : List Byte) (a : Access), k < 64 → (s.ch m c).act = some (1024 + k) →
      (s.ch m c).ph = .ecnFetch → (s.acc.find? fun b => ofChan m c b && isEcnAcc b.kind && b.stage == .out) = some a →
      let d := BitVec.ofNat 256 (leNat (data.take 32))
      s.ecnCheck (k / 8) d a.pa = none → 0 < eLen d →
      ∃ t, exec (.ecnosDescriptor m c data .okay) s = .next t ∧ (t.ecnCh k) = { s.ecnCh k with d := d }
        ∧ (∀ j, j ≠ k → t.ecnCh j = s.ecnCh j) ∧ (t.ch m c).ph = .ecnRun ∧ (t.ch m c).tile = 0
        ∧ (eSinc d = true → ∀ i, i < min 4096 (eLen d) → ∃ b ∈ t.acc, b.kind = .ecnos 0 ∧ b.wr = false ∧ b.phys = true
            ∧ b.stage = .issue ∧ b.pa ≤ eSrc d + i ∧ eSrc d + i < b.pa + b.len)
        ∧ (eSinc d = false → ∃ b ∈ t.acc, b.kind = .ecnos 0 ∧ b.wr = false ∧ b.phys = true ∧ b.stage = .issue
            ∧ b.pa = eSrc d ∧ b.len = 2 ^ eFw d)
        ∧ t = { s with ecn := t.ecn, chans := t.chans, acc := t.acc, nextAid := t.nextAid })

/-! ### Doorbells and configuration -/

/-- The doorbell page of a disabled tenant ignores every write (R250). -/
def Obligations.disabled_tenant_doorbells : Prop :=
  ∀ (s : State) (t : Fin 256), s.Serves → (s.ten t).en = false →
    ∀ (k : Fin 64) (h : Fin 16) (v : BitVec 16) (sid : BitVec 21),
      exec (.dbSqTail t k v) s = .next s.reached ∧ exec (.dbCqHead t h v) s = .next s.reached ∧
      exec (.dbAbort t sid) s = .next s.reached ∧ exec (.dbThaw t sid) s = .next s.reached ∧
      exec (.dbResume t sid) s = .next s.reached ∧ exec (.dbSkip t sid) s = .next s.reached

/-- The queue tail and the completion queue head of a doorbell page: the one queue of the tenant that has the slot takes
the index, a queue's ARMED stream with a slot to read and a home that can take it becomes READY, and no other queue
changes; where no record waits for a slot, a head changes nothing else. An index outside the ring, and any write to
the page of a disabled tenant, is ignored (R158 to R160, R250). THAW of a FROZEN stream and RESUME of a HALTED one
that stopped at a tile make it READY where it stands, where its home can take it; SKIP of such a HALTED stream's data
command passes the tile over; ABORT is held by a READY or FROZEN stream for its next command, the READY one leaving
the shadow set that holds it, and ends the command of a HALTED stream, which has done nothing more. A doorbell that
names a stream of another tenant, or an EMPTY one, is ignored (R165, R174, R196, R197, R201). -/
def Obligations.doorbells : Prop :=
  (∀ (s : State) (t : Fin 256), s.Serves →
     ((s.ten t).en = false → ∀ k h v, exec (.dbSqTail t k v) s = .next s.reached ∧ exec (.dbCqHead t h v) s = .next s.reached) ∧
     ((s.ten t).en = true → s.tenFenced (BitVec.ofNat 8 t) = false →
       (s.sqs.wf Sq.reset → ∀ (q : Nat) (k : Fin 64) (v : BitVec 16),
         (s.sq q).en = true ∧ (s.sq q).ten.toNat = t ∧ (s.sq q).dbslot.toNat = k →
         (∀ j, (s.sq j).en = true → (s.sq j).ten.toNat = t → (s.sq j).dbslot.toNat = k → j = q) →
         (2 ^ (s.sq q).log2sz.toNat ≤ v.toNat → exec (.dbSqTail t k v) s = .next s.reached) ∧
         (v.toNat < 2 ^ (s.sq q).log2sz.toNat → ∃ u, exec (.dbSqTail t k v) s = .next u
           ∧ u.sq q = { s.sq q with tail := v } ∧ (∀ j, j ≠ q → u.sq j = s.sq j)
           ∧ ((s.strmAt q).st = .armed → (s.strmAt q).pers = false → (s.sq q).head ≠ v → (s.sq q).outst.toNat < (s.sq q).qout.toNat →
               s.hasHeld q = false → s.homeOut q = false → s.homeBusy q = false → (u.strmAt q).st = .ready)
           ∧ u = { s.reached with sqs := u.sqs, strms := u.strms, tens := u.tens, seq := u.seq })) ∧
       (s.cqs.wf Cq.reset → ∀ (c : Nat) (k : Fin 16) (v : BitVec 16),
         (s.cq c).en = true ∧ (s.cq c).ten.toNat = t ∧ (s.cq c).dbslot.toNat = k →
         (∀ j, (s.cq j).en = true → (s.cq j).ten.toNat = t → (s.cq j).dbslot.toNat = k → j = c) →
         (2 ^ (s.cq c).log2sz.toNat ≤ v.toNat → exec (.dbCqHead t k v) s = .next s.reached) ∧
         (v.toNat < 2 ^ (s.cq c).log2sz.toNat → (∀ e ∈ s.cqs, e.2.held = []) → ∃ u, exec (.dbCqHead t k v) s = .next u
           ∧ u.cq c = { s.cq c with head := v } ∧ (∀ j, j ≠ c → u.cq j = s.cq j) ∧ u = { s.reached with cqs := u.cqs })))) ∧
  (∀ (s : State) (t : Fin 256) (sid : BitVec 21), s.Serves → (s.ten t).en = true → s.tenFenced (BitVec.ofNat 8 t) = false →
     let n := sid.toNat
     let x := s.strmAt n
     ((x.st = .empty ∨ x.ten.toNat ≠ t) → exec (.dbAbort t sid) s = .next s.reached ∧ exec (.dbThaw t sid) s = .next s.reached
       ∧ exec (.dbResume t sid) s = .next s.reached ∧ exec (.dbSkip t sid) s = .next s.reached) ∧
     (x.ten.toNat = t → s.strmFenced n = false →
       let others := fun (u : State) => ∀ j, j ≠ n → u.strmAt j = s.strmAt j
       let quiet := fun (u : State) => others u ∧ u = { s.reached with strms := u.strms, tens := u.tens, seq := u.seq }
       let free := s.hasHeld n = false ∧ s.homeOut n = false ∧ s.homeBusy n = false ∧ x.wait = .none
       (x.st = .frozen → x.stopAt = .tile → free → ∃ u, exec (.dbThaw t sid) s = .next u ∧ quiet u
         ∧ u.strmAt n = { x with st := .ready, stopAt := .none, readySeq := s.seq }) ∧
       (x.st = .halted → x.stopAt = .tile → free → ∃ u, exec (.dbResume t sid) s = .next u ∧ quiet u
         ∧ u.strmAt n = { x with st := .ready, stopAt := .none, readySeq := s.seq }) ∧
       (∀ k, x.st = .halted → x.stopAt = .tile → x.cmd = some k → isData k.raw = true → k.stage ≠ .done → free →
         ∃ u, exec (.dbSkip t sid) s = .next u ∧ quiet u
         ∧ u.strmAt n = { x with st := .ready, stopAt := .none, readySeq := s.seq, ntile := x.ntile + 1,
                                 cmd := some { k with skipped := true } }) ∧
       (x.rpend = none → x.st = .frozen → ∃ u, exec (.dbAbort t sid) s = .next u ∧ others u
         ∧ u = { s.reached with strms := u.strms }
         ∧ u.strmAt n = { x with abortHeld := true, cmd := x.cmd.map fun k => { k with spared := false } }) ∧
       (x.rpend = none → x.st = .ready → isEcn n = false → ∃ u, exec (.dbAbort t sid) s = .next u ∧ others u
         ∧ u.strmAt n = { x with abortHeld := true } ∧ u = { s.reached with strms := u.strms, chans := u.chans }
         ∧ (s.chans.wf Chan.reset → ∀ j, u.chan j = { s.chan j with
             shadow := if (s.chan j).shadow = some n then none else (s.chan j).shadow
             loading := if (s.chan j).loading = some n then none else (s.chan j).loading })) ∧
       (∀ k, x.rpend = none → x.st = .halted → x.stopAt = .tile → x.cmd = some k → free → x.fgenp = 0 →
         ∃ u, exec (.dbAbort t sid) s = .next u ∧ ∃ r, u.strmAt n = { x with
             st := .ready, stopAt := .none, readySeq := r, arrd := false
             cmd := some { k with aborted := true, stage := .done, unknown := k.unknown || k.undecoded } })))

/-- A submission queue: EN=1 on a disabled queue without a configuration error of R154 or R366 writes every field, starts
the indices at 0 and makes the queue's EMPTY stream ARMED for the queue's tenant; with an error the fields are written
and EN stays 0. On an enabled queue every write takes QOUT alone of the fields; EN=0 disables it and empties its
stream where the stream is ARMED, every persistent stream of the queue is EMPTY or ARMED and no record of the queue is
held, and is otherwise ignored. No other queue changes (R151, R154). -/
def Obligations.submission_queues : Prop :=
  ∀ (s : State) (q : Fin 1024) (v : BitVec 64), s.Serves →
    let x := s.sq q
    let ten := v.extractLsb' 6 8
    let p := (s.ten ten.toNat).part
    let y := { x with
      log2sz := v.extractLsb' 1 5, ten := ten, cq := v.extractLsb' 14 8, qout := v.extractLsb' 22 8
      dbslot := v.extractLsb' 30 6, pfw := v.extractLsb' 36 5 }
    let ok := (4 ≤ y.log2sz.toNat ∧ y.log2sz.toNat ≤ 16) ∧ ((s.cq y.cq.toNat).en = true ∧ (s.cq y.cq.toNat).ten = ten)
      ∧ (∀ e ∈ s.sqs, e.1 ≠ q.val → e.2.en = true → e.2.ten = ten → e.2.dbslot ≠ y.dbslot)
      ∧ ((s.part p.toNat).qen = true ∧ (s.part p.toNat).qglo.toNat ≤ q.val / 64 ∧ q.val / 64 ≤ (s.part p.toNat).qghi.toNat)
      ∧ s.granRet.get false (q.val / 64) = false ∧ (s.strmAt q).st = .empty
    let others := fun (u : State) => (∀ j, j ≠ q.val → u.sq j = s.sq j) ∧ ∀ j, j ≠ q.val → u.strmAt j = s.strmAt j
    (x.en = false → ok → ∃ u, exec (.sqEnable q v) s = .next u ∧ u.sq q = { y with en := true, head := 0, tail := 0 } ∧ others u
      ∧ u.strmAt q = { Strm.reset with
          st := .armed, ten := ten, tgen := (s.ten ten.toNat).gen, part := p, queue := BitVec.ofNat 10 q, pfw := y.pfw
          hen := (s.strmAt q).hen, hmv := (s.strmAt q).hmv, hch := (s.strmAt q).hch }
      ∧ u = { s.reached with sqs := u.sqs, strms := u.strms }) ∧
    (x.en = false → ¬ ok → ∃ u, exec (.sqEnable q v) s = .next u ∧ u.sq q = y ∧ others u ∧ u = { s.reached with sqs := u.sqs }) ∧
    (let idle := (s.strmAt q).st = .armed
       ∧ (∀ e ∈ s.strms, e.2.pers = true → e.2.queue.toNat = q.val → e.2.st = .empty ∨ e.2.st = .armed)
       ∧ ∀ e ∈ s.cqs, ∀ r ∈ e.2.held, r.queue.toNat ≠ q.val
     (x.en = true → idle → ∃ u, exec (.sqDisable q v) s = .next u
      ∧ u.sq q = { x with en := false, qout := y.qout } ∧ (∀ j, j ≠ q.val → u.sq j = s.sq j)
      ∧ u.strmAt q = { Strm.reset with hen := (s.strmAt q).hen, hmv := (s.strmAt q).hmv, hch := (s.strmAt q).hch }
      ∧ ((s.strmAt q).fgenp = 0 → others u ∧ u = { s.reached with sqs := u.sqs, strms := u.strms })) ∧
     (x.en = true → ∀ c, c = .sqEnable q v ∨ (c = .sqDisable q v ∧ ¬ idle) → ∃ u, exec c s = .next u
      ∧ u.sq q = { x with qout := y.qout } ∧ others u
      ∧ u = { s.reached with sqs := u.sqs, strms := u.strms, tens := u.tens, seq := u.seq }))

/-- A completion queue: EN=1 on a disabled queue with a ring of 2^4 to 2^16 records and a doorbell slot of its own writes
every field and starts at index 0 with phase 1; otherwise the fields are written and EN stays 0. EN=0 disables a queue
that no submission queue uses, and is ignored where one does; on an enabled queue every other write is ignored (R155
to R157). A partition's fault queue: EN=1 on a disabled queue writes its fields and, with a ring of 2^4 to 2^16
records, starts it empty at index 0 with phase 1; EN=0 disables it and counts the records that waited in LOST, which
saturates; HEAD takes its value and, with nothing waiting, changes nothing else (R191). -/
def Obligations.completion_and_fault_queues : Prop :=
  (∀ (s : State) (c : Fin 256) (v : BitVec 64), s.Serves →
     let x := s.cq c
     let y := { x with
       log2sz := v.extractLsb' 1 5, ten := v.extractLsb' 6 8, irq := v.extractLsb' 14 4, msi := v.getLsbD 18
       dbslot := v.extractLsb' 19 4 }
     let ok := (4 ≤ y.log2sz.toNat ∧ y.log2sz.toNat ≤ 16)
       ∧ ∀ e ∈ s.cqs, e.1 ≠ c.val → e.2.en = true → e.2.ten = y.ten → e.2.dbslot ≠ y.dbslot
     let others := fun (u : State) => ∀ j, j ≠ c.val → u.cq j = s.cq j
     (x.en = false → ok → ∃ u, exec (.cqEnable c v) s = .next u ∧ others u ∧ u = { s.reached with cqs := u.cqs }
       ∧ u.cq c = { y with en := true, tail := 0, head := 0, ph := true, given := [], held := [] }) ∧
     (x.en = false → ¬ ok → ∃ u, exec (.cqEnable c v) s = .next u ∧ others u ∧ u = { s.reached with cqs := u.cqs }
       ∧ u.cq c = y) ∧
     (x.en = true → exec (.cqEnable c v) s = .next s.reached) ∧
     (x.en = true → (∃ e ∈ s.sqs, e.2.en = true ∧ e.2.cq.toNat = c.val) → exec (.cqDisable c v) s = .next s.reached) ∧
     (x.en = true → (∀ e ∈ s.sqs, e.2.en = true → e.2.cq.toNat ≠ c.val) → ∃ u, exec (.cqDisable c v) s = .next u ∧ others u
       ∧ u.cq c = { x with en := false, given := [] } ∧ u = { s.reached with cqs := u.cqs, sqs := u.sqs, acc := u.acc }
       ∧ (x.given = [] → u.sqs = s.sqs) ∧ ((∀ a ∈ s.acc, ∀ k, a.kind ≠ .cqRec c k) → u.acc = s.acc))) ∧
  (∀ (s : State) (p : Fin 8) (v : BitVec 64), s.Serves →
     let x := (s.part p).fq
     let y := { x with log2sz := v.extractLsb' 1 5, irq := v.extractLsb' 6 4, msi := v.getLsbD 10, base := v.extractLsb' 12 36 }
     let is := fun (u : State) (z : Fq) => u.part p = { s.part p with fq := z } ∧ ∀ j, j ≠ p.val → u.part j = s.part j
     (x.en = false → ∃ u, exec (.fqEnable p v) s = .next u ∧ u = { s.reached with parts := u.parts }
       ∧ is u (if 4 ≤ y.log2sz.toNat ∧ y.log2sz.toNat ≤ 16 then { y with en := true, tail := 0, head := 0, ph := true, buf := [] }
         else y)) ∧
     (x.en = true → exec (.fqEnable p v) s = .next s.reached) ∧
     (x.en = true → ∃ u, exec (.fqDisable p v) s = .next u ∧ u = { s.reached with
           parts := u.parts, acc := s.acc.map fun a => if a.kind = .fqRec p then { a with drain := true } else a }
       ∧ is u { x with en := false, buf := [], busy := false, lost := BitVec.ofNat 16 (min (x.lost.toNat + x.buf.length) 0xFFFF) }) ∧
     (x.buf = [] → ∀ h : BitVec 16, ∃ u, exec (.fqHead p h) s = .next u ∧ is u { x with head := h }
       ∧ u = { s.reached with parts := u.parts }))

/-- A write of GL_TENANT: EN=1 is taken with AVAIL=1, an enabled partition and a WEIGHT that is not 0, and EN=0 where no
queue and no stream of the tenant stands against it; otherwise only CERR is set. Bit 32 written 1 clears CERR. Nothing
else of the tenant and no other tenant changes (R247, R248). A write of PT_HOME gives the stream of a queue of the
partition, while it is EMPTY or ARMED, its home, which with HEN=1 is a channel of a Mover of the partition in service;
any other write sets DROP and changes no stream (R255). -/
def Obligations.tenants_and_homes : Prop :=
  (∀ (s : State) (t : Fin 256) (v : BitVec 64), s.Serves →
     let x := s.ten t
     let w := v.extractLsb' 16 16
     let cerr := x.cerr && !v.getLsbD 32
     let is := fun (u : State) (z : Tenant) => u.ten t = z ∧ (∀ j, j ≠ t.val → u.ten j = s.ten j)
       ∧ u = { s.reached with tens := u.tens }
     let may := x.avail = true ∧ (s.part x.part.toNat).en = true ∧ w ≠ 0
     let idle := (∀ e ∈ s.sqs, e.2.en = true → e.2.ten.toNat ≠ t.val) ∧ (∀ e ∈ s.cqs, e.2.en = true → e.2.ten.toNat ≠ t.val)
       ∧ ∀ e ∈ s.strms, e.2.st ≠ .empty → e.2.ten.toNat ≠ t.val
     (may → ∃ u, exec (.tenantEnable t v) s = .next u ∧ is u { x with en := true, weight := w, cerr := cerr }) ∧
     (¬ may → ∃ u, exec (.tenantEnable t v) s = .next u ∧ is u { x with cerr := true }) ∧
     (idle → ∃ u, exec (.tenantDisable t v) s = .next u ∧ is u { x with en := false, weight := w, cerr := cerr }) ∧
     (¬ idle → ∃ u, exec (.tenantDisable t v) s = .next u ∧ is u { x with cerr := true })) ∧
  (∀ (s : State) (p : Fin 8) (v : BitVec 32), s.Serves →
     let q := (v.extractLsb' 0 10).toNat
     let m := v.extractLsb' 10 6
     let x := s.strmAt q
     let ok := (s.ten (s.sq q).ten.toNat).part.toNat = p.val ∧ (x.st = .empty ∨ x.st = .armed)
       ∧ (v.getLsbD 18 = true → (s.part p).mvmask.getLsbD m.toNat = true ∧ (s.mover m.toNat).oos = false)
     (ok → ∃ u, exec (.ptHome p v) s = .next u ∧ u = { s.reached with strms := u.strms }
       ∧ u.strmAt q = { x with hen := v.getLsbD 18, hmv := m, hch := v.extractLsb' 16 2 }
       ∧ ∀ j, j ≠ q → u.strmAt j = s.strmAt j) ∧
     (¬ ok → ∃ u, exec (.ptHome p v) s = .next u ∧ u = { s.reached with parts := u.parts }
       ∧ u.part p = { s.part p with homeDrop := true } ∧ ∀ j, j ≠ p.val → u.part j = s.part j))

/-- An invalidation sets BUSY, which waits for the accesses of the matching tenants that are outstanding, or DROP while
one is in progress. With no access, tile or walk under way, every cached translation that matches is gone and every
other stays: of one tenant, of the pages of a tenant that hold the address (walk-cache entries of the whole tenant go
with it), or of all. BUSY clears once none of the accesses it waits for is left and no discarded walk goes on, and not
before (R186, R187). -/
def Obligations.invalidations : Prop :=
  ∀ s : State,
    (s.Serves → ∀ (i : InvScope) (c : Instr),
      (match i with
        | .tenant t => c = .invTenant t
        | .page t va => ∃ g : BitVec 36, c = .invPage t g ∧ va = g.toNat * 4096
        | .all => c = .invAll) →
      (s.inv.busy = true → exec c s = .next { s.reached with inv := { s.inv with drop := true } }) ∧
      (s.inv.busy = false → ∃ u, exec c s = .next u ∧ u.inv.busy = true ∧ u.inv.drop = s.inv.drop
        ∧ ∀ a ∈ s.acc, i.hits a.ten = true → ofNoTenant a.kind = false → inFlight a = true → a.aid ∈ u.inv.waits) ∧
      (s.inv.busy = false → s.acc = [] → (∀ e ∈ s.chans, e.2.xl = []) → (∀ e ∈ s.xl, e.2.queue = []) →
        s.movers.wf Mover.reset → s.xl.wf Xl.reset → ∃ u, exec c s = .next u
          ∧ u = { s.reached with inv := { s.inv with busy := true, waits := [] }, movers := u.movers, xl := u.xl }
          ∧ (∀ m, u.mover m = { s.mover m with utlb := (s.mover m).utlb.filter fun e => !(match i with
              | .tenant t => e.ten == t
              | .page t va => e.ten == t && e.vpn == va / 2 ^ (12 + 9 * e.lvl.toNat)
              | .all => true) })
          ∧ (∀ p, (u.xlU p).l2 = (s.xlU p).l2.filter fun e => !(match i with
              | .tenant t => e.ten == t
              | .page t va => e.ten == t && e.vpn == va / 2 ^ (12 + 9 * e.lvl.toNat)
              | .all => true))
          ∧ ∀ p, (u.xlU p).wc = (s.xlU p).wc.filter fun e => !(match i with
              | .tenant t => e.ten == t
              | .page t _ => e.ten == t
              | .all => true))) ∧
    (let ended := (∀ a ∈ s.acc ++ s.sink, a.aid ∉ s.inv.waits)
       ∧ ∀ e ∈ s.xl, ∀ w, e.2.walk = some w → w.discard = false
     (ended → exec .invDone s = .next { s with inv := { s.inv with busy := false, waits := [] } }) ∧
     (¬ ended → exec .invDone s = .next s))

/-- CLR of a counter clears ARR, NEXT and DENT and leaves VALUE; CLR of a suspect list empties it and lets it record
again: nothing else changes. MV_RCTL takes SOLO and its tenant: no stream homed elsewhere, no other Mover and no
channel without a shadow set changes (R229, R356, R357). A write of GL_STRM binds a TDEST to a persistent stream of an
enabled tenant that has a home and no other binding; with any of these missing the write has no effect and EN stays 0.
While EN=1 the other fields are not written; EN=0 unbinds it and empties its ingress buffer, where no TRANSFER of its
stream runs, and is ignored where one does; its counters stay (R432, R433). -/
def Obligations.counters_solo_and_strm : Prop :=
  (∀ (s : State) (m : Fin 64), s.Serves →
     (∀ k : Fin 64, ∃ u, exec (.counterClear m k) s = .next u
       ∧ u.cnt (64 * m + k) = { s.cnt (64 * m + k) with arr := 0, next := 0, dent := false }
       ∧ (∀ j, j ≠ 64 * m.val + k → u.cnt j = s.cnt j) ∧ u = { s.reached with cnts := u.cnts }) ∧
     (∃ u, exec (.suspectClear m) s = .next u ∧ u.mover m = { s.mover m with susp := [], sovf := false, froz := false }
       ∧ (∀ j, j ≠ m.val → u.mover j = s.mover j) ∧ u = { s.reached with movers := u.movers }) ∧
     (∀ v : BitVec 32, ∃ u, exec (.soloMode m v) s = .next u
       ∧ u.mover m = { s.mover m with solo := v.getLsbD 0, solot := v.extractLsb' 1 8 }
       ∧ (∀ j, j ≠ m.val → u.mover j = s.mover j)
       ∧ u = { s.reached with movers := u.movers, chans := u.chans, strms := u.strms, tens := u.tens, seq := u.seq }
       ∧ (∀ j, (∀ e ∈ s.strms, e.1 = j → e.2.hmv ≠ BitVec.ofNat 6 m) → u.strmAt j = s.strmAt j)
       ∧ (∀ j, ∃ st w r a n, u.strmAt j = { s.strmAt j with st := st, wait := w, readySeq := r, stopAt := a, ntile := n })
       ∧ (s.chans.wf Chan.reset → ∀ j, ((s.chan j).shadow = none → (s.chan j).loading = none → u.chan j = s.chan j)
           ∧ ∃ h l, u.chan j = { s.chan j with shadow := h, loading := l }))) ∧
  (∀ (s : State) (d : Fin 4) (v : BitVec 64), s.Serves →
     let q := s.strmP d
     let y := { q with pack := v.extractLsb' 1 2, sid := v.extractLsb' 3 21, ten := v.extractLsb' 24 8 }
     let x := s.strmAt y.sid.toNat
     let ok := (s.ten y.ten.toNat).en = true ∧ (x.st ≠ .empty ∧ x.pers = true ∧ x.rcv = false ∧ x.hen = true)
       ∧ (x.ten = y.ten ∧ x.tgen = (s.ten y.ten.toNat).gen)
       ∧ ∀ e : Fin 4, e ≠ d → (s.strmP e).en = true → (s.strmP e).sid ≠ y.sid
     let z := s.strmAt q.sid.toNat
     let moves := z.st = .running ∧ ∃ k, z.cmd = some k ∧ cOpc k.raw = 1
     let is := fun (u : State) (z : StrmP) => u.strmP d = z ∧ (∀ j, j ≠ d.val → u.strmP j = s.strmP j)
       ∧ u = { s.reached with strm := u.strm }
     (q.en = false → v.getLsbD 0 = true → ok → ∃ u, exec (.strmBind d v) s = .next u ∧ is u { y with en := true }) ∧
     (q.en = false → v.getLsbD 0 = true → ¬ ok → exec (.strmBind d v) s = .next s.reached) ∧
     (q.en = false → v.getLsbD 0 = false → ∃ u, exec (.strmBind d v) s = .next u ∧ is u y) ∧
     (q.en = true → v.getLsbD 0 = true → exec (.strmBind d v) s = .next s.reached) ∧
     (q.en = true → v.getLsbD 0 = false → moves → exec (.strmBind d v) s = .next s.reached) ∧
     (q.en = true → v.getLsbD 0 = false → ¬ moves → ∃ u, exec (.strmBind d v) s = .next u
       ∧ is u { q with en := false, buf := [], inFrame := false, skip := false, rows := [], cur := [], curBad := false }))

/-- Host writes of words. Under PRIVEN an unprivileged one below the doorbell pages only counts in GL_HOSTSEC; one with a
byte strobe missing, or at an offset without a register, has no effect; the low half of a 64-bit register is held, and
the write of its high half performs both; GL_IRQ_EN takes its 16 bits; PRIVEN is set by a 1 and stays, VIOL is cleared
by a 1 (R10, R392, R426, R428). -/
def Obligations.register_writes : Prop :=
  ∀ s : State, s.Serves →
    let u := { s.reached with host := s.host }
    (∀ (off : BitVec 21) (v : BitVec 32) (strb : BitVec 4), s.hsec.priven = true → off.toNat < 0x100000 →
      exec (.registerWrite off v strb false) s = .next { u with hsec := { s.hsec with
        viol := true, vcnt := BitVec.ofNat 16 (min 0xFFFF (s.hsec.vcnt.toNat + 1)) } }) ∧
    (∀ (off : BitVec 21) (v : BitVec 32) (strb : BitVec 4), strb ≠ 0xF ∨ regAt (off.toNat / 4 * 4) = none →
      exec (.registerWrite off v strb true) s = .next u) ∧
    (∀ (off : BitVec 21) (v : BitVec 32) (r : Reg), regAt (off.toNat / 4 * 4) = some (r, false) → r.wide = true →
      exec (.registerWrite off v 0xF true) s
        = .next { u with host := { s.host with held := some (off.toNat / 4 * 4, v) } }) ∧
    (∀ lo hi : BitVec 32, s.host.held = some (0x820, lo) →
      exec (.registerWrite 0x824 hi 0xF true) s
        = .next { s.reached with irq := { s.irq with msiaddr := (hi ++ lo).extractLsb' 2 46 } }) ∧
    (∀ v : BitVec 32,
      exec (.registerWrite 0x800 v 0xF true) s = .next { s.reached with irq := { s.irq with en := v.setWidth 16 } } ∧
      exec (.registerWrite 0x600 v 0xF true) s = .next { s.reached with hsec := { s.hsec with
        priven := s.hsec.priven || v.getLsbD 0, viol := s.hsec.viol && !v.getLsbD 1 } })

/-- Host reads of words, outside DRAIN, RETAIN and WAKE and behind no access that waits. In RUN the low half of a 64-bit
register is answered and its high half latched; the read of the high half takes it from the latch; an offset without a
register reads 0, and so does one that PRIVEN bars, which is counted. SF_CNT reads VALUE. Before RUN only GL_ID and
GL_BOOTSTAT answer, and the others read 0 (R10, R229, R335, R392, R426). -/
def Obligations.register_reads : Prop :=
  ∀ s : State, s.pins.host = false → s.pins.aon = false → s.pwr.off = false → s.pwr.state.toNat < 3 →
    s.host.wait = [] →
    let answer := fun (v : BitVec 32) (l : Option (Nat × BitVec 32)) =>
      Host.Outcome.next { s with host := { s.host with rdata := v, latch := l } }
    (s.boot.state = 13 →
      (∀ (off : BitVec 21) (r : Reg), regAt (off.toNat / 4 * 4) = some (r, false) → r.wide = true →
        exec (.registerRead off true) s = answer (BitVec.ofNat 32 (s.regVal r))
          (some (off.toNat / 4 * 4, BitVec.ofNat 32 (s.regVal r / 2 ^ 32)))) ∧
      (∀ (off : BitVec 21) (r : Reg) (a : Nat) (x : BitVec 32), regAt (off.toNat / 4 * 4) = some (r, true) →
        s.host.latch = some (a, x) → a + 4 = off.toNat / 4 * 4 → exec (.registerRead off true) s = answer x none) ∧
      (∀ off : BitVec 21, regAt (off.toNat / 4 * 4) = none → exec (.registerRead off true) s = answer 0 s.host.latch) ∧
      (∀ (m : Fin 64) (k : Fin 64), ∃ l, exec (.registerRead (BitVec.ofNat 21 (0x80000 + 8 * (64 * m.val + k))) true) s
        = answer (s.cnt (64 * m + k)).value l) ∧
      (∀ off : BitVec 21, s.hsec.priven = true → off.toNat < 0x100000 →
        exec (.registerRead off false) s = .next { s with
          host := { s.host with rdata := 0 }
          hsec := { s.hsec with viol := true, vcnt := BitVec.ofNat 16 (min 0xFFFF (s.hsec.vcnt.toNat + 1)) } })) ∧
    (s.boot.state ≠ 13 →
      (exec (.registerRead 0 true) s = answer (BitVec.ofNat 32 idWord) (some (0, BitVec.ofNat 32 (idWord / 2 ^ 32)))) ∧
      (∀ off : BitVec 21, (∀ r hi, regAt (off.toNat / 4 * 4) = some (r, hi) → r.early = false) →
        exec (.registerRead off true) s = answer 0 s.host.latch))

/-! ### Sequencers, ageing and the shutter tables -/

/-- The Queue Sequencer's choice for a channel that has an active stream: among the READY streams that may be placed
there, with none homed on the channel, the one whose tenant has the least virtual time (then the tenant placed longest
ago, then the stream READY longest) goes into the shadow set; the read of a glacier record is issued first. The choice
wakes the Mover (R176, R253, R254, R379). A glacier record that arrives with OKAY and its CRC-32C goes to its channel,
into the shadow set where the channel has an active stream; one whose check value fails quarantines its stream (R176,
R365). -/
def Obligations.sequencer : Prop :=
  (∀ (s : State) (p : Fin 8) (m : Fin 64) (c : Fin 4) (sid : Nat) (x : Strm),
     (s.part p).en = true → (s.part p).mvmask.getLsbD m = true → s.noPlace m = false →
     (s.chan (4 * m + c)).act.isSome = true → (s.chan (4 * m + c)).shadow = none → (s.chan (4 * m + c)).loading = none →
     let may := fun (e : Nat × Strm) => e.2.st = .ready ∧ e.2.part.toNat = p.val ∧ s.soloBars m e.2.ten = false
       ∧ s.tenFenced e.2.ten = false ∧ s.shadowed e.1 = false
     (sid, x) ∈ s.strms → may (sid, x) → x.hen = false → (s.strmAt sid).bad = 0 →
     (∀ e ∈ s.strms, may e → e.2.hen = true → ¬ (e.2.hmv.toNat = m.val ∧ e.2.hch.toNat = c.val)) →
     (∀ e ∈ s.strms, may e → e.2.hen = false → e ≠ (sid, x) → rankLt (s.rank (sid, x)) (s.rank e) = true) →
     let k := 4 * m.val + c.val
     let woken := fun (t : State) => t.mover m = { s.mover m with gated := false } ∧ ∀ j, j ≠ m.val → t.mover j = s.mover j
     (sid < 40960 → ∃ t, exec (.sequencerChoice p m c false) s = .next t
       ∧ t.chan k = { s.chan k with shadow := some sid, shSeq := s.seq } ∧ (∀ j, j ≠ k → t.chan j = s.chan j)
       ∧ woken t ∧ t = { s with chans := t.chans, movers := t.movers, seq := s.seq + 1 }) ∧
     (40960 ≤ sid → ∃ t a, exec (.sequencerChoice p m c false) s = .next t
       ∧ t.chan k = { s.chan k with loading := some sid } ∧ (∀ j, j ≠ k → t.chan j = s.chan j)
       ∧ t.acc = s.acc ++ [a] ∧ a.aid = s.nextAid ∧ a.kind = .glacRead m c ∧ a.sid = sid ∧ a.wr = false ∧ a.len = 64
       ∧ a.pa = (s.part p).glacBase.toNat * 4096 + 64 * (sid - 40960 - (s.part p).gfirst.toNat) ∧ a.phys = true
       ∧ woken t ∧ t = { s with chans := t.chans, acc := t.acc, movers := t.movers, nextAid := s.nextAid + 1 })) ∧
  (∀ (s : State) (a : Access) (m c : Nat) (data : List Byte), s.findAcc a.aid = some a → a.kind = .glacRead m c →
     a.stage = .out → a.drain = false → (s.chan (4 * m + c)).loading = some a.sid → (s.strmAt a.sid).st = .ready →
     (crc32c (data.take 60) = leNat ((data.drop 60).take 4) → s.noPlace m = false → (s.chan (4 * m + c)).act.isSome = true →
       ∃ t, exec (.glacierRecordLoaded a.aid data .okay) s = .next t
         ∧ t.chan (4 * m + c) = { s.chan (4 * m + c) with loading := none, shadow := some a.sid, shSeq := s.seq }
         ∧ (∀ j, j ≠ 4 * m + c → t.chan j = s.chan j) ∧ t.acc = s.acc.filter (fun b => b.aid ≠ a.aid)
         ∧ t = { s with chans := t.chans, acc := t.acc, seq := s.seq + 1 }) ∧
     (crc32c (data.take 60) ≠ leNat ((data.drop 60).take 4) → s.chans.wf Chan.reset → s.strms.wf Strm.reset → ∃ t, exec (.glacierRecordLoaded a.aid data .okay) s = .next t
       ∧ (t.strmAt a.sid).st = .quarantined ∧ (t.chan (4 * m + c)).loading = none ∧ t.par.recE = true
       ∧ t.par.rcnt.toNat = min 0xFFFF (s.par.rcnt.toNat + 1)))

/-- Ageing: the one channel that has lost 31 consecutive cycles of an array side, or of a class of issue, wins it: one
beat of its tile is done, or its request stands behind those issued before it; its count of lost cycles is 0, that of
every other channel with something ready rises by 1, and the turn is its own (R65, R169). -/
def Obligations.ageing : Prop :=
  ∀ (s : State) (m : Fin 64) (c : Fin 4),
    let ch := fun (t : State) (k : Nat) => t.chan (4 * m.val + k)
    let frame := fun (t : State) => ∀ j, j < 4 * m.val ∨ 4 * m.val + 4 ≤ j → t.chan j = s.chan j
    (c.val ∈ s.beats m .input → 31 ≤ (ch s c).inLoss → (∀ k ∈ s.beats m .input, k ≠ c.val → (ch s k).inLoss < 31) →
      ∃ t, exec (.arrayAgeing m .input c) s = .next t ∧ ch t c = { ch s c with inB := (ch s c).inB - 1, inLoss := 0 }
        ∧ (∀ k ∈ s.beats m .input, k ≠ c.val → ch t k = { ch s k with inLoss := (ch s k).inLoss + 1 })
        ∧ t.mover m = { s.mover m with turnI := c } ∧ frame t ∧ t = { s with chans := t.chans, movers := t.movers }) ∧
    (c.val ∈ s.beats m .output → 31 ≤ (ch s c).outLoss → (∀ k ∈ s.beats m .output, k ≠ c.val → (ch s k).outLoss < 31) →
      ∃ t, exec (.arrayAgeing m .output c) s = .next t ∧ ch t c = { ch s c with outB := (ch s c).outB - 1, outLoss := 0 }
        ∧ (∀ k ∈ s.beats m .output, k ≠ c.val → ch t k = { ch s k with outLoss := (ch s k).outLoss + 1 })
        ∧ t.mover m = { s.mover m with turnO := c } ∧ frame t ∧ t = { s with chans := t.chans, movers := t.movers }) ∧
    (∀ (a : Access), s.reqOf m .write c = some (.acc a.aid) → s.findAcc a.aid = some a → a.wr = true →
      31 ≤ (ch s c).wLoss → (∀ k ∈ s.ready m .write, k ≠ c.val → (ch s k).wLoss < 31) →
      ∃ t, exec (.issueAgeing m .write c) s = .next t
        ∧ t.acc = s.acc.filter (fun b => b.aid ≠ a.aid) ++ [{ a with stage := .arb }]
        ∧ ch t c = { ch s c with wLoss := 0 } ∧ (∀ k ∈ s.ready m .write, k ≠ c.val → (ch t k).wLoss = (ch s k).wLoss + 1)
        ∧ t.mover m = { s.mover m with turnW := c } ∧ frame t
        ∧ t = { s with chans := t.chans, movers := t.movers, acc := t.acc })

/-- A decision at a memory port's table: with the slot under PTR owned by a partition that has a bid and a tracker, that
partition's next requester is granted: its access is outstanding and holds a tracker that was free, its tenure has the
burst's beats, the partition's losses and back-off end, and PTR moves behind the slot. With the slot FREE, or its
owner without a bid, and no TRANSIT, the one contender of the highest priority wins in background, and every other
contender backs off and counts a loss, up to 8 (R262, R263, R268 to R271, R279). Which free tracker is taken is a free
value (log 9). The grant of a tile's write frees its tile slot as well, of which this says nothing. -/
def Obligations.arbiter_decision : Prop :=
  ∀ (s : State) (t : Fin 12) (a : Access), s.clocked = true → s.pwr.state ≠ 2 →
    let x := s.tab t
    let k := x.seek x.ptr.toNat 256
    let plain := (∀ n, a.kind ≠ .dest n ∧ a.kind ≠ .ecnos n) ∧ ∀ n, x.tenure ≠ some (.stg n)
    let granted := fun (u : State) => (∃ trk pool, (s.freeTrackers a.port a.wr ≠ [] → trk ∈ s.freeTrackers a.port a.wr)
        ∧ u.acc = s.acc.map fun b => if b.aid = a.aid then { a with stage := .out, trk := trk, pool := pool } else b)
      ∧ (u.tab t).tenure = some (.acc a.aid) ∧ (u.tab t).left = a.beats ∧ (u.tab t).live = x.live
      ∧ (∀ j, j ≠ t.val → u.tab j = s.tab j) ∧ u = { s with acc := u.acc, tabs := u.tabs, free := u.free }
    (∀ b ∈ s.acc, b.aid = a.aid → b = a) → x.pend = false → a.rq ≠ .mgmt →
    (x.own k ≤ 7 → s.bidding t (x.own k) = true → s.turnBid t (x.own k) = some (.acc a) →
      ∃ u, exec (.arbDecision ⟨t, by omega⟩ false) s = .next u ∧ (u.tab t).ptr = BitVec.ofNat 8 (k + 1)
        ∧ (u.tab t).loss.get 0 (x.own k) = 0 ∧ (u.tab t).backoff.get false (x.own k) = false
        ∧ (plain → granted u ∧ ∀ q, q ≠ x.own k → (u.tab t).loss.get 0 q = x.loss.get 0 q)) ∧
    (∀ p, (7 < x.own k ∨ s.bidding t (x.own k) = false) → p ∈ s.contenders t →
      (∀ q ∈ s.contenders t, q ≠ p → x.priOf q < x.priOf p) → s.turnBid t p = some (.acc a) →
      ∃ u, exec (.arbDecision ⟨t, by omega⟩ false) s = .next u ∧ (u.tab t).ptr = BitVec.ofNat 8 (k + 1)
        ∧ (u.tab t).loss.get 0 p = 0 ∧ (u.tab t).backoff.get false p = false ∧ (u.tab t).lastBg = p
        ∧ (plain → granted u ∧ ∀ q ∈ s.contenders t, q ≠ p → (u.tab t).loss.get 0 q = min 8 (x.loss.get 0 q + 1)
            ∧ (u.tab t).backoff.get false q = true))

/-- A back-off ends for one partition at one table; a quota window ends and its counts of background wins are 0; the
cut-off of a tenure at a write, Staging or peer table ends the tenure, counts it in HOGC, which saturates, and names
the Mover in HOGMV; a packet that is cut off gives its credit back. A read table has no cut-off. The cut-off is stated
where no reset is under way (R271, R272, R277, R278). COMMIT: while one is pending GO sets DROP; an unlocked rota that
is invalid sets CERR and changes no table; otherwise, with every table idle, every table takes the shadow rota, if it
is not locked, and the background priorities and quotas of the control registers, and no commit is pending (R266,
R267, R273, R274). -/
def Obligations.arbiter_timers_and_commit : Prop :=
  (∀ (s : State) (t : Fin 30),
     let x := s.tab t
     let others := fun (u : State) => ∀ j, j ≠ t.val → u.tab j = s.tab j
     (∀ p : Fin 8, ∃ u, exec (.backoffExpire t p) s = .next u ∧ (u.tab t).backoff.get false p = false
       ∧ (∀ q, q ≠ p.val → (u.tab t).backoff.get false q = x.backoff.get false q)
       ∧ u.tab t = { x with backoff := (u.tab t).backoff } ∧ others u ∧ u = { s with tabs := u.tabs }) ∧
     (∃ u, exec (.quotaWindowEnd t) s = .next u ∧ u.tab t = { x with wins := [] } ∧ others u ∧ u = { s with tabs := u.tabs }) ∧
     ((∀ p : Fin 8, (s.rstE p).busy = false) → t.val < 12 → t.val % 2 = 0 → exec (.hogCutoff t) s = .next s) ∧
     ((∀ p : Fin 8, (s.rstE p).busy = false) → ¬ (t.val < 12 ∧ t.val % 2 = 0) →
       let cut := fun (m : Nat) => { x with
         tenure := none, left := 0, hogmv := BitVec.ofNat 6 m, hogc := BitVec.ofNat 8 (min 0xFF (x.hogc.toNat + 1)) }
       (x.tenure = none → exec (.hogCutoff t) s = .next s) ∧
       (∀ a, x.tenure = some (.acc a.aid) → s.findAcc a.aid = some a → ∃ u, exec (.hogCutoff t) s = .next u
         ∧ u.tab t = cut (a.mv.getD 0) ∧ others u) ∧
       (∀ r, x.tenure = some (.stg r.id) → (s.stg.find? fun q => q.id == r.id) = some r →
         (s.chan (4 * r.mv + r.ch)).act ≠ some r.sid → ∃ u, exec (.hogCutoff t) s = .next u
         ∧ u.tab t = cut r.mv ∧ others u ∧ u = { s with tabs := u.tabs, stg := s.stg.filter fun q => q.id != r.id }) ∧
       (∀ k, x.tenure = some (.pkt k) → k.owner = none → k.back = none → ∃ u, exec (.hogCutoff t) s = .next u
         ∧ u.tab t = cut k.mv ∧ others u ∧ u = { s with tabs := u.tabs, peer := { s.peer with
             used := s.peer.used.put 0 k.buf (s.peer.used.get 0 k.buf - 1), out := s.peer.out.del (t - 12) } }))) ∧
  (∀ s : State, s.Serves →
     let bad := ∃ t, t < 30 ∧ (s.tab t).lock = false ∧ s.badRota t (s.tab t).shadow = true
     (s.arb.pend = true → exec .commit s = .next { s.reached with arb := { s.arb with drop := true } }) ∧
     (s.arb.pend = false → bad → exec .commit s = .next { s.reached with arb := { s.arb with cerr := true } }) ∧
     (s.arb.pend = false → ¬ bad → (∀ t, t < 30 → s.tabIdle t = true ∧ ∀ e ∈ (s.tab t).shadow, e.1 < 256) →
       ∃ u, exec .commit s = .next u ∧ u.arb.pend = false ∧ u.arb.cerr = s.arb.cerr
         ∧ (∀ t, t < 30 → (u.tab t).pri = s.arb.pri ∧ (u.tab t).quota = s.arb.quota ∧ (u.tab t).pend = false
           ∧ (u.tab t).shadow = (s.tab t).shadow ∧ (u.tab t).ptr = (s.tab t).ptr
           ∧ ∀ k, k < 256 → (u.tab t).live.get 0 k
               = if (s.tab t).lock then (s.tab t).live.get 0 k else (s.tab t).shadow.get 0 k)
         ∧ u = { s.reached with arb := u.arb, tabs := u.tabs }))

/-! ### The peer link -/

/-- A CREDIT packet gives credits of its buffer back. A packet for this chip whose check value is wrong, or that holds a
reserved value, gives its credits, counts in CRCE or DROP, frees the buffer slot that its type names and has no other
effect; so does one of a reserved type. A loss that the link reports counts in LOSS, gives back the credits that the
lost header carried, and the slot of its buffer where it named a packet type. Counters saturate (R287, R288, R297,
R298, R437). -/
def Obligations.peer_credits_and_losses : Prop :=
  ∀ (s : State) (port : Fin 2), s.peerOpen port = true →
    let pkts := fun (pkt : List Byte) => match pType pkt with
      | 0 => Instr.peerWrite port pkt
      | 1 => .peerRdreq port pkt
      | 2 => .peerRdrsp port pkt
      | 3 => .peerWack port pkt
      | _ => .peerNack port pkt
    let stat := fun (u : State) => u.peer.stat.get PeStat.reset port
    let back := fun (u : State) (b n : Nat) => ∀ k, u.peer.used.get 0 k
      = s.peer.used.get 0 k - if k = 4 * port.val + b then n else 0
    let owes := fun (u : State) (b : Nat) => ∀ k, u.peer.owed.get 0 k
      = if k = 4 * port.val + b then min 8 (s.peer.owed.get 0 k + 1) else s.peer.owed.get 0 k
    let inc := fun (v : BitVec 16) => BitVec.ofNat 16 (min 0xFFFF (v.toNat + 1))
    (s.pwr.state ≠ 3 →
      (∀ pkt, pType pkt = 5 → pCrcOk pkt = true → pReserved pkt = false → ∃ t, exec (.peerCredit port pkt) s = .next t
        ∧ back t (pCrbuf pkt) (pCrcnt pkt) ∧ t = { s.awake with peer := { s.peer with used := t.peer.used } }) ∧
      (∀ pkt, pType pkt ≠ 5 → pDst pkt = s.peer.chip.toNat → pCrcOk pkt = false ∨ pReserved pkt = true →
        ∃ t, exec (pkts pkt) s = .next t
        ∧ stat t = (if pCrcOk pkt = false then { stat s with crce := inc (stat s).crce }
            else { stat s with drop := inc (stat s).drop })
        ∧ back t (pCrbuf pkt) (pCrcnt pkt) ∧ (pType pkt ≤ 4 → owes t (pBuf pkt)) ∧ (6 ≤ pType pkt → t.peer.owed = s.peer.owed)
        ∧ t = { s.awake with peer := { s.peer with stat := t.peer.stat, used := t.peer.used, owed := t.peer.owed } })) ∧
    (∀ h : BitVec 16, ∃ t, exec (.rxLoss port h) s = .next t ∧ stat t = { stat s with loss := inc (stat s).loss }
      ∧ back t (h.extractLsb' 12 2).toNat (h.extractLsb' 8 4).toNat
      ∧ ((h.extractLsb' 0 3).toNat ≤ 4 →
          owes t ((if 2 ≤ (h.extractLsb' 0 3).toNat then 2 else 0) + (h.extractLsb' 3 1).toNat))
      ∧ (4 < (h.extractLsb' 0 3).toNat → t.peer.owed = s.peer.owed)
      ∧ t = { s with peer := { s.peer with stat := t.peer.stat, used := t.peer.used, owed := t.peer.owed } })

/-- A WRITE or RDREQ packet for this chip, with its checks of R287 passed, that restarts no FINAL tracker. Of a stream
that is not an ARMED receive stream of an enabled tenant's current generation it is answered with NACK, NST 0x01, and
changes no stream, counter or access. One that passes the checks of R293 becomes a request under way: a flagged-final
FINAL WRITE is held at its tracker; any other, where no translation is cached, has the accesses that hold each byte it
places, and a WRITE the number of bytes that lie in bounds (R218, R290, R291, R293, R294, R296). -/
def Obligations.peer_requests : Prop :=
  ∀ (s : State) (port : Fin 2) (pkt : List Byte) (wr : Bool), s.peerOpen port = true → s.pwr.state ≠ 3 →
    pType pkt = (if wr then 0 else 1) → pDst pkt = s.peer.chip.toNat → pCrcOk pkt = true → pReserved pkt = false →
    let c := if wr then Instr.peerWrite port pkt else .peerRdreq port pkt
    let x := s.strmAt (pRsid pkt)
    let job : RxJob := { id := s.seq, port := port, sid := pRsid pkt, hdr := BitVec.ofNat 256 (leNat (pkt.take 32)), wr := wr,
                         landed := 0, err := false, got := [], want := [], drain := false, fin := none }
    let calm := ∀ k, wr = true → s.ffGrant (pSrc pkt) (pMv pkt) (pCh pkt) = some k →
      (s.fin k).live = true ∧ (s.fin k).xseq = BitVec.ofNat 8 (pXseq pkt)
    (calm → x.st ≠ .armed ∨ x.rcv = false ∨ (s.ten x.ten.toNat).en = false ∨ x.tgen ≠ (s.ten x.ten.toNat).gen →
      s.peer.dirOf (pSrc pkt) = 1 ∨ s.peer.dirOf (pSrc pkt) = 2 → ∃ t p, exec c s = .next t ∧ t.peer.tx = s.peer.tx ++ [p]
        ∧ p.port = s.peer.dirOf (pSrc pkt) - 1 ∧ p.resp = true ∧ p.vc = s.peer.dateline p.port
        ∧ p.bytes = packet (reqHeader 4 (b2n p.vc) 0 0 (pSrc pkt) (pDst pkt) (pMv pkt) (pCh pkt) (pTen pkt) (pGen pkt)
            (s.peer.nchip.toNat - 1) 0 (pRsid pkt) (pXseq pkt) (pOff pkt) 0 1) []
        ∧ t = { s.awake with movers := t.movers, peer := { s.peer with used := t.peer.used, owed := t.peer.owed, tx := t.peer.tx } }) ∧
    (∀ k, wr = true → s.rxCheck pkt wr = none → pFfin pkt = true → pFinal pkt = true →
      s.ffGrant (pSrc pkt) (pMv pkt) (pCh pkt) = some k → (s.fin k).held = none → ∃ t, exec c s = .next t
        ∧ t.peer.jobs = s.peer.jobs ++ [{ job with fin := some k }]
        ∧ t.fin k = { live := true, xseq := BitVec.ofNat 8 (pXseq pkt), held := some (s.seq, pPayload pkt)
                      landed := if (s.fin k).live = true ∧ (s.fin k).xseq = BitVec.ofNat 8 (pXseq pkt) then (s.fin k).landed else 0 }
        ∧ (∀ j, j ≠ k → t.fin j = s.fin j)
        ∧ t = { s.awake with
            seq := s.seq + 1, movers := t.movers, peer := { s.peer with used := t.peer.used, jobs := t.peer.jobs, fin := t.peer.fin } }) ∧
    (calm → s.rxCheck pkt wr = none → pFfin pkt = false → (∀ j ∈ s.peer.jobs, j.id ≠ s.seq) →
      (s.ten x.ten.toNat).rootEn = true → (s.mover x.hmv.toNat).utlb = [] → (s.xlU x.part.toNat).l2 = [] →
      (∀ e ∈ (s.xlU x.part.toNat).wc, e.bad = false) →
      let at' := fun (i : Nat) => placeAddr (placeDesc x) (pOff pkt + i)
      ∃ t j, exec c s = .next t ∧ t.peer.jobs = s.peer.jobs ++ [j] ∧ j = { job with landed := j.landed, want := j.want }
        ∧ (wr = true → j.landed = ((List.range (pLen pkt)).filter fun i => (at' i).isSome).length)
        ∧ (wr = false → j.want.length = pLen pkt)
        ∧ (∀ i v, i < pLen pkt → at' i = some v → v < 2 ^ 48 →
            ∃ a ∈ t.acc, a.kind = (if wr then .rxWrite s.seq else .rxRead s.seq) ∧ a.wr = wr ∧ a.va ≤ v ∧ v < a.va + a.len)
        ∧ t = { s.awake with
            seq := s.seq + 1, nextAid := t.nextAid, movers := t.movers, xl := t.xl, acc := t.acc
            peer := { s.peer with used := t.peer.used, jobs := t.peer.jobs } })

/-- A response that answers a request, while the command has others under way: the request is awaited no more. A WACK
counts the packet's bytes as written; the data of an RDRSP go to the read reorder space; a NACK stops the command at
the request's tile with FLT_BUS_READ or FLT_BUS_WRITE, RESP being DECERR for NST 0x01 and SLVERR for any other; the
stop that is under way latches the error once nothing is awaited (R198, R292, R295). One that nobody awaits counts in
DROP. -/
def Obligations.peer_responses : Prop :=
  ∀ (s : State) (port : Fin 2) (pkt : List Byte), s.peerOpen port = true → s.pwr.state ≠ 3 →
    pDst pkt = s.peer.chip.toNat → pCrcOk pkt = true → pReserved pkt = false →
    let used := fun (u : State) => ∀ k, u.peer.used.get 0 k
      = s.peer.used.get 0 k - if k = 4 * port.val + pCrbuf pkt then pCrcnt pkt else 0
    (pType pkt = 3 → s.answered pkt (some true) = none → ∃ t, exec (.peerWack port pkt) s = .next t ∧ used t
      ∧ (t.peer.stat.get PeStat.reset port).drop.toNat = min 0xFFFF ((s.peer.stat.get PeStat.reset port).drop.toNat + 1)
      ∧ t = { s.awake with peer := { s.peer with stat := t.peer.stat, used := t.peer.used, owed := t.peer.owed } }) ∧
    ∀ (r q : RemReq) (sid : Nat) (k : CmdCtx), q ∈ s.peer.rem.erase r → q.mv = r.mv → q.ch = r.ch → q.sent = true →
      (s.ch r.mv r.ch).act = some sid → (s.strmAt sid).cmd = some k → (s.ch r.mv r.ch).stop = none →
      (s.ch r.mv r.ch).abort = false → (s.ch r.mv r.ch).ph = .tiles →
      let others := fun (u : State) => ∀ j, j ≠ 4 * r.mv + r.ch → u.chan j = s.chan j
      (pType pkt = 3 → s.answered pkt (some true) = some r → ∃ t k', exec (.peerWack port pkt) s = .next t ∧ used t
        ∧ t.peer.rem = s.peer.rem.erase r ∧ (t.strmAt sid).cmd = some k' ∧ k' = { k with ok := k'.ok, remoteOk := k'.remoteOk }
        ∧ (∀ j, k'.ok.get 0 j = k.ok.get 0 j + if j = r.tile then r.len else 0)
        ∧ (∀ j, k'.remoteOk.get 0 j = if r.off ≤ j ∧ j < r.off + r.len then 1 else k.remoteOk.get 0 j)
        ∧ (∀ j, j ≠ sid → t.strmAt j = s.strmAt j)
        ∧ t = { s.awake with strms := t.strms, peer := { s.peer with used := t.peer.used, owed := t.peer.owed, rem := t.peer.rem } }) ∧
      (pType pkt = 2 → s.answered pkt (some false) = some r → q.wr = false → ∃ t, exec (.peerRdrsp port pkt) s = .next t ∧ used t
        ∧ t.peer.rem = s.peer.rem.erase r
        ∧ t.ch r.mv r.ch = { s.ch r.mv r.ch with got := (r.off, pPayload pkt) :: (s.ch r.mv r.ch).got } ∧ others t
        ∧ t = { s.awake with chans := t.chans, peer := { s.peer with used := t.peer.used, owed := t.peer.owed, rem := t.peer.rem } }) ∧
      (pType pkt = 4 → s.answered pkt none = some r → let resp := if pNst pkt = 1 then 3 else 2
        ∃ t z, exec (.peerNack port pkt) s = .next t
        ∧ used t ∧ (t.ch r.mv r.ch).stop = some z ∧ z.frozen = false ∧ z.stopAt = .tile ∧ z.ntile = BitVec.ofNat 40 r.tile
        ∧ z.frec.fcode = (if r.wr then 0x21 else 0x20) ∧ z.frec.kind = 11 ∧ z.frec.resp = BitVec.ofNat 8 resp
        ∧ z.err = some { dir := r.wr, walk := false, resp := resp, kind := 11, va := 0, pa := 0 } ∧ others t
        ∧ t = { s.awake with chans := t.chans, acc := t.acc, stg := t.stg, peer := { s.peer with
                  used := t.peer.used, owed := t.peer.owed, rem := t.peer.rem, tx := t.peer.tx } })

/-- A packet for another chip that DIR reaches goes on: TTL is one less, VC becomes 1 at a dateline and stays 1, the
credits that it carried stay here, every other header byte but the check value and all of the payload are unchanged,
and the check value is right exactly when it was; one that is wrong counts in FWDCRC. At TTL 0, toward an unreachable
chip, or with a reserved value, it counts in DROP and frees the slot that its type names (R286 to R288, R297, R301).
How the wrong check value of a forwarded packet is kept wrong is the model's choice (log 41). -/
def Obligations.packet_forwarding : Prop :=
  ∀ (s : State) (port : Fin 2) (pkt : List Byte), s.peerOpen port = true → s.pwr.state ≠ 3 → pType pkt ≠ 5 →
    pDst pkt ≠ s.peer.chip.toNat → 32 ≤ pkt.length →
    let d := s.peer.dirOf (pDst pkt)
    let inc := fun (v : BitVec 16) => BitVec.ofNat 16 (min 0xFFFF (v.toNat + 1))
    let used := fun (u : State) => ∀ k, u.peer.used.get 0 k
      = s.peer.used.get 0 k - if k = 4 * port.val + pCrbuf pkt then pCrcnt pkt else 0
    let stat := fun (u : State) => u.peer.stat.get PeStat.reset port
    let lost := pReserved pkt = true ∨ pTtl pkt = 0 ∨ d = 0 ∨ d = 3
    (¬ lost → ∃ t p, exec (.packetForward port pkt false) s = .next t ∧ t.peer.tx = s.peer.tx ++ [p] ∧ used t
      ∧ p.port = d - 1 ∧ p.vc = (pVc pkt || s.peer.dateline (d - 1)) ∧ pVc p.bytes = p.vc ∧ p.slot = some (4 * port + pBuf pkt)
      ∧ pTtl p.bytes = pTtl pkt - 1 ∧ (∀ i, i < 28 → i ≠ 0 → i ≠ 5 → i ≠ 25 → p.bytes[i]? = pkt[i]?) ∧ pCrcnt p.bytes = 0 ∧ p.bytes.drop 32 = pkt.drop 32
      ∧ pType p.bytes = pType pkt ∧ pCrcOk p.bytes = pCrcOk pkt
      ∧ (pCrcOk pkt = true → stat t = stat s)
      ∧ (pCrcOk pkt = false → stat t = { stat s with fwdcrc := inc (stat s).fwdcrc })
      ∧ t = { s.awake with peer := { s.peer with stat := t.peer.stat, used := t.peer.used, tx := t.peer.tx } }) ∧
    (lost → ∃ t, exec (.packetForward port pkt false) s = .next t ∧ used t
      ∧ stat t = { stat s with drop := inc (stat s).drop }
      ∧ (pType pkt ≤ 4 → t.peer.owed.get 0 (4 * port + pBuf pkt) = min 8 (s.peer.owed.get 0 (4 * port + pBuf pkt) + 1))
      ∧ (6 ≤ pType pkt → t.peer.owed = s.peer.owed)
      ∧ t = { s.awake with peer := { s.peer with stat := t.peer.stat, used := t.peer.used, owed := t.peer.owed } })

/-- The end of a request at its receive stream. Writes that have all landed add to the landing counter: of an unflagged
packet the bytes that lie in bounds, of a FINAL packet TOTAL; of another packet of a flagged-final transfer they count
at the tracker. The request is answered with a WACK, and reads that have all returned with an RDRSP that carries them;
its buffer slot is free. The FINAL packet of the transfer that the tracker follows frees the tracker. A FINAL packet
is held until the bytes landed and its own make TOTAL, and is then written (R217, R218, R294, R296). -/
def Obligations.receive_requests_end : Prop :=
  ∀ (s : State) (j : RxJob), s.job j.id = some j → j.drain = false →
    let x := s.strmAt j.sid
    let key := 64 * x.hmv.toNat + x.lctr.toNat
    let d := s.peer.dirOf (pSrc j.head)
    let answered := fun (t : State) (type n : Nat) (l : List Byte) => (∃ p, t.peer.tx = s.peer.tx ++ [p]
        ∧ p.port = d - 1 ∧ p.resp = true ∧ p.bytes = packet (reqHeader type (b2n (s.peer.dateline (d - 1))) 0 0 (pSrc j.head)
            (pDst j.head) (pMv j.head) (pCh j.head) (pTen j.head) (pGen j.head) (s.peer.nchip.toNat - 1) n (pRsid j.head)
            (pXseq j.head) (pOff j.head) 0 0) l)
      ∧ t.peer.jobs = s.peer.jobs.filter (fun q => q.id != j.id)
      ∧ t.peer.owed.get 0 (4 * j.port + pBuf j.head) = min 8 (s.peer.owed.get 0 (4 * j.port + pBuf j.head) + 1)
    let adds := fun (t : State) (n : Nat) => t.cnt key = { s.cnt key with value := (s.cnt key).value + BitVec.ofNat 32 n }
      ∧ ∀ i, i ≠ key → t.cnt i = s.cnt i
    (d = 1 ∨ d = 2 → s.jobReady j = true → pRsid j.head = j.sid →
      (j.wr = true → (s.cnt key).bound = true → (s.cnt key).ten = x.ten → (s.cnt key).mode = 2 →
        (j.fin = none → (s.cnt key).value.toNat + j.landed < 2 ^ 32 →
          ∃ t, exec (.receiveWritesLanded j.id) s = .next t ∧ adds t j.landed ∧ answered t 3 0 [] ∧ t.peer.fin = s.peer.fin) ∧
        (∀ k, j.fin = some k → pFinal j.head = true → (s.fin k).xseq.toNat = pXseq j.head → (s.cnt key).value.toNat + pTotal j.head < 2 ^ 32 →
          ∃ t, exec (.receiveWritesLanded j.id) s = .next t ∧ adds t (pTotal j.head) ∧ answered t 3 0 []
          ∧ t.fin k = FinTrk.reset)) ∧
      (∀ k, j.wr = true → j.fin = some k → pFinal j.head = false → (s.fin k).xseq.toNat = pXseq j.head →
        ∃ t, exec (.receiveWritesLanded j.id) s = .next t ∧ answered t 3 0 [] ∧ t.cnts = s.cnts
        ∧ t.fin k = { s.fin k with landed := (s.fin k).landed + j.landed }) ∧
      (j.wr = false → ∃ t, exec (.receiveReadsDone j.id) s = .next t ∧ t.cnts = s.cnts
        ∧ answered t 2 j.want.length (j.want.map fun a => if a < 2 ^ 48 then gotByte j.got a else BitVec.ofNat 8 (a - 2 ^ 48)))) ∧
    (∀ (k : Fin 16) (l : List Byte), (s.fin k).held = some (j.id, l) →
      ((s.fin k).landed + pLen j.head ≠ pTotal j.head → exec (.finalRelease k) s = .next s) ∧
      ((s.fin k).landed + pLen j.head = pTotal j.head → j.wr = true → (s.ten x.ten.toNat).rootEn = true →
        (s.mover x.hmv.toNat).utlb = [] → (s.xlU x.part.toNat).l2 = [] → ∃ t, exec (.finalRelease k) s = .next t
        ∧ t.fin k = { s.fin k with held := none }
        ∧ (∀ i v, i < pLen j.head → placeAddr (placeDesc x) (pOff j.head + i) = some v →
            ∃ a ∈ t.acc, a.kind = .rxWrite j.id ∧ a.wr = true ∧ a.va ≤ v ∧ v < a.va + a.len)
        ∧ t.strms = s.strms ∧ t.cnts = s.cnts ∧ t.peer.tx = s.peer.tx))

/-- The remote response timer: none of the channel's requests is awaited any more, and its command, which nothing else
stops, halts at the earliest tile of the requests with FLT_PEER_TIMEOUT; its stream is HALTED and leaves the channel,
the error is latched with KIND 11, and a fault record reports it (R198 to R200, R299). -/
def Obligations.peer_timeout : Prop :=
  ∀ (s : State) (m : Fin 64) (c : Fin 4) (sid : Nat) (r : RemReq),
    let mine := fun (q : RemReq) => q.sent = true ∧ q.mv = m.val ∧ q.ch = c.val
    let x := s.strmAt sid
    let p := x.part.toNat
    (s.ch m c).act = some sid → (s.ch m c).stop = none → (s.ch m c).abort = false → (s.ch m c).shadow = none →
    (∀ a ∈ s.acc, a.rq = .mover m → a.ch = c.val → a.wr = false ∨ (a.drain = true ∧ isSpillWrite a.kind = false)) →
    sid < 40960 → (∀ e ∈ s.strms, e.1 = sid → e.2.st ≠ .waiting) → (s.ch m c).errValid = false →
    r ∈ s.peer.rem → mine r → (∀ q ∈ s.peer.rem, mine q → r.tile ≤ q.tile) →
    (s.part p).fq.en = true → (s.part p).fq.busy = true → (s.part p).fq.buf.length < 64 →
    ∃ t f, exec (.peerTimeout m c) s = .next t ∧ (∀ q ∈ t.peer.rem, ¬ mine q)
      ∧ (t.strmAt sid).st = .halted ∧ (t.strmAt sid).stopAt = .tile ∧ (t.strmAt sid).ntile = BitVec.ofNat 40 r.tile
      ∧ (t.ch m c).act = none ∧ (t.ch m c).errValid = true ∧ (t.ch m c).errKind = 11 ∧ (t.part p).fq.buf = (s.part p).fq.buf ++ [f]
      ∧ f.fcode = 0x40 ∧ f.sid = BitVec.ofNat 21 sid ∧ f.ten = x.ten ∧ f.ntile = BitVec.ofNat 40 r.tile ∧ f.kind = 11

/-! ### Resets -/

/-- A tenant reset of an AVAIL tenant whose partition runs no reset, and that escalation does not raise: at the fence the
engine is busy with UNIT 1 and the tenant, EN and WEIGHT are 0 and GEN has risen by 1; the NVM is as before, and,
where no other access waits for a walk, the Sync File, the rope lines and the management core; with RCV=1 the reset
enters the recovery history. A tenant that is not AVAIL only sets DROP; a reset already in progress is not begun
again; behind another one the request waits, with RCV=1 in the recovery history at once, and with 4 waiting it only
sets the partition's DROP (R340, R342, R345, R352). A Mover reset, and a partition reset, that nothing bars or raises:
the engine is busy with the unit and target. Of a Mover reset the Mover's clock runs, its suspect list is frozen, an
online test is abandoned, and each of its channels is idle under its next transfer number; of a partition reset every
tenant of the partition is disabled under its next generation (R342, R343, R346, R347, R350). -/
def Obligations.fences : Prop :=
  (∀ (s : State) (t : Fin 256) (rcv : Bool), s.Serves → s.esc.oos = false → s.blk = none →
     let x := s.ten t
     let p := x.part.toNat
     let hist := (if rcv then [(1, BitVec.ofNat 8 t, s.mg.ms)] else []) ++ s.esc.hist
     (x.avail = false → exec (.resetTenant t rcv) s = .next { s.reached with esc := { s.esc with drop := true } }) ∧
     (x.avail = true → (s.rstE p).busy = true →
       ((s.rstE p).unit = 1 → (s.rstE p).target = BitVec.ofNat 8 t → exec (.resetTenant t rcv) s = .next s.reached) ∧
       (((s.rstE p).unit = 1 → (s.rstE p).target ≠ BitVec.ofNat 8 t) →
         (4 ≤ (s.rstE p).queue.length → ∃ u, exec (.resetTenant t rcv) s = .next u
           ∧ u.rstE p = { s.rstE p with drop := true } ∧ u.esc = s.esc) ∧
         ((s.rstE p).queue.length < 4 → (rcv = true → s.countFull = false ∧ (s.ladder && s.recurs 1 t) = false) →
           ∃ u, exec (.resetTenant t rcv) s = .next u ∧ u.rstE p = { s.rstE p with
             queue := (s.rstE p).queue ++ [{ unit := 1, target := BitVec.ofNat 8 t, rcv := rcv, raised := false, ms := s.mg.ms }] }
             ∧ u.esc.hist = hist ∧ u.mg = s.mg ∧ u.tens = s.tens))) ∧
     (x.avail = true → (s.rstE p).busy = false → (rcv = true → s.countFull = false ∧ (s.ladder && s.recurs 1 t) = false) →
       ∃ u, exec (.resetTenant t rcv) s = .next u
         ∧ u.rstE p = { s.rstE p with
             busy := true, unit := 1, sbath := true, target := BitVec.ofNat 8 t, rcv := rcv, tests := [] }
         ∧ (∀ j, j ≠ p → u.rstE j = s.rstE j)
         ∧ (u.ten t).en = false ∧ (u.ten t).weight = 0 ∧ (u.ten t).gen = x.gen + 1 ∧ (u.ten t).part = x.part
         ∧ (u.ten t).avail = true ∧ (u.ten t).root = x.root
         ∧ (∀ j, j ≠ t.val → (u.ten j).en = (s.ten j).en ∧ (u.ten j).weight = (s.ten j).weight ∧ (u.ten j).gen = (s.ten j).gen)
         ∧ u.esc.hist = hist ∧ u.nvm = s.nvm ∧ u.boot = s.boot
         ∧ ((∀ q, (s.xlU q).queue = []) → u.cnts = s.cnts ∧ u.ropes = s.ropes ∧ u.mg = s.mg))) ∧
  (∀ s : State, s.Serves → s.esc.oos = false → s.blk = none → s.countFull = false →
     let engine := fun (u : State) (p unit target : Nat) => u.rstE p = { s.rstE p with
       busy := true, unit := BitVec.ofNat 3 unit, sbath := true, target := BitVec.ofNat 8 target, rcv := true, tests := [] }
     (∀ m : Fin 64, s.partOf m < 8 → (s.rstE (s.partOf m)).busy = false → (s.ladder && s.recurs 2 m) = false →
       s.chans.wf Chan.reset → ∃ u, exec (.resetMover m) s = .next u ∧ engine u (s.partOf m) 2 m
         ∧ ((u.mover m).gated = false ∧ (u.mover m).froz = true ∧ (u.mover m).phase = 0 ∧ (u.mover m).req = false
           ∧ (u.mover m).oos = (s.mover m).oos)
         ∧ (∀ c : Fin 4, (u.chan (4 * m + c)).ph = .idle ∧ (u.chan (4 * m + c)).xseq = (s.chan (4 * m + c)).xseq + 1)
         ∧ u.esc.hist = (2, BitVec.ofNat 8 m, s.mg.ms) :: s.esc.hist ∧ u.nvm = s.nvm
         ∧ ((∀ q, (s.xlU q).queue = []) → u.cnts = s.cnts ∧ u.mg = s.mg)) ∧
     (∀ p : Fin 8, (s.part p).en = true → (s.rstE p).busy = false → (s.ladder && s.recurs 3 p) = false →
       ∃ u, exec (.resetPartition p) s = .next u ∧ engine u p 3 p
         ∧ (∀ t, t < 256 → (s.ten t).part.toNat = p.val → (u.ten t).en = false ∧ (u.ten t).weight = 0
           ∧ (u.ten t).gen = (s.ten t).gen + 1)
         ∧ (∀ t, (s.ten t).part.toNat ≠ p.val → (u.ten t).en = (s.ten t).en ∧ (u.ten t).gen = (s.ten t).gen)
         ∧ u.esc.hist = (3, BitVec.ofNat 8 p, s.mg.ms) :: s.esc.hist ∧ u.nvm = s.nvm
         ∧ ((∀ q, (s.xlU q).queue = []) → u.cnts = s.cnts ∧ u.mg = s.mg)))

/-- A block reset that escalation does not raise, and a power cycle: the whole block is fenced, every partition's engine
is busy with the unit and an empty queue, and a Staging test ends. When every access but the management core's has its
response, a block reset leaves start at step 2 with every stream, queue, tenant, counter and Mover at its reset value,
the NVM as it was and event 0x10 in the log, and a power cycle takes the block out of service and asks for it (R343,
R344, R351, R355). -/
def Obligations.reset_block : Prop :=
  ∀ s : State,
    (s.Serves → s.esc.oos = false → s.blk = none →
      let fenced := fun (u : State) (k : Nat) => u.blk = some (BitVec.ofNat 3 k) ∧ u.stc.busy = false ∧ u.nvm = s.nvm
        ∧ u.esc.hist.length = s.esc.hist.length + 1
        ∧ ∀ p : Fin 8, (u.rstE p).busy = true ∧ (u.rstE p).unit = BitVec.ofNat 3 k ∧ (u.rstE p).sbath = true
          ∧ (u.rstE p).queue = []
      (s.countFull = false → (s.ladder && s.recurs 4 0) = false → ∃ u, exec .resetBlock s = .next u ∧ fenced u 4) ∧
      ∃ u, exec .resetPowerCycle s = .next u ∧ fenced u 5) ∧
    ((∀ a ∈ s.acc, a.rq = .mgmt) →
      (s.blk = some 4 → s.mg.busy = false → ∃ u, exec (.stopBathDrained none) s = .next u ∧ u.boot.state = 2 ∧ u.blk = none
        ∧ u.strms = [] ∧ u.sqs = [] ∧ u.cqs = [] ∧ u.tens = [] ∧ u.parts = [] ∧ u.cnts = [] ∧ u.movers = [] ∧ u.chans = []
        ∧ u.acc = s.acc ∧ u.nvm = s.nvm ∧ (∃ e, u.mg.log = (e :: s.mg.log).take 4096 ∧ e.code = 0x10 ∧ e.arg = 12)
        ∧ u.pins = s.pins ∧ u.esc = s.esc ∧ u.tap = s.tap) ∧
      (s.blk = some 5 → ∃ u, exec (.stopBathDrained none) s = .next u ∧ u.boot.state = 14 ∧ u.esc.oos = true
        ∧ u.blk = none ∧ u.mg.pwrcyc = true ∧ u.nvm = s.nvm ∧ (∀ p, (u.rstE p).busy = false)))

/-- The stop bath of a partition's reset, once no access of its domain is left. Of a tenant reset without glacier streams
and with nothing queued behind it: the tenant's streams are EMPTY, its queues disabled, its counters unbound, its root
disabled and its account 0, the engine is idle with LUNIT and LTARGET, and event 0x10 is logged. Of a Mover reset: the
Mover's counters are unbound, its channels are as at reset but for their transfer numbers, so that their LFSRs hold 1
and the first turn falls to channel 0, its translations are gone, and its self-test is awaited (R65, R345, R347). A
stop bath that runs out abandons the accesses of its domain to the response sink, in order, and counts those
outstanding in ABND. A late response frees its ID and tracker (R343, R344). -/
def Obligations.stop_baths : Prop :=
  (∀ (s : State) (p : Fin 8), s.blk = none → (s.rstE p).busy = true → (s.rstE p).sbath = true → s.bathLeft p = [] →
     (∀ t : Fin 256, s.strms.wf Strm.reset → s.chans.wf Chan.reset →
       (∀ e ∈ s.chans, ∀ sid, e.2.shadow = some sid → (s.strmAt sid).st ≠ .empty) → (s.rstE p).unit = 1 → (s.rstE p).target = BitVec.ofNat 8 t → (s.ten t).part.toNat = p.val →
       (s.rstE p).queue = [] → (s.rstE p).tests = [] → (∀ e ∈ s.strms, e.2.ten = BitVec.ofNat 8 t → e.1 < 40960) →
       (∀ a ∈ s.acc, a.kind ≠ .glacZero) →
       ∃ u, exec (.stopBathDrained (some p)) s = .next u
         ∧ (∀ e ∈ s.strms, e.2.ten = BitVec.ofNat 8 t → (u.strmAt e.1).st = .empty)
         ∧ (∀ q, (u.sq q).en = true → (u.sq q).ten ≠ BitVec.ofNat 8 t)
         ∧ (∀ q, (u.cq q).en = true → (u.cq q).ten ≠ BitVec.ofNat 8 t)
         ∧ (∀ k, (u.cnt k).bound = true → (u.cnt k).ten ≠ BitVec.ofNat 8 t)
         ∧ (u.ten t).rootEn = false ∧ (u.ten t).cyc = 0 ∧ (u.ten t).vt = 0 ∧ (u.ten t).gen = (s.ten t).gen
         ∧ u.rstE p = { s.rstE p with
             busy := false, unit := 0, target := 0, sbath := false, rcv := false, lunit := 1, ltarget := BitVec.ofNat 8 t
             abnd := 0 }
         ∧ (∃ e, u.mg.log.head? = some e ∧ e.code = 0x10 ∧ e.src = BitVec.ofNat 8 p)) ∧
     (∀ m : Fin 64, (s.rstE p).unit = 2 → (s.rstE p).target = BitVec.ofNat 8 m →
       ∃ u, exec (.stopBathDrained (some p)) s = .next u
         ∧ (∀ k : Fin 64, u.cnt (64 * m + k) = Cnt.reset)
         ∧ (∀ c : Fin 4, u.chan (4 * m + c) = { Chan.reset with xseq := (u.chan (4 * m + c)).xseq })
         ∧ (u.mover m).utlb = [] ∧ (u.mover m).turnI = 3 ∧ (u.mover m).turnO = 3 ∧ (u.rstE p).tests = [m.val] ∧ (u.rstE p).busy = true ∧ (u.rstE p).sbath = false)) ∧
  (∀ s : State,
     (∀ p : Fin 8, s.blk = none → (s.rstE p).busy = true → (s.rstE p).sbath = true → (s.rstE p).unit = 2 →
       (s.rstE p).target.toNat < 64 →
       let l := s.acc.filter fun a => s.inDom (.mover (s.rstE p).target.toNat) a && a.stage == .out
       ∃ u, exec (.stopBathTimeout (some p)) s = .next u ∧ u.sink.map (·.aid) = s.sink.map (·.aid) ++ l.map (·.aid)
         ∧ (u.rstE p).abnd = BitVec.ofNat 16 (min 0xFFFF l.length) ∧ (u.rstE p).sbath = false) ∧
     (∀ aid : Nat, ∃ u, exec (.sinkLateResponse aid) s = .next u
       ∧ u = { s with sink := s.sink.filter (fun a => a.aid != aid), rst := u.rst }))

/-- The self-test of a Mover reset: a pass with nothing queued completes the reset, with event 0x10; a failure, or a reset
not done in time, puts the Mover out of service with TESTF or HANG and event 0x13, and its partition's reset is
counted (R342, R347, R348, R352). -/
def Obligations.mover_self_test : Prop :=
  ∀ (s : State) (m : Fin 64), let p := s.partOf m
    p < 8 → s.blk = none → (s.rstE p).busy = true → (s.rstE p).sbath = false → (s.rstE p).tests = [m.val] →
    (s.rstE p).unit = 2 → (s.rstE p).target = BitVec.ofNat 8 m →
    ((s.rstE p).queue = [] → (∀ a ∈ s.acc, a.kind ≠ .glacZero) →
      ∃ u, exec (.moverSelftestDone m true) s = .next u
        ∧ u.rstE p = { s.rstE p with
            busy := false, unit := 0, target := 0, rcv := false, lunit := 2, ltarget := BitVec.ofNat 8 m, tests := [] }
        ∧ (∃ e, u.mg.log = (e :: s.mg.log).take 4096 ∧ e.code = 0x10 ∧ e.src = BitVec.ofNat 8 p)
        ∧ u.nvm = s.nvm ∧ u.cnts = s.cnts ∧ u.movers = s.movers) ∧
    ((∀ q, (s.xlU q).queue = []) → ∃ u, exec (.moverSelftestDone m false) s = .next u ∧ (u.mover m).oos = true ∧ (u.mover m).testf = true
      ∧ u.esc.hist.length = s.esc.hist.length + 1
      ∧ ∃ e ∈ u.mg.log, e.code = 0x13 ∧ e.src = BitVec.ofNat 8 m ∧ e.seq = s.mg.nseq) ∧
    ((∀ q, (s.xlU q).queue = []) → ∃ u, exec (.moverResetTimeout m) s = .next u ∧ (u.mover m).oos = true ∧ (u.mover m).hang = true
      ∧ u.esc.hist.length = s.esc.hist.length + 1
      ∧ ∃ e ∈ u.mg.log, e.code = 0x13 ∧ e.src = BitVec.ofNat 8 m ∧ e.seq = s.mg.nseq)

/-! ### Pins, parity and power -/

/-- rope_in. On a line with EN=EXT=1 a rise is an arrival if the line was seen low since the last round; while Movers of
the mask are missing the round stays open, and with all of them there it completes: ROUND increases by 1, ARR takes
PEND, PEND is cleared and rope_out is high. A fall makes the line seen low, and after a completed round rope_out
falls. On a line without EXT only the level is kept; in RETAIN a rise is remembered. No other line changes (R233 to
R236, R384). -/
def Obligations.rope_pins : Prop :=
  ∀ (s : State) (n : Fin 16), s.pwr.off = false →
    let r := s.rope n
    let is := fun (t : State) (z : Rope) => t.rope n = z ∧ ∀ j, j ≠ n.val → t.rope j = s.rope j
    (r.rin = false → s.pwr.state ≠ 4 → s.pwr.state ≠ 5 →
      (r.en = false ∨ r.ext = false ∨ s.pins.core = true → ∃ t, exec (.ropeInRise n) s = .next t
        ∧ is t { r with rin := true, low := false } ∧ t = { s with ropes := t.ropes }) ∧
      (r.en = true → r.ext = true → s.pins.core = false →
        (s.ropeAll n = false → ∃ t, exec (.ropeInRise n) s = .next t
          ∧ is t { r with rin := true, taken := r.taken || r.low, low := false } ∧ t = { s with ropes := t.ropes }) ∧
        (s.ropeAll n = true → (r.taken || r.low) = true → (∀ e ∈ s.strms, ∀ v, e.2.wait ≠ .dblRope n v true) →
          ∃ t, exec (.ropeInRise n) s = .next t ∧ is t { r with
              rin := true, round := r.round + 1, arr := r.pend, pend := 0, taken := false, low := false, rel := true
              rout := true }
            ∧ t = { s with ropes := t.ropes, strms := t.strms, tens := t.tens, seq := t.seq }))) ∧
    (r.rin = false → s.pwr.state = 4 ∨ s.pwr.state = 5 → ∃ t, exec (.ropeInRise n) s = .next t
      ∧ is t { r with rin := true } ∧ t.pwr.rose.getLsbD n = true ∧ t = { s with ropes := t.ropes, pwr := t.pwr }) ∧
    (r.rin = true → s.clocked = true → ∃ t, exec (.ropeInFall n) s = .next t
      ∧ is t { r with rin := false, low := true, rout := r.rout && !r.rel, rel := false } ∧ t = { s with ropes := t.ropes }) ∧
    (r.rin = true → s.clocked = false → ∃ t, exec (.ropeInFall n) s = .next t
      ∧ is t { r with rin := false, low := true } ∧ t = { s with ropes := t.ropes })

/-- A beat on STRM: on an unbound TDEST it is counted in OVF; on a bound one that no TRANSFER takes its source from, it is
counted in OVF where the ingress buffer is full; else a start of frame, or any beat where nothing is being skipped, is
buffered with its valid bytes, TLAST and TUSER, and the first one skipped that bears valid bytes is counted in FERR. A
start of frame is counted. Counters saturate (R430, R432, R434). -/
def Obligations.strm_beats : Prop :=
  ∀ (s : State) (d : Fin 4) (data : List Byte) (keep : BitVec 32) (last user : Bool), s.strmOpen = true →
    s.pwr.state ≠ 2 →
    let q := s.strmP d
    let inc := fun (v : BitVec 16) => BitVec.ofNat 16 (min 0xFFFF (v.toNat + 1))
    ∃ t, exec (.strmBeat d data keep last user) s = .next t ∧
      (q.en = false → t.strmP d = { q with ovf := inc q.ovf } ∧ t = { s with strm := t.strm }) ∧
      (q.en = true → s.strmUser d = none → q.skip = false ∨ user = true → q.buf.length < 256 → data.length = 32 →
        t.strmP d = { q with
          frames := if user then inc q.frames else q.frames, curBad := q.curBad && !user, skip := false
          buf := q.buf ++ [{ data := (List.range 32).filterMap fun i => if keep.getLsbD i then data[i]? else none,
                             last := last, user := user, bad := !(if last then keep != 0 && keep &&& (keep + 1) == 0 else keep == BitVec.allOnes 32) }] }
        ∧ t = { s with strm := t.strm }) ∧
      (q.en = true → q.skip = true → user = false → q.buf.length < 256 →
        t.strmP d = (if keep = 0 then q else { q with ferr := if q.curBad then q.ferr else inc q.ferr, curBad := true })
          ∧ t = { s with strm := t.strm }) ∧
      (q.en = true → s.strmUser d = none → 256 ≤ q.buf.length →
        t.strmP d = { q with frames := if user then inc q.frames else q.frames, ovf := inc q.ovf } ∧ t = { s with strm := t.strm })

/-- A port's reset: HOST loses its read latch, its held half and the reads that wait; in RUN and with no reset under way,
a memory port with nothing outstanding frees its quarantined IDs, and STRM empties its ingress buffers where no
TRANSFER takes its source from them. Each input's level is kept, its release changes it back, and a peer port then
starts with all its credits (R444, R445). -/
def Obligations.port_resets : Prop :=
  ∀ s : State, s.pwr.off = false → s.boot.state = 13 → (∀ p : Fin 8, (s.rstE p).busy = false) →
    (s.pins.host = false → exec (.portResetAssert .host) s = .next { s with
      pins := { s.pins with host := true }
      host := { s.host with latch := none, held := none, wait := s.host.wait.filter fun c => !isRead c } }) ∧
    (s.pins.far0 = false → (∀ a ∈ s.acc, a.stage = .out → a.port ≠ 0) → ∃ t, exec (.portResetAssert .far0) s = .next t
      ∧ t = { s with pins := { s.pins with far0 := true }, sink := s.sink.filter (fun a => a.port != 0), rst := t.rst }) ∧
    (s.pins.strm = false → (∀ d, s.strmUser d = none) → ∃ t, exec (.portResetAssert .strm) s = .next t
      ∧ (∀ d, d < 4 → t.strmP d = { s.strmP d with buf := [] })
      ∧ t = { s with pins := { s.pins with strm := true }, strm := t.strm }) ∧
    exec (.portResetRelease .host) s = .next { s with pins := { s.pins with host := false } } ∧
    exec (.portResetRelease .far0) s = .next { s with pins := { s.pins with far0 := false } } ∧
    exec (.portResetRelease .near) s = .next { s with pins := { s.pins with near := false } } ∧
    (∃ t, exec (.portResetRelease .peer1) s = .next t ∧ t = { s with pins := { s.pins with peer1 := false }, peer := t.peer }
      ∧ (∀ b, b < 4 → t.peer.used.get 0 (4 + b) = 0 ∧ t.peer.owed.get 0 (4 + b) = 0
        ∧ t.peer.used.get 0 b = s.peer.used.get 0 b ∧ t.peer.owed.get 0 b = s.peer.owed.get 0 b)
      ∧ t.peer.tx = s.peer.tx ∧ t.peer.rem = s.peer.rem)

/-- The scrub reads the next record of a granule that is not retired and goes on; a record that fails is counted, logged
as event 0x21, and its stream, where it is on the block and not EMPTY, is QUARANTINED; a new pass begins at record 0.
A register that fails parity sets REG and LROFF and logs event 0x22; an image-held one whose copy is good changes
nothing else (R365, R368 to R370). -/
def Obligations.scrub_and_register_parity : Prop :=
  ∀ s : State,
    (s.boot.state = 13 → s.clocked = true → s.scrub < 40960 → s.granRet.get false (s.scrub / 64) = false →
      ((s.strmAt s.scrub).bad = 0 → exec (.scrubRead false) s = .next { s with scrub := s.scrub + 1 }) ∧
      ∃ t, exec (.scrubRead true) s = .next t ∧ t.scrub = s.scrub + 1 ∧ t.par.recE = true
        ∧ t.par.rcnt.toNat = min 0xFFFF (s.par.rcnt.toNat + 1)
        ∧ t.granErr.get 0 (s.scrub / 64) = s.granErr.get 0 (s.scrub / 64) + 1
        ∧ (s.strms.wf Strm.reset → s.chans.wf Chan.reset → (s.strmAt s.scrub).st ≠ .empty → (t.strmAt s.scrub).st = .quarantined)) ∧
    (s.clocked = true → exec .scrubPass s = .next { s with scrub := 0 }) ∧
    (s.boot.state = 13 → s.clocked = true → ∀ (p : Fin 8) (alt : Bool), ∃ t,
      exec (.regParityRewrite (BitVec.ofNat 21 (0x10000 + 0x1000 * p.val)) false alt) s = .next t
        ∧ t.par = { s.par with reg := true, lroff := BitVec.ofNat 21 (0x10000 + 0x1000 * p.val) }
        ∧ (∃ e, t.mg.log = (e :: s.mg.log).take 4096 ∧ e.code = 0x22) ∧ t = { s with par := t.par, mg := t.mg })

/-- The online test of a Mover: a request that nothing bars begins the drain (REQ 1, PHASE 1, the clock on); the drained
Mover is tested (PHASE 2); a pass clears REQ and PHASE and sets PASS; a failure sets FAIL and OOS and logs event 0x13.
A request while another Mover is under test is ignored with DROP. No other Mover changes (R371 to R374). The Staging
test: GO takes GROUP and sets BUSY, or sets DROP while a test runs; the end clears BUSY and sets PASS, or FAIL and
FBANK for a bank of the group. LINE shows the line under test, a free value (R375). -/
def Obligations.online_tests : Prop :=
  (∀ (s : State) (m : Fin 64),
     let others := fun (t : State) => ∀ j, j ≠ m.val → t.mover j = s.mover j
     let frame := fun (u t : State) =>
       t = { u with movers := t.movers, chans := t.chans, strms := t.strms, tens := t.tens, seq := t.seq }
     (s.Serves → s.blk = none → (s.rstE (s.partOf m)).busy = false → (s.rstE (s.partOf m)).queue = [] →
       (s.mover m).oos = false → (s.mover m).phase = 0 →
       ((∀ e ∈ s.movers, e.1 ≠ m.val → e.2.phase = 0) → ∃ t, exec (.moverTestReq m) s = .next t
         ∧ t.mover m = { s.mover m with req := true, phase := 1, gated := false } ∧ others t ∧ frame s.reached t) ∧
       ((∃ e ∈ s.movers, e.1 ≠ m.val ∧ e.2.phase ≠ 0) → ∃ t, exec (.moverTestReq m) s = .next t
         ∧ t.mover m = { s.mover m with tdrop := true } ∧ others t ∧ t = { s.reached with movers := t.movers })) ∧
     ((s.mover m).phase = 1 → s.testQuiet m = true → ∃ t, exec (.moverTestDrained m) s = .next t
       ∧ t.mover m = { s.mover m with phase := 2 } ∧ others t ∧ t = { s with movers := t.movers }) ∧
     ((s.mover m).phase = 2 → (∃ t, exec (.moverTestDone m true) s = .next t
         ∧ t.mover m = { s.mover m with req := false, phase := 0, tpass := true } ∧ others t ∧ frame s t) ∧
       ∃ t, exec (.moverTestDone m false) s = .next t
         ∧ t.mover m = { s.mover m with req := false, phase := 0, tfail := true, oos := true } ∧ others t
         ∧ ∃ e, t.mg.log = (e :: s.mg.log).take 4096 ∧ e.code = 0x13 ∧ e.src = BitVec.ofNat 8 m)) ∧
  (∀ s : State,
     (s.Serves → ∀ g : Fin 8,
       (s.stc.busy = false → ∃ t, exec (.stagingTestGo g) s = .next t
         ∧ t.stc = { s.stc with group := BitVec.ofNat 3 g, busy := true, line := t.stc.line }
         ∧ t = { s.reached with stc := t.stc, free := t.free }) ∧
       (s.stc.busy = true → exec (.stagingTestGo g) s = .next { s.reached with stc := { s.stc with drop := true } })) ∧
     (s.stc.busy = true →
       (∃ t, exec (.stagingTestDone none) s = .next t ∧ t.stc = { s.stc with busy := false, pass := true, line := t.stc.line }
         ∧ t = { s with stc := t.stc, free := t.free }) ∧
       ∀ b : Fin 32, b.val / 4 = s.stc.group.toNat → ∃ t, exec (.stagingTestDone (some b)) s = .next t
         ∧ t.stc = { s.stc with busy := false, fail := true, fbank := BitVec.ofNat 5 b, line := t.stc.line }
         ∧ t = { s with stc := t.stc, free := t.free }))

/-- LIGHT and DOZE: an idle Mover with LGEN=1 is gated, while the block is ACTIVE or drains for RETAIN; an idle block with
DZEN=1 enters DOZE, which is counted; a wake event starts the wake, and at its end the block is ACTIVE (R378 to R381,
R387). RETAIN: a request that nothing bars begins the drain, and one that R382 ignores sets DROP. Once the block is
quiet the Sync File and the rope lines are saved, the translation caches emptied and event 0x60 logged. An enabled
wake source begins the wake and is recorded in LWAKE; before RETAIN is reached it cancels the entry with CANC; a
disabled one does nothing. The end of the wake gives back what was saved (R382 to R384, R387). -/
def Obligations.power_states : Prop :=
  (∀ s : State,
     (∀ m : Fin 64, s.clocked = true → s.pwr.lgen = true → s.pwr.state = 0 ∨ s.pwr.state = 3 → s.gateable m = true →
       ∃ t, exec (.moverGate m) s = .next t ∧ t.mover m = { s.mover m with gated := true }
         ∧ (∀ j, j ≠ m.val → t.mover j = s.mover j) ∧ t = { s with movers := t.movers }) ∧
     (s.boot.state = 13 → s.clocked = true → s.pwr.dzen = true → s.pwr.state = 0 → s.dozeIdle = true →
       ∃ t, exec .dozeEnter s = .next t ∧ t.pwr.state = 2 ∧ t.pwr.dzcnt.toNat = min 0xFFFF (s.pwr.dzcnt.toNat + 1)
         ∧ t = { s with pwr := { s.pwr with state := 2, dzcnt := t.pwr.dzcnt, wake := false } }) ∧
     (s.pwr.state = 2 → exec .dozeWake s = .next { s with pwr := { s.pwr with wake := true } }) ∧
     (s.pwr.state = 2 → s.pwr.wake = true →
       exec .dozeWakeDone s = .next { s with pwr := { s.pwr with state := 0, wake := false } })) ∧
  (∀ s : State,
     (s.Serves → (s.reached.retainBarred = true →
         exec .retainRequest s = .next { s.reached with pwr := { s.reached.pwr with drop := true } }) ∧
       (s.reached.retainBarred = false → (∀ e ∈ s.chans, e.2.shadow = none ∧ e.2.loading = none) →
         exec .retainRequest s = .next { s.reached with pwr := { s.reached.pwr with state := 3, rreq := true } })) ∧
     (s.pwr.state = 3 → s.retainQuiet = true → s.movers.wf Mover.reset → ∃ t, exec .retainDrained s = .next t ∧ t.pwr.state = 4
       ∧ t.pwr.save = some (s.cnts, s.ropes) ∧ t.cnts = [] ∧ t.xl = [] ∧ (∀ m, (t.mover m).utlb = [])
       ∧ (∀ m, t.mover m = { s.mover m with utlb := [] })
       ∧ t.strms = s.strms ∧ t.tens = s.tens ∧ t.sqs = s.sqs ∧ t.cqs = s.cqs ∧ t.parts = s.parts ∧ t.nvm = s.nvm) ∧
     (∀ w, s.wakeOn w = true →
       (s.pwr.state = 4 → exec (.retainWake w) s
         = .next { s with pwr := { s.pwr with state := 5, lwake := BitVec.ofNat 3 (wakeCode w) } }) ∧
       (s.pwr.state = 3 → exec (.retainWake w) s
         = .next { s with pwr := { s.pwr with state := 0, canc := true, rreq := false } })) ∧
     (∀ w, s.wakeOn w = false → exec (.retainWake w) s = .next s) ∧
     (∀ (c : SMap Cnt) (r : SMap Rope), s.pwr.state = 5 → s.pwr.save = some (c, r) → s.pwr.rose = 0 → s.esc.held = false →
       (∀ n, n < 16 → (s.rope n).rin = (r.get Rope.reset n).rin) → ∃ t, exec (.retainWakeDone []) s = .next t
         ∧ t.cnts = c ∧ t.ropes = r ∧ t.pwr.state = 0 ∧ t.pwr.save = none ∧ t.pwr.rreq = false
         ∧ t.chans = s.chans ∧ t.movers = s.movers ∧ t.nvm = s.nvm))

/-- Loss of power and the always-on reset leave the block at State.reset but for the NVM, where no mailbox request is in
progress (R385, R444). Its release starts the block: SEQ of the log goes on behind the mirror, and the SMBus address
is taken (R320, R410, R439). The core reset takes the block to step 2, or to FAIL where it is out of service: every
stream, queue, tenant, Mover and Sync File counter is at its reset value, every rope_out is low, accesses under way
are awaited in the sink, and the NVM, the event log and the escalation record stay. Its release lets the march tests
end: failing granules are retired with event 0x23, and a failing bank ends start in FAIL with code 12 in both slots
(R320, R334, R351, R440, R446). -/
def Obligations.power_and_core_resets : Prop :=
  (∀ s : State,
     (s.mg.work = none →
       exec .powerOff s = .next { State.reset with
         pending := s.pending, free := s.free, nextAid := s.nextAid, nvm := s.nvm, pwr := { Pwr.reset with off := true } } ∧
       exec .aonResetAssert s = .next { State.reset with
         pending := s.pending, free := s.free, nextAid := s.nextAid, nvm := s.nvm,
         pwr := { Pwr.reset with off := s.pwr.off } }) ∧
     (s.pins.aon = true → ∀ a : BitVec 7, ∃ t, exec (.aonResetRelease a) s = .next t ∧ t.pins.aon = false
       ∧ t.pins.core = s.pins.core ∧ t.boot.state = 2 ∧ t.smb.addr = a ∧ t.pwr.off = false
       ∧ t.mg.nseq = (match ringNewest s.nvm with
         | none => 0
         | some q => BitVec.ofNat 24 (q + 1)) ∧ t.mg.mseq = t.mg.nseq ∧ t.nvm = s.nvm
       ∧ t = { s with pins := t.pins, pwr := t.pwr, boot := t.boot, smb := t.smb, mg := t.mg })) ∧
  (∀ s : State,
     (s.pins.aon = false → s.pwr.off = false → s.pins.core = false → s.mg.busy = false →
       ∃ t, exec .coreResetAssert s = .next t ∧ t.pins = { s.pins with core := true }
         ∧ t.boot.state = (if s.esc.oos then 14 else 2) ∧ t.strms = [] ∧ t.sqs = [] ∧ t.cqs = [] ∧ t.tens = [] ∧ t.parts = []
         ∧ t.chans = [] ∧ t.movers = [] ∧ t.cnts = [] ∧ t.acc = [] ∧ t.tabs = [] ∧ t.xl = [] ∧ t.arb = Arb.reset
         ∧ t.sink.map (·.aid) = s.sink.map (·.aid) ++ (s.acc.filter fun a => a.stage == .out).map (·.aid)
         ∧ t.nvm = s.nvm ∧ t.mg.log = s.mg.log ∧ t.esc.hist = s.esc.hist ∧ t.esc.oos = s.esc.oos ∧ t.tap = s.tap
         ∧ ∀ n, (t.rope n).rout = false) ∧
     (s.pwr.off = false → s.pins.aon = false → s.esc.oos = false → s.boot.state = 2 →
       (exec (.coreResetRelease [] false) s
         = .next { s with pins := { s.pins with core := false }, boot := { s.boot with state := 3 } }) ∧
       (∀ g, g < 640 → ∃ t, exec (.coreResetRelease [g] false) s = .next t ∧ t.pins.core = false ∧ t.boot.state = 3
         ∧ t.granRet.get false g = true ∧ (∀ j, j ≠ g → t.granRet.get false j = s.granRet.get false j)
         ∧ (∃ e, t.mg.log = (e :: s.mg.log).take 4096 ∧ e.code = 0x23 ∧ e.arg = BitVec.ofNat 40 g)
         ∧ t = { s with pins := t.pins, boot := t.boot, granRet := t.granRet, mg := t.mg }) ∧
       ∃ t, exec (.coreResetRelease [] true) s = .next t ∧ t.pins.core = false ∧ t.boot.state = 14 ∧ t.boot.faila = 12
         ∧ t.boot.failb = 12 ∧ t = { s with pins := t.pins, boot := t.boot, mg := t.mg }))

/-! ### Start -/

/-- Step 3 of start: a slot is a candidate when its header passes; of two candidates the one with the later SEQ (the
32-bit difference taken as signed; slot A at 0) is tried. Without a candidate start ends in FAIL. With one, the
signature, the header over the whole image, the formats, the REGS section and the configuration are checked in this
order, with codes 4 and 5, 2 to 6, 6, 7 and 8; an image that passes has its registers loaded and waits at step 8, and
one that fails leaves the fallback at step 4 or, where there is none, FAIL, with its code. The NVM keeps every byte
(R320, R322, R325, R328, R333, R334). -/
def Obligations.boot_image_load : Prop :=
  ∀ s : State, s.startable = true → s.boot.state = 3 →
    let head := fun (b : Bool) => nvmRead s.nvm (if b then 0x800000 else 0) 1024
    let code := fun (b : Bool) => headerFail (head b)
    let loaded := fun (l : List (Reg × Nat)) => (s.selectSlot none).readImage.loadRegs l
    ∃ t, exec .bootImageLoad s = .next t ∧ t.nvm = s.nvm
      ∧ (code false ≠ 0 → code true ≠ 0 → t.boot.state = 14 ∧ t.boot.faila = BitVec.ofNat 4 (code false)
          ∧ t.boot.failb = BitVec.ofNat 4 (code true))
      ∧ ∀ b : Bool, code b = 0 →
          (code (!b) = 0 → b = decide ((imgSeq (head false) - imgSeq (head true)).toInt < 0)) →
          let img := nvmRead s.nvm (if b then 0x800000 else 0) (imgSize (head b))
          let regs := bootRegs img
          let fails := if signFail img ≠ 0 then signFail img else if headerFail img ≠ 0 then headerFail img
            else if formatFail img then 6 else if regsBad (regEnts ((secBytes img 1).getD [])) then 7
            else if (loaded regs).configBad regs (sections img) then 8 else 0
          if fails = 0 then t.boot.state = 8 ∧ t.boot.slot = b ∧ t.boot.seq = imgSeq (head b)
            ∧ t.parts = (loaded regs).parts ∧ t.tens = (loaded regs).tens
          else (if b then t.boot.failb else t.boot.faila) = BitVec.ofNat 4 fails ∧ t.parts = [] ∧ t.tens = []
            ∧ (if code (!b) = 0 then t.boot.state = 4 ∧ t.boot.slot = !b else t.boot.state = 14)

/-- A read of the flash that runs out at step 3 gives its slot code 1, and the other slot is tried where its header
passes; while a slot is being tried it ends the attempt with code 1, and the fallback is tried, or start ends in FAIL
(R319, R322, R333, R334). An entry of FATAL=1 that fails, and any entry at the script's time limit, end the attempt
with code 9 and the entry's index: the fallback is tried, or start ends in FAIL. A WRITE fails by an error response,
or where FAR0's reset has cut its access off (R330, R333, R334, R337). -/
def Obligations.attempts_end : Prop :=
  (∀ s : State, s.startable = true →
     (s.boot.state = 3 → ∀ b : Bool, ∃ t, exec (.nvmReadTimeout b) s = .next t
       ∧ (if b then t.boot.failb else t.boot.faila) = 1 ∧ t.nvm = s.nvm
       ∧ (if headerFail (nvmRead s.nvm (if b then 0 else 0x800000) 1024) = 0 then t.boot.state = 4 ∧ t.boot.slot = !b
         else t.boot.state = 14)) ∧
     (s.boot.state = 4 → exec (.nvmReadTimeout (!s.boot.slot)) s = .next s) ∧
     (s.boot.state = 4 → ∃ t, exec (.nvmReadTimeout s.boot.slot) s = .next t
     ∧ (if s.boot.slot then t.boot.failb = 1 ∧ t.boot.faila = s.boot.faila else t.boot.faila = 1 ∧ t.boot.failb = s.boot.failb)
     ∧ (s.boot.cands = [s.boot.slot] → t.boot.state = 14)
     ∧ (s.boot.cands = [s.boot.slot, !s.boot.slot] → s.boot.tried = [] → t.boot.state = 4 ∧ t.boot.slot = !s.boot.slot)
     ∧ t.parts = [] ∧ t.tens = [] ∧ t.strms = [] ∧ t.nvm = s.nvm)) ∧
  (∀ (s : State) (e : ScrEnt), s.scriptNow = some e →
     let failed := fun (t : State) => t.boot.scridx = BitVec.ofNat 16 s.boot.sidx
       ∧ (if s.boot.slot then t.boot.failb else t.boot.faila) = 9 ∧ t.parts = [] ∧ t.tens = [] ∧ t.strms = [] ∧ t.nvm = s.nvm
       ∧ (s.boot.cands = [s.boot.slot] → t.boot.state = 14)
       ∧ (s.boot.cands = [s.boot.slot, !s.boot.slot] → s.boot.tried = [] → t.boot.state = 4 ∧ t.boot.slot = !s.boot.slot)
     (∃ t, exec .scriptTimeLimit s = .next t ∧ failed t) ∧
     (e.fatal = true → e.op = 2 → ∃ t, exec .scriptPollTimeout s = .next t ∧ failed t) ∧
     (e.fatal = true → e.op = 1 →
       s.boot.lost = true ∨ (∃ a ∈ s.acc, a.kind = .script ∧ a.stage = .out ∧ a.drain = false) →
       ∃ t, exec (.scriptWrite .decerr) s = .next t ∧ failed t))

/-- The script: it begins when FAR0 is out of reset. A WRITE and a POLL present their access on FAR0 as they begin; a
WRITE with OKAY, a POLL whose masked data match and a DELAY that is over go on to the next entry that is not skipped
as COLD; a POLL whose data do not match reads again; END ends the script, and the DATA sections are written on FAR0.
An entry of FATAL=0 that fails is logged as event 0x03 and passed over (R329 to R331). The last steps of start, where
every write of the DATA copy has been granted. Where the image holds no STREAMS and no host-type entry, OKAY leaves
the block in RUN, FALLBK tells whether a slot was tried before, and event 0x01 is logged. An error response of a DATA
copy, or one cut off, ends the attempt with code 10, and a boot stream that is refused with code 11 (R331 to R335,
R337). -/
def Obligations.script_and_handover : Prop :=
  (∀ s : State,
     let next := fun (u : State) (n : Nat) => { u with boot := { u.boot with sidx := u.scriptFrom n } }
     let mine := fun (a : Access) (k : AKind) (wr : Bool) => a.kind = k ∧ a.wr = wr ∧ a.port = 0 ∧ a.stage = .arb
       ∧ a.drain = false ∧ a.cache = 0 ∧ a.qos = 0
     let opens := fun (u t : State) => ∀ e, u.scriptNow = some e →
       let one := fun (wr : Bool) (n : Nat) => ∃ a, t = { u with acc := u.acc ++ [a], nextAid := u.nextAid + 1 }
         ∧ mine a .script wr ∧ a.pa = e.addr ∧ a.len = n
         ∧ (wr = true → a.data = toLE n e.val ∧ a.en = List.replicate n true)
       (e.op = 1 → one true (if e.w64 then 8 else 4)) ∧ (e.op = 2 → one false 4) ∧ (e.op ≠ 1 → e.op ≠ 2 → t = u)
     let copies := fun (u t : State) => (∃ l, t = { u with
         acc := u.acc ++ l, nextAid := u.nextAid + l.length, boot := { u.boot with state := 9, running := false } }
       ∧ ((∀ q ∈ sections u.bootImage, q.type ≠ 3) → l = []) ∧ ∀ a ∈ l, a.kind = .bootData ∧ a.wr = true ∧ a.port = 0
         ∧ a.stage = .arb ∧ a.drain = false ∧ a.qos = 0)
     (s.startable = true → s.boot.state = 8 → s.boot.running = false → s.portHeld 0 = false →
       ((secBytes s.bootImage 2).isNone = true → ∃ t, exec .bootScriptStart s = .next t ∧ copies s t) ∧
       ((secBytes s.bootImage 2).isSome = true → ∃ t, exec .bootScriptStart s = .next t
         ∧ opens (next { s with boot := { s.boot with running := true } } 0) t)) ∧
     ∀ e, s.scriptNow = some e →
       (e.op = 3 → ∃ t, exec .scriptDelay s = .next t ∧ opens (next s (s.boot.sidx + 1)) t) ∧
       (e.op = 0 → ∃ t, exec .scriptEnd s = .next t ∧ copies s t) ∧
       (∀ a, s.boot.lost = false → (s.acc.find? fun b => b.kind == .script && b.stage == .out && !b.drain) = some a →
         let u := { s with acc := s.acc.filter fun b => b.aid ≠ a.aid }
         (e.op = 1 → ∃ t, exec (.scriptWrite .okay) s = .next t ∧ opens (next u (s.boot.sidx + 1)) t) ∧
         (e.op = 2 → ∀ d : BitVec 32, ∃ t, exec (.scriptPoll d .okay) s = .next t
           ∧ (if d &&& BitVec.ofNat 32 (fld e.val 0 32) = BitVec.ofNat 32 (fld e.val 32 32)
             then opens (next u (s.boot.sidx + 1)) t else opens u t))) ∧
       (e.fatal = false →
         let passed := fun (t : State) => t = { next s (s.boot.sidx + 1) with mg := t.mg, acc := t.acc, nextAid := t.nextAid }
           ∧ t.mg.nseq = s.mg.nseq + 1
           ∧ ∃ v, t.mg.log = (v :: s.mg.log).take 4096 ∧ v.code = 0x03 ∧ v.arg = BitVec.ofNat 40 (s.boot.sidx % 65536)
         (e.op = 1 → s.boot.lost = false → (∃ a ∈ s.acc, a.kind = .script ∧ a.stage = .out ∧ a.drain = false) →
           ∃ t, exec (.scriptWrite .slverr) s = .next t ∧ passed t) ∧
         (e.op = 2 → ∃ t, exec .scriptPollTimeout s = .next t ∧ passed t))) ∧
  (∀ s : State, s.startable = true → s.boot.state = 9 →
     let mine := fun (a : Access) => a.kind == .bootData && !a.drain
     let img := s.bootImage
     let failed := fun (t : State) (code : BitVec 4) => (if s.boot.slot then t.boot.failb else t.boot.faila) = code
       ∧ t.parts = [] ∧ t.tens = [] ∧ t.strms = [] ∧ t.nvm = s.nvm ∧ (s.boot.cands = [s.boot.slot] → t.boot.state = 14)
     (s.boot.lost = false → (∀ a ∈ s.acc, mine a = true → a.stage = .out) →
       ((bootRegs img).filter fun e => bootClass e.1 == .host || bootClass e.1 == .tenant) = [] →
       (secBytes img 4 = none → s.mg.cs = none → ∀ rest, (∀ r ∈ rest, r = .okay) → ∃ t, exec (.bootDataDone .okay rest) s = .next t
         ∧ t.boot = { s.boot with
             state := 13, fallbk := s.boot.tried != [], cold := false, img := [], strs := [], sidx := 0 }
         ∧ (∃ e, t.mg.log = (e :: s.mg.log).take 4096 ∧ e.code = 0x01) ∧ t.esc = { s.esc with mode := t.esc.mode }
         ∧ t = { s with boot := t.boot, esc := t.esc, mg := t.mg, acc := s.acc.filter fun a => !mine a }) ∧
       (∀ l, secBytes img 4 = some l → l ≠ [] → s.bootEntBad (l.take 64) = true → ∀ rest, (∀ r ∈ rest, r = .okay) →
         ∃ t, exec (.bootDataDone .okay rest) s = .next t ∧ failed t 11)) ∧
     ((∃ a ∈ s.acc, mine a = true) → (∀ a ∈ s.acc, mine a = true → a.stage = .out) → s.boot.lost = false →
       ∀ r rest, (∃ q ∈ r :: rest, q = .slverr ∨ q = .decerr) → ∃ t, exec (.bootDataDone r rest) s = .next t ∧ failed t 10) ∧
     (s.boot.lost = true → ∀ r rest, ∃ t, exec (.bootDataDone r rest) s = .next t ∧ failed t 10))

/-! ### The management core -/

/-- A sample, with neither critical action configured: the millisecond, the readings, the clock faults of the monitors
that run, and the limits held take their new values. A limit is held when the reading lies beyond it, or when it was
held and the reading has not come back by 2 °C or 10 mV. The droop counts are sampled as well. Only the management
core's registers change, and a refused unlock response of 1 s ago no longer counts (R400, R406, R407). A droop: the
monitor's 16-bit count saturates, event 0x34 names the monitor and the count, and its alert bit is set. The watchdog
with no mailbox request in progress: event 0x70, and thresholds and log survive. LOG_MIRROR writes pending entries,
oldest first, up to the end of the ring's page, and waits while a mailbox request is in progress. PWRCYC_REQ rises
once a power cycle is requested (R405, R406, R410, R419). -/
def Obligations.management_events : Prop :=
  (∀ (s : State) (temps volts : List (BitVec 16)) (clk : BitVec 9), s.Managed → s.mg.tact = 0 → s.mg.vact = 0 →
     ∃ t, exec (.sensorSample temps volts clk) s = .next t
       ∧ t.mg.ms = s.mg.ms + 1 ∧ t.mg.temps = temps ∧ t.mg.volts = volts
       ∧ (∀ i, t.mg.clkf.getLsbD i = (clk.getLsbD i && !((i == 0 && s.pins.core) || (i == 1 && s.pins.far0)
           || (i == 2 && s.pins.far1) || (i == 3 && s.pins.near) || (i == 4 && s.pins.peer0) || (i == 5 && s.pins.peer1)
           || (i == 6 && s.pins.strm) || (i == 7 && s.pins.host))))
       ∧ (∀ top : Int, (∀ x ∈ temps, BitVec.toInt x ≤ top) → (∃ x ∈ temps, BitVec.toInt x = top) →
           t.mg.lim.getLsbD 0 = (decide (s.mg.twarn.toInt < top) || (s.mg.lim.getLsbD 0 && decide (s.mg.twarn.toInt - 32 < top)))
           ∧ t.mg.lim.getLsbD 1
             = (decide (s.mg.tcrit.toInt < top) || (s.mg.lim.getLsbD 1 && decide (s.mg.tcrit.toInt - 32 < top))))
       ∧ (∀ (i : Fin 4) (v : BitVec 16), volts[i.val]? = some v →
           let d : Int := |(v.toNat : Int) - 750|
           t.mg.lim.getLsbD (2 + i) = (decide ((s.mg.vwarn.toNat : Int) < d)
             || (s.mg.lim.getLsbD (2 + i) && decide ((s.mg.vwarn.toNat : Int) - 10 < d)))
           ∧ t.mg.lim.getLsbD (6 + i) = (decide ((s.mg.vcrit.toNat : Int) < d)
             || (s.mg.lim.getLsbD (6 + i) && decide ((s.mg.vcrit.toNat : Int) - 10 < d))))
       ∧ t.mg.twarn = s.mg.twarn ∧ t.mg.tcrit = s.mg.tcrit ∧ t.mg.vwarn = s.mg.vwarn ∧ t.mg.vcrit = s.mg.vcrit
       ∧ t.mg.dsamp = s.mg.droops
       ∧ t = { s with mg := t.mg, dbg := { s.dbg with
           refusedAt := s.dbg.refusedAt.filter fun r => decide ((s.mg.ms + 1 - r).toNat < 1000) } }) ∧
  (∀ s : State, s.Managed →
     (∀ i : Fin 4, ∃ t, exec (.droop i) s = .next t
       ∧ (t.mg.droops.get 0 i).toNat = min 0xFFFF ((s.mg.droops.get 0 i).toNat + 1)
       ∧ (∀ j, j ≠ i.val → t.mg.droops.get 0 j = s.mg.droops.get 0 j)
       ∧ (∃ e, t.mg.log = (e :: s.mg.log).take 4096 ∧ e.code = 0x34 ∧ e.src = BitVec.ofNat 8 i ∧ e.seq = s.mg.nseq
           ∧ e.arg.toNat = (t.mg.droops.get 0 i).toNat)
       ∧ t.mg.alrt.getLsbD 4 = true ∧ t.mg.nseq = s.mg.nseq + 1 ∧ t = { s with mg := t.mg }) ∧
     (s.mg.busy = false → ∃ t, exec .mgmtWatchdog s = .next t
       ∧ (∃ e, t.mg.log = (e :: s.mg.log).take 4096 ∧ e.code = 0x70 ∧ e.src = 0xFF ∧ e.seq = s.mg.nseq)
       ∧ t.mg.twarn = s.mg.twarn ∧ t.mg.tcrit = s.mg.tcrit ∧ t.mg.vwarn = s.mg.vwarn ∧ t.mg.vcrit = s.mg.vcrit
       ∧ t.mg.tact = s.mg.tact ∧ t.mg.vact = s.mg.vact ∧ t.mg.amask = s.mg.amask ∧ t = { s with mg := t.mg }) ∧
     (s.mg.busy = true → exec .logMirror s = .next s) ∧
     (s.mg.busy = false →
       let l := (s.mg.log.take (s.mg.nseq - s.mg.mseq).toNat).reverse.take (16 - s.mg.mpos % 16)
       exec .logMirror s = .next { s with
         nvm := l.zipIdx.foldl (fun m e => ringPut m (s.mg.mpos + e.2) e.1.bytes) s.nvm
         mg := { s.mg with
           mseq := s.mg.mseq + BitVec.ofNat 24 l.length
           mpos := (s.mg.mpos + l.length) % 65024 } }) ∧
     (s.mg.pwrcyc = true → s.mg.pin = false → exec .pwrcycReqRise s
       = .next { s with mg := { s.mg with pin := true }, esc := { s.esc with pcr := true } }))

/-- A mailbox request that ends at once: SENSORS answers the contents of SMBus commands 0x10 to 0x12 of the last sample as
far as four words take them; THRESH takes thresholds, actions and mask, or ends with REFUSED where they do not fit;
RETAIN, where R382 does not bar it, begins the drain, and ends with REFUSED and DROP where it does. BUSY is 0 and DONE
1 afterwards, STATUS is 1 or 2, and event 0x40 is logged (R412, R413). How SENSORS' 36 bytes lie in the four words is
the model's choice (log 13). A mailbox request with far accesses: CONTACT and LOGCOPY with an address and a length
that fit leave the request in progress, with the response word written, of CONTACT the bytes of the sheet, which are
at most LEN; MAILBOX_REQUEST_END, once no access of the request is left, ends it with OK, with event 0x41 before 0x40
for a contact sheet, or with BUS where a response was an error (R409, R412, R413, R416). -/
def Obligations.mailbox_requests : Prop :=
  (∀ s : State, s.Serves → s.mg.busy = false →
     let u := s.reached
     let ended := fun (t : State) (op st : Nat) => t.mg.busy = false ∧ t.mg.done = true ∧ t.mg.status = BitVec.ofNat 4 st
       ∧ t.mg.work = none ∧ t.mg.nseq = s.mg.nseq + 1
       ∧ ∃ e, t.mg.log = (e :: s.mg.log).take 4096 ∧ e.code = 0x40 ∧ e.src = 0xFF ∧ e.arg = BitVec.ofNat 40 (op + 256 * st)
     (∃ t, exec .mbSensors s = .next t ∧ ended t 4 1 ∧ t = { u with mg := t.mg }
       ∧ ∀ k : Fin 4, t.mg.mbrsp.get 0 k = BitVec.ofNat 64 (leNat (((readBytes 8 s.mg.temps ++ readBytes 4 s.mg.volts
           ++ s.mg.droopBytes).drop (8 * k)).take 8))) ∧
     (∀ w1 w2 : BitVec 64,
       let fits := (w1.extractLsb' 0 16).toInt < (w1.extractLsb' 16 16).toInt
         ∧ (w1.extractLsb' 32 16).toNat < (w1.extractLsb' 48 16).toNat ∧ w2.extractLsb' 0 2 ≠ 3 ∧ w2.extractLsb' 2 2 ≠ 3
       (fits → ∃ t, exec (.mbThresh w1 w2) s = .next t ∧ ended t 5 1 ∧ t = { u with mg := t.mg }
         ∧ t.mg.twarn = w1.extractLsb' 0 16 ∧ t.mg.tcrit = w1.extractLsb' 16 16 ∧ t.mg.vwarn = w1.extractLsb' 32 16
         ∧ t.mg.vcrit = w1.extractLsb' 48 16 ∧ t.mg.tact = w2.extractLsb' 0 2 ∧ t.mg.vact = w2.extractLsb' 2 2
         ∧ t.mg.amask = w2.extractLsb' 8 8) ∧
       (¬ fits → ∃ t, exec (.mbThresh w1 w2) s = .next t ∧ ended t 5 2 ∧ t = { u with mg := t.mg }
         ∧ t.mg.twarn = s.mg.twarn ∧ t.mg.tcrit = s.mg.tcrit ∧ t.mg.vwarn = s.mg.vwarn ∧ t.mg.vcrit = s.mg.vcrit
         ∧ t.mg.tact = s.mg.tact ∧ t.mg.vact = s.mg.vact ∧ t.mg.amask = s.mg.amask)) ∧
     (u.retainBarred = true → ∃ t, exec .mbRetain s = .next t ∧ ended t 6 2
       ∧ t = { u with mg := t.mg, pwr := { u.pwr with drop := true } }) ∧
     (u.retainBarred = false → (∀ e ∈ s.chans, e.2.shadow = none ∧ e.2.loading = none) →
       ∃ t, exec .mbRetain s = .next t ∧ ended t 6 1
       ∧ t = { u with mg := t.mg, pwr := { u.pwr with state := 3, rreq := true } })) ∧
  (∀ s : State,
     (s.Serves → s.mg.busy = false → ∀ addr w : BitVec 64, addr.toNat < 2 ^ 48 →
       (addr.toNat % 64 = 0 → (∀ e ∈ s.strms, e.2.bad = 0) → ∃ t, exec (.mbContact addr w) s = .next t ∧ t.mg.busy = true
         ∧ t.mg.log = s.mg.log
         ∧ t.mg.mbrsp.get 0 0
           = BitVec.ofNat 64 (s.sheet 1 (w.getLsbD 32) (w.toNat % 2 ^ 32) s.mg.nseq.toNat).length
         ∧ (t.mg.mbrsp.get 0 0).toNat ≤ w.toNat % 2 ^ 32
         ∧ (t.mg.work.map fun k => (k.op, k.bus)) = some (2, false) ∧ t.nvm = s.nvm ∧ t.strms = s.strms ∧ t.chans = s.chans) ∧
       (addr.toNat % 16 = 0 → 0 < (w.extractLsb' 0 13).toNat → (w.extractLsb' 0 13).toNat ≤ 4096 →
         (w.extractLsb' 0 13).toNat ≤ s.mg.log.length → ∃ t, exec (.mbLogcopy addr w) s = .next t
         ∧ t.mg.busy = true ∧ t.mg.log = s.mg.log
         ∧ (∃ e, s.mg.log[(w.extractLsb' 0 13).toNat - 1]? = some e ∧ t.mg.mbrsp.get 0 0 = e.seq.setWidth 64)
         ∧ (t.mg.work.map fun k => (k.op, k.bus)) = some (3, false) ∧ t.nvm = s.nvm ∧ t.strms = s.strms ∧ t.chans = s.chans)) ∧
     (∀ (w : MbWork) (r : Resp) (ok : Bool), s.mg.busy = true → s.mg.work = some w → w.update = none → w.op ≠ 1 →
       (∀ a ∈ s.acc, a.kind ≠ .mgmt ∧ a.kind ≠ .mbRead) → ∃ t, exec (.mailboxRequestEnd r ok) s = .next t
         ∧ t.mg.busy = false ∧ t.mg.done = true ∧ t.mg.status = (if w.bus then 3 else 1) ∧ t.mg.work = none
         ∧ (∃ e f, f.code = 0x40 ∧ (if w.op = 2 ∧ w.bus = false
           then t.mg.log = (f :: e :: s.mg.log).take 4096 ∧ e.code = 0x41
             ∧ e.arg = BitVec.ofNat 40 (s.mg.mbrsp.get 0 0).toNat
           else t.mg.log = (f :: s.mg.log).take 4096))
         ∧ t = { s with mg := t.mg }))

/-- The image that the reads of an UPDATE in progress return fails: a wrong header ends the request with IMAGE and the
failure code, a SIZE that differs from the request's with IMAGE and code 2 (the model's choice, log 14), and a SEQ
that is not later than the running image's, the 32-bit difference taken as signed, with STALE; an error response to
any of the reads ends it with BUS. The NVM keeps every byte (R322, R413, R415). UPDATE: a GO while BUSY=0 reads the
first 1,024 bytes at ADDR, or is REFUSED at an address that is no multiple of 4,096. Where they pass and are newer,
SIZE bytes are read; a signature that fails ends the request with IMAGE and its code and leaves the NVM, and one that
verifies lets the sectors of the slot that is not running be erased and the image be read again. MAILBOX_REQUEST_END
then programs the image there and ends the request with OK; at an NVM error the request ends with NVM, and the slot's
header is erased (R413, R415, R423). -/
def Obligations.mailbox_update : Prop :=
  (∀ (s : State) (addr size : BitVec 64) (l : List Byte) (w : MbWork), s.mg.busy = true →
     s.mg.work = some w → w.op = 1 → w.update = none → s.mg.mbreq.get 0 1 = addr → s.mg.mbreq.get 0 2 = size →
     (∀ a ∈ s.acc, a.kind = .mbRead → a.drain = false → a.stage = .out) →
     let stale := (imgSeq l - s.boot.seq).toInt ≤ 0
     let code := if headerFail l ≠ 0 then headerFail l else if imgSize l ≠ size.toNat then 2 else 0
     let ended := fun (t : State) (st : BitVec 4) => t.mg.busy = false ∧ t.mg.done = true ∧ t.mg.status = st
       ∧ t = { s with mg := t.mg, acc := s.acc.filter fun a => !(a.kind == .mbRead && !a.drain) }
     (w.bus = false → code ≠ 0 ∨ stale → ∃ t, exec (.mbUpdate addr size l .okay) s = .next t
       ∧ ended t (if code ≠ 0 then 4 else 7)
       ∧ t.mg.mbrsp.get 0 0 = (imgSeq l).setWidth 64 <<< 32 ||| BitVec.ofNat 64 (code + 16 * b2n (!s.boot.slot))) ∧
     (w.bus = true → ∀ r : Resp, ∃ t, exec (.mbUpdate addr size l r) s = .next t ∧ ended t 3) ∧
     ((∃ a ∈ s.acc, a.kind = .mbRead ∧ a.drain = false) →
       (∃ t, exec (.mbUpdate addr size l .slverr) s = .next t ∧ ended t 3) ∧
       ∃ t, exec (.mbUpdate addr size l .decerr) s = .next t ∧ ended t 3)) ∧
  (∀ (s : State) (addr size : BitVec 64) (l : List Byte),
     let mine := fun (a : Access) => a.kind == .mbRead && !a.drain
     let reads := fun (u t : State) (n : Nat) => ∃ q, t.acc = u.acc ++ q ∧ (q.map (·.len)).sum = n
       ∧ ∀ a ∈ q, a.kind = .mbRead ∧ a.wr = false ∧ a.drain = false ∧ a.port = 0 ∧ a.cache = 0 ∧ a.stage = .arb
         ∧ addr.toNat ≤ a.pa ∧ a.pa + a.len ≤ addr.toNat + n
     let at' := fun (t : State) (head : Bool) => t.mg.busy = true
       ∧ t.mg.work.map (fun w => (w.op, w.update, w.head, w.bus)) = some (1, none, head, false)
     (s.Serves → s.mg.busy = false →
       (addr.toNat < 2 ^ 48 ∧ addr.toNat % 4096 = 0 → ∀ r, ∃ t, exec (.mbUpdate addr size l r) s = .next t ∧ at' t false
         ∧ reads s t 1024 ∧ t.nvm = s.nvm ∧ t.strms = s.strms ∧ t.chans = s.chans) ∧
       (¬ (addr.toNat < 2 ^ 48 ∧ addr.toNat % 4096 = 0) → ∀ r, ∃ t, exec (.mbUpdate addr size l r) s = .next t
         ∧ t.mg.busy = false ∧ t.mg.done = true ∧ t.mg.status = 2 ∧ t = { s.reached with mg := t.mg })) ∧
     (∀ w : MbWork, s.mg.busy = true → s.mg.work = some w → w.op = 1 → w.update = none → w.bus = false →
       s.mg.mbreq.get 0 1 = addr → s.mg.mbreq.get 0 2 = size → s.pwr.state ≠ 4 →
       (∀ a ∈ s.acc, mine a = true → a.stage = .out) → headerFail l = 0 → imgSize l = size.toNat →
       0 < (imgSeq l - s.boot.seq).toInt →
       let u := { s with acc := s.acc.filter fun a => !mine a }
       ∃ t, exec (.mbUpdate addr size l .okay) s = .next t ∧ t.strms = s.strms ∧ t.chans = s.chans
         ∧ if w.head = false then at' t true ∧ reads u t size.toNat ∧ t.nvm = s.nvm
           else if signFail l ≠ 0 then t.mg.busy = false ∧ t.mg.done = true ∧ t.mg.status = 4 ∧ t.nvm = s.nvm
             ∧ (t.mg.mbrsp.get 0 0).toNat % 16 = signFail l % 16 ∧ t.acc = u.acc
           else t.mg.busy = true ∧ (t.mg.work.bind (·.update)) = some (!s.boot.slot, l.take size.toNat)
             ∧ reads u t size.toNat
             ∧ t.nvm = nvmErase s.nvm (if s.boot.slot then 0 else 0x800000) (ceilDiv size.toNat 65536 * 65536)) ∧
     (∀ (w : MbWork) (slot : Bool) (img : List Byte), s.mg.busy = true → s.mg.work = some w → w.update = some (slot, img) →
       w.bus = false → (∀ a ∈ s.acc, a.kind ≠ .mgmt ∧ (mine a = true → a.stage = .out)) →
       let base := if slot then 0x800000 else 0
       (∃ t, exec (.mailboxRequestEnd .okay true) s = .next t
         ∧ t.mg.busy = false ∧ t.mg.done = true ∧ t.mg.status = 1
         ∧ (∀ i, nvmRead t.nvm i 1 = if base ≤ i ∧ i < base + img.length then [img.getD (i - base) 0] else nvmRead s.nvm i 1)
         ∧ t = { s with mg := t.mg, nvm := t.nvm, acc := s.acc.filter fun a => !mine a }) ∧
       ∃ t, exec (.mailboxRequestEnd .okay false) s = .next t
         ∧ t.mg.busy = false ∧ t.mg.done = true ∧ t.mg.status = 5
         ∧ (∀ i, i < 1024 → i < img.length → nvmRead t.nvm (base + i) 1 = [0xFF])
         ∧ (∀ i, i < base ∨ base + img.length ≤ i → nvmRead t.nvm i 1 = nvmRead s.nvm i 1)))

/-! ### The debug lock, SMBus and the test ports -/

/-- CHREQ not within a second of a refused response: UCNT is counted up in the NVM, the noise source is drawn, the
challenge block holds its magic, SCOPE, UCNT, SEQ and the noise, and STATE becomes 1. VGO with a challenge ready makes
STATE 2; RELOCK ends any unlock; nothing else of the debug registers changes (R398 to R401). The verification of a
response ends: with a response whose key and signature pass, STATE becomes 3 and GRANT takes SCOPE; otherwise STATE
becomes 4 and the millisecond is kept. Event 0x50 is logged in both cases (R401). -/
def Obligations.debug_lock : Prop :=
  (∀ s : State, s.Serves →
     let u := s.reached
     ((∀ t, s.dbg.refusedAt = some t → 1000 ≤ (s.mg.ms - t).toNat) →
       let n := ((ucntNow s.nvm).1 + 1) % 2 ^ 32
       ∃ t, exec .chreq s = .next t ∧ t.dbg.state = 1 ∧ t.nvm = ucntPut s.nvm n
         ∧ t.dbg.chal.extractLsb' 0 32 = 0x5544544E ∧ t.dbg.chal.extractLsb' 32 8 = s.dbg.scope.setWidth 8
         ∧ t.dbg.chal.extractLsb' 40 24 = 0 ∧ t.dbg.chal.extractLsb' 64 32 = BitVec.ofNat 32 n
         ∧ t.dbg.chal.extractLsb' 96 32 = s.boot.seq ∧ t.dbg.chal.extractLsb' 128 128 = Config.noise s.free
         ∧ t = { u with nvm := t.nvm, free := s.free + 1, dbg := { s.dbg with state := 1, chal := t.dbg.chal } }) ∧
     (s.dbg.state = 1 → exec .vgo s = .next { u with dbg := { s.dbg with state := 2 } }) ∧
     exec .relock s = .next { u with dbg := { s.dbg with state := 0, grant := 0 } }) ∧
  (∀ s : State, s.dbg.state = 2 →
     let sig := toLE 128 s.dbg.resp.toNat
     let ok := keyOk Config.keyHash sig && sigOk sig (toLE 32 s.dbg.chal.toNat)
     ∃ t, exec .unlockVerified s = .next t
       ∧ t.dbg = (if ok then { s.dbg with state := 3, grant := s.dbg.scope }
                  else { s.dbg with state := 4, refusedAt := some s.mg.ms })
       ∧ (t.mg.log.head?.map fun e => (e.code, e.tms)) = some (0x50, s.mg.ms)
       ∧ t = { s with dbg := t.dbg, mg := t.mg })

/-- The SMBus reads: each command's response, with the CRC-8 of the whole transaction as its packet error code (log 96),
and nothing but the response changes. TEMP, VOLT and EVENTS come from the last sample (R418, R439). -/
def Obligations.smbus_reads : Prop :=
  ∀ s : State, s.Managed →
    let a : Byte := BitVec.ofNat 8 (2 * s.smb.addr.toNat)
    let give := fun (sent l : List Byte) => Host.Outcome.next { s with
      smb := { s.smb with out := l, pec := crc8 (sent ++ l) } }
    let answer := fun (code : Byte) (l : List Byte) => give [a, code, a + 1, BitVec.ofNat 8 l.length] l
    let le := fun (n : Nat) (l : List (BitVec 16)) => ((List.range n).map fun i => toLE 2 (l.getD i 0).toNat).flatten
    exec .smbId s = answer 0x01 ([0x01, 0x02, 0x32, 0x4E] ++ toLE 4 (s.mg.fwver.toNat + 65536 * b2n s.mg.fwres)) ∧
    exec .smbStatus s = answer 0x02 (toLE 8 s.bootWord ++ toLE 8 s.escWord ++ toLE 8 s.pwrWord) ∧
    exec .smbTemp s = answer 0x10 (le 8 s.mg.temps) ∧
    exec .smbVolt s = answer 0x11 (le 4 s.mg.volts) ∧
    exec .smbEvents s = answer 0x12 (((List.range 4).map fun i => toLE 2 (s.mg.dsamp.get 0 i).toNat).flatten
      ++ toLE 2 s.mg.clkf.toNat ++ toLE 2 (s.mg.alrt.toNat % 256 + 256 * b2n (s.boot.state == 14))) ∧
    (∀ seq : BitVec 24, exec (.smbLogread seq) s = give ([a, 0x20, 3] ++ toLE 3 seq.toNat ++ [a + 1, 16])
      (match s.mg.log.find? fun e => e.seq == seq with
      | some e => e.bytes
      | none => List.replicate 16 0xFF)) ∧
    exec .smbAlertResponse s
      = (if s.boot.state = 14 ∨ s.mg.alrt.extractLsb' 0 8 &&& s.mg.amask ≠ 0 then give [0x19] [a]
         else .next { s with smb := { s.smb with out := [], pec := 0 } }) ∧
    exec .smbusTimeout s = .next { s with smb := { s.smb with out := [], pec := 0 } }

/-- The unlock exchange over SMBus, outside RETAIN and its wake: CHAL and DBGSTAT answer, VGO makes STATE 2 where a
challenge is ready, RESP at 0x00, 0x20, 0x40 or 0x60 writes 32 bytes of the response, and CHREQ takes SCOPE (where
STATE is 0, 3 or 4) and issues a challenge with it, each where its packet error code is absent or right; one with a
wrong code is refused (log 96). In RETAIN and its wake every one of them is refused (R400, R401, R418, R439). ALERTCLR
clears the alert bits written 1, but those of limits still held and of clock faults still present; with a wrong packet
error code it is refused (R418, R419, R439). -/
def Obligations.smbus_unlock_and_alerts : Prop :=
  (∀ s : State, s.Managed →
     let a : Byte := BitVec.ofNat 8 (2 * s.smb.addr.toNat)
     let give := fun (sent l : List Byte) => Host.Outcome.next { s with
       smb := { s.smb with out := l, pec := crc8 (sent ++ l) } }
     let none' := { s.smb with out := [], pec := 0 }
     let refused := Host.Outcome.next { s with smb := none' }
     let right := fun (sent : List Byte) (pec : Option Byte) => pec = none ∨ pec = some (crc8 (a :: sent))
     ((s.pwr.state ≠ 4 ∧ s.pwr.state ≠ 5) →
       exec .smbChal s = give [a, 0x41, a + 1, 32] (toLE 32 s.dbg.chal.toNat) ∧
       exec .smbDbgstat s = give [a, 0x44, a + 1] [BitVec.ofNat 8 (s.dbg.state.toNat + 8 * s.dbg.grant.toNat)] ∧
       (∀ pec, ¬ right [0x43] pec → exec (.smbVgo pec) s = refused) ∧
       (∀ pec off l, ¬ right ([0x42, 33, off] ++ l) pec → exec (.smbResp off l pec) s = refused) ∧
       (∀ pec scope, ¬ right [0x40, scope] pec → exec (.smbChreq scope pec) s = refused) ∧
       (∀ pec, right [0x43] pec → s.dbg.state = 1 → exec (.smbVgo pec) s
         = .next { s with dbg := { s.dbg with state := 2 }, smb := none' }) ∧
       (∀ (k : Fin 4) (l : List Byte) (pec : Option Byte), l.length = 32 →
         right ([0x42, 33, BitVec.ofNat 8 (32 * k.val)] ++ l) pec →
         ∃ t, exec (.smbResp (BitVec.ofNat 8 (32 * k.val)) l pec) s = .next t
         ∧ toLE 128 t.dbg.resp.toNat = (toLE 128 s.dbg.resp.toNat).take (32 * k.val) ++ l
             ++ (toLE 128 s.dbg.resp.toNat).drop (32 * k.val + 32)
         ∧ t = { s with dbg := { s.dbg with resp := t.dbg.resp }, smb := none' }) ∧
       (∀ scope pec, right [0x40, scope] pec → (s.dbg.state = 0 ∨ s.dbg.state = 3 ∨ s.dbg.state = 4) → s.dbg.refusedAt = none →
         ∃ t, exec (.smbChreq scope pec) s = .next t ∧ t.dbg.state = 1 ∧ t.dbg.scope = scope.extractLsb' 0 2
           ∧ t.dbg.chal.extractLsb' 32 8 = (scope.extractLsb' 0 2).setWidth 8 ∧ t.smb.out = []
           ∧ t.nvm = ucntPut s.nvm (((ucntNow s.nvm).1 + 1) % 2 ^ 32))) ∧
     ((s.pwr.state = 4 ∨ s.pwr.state = 5) → exec .smbChal s = refused ∧ exec .smbDbgstat s = refused
       ∧ ∀ pec, exec (.smbVgo pec) s = refused ∧ (∀ o l, exec (.smbResp o l pec) s = refused)
       ∧ ∀ scope, exec (.smbChreq scope pec) s = refused)) ∧
  (∀ (s : State) (w : BitVec 16) (pec : Option Byte), s.Managed →
     let sum := crc8 (BitVec.ofNat 8 (2 * s.smb.addr.toNat) :: 0x30 :: toLE 2 w.toNat)
     (pec ≠ none → pec ≠ some sum → exec (.smbAlertclr w pec) s = .next { s with smb := { s.smb with out := [], pec := 0 } }) ∧
     (pec = none ∨ pec = some sum → ∃ t, exec (.smbAlertclr w pec) s = .next t
     ∧ (∀ i, i < 9 → t.mg.alrt.getLsbD i = (s.mg.alrt.getLsbD i && !(w.getLsbD i && !(
         (i == 0 && s.mg.lim.getLsbD 0) || (i == 1 && s.mg.lim.getLsbD 1)
         || (i == 2 && (s.mg.lim.getLsbD 2 || s.mg.lim.getLsbD 3 || s.mg.lim.getLsbD 4 || s.mg.lim.getLsbD 5))
         || (i == 3 && (s.mg.lim.getLsbD 6 || s.mg.lim.getLsbD 7 || s.mg.lim.getLsbD 8 || s.mg.lim.getLsbD 9))
         || (i == 5 && s.mg.clkf != 0)))))
     ∧ t = { s with mg := { s.mg with alrt := t.mg.alrt }, smb := { s.smb with out := [], pec := 0 } }))

/-- The TAP: BYPASS, IDCODE (whose register holds 1, the integrator's manufacturer, 0x4E32 and version 1) and
SAMPLE/PRELOAD are taken always, EXTEST in FAIL or while the core reset is asserted; a refused EXTEST leaves the
wrapper in WS_BYPASS. trst_n selects IDCODE and WS_BYPASS. Nothing outside the test ports changes (R377, R441, R451).
The wrapper's instructions and where each is taken: WS_EXTEST and WS_BYPASS with the core reset asserted; WS_INTEST
and WS_SCAN there with the debug lock off or bit 1 of an unlock's scope; WS_MBIST there or in FAIL; WS_DEBUG with the
lock off or bit 0 of the scope. One that is refused selects WS_BYPASS. Nothing outside the wrapper changes, but that a
march test destroys what an SRAM of the management core holds (R377, R398). -/
def Obligations.test_ports : Prop :=
  (∀ s : State, s.pwr.off = false →
     let tap := fun (ir : TapIr) (dr : BitVec 32) => Host.Outcome.next { s with tap := { s.tap with ir := ir, dr := dr } }
     exec .bypass s = tap .bypass 0 ∧
     exec .idcode s = tap .idcode (0x14E32001 ||| Config.mfr.setWidth 32 <<< 1) ∧
     exec .samplePreload s = tap .samplePreload s.tap.dr ∧
     ((s.pins.core = true ∨ s.boot.state = 14) → exec .extest s = tap .extest s.tap.dr) ∧
     (s.pins.core = false → s.boot.state ≠ 14 → exec .extest s = .next { s with tap := { s.tap with wir := .bypass } }) ∧
     exec .tapReset s = .next { s with tap := { ir := .idcode, wir := .bypass, dr := 0 } }) ∧
  (∀ s : State, s.pwr.off = false →
     let sel := fun (ok : Prop) [Decidable ok] (i : WrapIr) =>
       Host.Outcome.next { s with tap := { s.tap with wir := if ok then i else .bypass } }
     let opened := fun (k : Nat) => (s.dbg.lock = false ∧ s.boot.state ≠ 14) ∨ s.dbg.grant.getLsbD k = true
     exec .wsBypass s = sel True .bypass ∧
     exec .wsExtest s = sel (s.pins.core = true) .extest ∧
     exec .wsIntest s = sel (s.pins.core = true ∧ opened 1) .intest ∧
     (∀ k, if s.pins.core = true ∨ s.boot.state = 14 then ∃ t, exec (.wsMbist k) s = .next t
         ∧ t.tap = { s.tap with wir := .mbist k } ∧ t = { s with tap := t.tap, mg := t.mg, free := t.free }
       else exec (.wsMbist k) s = sel False (.mbist k)) ∧
     exec .wsScan s = sel (s.pins.core = true ∧ opened 1) .scan ∧
     exec .wsDebug s = sel (opened 0) .debug)

/-! ### Casting, reset values, and what every step keeps -/

/-- The identity case of the cast unit: the source format equal to the destination format and AFF=0 give the element's
bits unchanged, set no flag and do not step the LFSR (R75). -/
def Obligations.identity_cast : Prop :=
  ∀ (g : CastCfg) (scale : Machine.Num) (zero : Int) (c : CastSt) (bits : Nat), g.src = g.dst → g.aff = false →
    castElem g scale zero c bits = (bits, c)

/-- The reset values that the spec gives: GL_PWRCTL 0x41, PE_TMO 0x16, QUOTA 0x40 for each partition, QUANTUM 0x10000, PH
of a completion queue 1, the LFSR of a channel 1, the thresholds of R406, every queue, tenant and partition disabled,
every stream EMPTY, no fault pending, the debug lock locked; and the NVM is in its canonical form (R85, R157, R256,
R273, R299, R386, R398, R406). -/
def Obligations.reset_values : Prop :=
  let s := State.reset
  s.pwr.ctlWord = 0x41 ∧ s.peer.tmo = 0x16 ∧ s.arb.quota = 0x4040404040404040 ∧
  (∀ p, (s.part p).quantum = 0x10000 ∧ (s.part p).en = false ∧ (s.part p).fq.en = false) ∧
  (∀ c, (s.cq c).ph = true ∧ (s.cq c).en = false) ∧ (∀ q, (s.sq q).en = false) ∧ (∀ t, (s.ten t).en = false) ∧
  (∀ sid, (s.strmAt sid).st = .empty) ∧ (∀ k, (s.chan k).lfsr = 1 ∧ (s.chan k).errValid = false) ∧
  (∀ k, (s.cnt k).bound = false) ∧ s.boot.state = 0 ∧ s.esc.oos = false ∧ s.hsec.priven = false ∧ s.dbg.lock = true ∧
  s.mg.twarn = 1680 ∧ s.mg.tcrit = 1920 ∧ s.mg.vwarn = 38 ∧ s.mg.vcrit = 60 ∧ s.mg.amask = 0xFF ∧ s.mg.log = [] ∧
  s.pending = [] ∧ SMap.wf s.nvm 0xFF

/-- Every command completes, and none touches the commands that wait behind it: `exec` answers a next state with the same
queue. -/
def Obligations.exec_keeps_queue : Prop :=
  ∀ (c : Instr) (s : State), ∃ t, exec c s = .next t ∧ t.pending = s.pending

/-- Every step keeps the NVM in its canonical form: addresses strictly rising, and no byte listed that an erased byte
holds. -/
def Obligations.step_keeps_nvm_canonical : Prop :=
  ∀ s t : State, SMap.wf s.nvm 0xFF → step s = .next t → SMap.wf t.nvm 0xFF
end

