-- ==== Sys2Proof/Laws/Table.lean ====
section
/-! SUPPORT. Sparse tables: reads after writes, and the canonical form that every write keeps. -/

namespace Sys2Proof

/-- Deleting a key makes it read as the default and leaves the others. -/
theorem SMap.get_del {α : Type} (m : SMap α) (d : α) (k j : Nat) :
    (m.del k).get d j = if j = k then d else m.get d j := by
  induction m with
  | nil => simp [SMap.del, SMap.get]
  | cons e t ih =>
    unfold SMap.del at ih ⊢
    by_cases h : e.1 = k
    · by_cases hj : j = k
      · simp_all
      · have : ¬ e.1 = j := by omega
        simp_all [SMap.get]
    · by_cases hj : e.1 = j
      · have : ¬ j = k := by omega
        simp_all [SMap.get]
      · simp_all [SMap.get]

/-- Inserting a value makes its key read as the value and leaves the others. -/
theorem SMap.get_ins {α : Type} (m : SMap α) (d v : α) (k j : Nat) :
    (m.ins k v).get d j = if j = k then v else m.get d j := by
  induction m with
  | nil =>
    by_cases h : k = j
    · subst h; simp [SMap.ins, SMap.get]
    · have h' : ¬ j = k := by omega
      simp [SMap.ins, SMap.get, h, h']
  | cons e t ih =>
    unfold SMap.ins
    split
    · by_cases h : k = j
      · subst h; simp [SMap.get]
      · have h' : ¬ j = k := by omega
        simp [SMap.get, h, h']
    · split
      · rename_i he
        by_cases h : k = j
        · subst h; simp [SMap.get]
        · have h' : ¬ j = k := by omega
          simp [SMap.get, he, h, h']
      · by_cases h : e.1 = j
        · have h' : ¬ j = k := by omega
          simp [SMap.get, h, h']
        · simp [SMap.get, h, ih]

/-- A read after a write. -/
theorem SMap.get_put {α : Type} [DecidableEq α] (m : SMap α) (d v : α) (k j : Nat) :
    (m.put d k v).get d j = if j = k then v else m.get d j := by
  unfold SMap.put
  split
  · rename_i h; rw [SMap.get_del, h]
  · exact SMap.get_ins m d v k j

/-- Keys of a table after an insertion. -/
theorem SMap.mem_ins {α : Type} (m : SMap α) (k : Nat) (v : α) (e : Nat × α) (h : e ∈ m.ins k v) :
    e = (k, v) ∨ e ∈ m := by
  induction m with
  | nil => simp_all [SMap.ins]
  | cons a t ih =>
    unfold SMap.ins at h
    split at h
    · simpa using h
    · split at h
      · simp at h ⊢; tauto
      · simp at h ⊢; rcases h with h | h
        · tauto
        · have := ih h; tauto

/-- An insertion keeps keys strictly rising. -/
theorem SMap.pairwise_ins {α : Type} (m : SMap α) (k : Nat) (v : α) (h : m.Pairwise fun a b => a.1 < b.1) :
    (m.ins k v).Pairwise fun a b => a.1 < b.1 := by
  induction m with
  | nil => simp [SMap.ins]
  | cons a t ih =>
    obtain ⟨ha, ht⟩ := List.pairwise_cons.mp h
    unfold SMap.ins
    split
    · refine List.pairwise_cons.mpr ⟨fun b hb => ?_, h⟩
      rcases List.mem_cons.mp hb with rfl | hb
      · assumption
      · exact Nat.lt_trans ‹_› (ha b hb)
    · split
      · rename_i hk
        exact List.pairwise_cons.mpr ⟨fun b hb => by have := ha b hb; simp; omega, ht⟩
      · refine List.pairwise_cons.mpr ⟨fun b hb => ?_, ih ht⟩
        rcases SMap.mem_ins t k v b hb with rfl | hb
        · simp; omega
        · exact ha b hb

/-- A write keeps the canonical form. -/
theorem SMap.wf_put {α : Type} [DecidableEq α] (m : SMap α) (d v : α) (k : Nat) (h : m.wf d) : (m.put d k v).wf d := by
  unfold SMap.put
  split
  · exact ⟨h.1.sublist (by simp [SMap.del]), fun e he => h.2 e (by simp [SMap.del] at he; exact he.1)⟩
  · rename_i hv
    refine ⟨SMap.pairwise_ins m k v h.1, fun e he => ?_⟩
    rcases SMap.mem_ins m k v e he with rfl | he
    · exact hv
    · exact h.2 e he

/-- The empty table is canonical. -/
theorem SMap.wf_nil {α : Type} [DecidableEq α] (d : α) : SMap.wf ([] : SMap α) d := by simp [SMap.wf]

end Sys2Proof
end

