-- ==== Sys2Proof/Laws/State.lean ====
section
/-! SUPPORT. One lemma per field and per update of the state: what a write of a table leaves of every field, and what
every accessor reads after it. -/

namespace Sys2Proof.Machine

/-! ### Writes of `tens` -/

/-- A change is a read and a write. -/
@[simp] theorem State.modTen_eq (s : State) (k : Nat) (g : Tenant → Tenant) : s.modTen k g = s.setTen k (g (s.ten k)) := rfl

/-- A read after a write. -/
@[simp] theorem State.setTen_ten (s : State) (k j : Nat) (v : Tenant) :
    (s.setTen k v).ten j = if j = k then v else s.ten j := SMap.get_put _ _ _ _ _

@[simp] theorem State.setTen_pending (s : State) (k : Nat) (v : Tenant) : (s.setTen k v).pending = s.pending := rfl
@[simp] theorem State.setTen_cc (s : State) (k : Nat) (v : Tenant) : (s.setTen k v).cc = s.cc := rfl
@[simp] theorem State.setTen_nextAid (s : State) (k : Nat) (v : Tenant) : (s.setTen k v).nextAid = s.nextAid := rfl
@[simp] theorem State.setTen_seq (s : State) (k : Nat) (v : Tenant) : (s.setTen k v).seq = s.seq := rfl
@[simp] theorem State.setTen_free (s : State) (k : Nat) (v : Tenant) : (s.setTen k v).free = s.free := rfl
@[simp] theorem State.setTen_boot (s : State) (k : Nat) (v : Tenant) : (s.setTen k v).boot = s.boot := rfl
@[simp] theorem State.setTen_pins (s : State) (k : Nat) (v : Tenant) : (s.setTen k v).pins = s.pins := rfl
@[simp] theorem State.setTen_esc (s : State) (k : Nat) (v : Tenant) : (s.setTen k v).esc = s.esc := rfl
@[simp] theorem State.setTen_rst (s : State) (k : Nat) (v : Tenant) : (s.setTen k v).rst = s.rst := rfl
@[simp] theorem State.setTen_blk (s : State) (k : Nat) (v : Tenant) : (s.setTen k v).blk = s.blk := rfl
@[simp] theorem State.setTen_sink (s : State) (k : Nat) (v : Tenant) : (s.setTen k v).sink = s.sink := rfl
@[simp] theorem State.setTen_par (s : State) (k : Nat) (v : Tenant) : (s.setTen k v).par = s.par := rfl
@[simp] theorem State.setTen_stc (s : State) (k : Nat) (v : Tenant) : (s.setTen k v).stc = s.stc := rfl
@[simp] theorem State.setTen_granRet (s : State) (k : Nat) (v : Tenant) : (s.setTen k v).granRet = s.granRet := rfl
@[simp] theorem State.setTen_granErr (s : State) (k : Nat) (v : Tenant) : (s.setTen k v).granErr = s.granErr := rfl
@[simp] theorem State.setTen_scrub (s : State) (k : Nat) (v : Tenant) : (s.setTen k v).scrub = s.scrub := rfl
@[simp] theorem State.setTen_pwr (s : State) (k : Nat) (v : Tenant) : (s.setTen k v).pwr = s.pwr := rfl
@[simp] theorem State.setTen_hsec (s : State) (k : Nat) (v : Tenant) : (s.setTen k v).hsec = s.hsec := rfl
@[simp] theorem State.setTen_dbg (s : State) (k : Nat) (v : Tenant) : (s.setTen k v).dbg = s.dbg := rfl
@[simp] theorem State.setTen_irq (s : State) (k : Nat) (v : Tenant) : (s.setTen k v).irq = s.irq := rfl
@[simp] theorem State.setTen_strm (s : State) (k : Nat) (v : Tenant) : (s.setTen k v).strm = s.strm := rfl
@[simp] theorem State.setTen_host (s : State) (k : Nat) (v : Tenant) : (s.setTen k v).host = s.host := rfl
@[simp] theorem State.setTen_sqs (s : State) (k : Nat) (v : Tenant) : (s.setTen k v).sqs = s.sqs := rfl
@[simp] theorem State.setTen_cqs (s : State) (k : Nat) (v : Tenant) : (s.setTen k v).cqs = s.cqs := rfl
@[simp] theorem State.setTen_parts (s : State) (k : Nat) (v : Tenant) : (s.setTen k v).parts = s.parts := rfl
@[simp] theorem State.setTen_ecn (s : State) (k : Nat) (v : Tenant) : (s.setTen k v).ecn = s.ecn := rfl
@[simp] theorem State.setTen_xl (s : State) (k : Nat) (v : Tenant) : (s.setTen k v).xl = s.xl := rfl
@[simp] theorem State.setTen_dc (s : State) (k : Nat) (v : Tenant) : (s.setTen k v).dc = s.dc := rfl
@[simp] theorem State.setTen_tabs (s : State) (k : Nat) (v : Tenant) : (s.setTen k v).tabs = s.tabs := rfl
@[simp] theorem State.setTen_arb (s : State) (k : Nat) (v : Tenant) : (s.setTen k v).arb = s.arb := rfl
@[simp] theorem State.setTen_movers (s : State) (k : Nat) (v : Tenant) : (s.setTen k v).movers = s.movers := rfl
@[simp] theorem State.setTen_chans (s : State) (k : Nat) (v : Tenant) : (s.setTen k v).chans = s.chans := rfl
@[simp] theorem State.setTen_cnts (s : State) (k : Nat) (v : Tenant) : (s.setTen k v).cnts = s.cnts := rfl
@[simp] theorem State.setTen_ropes (s : State) (k : Nat) (v : Tenant) : (s.setTen k v).ropes = s.ropes := rfl
@[simp] theorem State.setTen_strms (s : State) (k : Nat) (v : Tenant) : (s.setTen k v).strms = s.strms := rfl
@[simp] theorem State.setTen_acc (s : State) (k : Nat) (v : Tenant) : (s.setTen k v).acc = s.acc := rfl
@[simp] theorem State.setTen_stg (s : State) (k : Nat) (v : Tenant) : (s.setTen k v).stg = s.stg := rfl
@[simp] theorem State.setTen_inv (s : State) (k : Nat) (v : Tenant) : (s.setTen k v).inv = s.inv := rfl
@[simp] theorem State.setTen_peer (s : State) (k : Nat) (v : Tenant) : (s.setTen k v).peer = s.peer := rfl
@[simp] theorem State.setTen_mg (s : State) (k : Nat) (v : Tenant) : (s.setTen k v).mg = s.mg := rfl
@[simp] theorem State.setTen_nvm (s : State) (k : Nat) (v : Tenant) : (s.setTen k v).nvm = s.nvm := rfl
@[simp] theorem State.setTen_smb (s : State) (k : Nat) (v : Tenant) : (s.setTen k v).smb = s.smb := rfl
@[simp] theorem State.setTen_tap (s : State) (k : Nat) (v : Tenant) : (s.setTen k v).tap = s.tap := rfl

@[simp] theorem State.setTen_sq (s : State) (k j : Nat) (v : Tenant) : (s.setTen k v).sq j = s.sq j := rfl
@[simp] theorem State.setTen_cq (s : State) (k j : Nat) (v : Tenant) : (s.setTen k v).cq j = s.cq j := rfl
@[simp] theorem State.setTen_part (s : State) (k j : Nat) (v : Tenant) : (s.setTen k v).part j = s.part j := rfl
@[simp] theorem State.setTen_ecnCh (s : State) (k j : Nat) (v : Tenant) : (s.setTen k v).ecnCh j = s.ecnCh j := rfl
@[simp] theorem State.setTen_xlU (s : State) (k j : Nat) (v : Tenant) : (s.setTen k v).xlU j = s.xlU j := rfl
@[simp] theorem State.setTen_dcU (s : State) (k j : Nat) (v : Tenant) : (s.setTen k v).dcU j = s.dcU j := rfl
@[simp] theorem State.setTen_tab (s : State) (k j : Nat) (v : Tenant) : (s.setTen k v).tab j = s.tab j := rfl
@[simp] theorem State.setTen_mover (s : State) (k j : Nat) (v : Tenant) : (s.setTen k v).mover j = s.mover j := rfl
@[simp] theorem State.setTen_chan (s : State) (k j : Nat) (v : Tenant) : (s.setTen k v).chan j = s.chan j := rfl
@[simp] theorem State.setTen_cnt (s : State) (k j : Nat) (v : Tenant) : (s.setTen k v).cnt j = s.cnt j := rfl
@[simp] theorem State.setTen_rope (s : State) (k j : Nat) (v : Tenant) : (s.setTen k v).rope j = s.rope j := rfl
@[simp] theorem State.setTen_strmAt (s : State) (k j : Nat) (v : Tenant) : (s.setTen k v).strmAt j = s.strmAt j := rfl
@[simp] theorem State.setTen_rstE (s : State) (k j : Nat) (v : Tenant) : (s.setTen k v).rstE j = s.rstE j := rfl
@[simp] theorem State.setTen_strmP (s : State) (k j : Nat) (v : Tenant) : (s.setTen k v).strmP j = s.strmP j := rfl

/-! ### Writes of `sqs` -/

/-- A change is a read and a write. -/
@[simp] theorem State.modSq_eq (s : State) (k : Nat) (g : Sq → Sq) : s.modSq k g = s.setSq k (g (s.sq k)) := rfl

/-- A read after a write. -/
@[simp] theorem State.setSq_sq (s : State) (k j : Nat) (v : Sq) :
    (s.setSq k v).sq j = if j = k then v else s.sq j := SMap.get_put _ _ _ _ _

@[simp] theorem State.setSq_pending (s : State) (k : Nat) (v : Sq) : (s.setSq k v).pending = s.pending := rfl
@[simp] theorem State.setSq_cc (s : State) (k : Nat) (v : Sq) : (s.setSq k v).cc = s.cc := rfl
@[simp] theorem State.setSq_nextAid (s : State) (k : Nat) (v : Sq) : (s.setSq k v).nextAid = s.nextAid := rfl
@[simp] theorem State.setSq_seq (s : State) (k : Nat) (v : Sq) : (s.setSq k v).seq = s.seq := rfl
@[simp] theorem State.setSq_free (s : State) (k : Nat) (v : Sq) : (s.setSq k v).free = s.free := rfl
@[simp] theorem State.setSq_boot (s : State) (k : Nat) (v : Sq) : (s.setSq k v).boot = s.boot := rfl
@[simp] theorem State.setSq_pins (s : State) (k : Nat) (v : Sq) : (s.setSq k v).pins = s.pins := rfl
@[simp] theorem State.setSq_esc (s : State) (k : Nat) (v : Sq) : (s.setSq k v).esc = s.esc := rfl
@[simp] theorem State.setSq_rst (s : State) (k : Nat) (v : Sq) : (s.setSq k v).rst = s.rst := rfl
@[simp] theorem State.setSq_blk (s : State) (k : Nat) (v : Sq) : (s.setSq k v).blk = s.blk := rfl
@[simp] theorem State.setSq_sink (s : State) (k : Nat) (v : Sq) : (s.setSq k v).sink = s.sink := rfl
@[simp] theorem State.setSq_par (s : State) (k : Nat) (v : Sq) : (s.setSq k v).par = s.par := rfl
@[simp] theorem State.setSq_stc (s : State) (k : Nat) (v : Sq) : (s.setSq k v).stc = s.stc := rfl
@[simp] theorem State.setSq_granRet (s : State) (k : Nat) (v : Sq) : (s.setSq k v).granRet = s.granRet := rfl
@[simp] theorem State.setSq_granErr (s : State) (k : Nat) (v : Sq) : (s.setSq k v).granErr = s.granErr := rfl
@[simp] theorem State.setSq_scrub (s : State) (k : Nat) (v : Sq) : (s.setSq k v).scrub = s.scrub := rfl
@[simp] theorem State.setSq_pwr (s : State) (k : Nat) (v : Sq) : (s.setSq k v).pwr = s.pwr := rfl
@[simp] theorem State.setSq_hsec (s : State) (k : Nat) (v : Sq) : (s.setSq k v).hsec = s.hsec := rfl
@[simp] theorem State.setSq_dbg (s : State) (k : Nat) (v : Sq) : (s.setSq k v).dbg = s.dbg := rfl
@[simp] theorem State.setSq_irq (s : State) (k : Nat) (v : Sq) : (s.setSq k v).irq = s.irq := rfl
@[simp] theorem State.setSq_strm (s : State) (k : Nat) (v : Sq) : (s.setSq k v).strm = s.strm := rfl
@[simp] theorem State.setSq_host (s : State) (k : Nat) (v : Sq) : (s.setSq k v).host = s.host := rfl
@[simp] theorem State.setSq_tens (s : State) (k : Nat) (v : Sq) : (s.setSq k v).tens = s.tens := rfl
@[simp] theorem State.setSq_cqs (s : State) (k : Nat) (v : Sq) : (s.setSq k v).cqs = s.cqs := rfl
@[simp] theorem State.setSq_parts (s : State) (k : Nat) (v : Sq) : (s.setSq k v).parts = s.parts := rfl
@[simp] theorem State.setSq_ecn (s : State) (k : Nat) (v : Sq) : (s.setSq k v).ecn = s.ecn := rfl
@[simp] theorem State.setSq_xl (s : State) (k : Nat) (v : Sq) : (s.setSq k v).xl = s.xl := rfl
@[simp] theorem State.setSq_dc (s : State) (k : Nat) (v : Sq) : (s.setSq k v).dc = s.dc := rfl
@[simp] theorem State.setSq_tabs (s : State) (k : Nat) (v : Sq) : (s.setSq k v).tabs = s.tabs := rfl
@[simp] theorem State.setSq_arb (s : State) (k : Nat) (v : Sq) : (s.setSq k v).arb = s.arb := rfl
@[simp] theorem State.setSq_movers (s : State) (k : Nat) (v : Sq) : (s.setSq k v).movers = s.movers := rfl
@[simp] theorem State.setSq_chans (s : State) (k : Nat) (v : Sq) : (s.setSq k v).chans = s.chans := rfl
@[simp] theorem State.setSq_cnts (s : State) (k : Nat) (v : Sq) : (s.setSq k v).cnts = s.cnts := rfl
@[simp] theorem State.setSq_ropes (s : State) (k : Nat) (v : Sq) : (s.setSq k v).ropes = s.ropes := rfl
@[simp] theorem State.setSq_strms (s : State) (k : Nat) (v : Sq) : (s.setSq k v).strms = s.strms := rfl
@[simp] theorem State.setSq_acc (s : State) (k : Nat) (v : Sq) : (s.setSq k v).acc = s.acc := rfl
@[simp] theorem State.setSq_stg (s : State) (k : Nat) (v : Sq) : (s.setSq k v).stg = s.stg := rfl
@[simp] theorem State.setSq_inv (s : State) (k : Nat) (v : Sq) : (s.setSq k v).inv = s.inv := rfl
@[simp] theorem State.setSq_peer (s : State) (k : Nat) (v : Sq) : (s.setSq k v).peer = s.peer := rfl
@[simp] theorem State.setSq_mg (s : State) (k : Nat) (v : Sq) : (s.setSq k v).mg = s.mg := rfl
@[simp] theorem State.setSq_nvm (s : State) (k : Nat) (v : Sq) : (s.setSq k v).nvm = s.nvm := rfl
@[simp] theorem State.setSq_smb (s : State) (k : Nat) (v : Sq) : (s.setSq k v).smb = s.smb := rfl
@[simp] theorem State.setSq_tap (s : State) (k : Nat) (v : Sq) : (s.setSq k v).tap = s.tap := rfl

@[simp] theorem State.setSq_ten (s : State) (k j : Nat) (v : Sq) : (s.setSq k v).ten j = s.ten j := rfl
@[simp] theorem State.setSq_cq (s : State) (k j : Nat) (v : Sq) : (s.setSq k v).cq j = s.cq j := rfl
@[simp] theorem State.setSq_part (s : State) (k j : Nat) (v : Sq) : (s.setSq k v).part j = s.part j := rfl
@[simp] theorem State.setSq_ecnCh (s : State) (k j : Nat) (v : Sq) : (s.setSq k v).ecnCh j = s.ecnCh j := rfl
@[simp] theorem State.setSq_xlU (s : State) (k j : Nat) (v : Sq) : (s.setSq k v).xlU j = s.xlU j := rfl
@[simp] theorem State.setSq_dcU (s : State) (k j : Nat) (v : Sq) : (s.setSq k v).dcU j = s.dcU j := rfl
@[simp] theorem State.setSq_tab (s : State) (k j : Nat) (v : Sq) : (s.setSq k v).tab j = s.tab j := rfl
@[simp] theorem State.setSq_mover (s : State) (k j : Nat) (v : Sq) : (s.setSq k v).mover j = s.mover j := rfl
@[simp] theorem State.setSq_chan (s : State) (k j : Nat) (v : Sq) : (s.setSq k v).chan j = s.chan j := rfl
@[simp] theorem State.setSq_cnt (s : State) (k j : Nat) (v : Sq) : (s.setSq k v).cnt j = s.cnt j := rfl
@[simp] theorem State.setSq_rope (s : State) (k j : Nat) (v : Sq) : (s.setSq k v).rope j = s.rope j := rfl
@[simp] theorem State.setSq_strmAt (s : State) (k j : Nat) (v : Sq) : (s.setSq k v).strmAt j = s.strmAt j := rfl
@[simp] theorem State.setSq_rstE (s : State) (k j : Nat) (v : Sq) : (s.setSq k v).rstE j = s.rstE j := rfl
@[simp] theorem State.setSq_strmP (s : State) (k j : Nat) (v : Sq) : (s.setSq k v).strmP j = s.strmP j := rfl

/-! ### Writes of `cqs` -/

/-- A change is a read and a write. -/
@[simp] theorem State.modCq_eq (s : State) (k : Nat) (g : Cq → Cq) : s.modCq k g = s.setCq k (g (s.cq k)) := rfl

/-- A read after a write. -/
@[simp] theorem State.setCq_cq (s : State) (k j : Nat) (v : Cq) :
    (s.setCq k v).cq j = if j = k then v else s.cq j := SMap.get_put _ _ _ _ _

@[simp] theorem State.setCq_pending (s : State) (k : Nat) (v : Cq) : (s.setCq k v).pending = s.pending := rfl
@[simp] theorem State.setCq_cc (s : State) (k : Nat) (v : Cq) : (s.setCq k v).cc = s.cc := rfl
@[simp] theorem State.setCq_nextAid (s : State) (k : Nat) (v : Cq) : (s.setCq k v).nextAid = s.nextAid := rfl
@[simp] theorem State.setCq_seq (s : State) (k : Nat) (v : Cq) : (s.setCq k v).seq = s.seq := rfl
@[simp] theorem State.setCq_free (s : State) (k : Nat) (v : Cq) : (s.setCq k v).free = s.free := rfl
@[simp] theorem State.setCq_boot (s : State) (k : Nat) (v : Cq) : (s.setCq k v).boot = s.boot := rfl
@[simp] theorem State.setCq_pins (s : State) (k : Nat) (v : Cq) : (s.setCq k v).pins = s.pins := rfl
@[simp] theorem State.setCq_esc (s : State) (k : Nat) (v : Cq) : (s.setCq k v).esc = s.esc := rfl
@[simp] theorem State.setCq_rst (s : State) (k : Nat) (v : Cq) : (s.setCq k v).rst = s.rst := rfl
@[simp] theorem State.setCq_blk (s : State) (k : Nat) (v : Cq) : (s.setCq k v).blk = s.blk := rfl
@[simp] theorem State.setCq_sink (s : State) (k : Nat) (v : Cq) : (s.setCq k v).sink = s.sink := rfl
@[simp] theorem State.setCq_par (s : State) (k : Nat) (v : Cq) : (s.setCq k v).par = s.par := rfl
@[simp] theorem State.setCq_stc (s : State) (k : Nat) (v : Cq) : (s.setCq k v).stc = s.stc := rfl
@[simp] theorem State.setCq_granRet (s : State) (k : Nat) (v : Cq) : (s.setCq k v).granRet = s.granRet := rfl
@[simp] theorem State.setCq_granErr (s : State) (k : Nat) (v : Cq) : (s.setCq k v).granErr = s.granErr := rfl
@[simp] theorem State.setCq_scrub (s : State) (k : Nat) (v : Cq) : (s.setCq k v).scrub = s.scrub := rfl
@[simp] theorem State.setCq_pwr (s : State) (k : Nat) (v : Cq) : (s.setCq k v).pwr = s.pwr := rfl
@[simp] theorem State.setCq_hsec (s : State) (k : Nat) (v : Cq) : (s.setCq k v).hsec = s.hsec := rfl
@[simp] theorem State.setCq_dbg (s : State) (k : Nat) (v : Cq) : (s.setCq k v).dbg = s.dbg := rfl
@[simp] theorem State.setCq_irq (s : State) (k : Nat) (v : Cq) : (s.setCq k v).irq = s.irq := rfl
@[simp] theorem State.setCq_strm (s : State) (k : Nat) (v : Cq) : (s.setCq k v).strm = s.strm := rfl
@[simp] theorem State.setCq_host (s : State) (k : Nat) (v : Cq) : (s.setCq k v).host = s.host := rfl
@[simp] theorem State.setCq_tens (s : State) (k : Nat) (v : Cq) : (s.setCq k v).tens = s.tens := rfl
@[simp] theorem State.setCq_sqs (s : State) (k : Nat) (v : Cq) : (s.setCq k v).sqs = s.sqs := rfl
@[simp] theorem State.setCq_parts (s : State) (k : Nat) (v : Cq) : (s.setCq k v).parts = s.parts := rfl
@[simp] theorem State.setCq_ecn (s : State) (k : Nat) (v : Cq) : (s.setCq k v).ecn = s.ecn := rfl
@[simp] theorem State.setCq_xl (s : State) (k : Nat) (v : Cq) : (s.setCq k v).xl = s.xl := rfl
@[simp] theorem State.setCq_dc (s : State) (k : Nat) (v : Cq) : (s.setCq k v).dc = s.dc := rfl
@[simp] theorem State.setCq_tabs (s : State) (k : Nat) (v : Cq) : (s.setCq k v).tabs = s.tabs := rfl
@[simp] theorem State.setCq_arb (s : State) (k : Nat) (v : Cq) : (s.setCq k v).arb = s.arb := rfl
@[simp] theorem State.setCq_movers (s : State) (k : Nat) (v : Cq) : (s.setCq k v).movers = s.movers := rfl
@[simp] theorem State.setCq_chans (s : State) (k : Nat) (v : Cq) : (s.setCq k v).chans = s.chans := rfl
@[simp] theorem State.setCq_cnts (s : State) (k : Nat) (v : Cq) : (s.setCq k v).cnts = s.cnts := rfl
@[simp] theorem State.setCq_ropes (s : State) (k : Nat) (v : Cq) : (s.setCq k v).ropes = s.ropes := rfl
@[simp] theorem State.setCq_strms (s : State) (k : Nat) (v : Cq) : (s.setCq k v).strms = s.strms := rfl
@[simp] theorem State.setCq_acc (s : State) (k : Nat) (v : Cq) : (s.setCq k v).acc = s.acc := rfl
@[simp] theorem State.setCq_stg (s : State) (k : Nat) (v : Cq) : (s.setCq k v).stg = s.stg := rfl
@[simp] theorem State.setCq_inv (s : State) (k : Nat) (v : Cq) : (s.setCq k v).inv = s.inv := rfl
@[simp] theorem State.setCq_peer (s : State) (k : Nat) (v : Cq) : (s.setCq k v).peer = s.peer := rfl
@[simp] theorem State.setCq_mg (s : State) (k : Nat) (v : Cq) : (s.setCq k v).mg = s.mg := rfl
@[simp] theorem State.setCq_nvm (s : State) (k : Nat) (v : Cq) : (s.setCq k v).nvm = s.nvm := rfl
@[simp] theorem State.setCq_smb (s : State) (k : Nat) (v : Cq) : (s.setCq k v).smb = s.smb := rfl
@[simp] theorem State.setCq_tap (s : State) (k : Nat) (v : Cq) : (s.setCq k v).tap = s.tap := rfl

@[simp] theorem State.setCq_ten (s : State) (k j : Nat) (v : Cq) : (s.setCq k v).ten j = s.ten j := rfl
@[simp] theorem State.setCq_sq (s : State) (k j : Nat) (v : Cq) : (s.setCq k v).sq j = s.sq j := rfl
@[simp] theorem State.setCq_part (s : State) (k j : Nat) (v : Cq) : (s.setCq k v).part j = s.part j := rfl
@[simp] theorem State.setCq_ecnCh (s : State) (k j : Nat) (v : Cq) : (s.setCq k v).ecnCh j = s.ecnCh j := rfl
@[simp] theorem State.setCq_xlU (s : State) (k j : Nat) (v : Cq) : (s.setCq k v).xlU j = s.xlU j := rfl
@[simp] theorem State.setCq_dcU (s : State) (k j : Nat) (v : Cq) : (s.setCq k v).dcU j = s.dcU j := rfl
@[simp] theorem State.setCq_tab (s : State) (k j : Nat) (v : Cq) : (s.setCq k v).tab j = s.tab j := rfl
@[simp] theorem State.setCq_mover (s : State) (k j : Nat) (v : Cq) : (s.setCq k v).mover j = s.mover j := rfl
@[simp] theorem State.setCq_chan (s : State) (k j : Nat) (v : Cq) : (s.setCq k v).chan j = s.chan j := rfl
@[simp] theorem State.setCq_cnt (s : State) (k j : Nat) (v : Cq) : (s.setCq k v).cnt j = s.cnt j := rfl
@[simp] theorem State.setCq_rope (s : State) (k j : Nat) (v : Cq) : (s.setCq k v).rope j = s.rope j := rfl
@[simp] theorem State.setCq_strmAt (s : State) (k j : Nat) (v : Cq) : (s.setCq k v).strmAt j = s.strmAt j := rfl
@[simp] theorem State.setCq_rstE (s : State) (k j : Nat) (v : Cq) : (s.setCq k v).rstE j = s.rstE j := rfl
@[simp] theorem State.setCq_strmP (s : State) (k j : Nat) (v : Cq) : (s.setCq k v).strmP j = s.strmP j := rfl

/-! ### Writes of `parts` -/

/-- A change is a read and a write. -/
@[simp] theorem State.modPart_eq (s : State) (k : Nat) (g : Part → Part) : s.modPart k g = s.setPart k (g (s.part k)) := rfl

/-- A read after a write. -/
@[simp] theorem State.setPart_part (s : State) (k j : Nat) (v : Part) :
    (s.setPart k v).part j = if j = k then v else s.part j := SMap.get_put _ _ _ _ _

@[simp] theorem State.setPart_pending (s : State) (k : Nat) (v : Part) : (s.setPart k v).pending = s.pending := rfl
@[simp] theorem State.setPart_cc (s : State) (k : Nat) (v : Part) : (s.setPart k v).cc = s.cc := rfl
@[simp] theorem State.setPart_nextAid (s : State) (k : Nat) (v : Part) : (s.setPart k v).nextAid = s.nextAid := rfl
@[simp] theorem State.setPart_seq (s : State) (k : Nat) (v : Part) : (s.setPart k v).seq = s.seq := rfl
@[simp] theorem State.setPart_free (s : State) (k : Nat) (v : Part) : (s.setPart k v).free = s.free := rfl
@[simp] theorem State.setPart_boot (s : State) (k : Nat) (v : Part) : (s.setPart k v).boot = s.boot := rfl
@[simp] theorem State.setPart_pins (s : State) (k : Nat) (v : Part) : (s.setPart k v).pins = s.pins := rfl
@[simp] theorem State.setPart_esc (s : State) (k : Nat) (v : Part) : (s.setPart k v).esc = s.esc := rfl
@[simp] theorem State.setPart_rst (s : State) (k : Nat) (v : Part) : (s.setPart k v).rst = s.rst := rfl
@[simp] theorem State.setPart_blk (s : State) (k : Nat) (v : Part) : (s.setPart k v).blk = s.blk := rfl
@[simp] theorem State.setPart_sink (s : State) (k : Nat) (v : Part) : (s.setPart k v).sink = s.sink := rfl
@[simp] theorem State.setPart_par (s : State) (k : Nat) (v : Part) : (s.setPart k v).par = s.par := rfl
@[simp] theorem State.setPart_stc (s : State) (k : Nat) (v : Part) : (s.setPart k v).stc = s.stc := rfl
@[simp] theorem State.setPart_granRet (s : State) (k : Nat) (v : Part) : (s.setPart k v).granRet = s.granRet := rfl
@[simp] theorem State.setPart_granErr (s : State) (k : Nat) (v : Part) : (s.setPart k v).granErr = s.granErr := rfl
@[simp] theorem State.setPart_scrub (s : State) (k : Nat) (v : Part) : (s.setPart k v).scrub = s.scrub := rfl
@[simp] theorem State.setPart_pwr (s : State) (k : Nat) (v : Part) : (s.setPart k v).pwr = s.pwr := rfl
@[simp] theorem State.setPart_hsec (s : State) (k : Nat) (v : Part) : (s.setPart k v).hsec = s.hsec := rfl
@[simp] theorem State.setPart_dbg (s : State) (k : Nat) (v : Part) : (s.setPart k v).dbg = s.dbg := rfl
@[simp] theorem State.setPart_irq (s : State) (k : Nat) (v : Part) : (s.setPart k v).irq = s.irq := rfl
@[simp] theorem State.setPart_strm (s : State) (k : Nat) (v : Part) : (s.setPart k v).strm = s.strm := rfl
@[simp] theorem State.setPart_host (s : State) (k : Nat) (v : Part) : (s.setPart k v).host = s.host := rfl
@[simp] theorem State.setPart_tens (s : State) (k : Nat) (v : Part) : (s.setPart k v).tens = s.tens := rfl
@[simp] theorem State.setPart_sqs (s : State) (k : Nat) (v : Part) : (s.setPart k v).sqs = s.sqs := rfl
@[simp] theorem State.setPart_cqs (s : State) (k : Nat) (v : Part) : (s.setPart k v).cqs = s.cqs := rfl
@[simp] theorem State.setPart_ecn (s : State) (k : Nat) (v : Part) : (s.setPart k v).ecn = s.ecn := rfl
@[simp] theorem State.setPart_xl (s : State) (k : Nat) (v : Part) : (s.setPart k v).xl = s.xl := rfl
@[simp] theorem State.setPart_dc (s : State) (k : Nat) (v : Part) : (s.setPart k v).dc = s.dc := rfl
@[simp] theorem State.setPart_tabs (s : State) (k : Nat) (v : Part) : (s.setPart k v).tabs = s.tabs := rfl
@[simp] theorem State.setPart_arb (s : State) (k : Nat) (v : Part) : (s.setPart k v).arb = s.arb := rfl
@[simp] theorem State.setPart_movers (s : State) (k : Nat) (v : Part) : (s.setPart k v).movers = s.movers := rfl
@[simp] theorem State.setPart_chans (s : State) (k : Nat) (v : Part) : (s.setPart k v).chans = s.chans := rfl
@[simp] theorem State.setPart_cnts (s : State) (k : Nat) (v : Part) : (s.setPart k v).cnts = s.cnts := rfl
@[simp] theorem State.setPart_ropes (s : State) (k : Nat) (v : Part) : (s.setPart k v).ropes = s.ropes := rfl
@[simp] theorem State.setPart_strms (s : State) (k : Nat) (v : Part) : (s.setPart k v).strms = s.strms := rfl
@[simp] theorem State.setPart_acc (s : State) (k : Nat) (v : Part) : (s.setPart k v).acc = s.acc := rfl
@[simp] theorem State.setPart_stg (s : State) (k : Nat) (v : Part) : (s.setPart k v).stg = s.stg := rfl
@[simp] theorem State.setPart_inv (s : State) (k : Nat) (v : Part) : (s.setPart k v).inv = s.inv := rfl
@[simp] theorem State.setPart_peer (s : State) (k : Nat) (v : Part) : (s.setPart k v).peer = s.peer := rfl
@[simp] theorem State.setPart_mg (s : State) (k : Nat) (v : Part) : (s.setPart k v).mg = s.mg := rfl
@[simp] theorem State.setPart_nvm (s : State) (k : Nat) (v : Part) : (s.setPart k v).nvm = s.nvm := rfl
@[simp] theorem State.setPart_smb (s : State) (k : Nat) (v : Part) : (s.setPart k v).smb = s.smb := rfl
@[simp] theorem State.setPart_tap (s : State) (k : Nat) (v : Part) : (s.setPart k v).tap = s.tap := rfl

@[simp] theorem State.setPart_ten (s : State) (k j : Nat) (v : Part) : (s.setPart k v).ten j = s.ten j := rfl
@[simp] theorem State.setPart_sq (s : State) (k j : Nat) (v : Part) : (s.setPart k v).sq j = s.sq j := rfl
@[simp] theorem State.setPart_cq (s : State) (k j : Nat) (v : Part) : (s.setPart k v).cq j = s.cq j := rfl
@[simp] theorem State.setPart_ecnCh (s : State) (k j : Nat) (v : Part) : (s.setPart k v).ecnCh j = s.ecnCh j := rfl
@[simp] theorem State.setPart_xlU (s : State) (k j : Nat) (v : Part) : (s.setPart k v).xlU j = s.xlU j := rfl
@[simp] theorem State.setPart_dcU (s : State) (k j : Nat) (v : Part) : (s.setPart k v).dcU j = s.dcU j := rfl
@[simp] theorem State.setPart_tab (s : State) (k j : Nat) (v : Part) : (s.setPart k v).tab j = s.tab j := rfl
@[simp] theorem State.setPart_mover (s : State) (k j : Nat) (v : Part) : (s.setPart k v).mover j = s.mover j := rfl
@[simp] theorem State.setPart_chan (s : State) (k j : Nat) (v : Part) : (s.setPart k v).chan j = s.chan j := rfl
@[simp] theorem State.setPart_cnt (s : State) (k j : Nat) (v : Part) : (s.setPart k v).cnt j = s.cnt j := rfl
@[simp] theorem State.setPart_rope (s : State) (k j : Nat) (v : Part) : (s.setPart k v).rope j = s.rope j := rfl
@[simp] theorem State.setPart_strmAt (s : State) (k j : Nat) (v : Part) : (s.setPart k v).strmAt j = s.strmAt j := rfl
@[simp] theorem State.setPart_rstE (s : State) (k j : Nat) (v : Part) : (s.setPart k v).rstE j = s.rstE j := rfl
@[simp] theorem State.setPart_strmP (s : State) (k j : Nat) (v : Part) : (s.setPart k v).strmP j = s.strmP j := rfl

/-! ### Writes of `ecn` -/

/-- A change is a read and a write. -/
@[simp] theorem State.modEcnCh_eq (s : State) (k : Nat) (g : Ecn → Ecn) : s.modEcnCh k g = s.setEcnCh k (g (s.ecnCh k)) := rfl

/-- A read after a write. -/
@[simp] theorem State.setEcnCh_ecnCh (s : State) (k j : Nat) (v : Ecn) :
    (s.setEcnCh k v).ecnCh j = if j = k then v else s.ecnCh j := SMap.get_put _ _ _ _ _

@[simp] theorem State.setEcnCh_pending (s : State) (k : Nat) (v : Ecn) : (s.setEcnCh k v).pending = s.pending := rfl
@[simp] theorem State.setEcnCh_cc (s : State) (k : Nat) (v : Ecn) : (s.setEcnCh k v).cc = s.cc := rfl
@[simp] theorem State.setEcnCh_nextAid (s : State) (k : Nat) (v : Ecn) : (s.setEcnCh k v).nextAid = s.nextAid := rfl
@[simp] theorem State.setEcnCh_seq (s : State) (k : Nat) (v : Ecn) : (s.setEcnCh k v).seq = s.seq := rfl
@[simp] theorem State.setEcnCh_free (s : State) (k : Nat) (v : Ecn) : (s.setEcnCh k v).free = s.free := rfl
@[simp] theorem State.setEcnCh_boot (s : State) (k : Nat) (v : Ecn) : (s.setEcnCh k v).boot = s.boot := rfl
@[simp] theorem State.setEcnCh_pins (s : State) (k : Nat) (v : Ecn) : (s.setEcnCh k v).pins = s.pins := rfl
@[simp] theorem State.setEcnCh_esc (s : State) (k : Nat) (v : Ecn) : (s.setEcnCh k v).esc = s.esc := rfl
@[simp] theorem State.setEcnCh_rst (s : State) (k : Nat) (v : Ecn) : (s.setEcnCh k v).rst = s.rst := rfl
@[simp] theorem State.setEcnCh_blk (s : State) (k : Nat) (v : Ecn) : (s.setEcnCh k v).blk = s.blk := rfl
@[simp] theorem State.setEcnCh_sink (s : State) (k : Nat) (v : Ecn) : (s.setEcnCh k v).sink = s.sink := rfl
@[simp] theorem State.setEcnCh_par (s : State) (k : Nat) (v : Ecn) : (s.setEcnCh k v).par = s.par := rfl
@[simp] theorem State.setEcnCh_stc (s : State) (k : Nat) (v : Ecn) : (s.setEcnCh k v).stc = s.stc := rfl
@[simp] theorem State.setEcnCh_granRet (s : State) (k : Nat) (v : Ecn) : (s.setEcnCh k v).granRet = s.granRet := rfl
@[simp] theorem State.setEcnCh_granErr (s : State) (k : Nat) (v : Ecn) : (s.setEcnCh k v).granErr = s.granErr := rfl
@[simp] theorem State.setEcnCh_scrub (s : State) (k : Nat) (v : Ecn) : (s.setEcnCh k v).scrub = s.scrub := rfl
@[simp] theorem State.setEcnCh_pwr (s : State) (k : Nat) (v : Ecn) : (s.setEcnCh k v).pwr = s.pwr := rfl
@[simp] theorem State.setEcnCh_hsec (s : State) (k : Nat) (v : Ecn) : (s.setEcnCh k v).hsec = s.hsec := rfl
@[simp] theorem State.setEcnCh_dbg (s : State) (k : Nat) (v : Ecn) : (s.setEcnCh k v).dbg = s.dbg := rfl
@[simp] theorem State.setEcnCh_irq (s : State) (k : Nat) (v : Ecn) : (s.setEcnCh k v).irq = s.irq := rfl
@[simp] theorem State.setEcnCh_strm (s : State) (k : Nat) (v : Ecn) : (s.setEcnCh k v).strm = s.strm := rfl
@[simp] theorem State.setEcnCh_host (s : State) (k : Nat) (v : Ecn) : (s.setEcnCh k v).host = s.host := rfl
@[simp] theorem State.setEcnCh_tens (s : State) (k : Nat) (v : Ecn) : (s.setEcnCh k v).tens = s.tens := rfl
@[simp] theorem State.setEcnCh_sqs (s : State) (k : Nat) (v : Ecn) : (s.setEcnCh k v).sqs = s.sqs := rfl
@[simp] theorem State.setEcnCh_cqs (s : State) (k : Nat) (v : Ecn) : (s.setEcnCh k v).cqs = s.cqs := rfl
@[simp] theorem State.setEcnCh_parts (s : State) (k : Nat) (v : Ecn) : (s.setEcnCh k v).parts = s.parts := rfl
@[simp] theorem State.setEcnCh_xl (s : State) (k : Nat) (v : Ecn) : (s.setEcnCh k v).xl = s.xl := rfl
@[simp] theorem State.setEcnCh_dc (s : State) (k : Nat) (v : Ecn) : (s.setEcnCh k v).dc = s.dc := rfl
@[simp] theorem State.setEcnCh_tabs (s : State) (k : Nat) (v : Ecn) : (s.setEcnCh k v).tabs = s.tabs := rfl
@[simp] theorem State.setEcnCh_arb (s : State) (k : Nat) (v : Ecn) : (s.setEcnCh k v).arb = s.arb := rfl
@[simp] theorem State.setEcnCh_movers (s : State) (k : Nat) (v : Ecn) : (s.setEcnCh k v).movers = s.movers := rfl
@[simp] theorem State.setEcnCh_chans (s : State) (k : Nat) (v : Ecn) : (s.setEcnCh k v).chans = s.chans := rfl
@[simp] theorem State.setEcnCh_cnts (s : State) (k : Nat) (v : Ecn) : (s.setEcnCh k v).cnts = s.cnts := rfl
@[simp] theorem State.setEcnCh_ropes (s : State) (k : Nat) (v : Ecn) : (s.setEcnCh k v).ropes = s.ropes := rfl
@[simp] theorem State.setEcnCh_strms (s : State) (k : Nat) (v : Ecn) : (s.setEcnCh k v).strms = s.strms := rfl
@[simp] theorem State.setEcnCh_acc (s : State) (k : Nat) (v : Ecn) : (s.setEcnCh k v).acc = s.acc := rfl
@[simp] theorem State.setEcnCh_stg (s : State) (k : Nat) (v : Ecn) : (s.setEcnCh k v).stg = s.stg := rfl
@[simp] theorem State.setEcnCh_inv (s : State) (k : Nat) (v : Ecn) : (s.setEcnCh k v).inv = s.inv := rfl
@[simp] theorem State.setEcnCh_peer (s : State) (k : Nat) (v : Ecn) : (s.setEcnCh k v).peer = s.peer := rfl
@[simp] theorem State.setEcnCh_mg (s : State) (k : Nat) (v : Ecn) : (s.setEcnCh k v).mg = s.mg := rfl
@[simp] theorem State.setEcnCh_nvm (s : State) (k : Nat) (v : Ecn) : (s.setEcnCh k v).nvm = s.nvm := rfl
@[simp] theorem State.setEcnCh_smb (s : State) (k : Nat) (v : Ecn) : (s.setEcnCh k v).smb = s.smb := rfl
@[simp] theorem State.setEcnCh_tap (s : State) (k : Nat) (v : Ecn) : (s.setEcnCh k v).tap = s.tap := rfl

@[simp] theorem State.setEcnCh_ten (s : State) (k j : Nat) (v : Ecn) : (s.setEcnCh k v).ten j = s.ten j := rfl
@[simp] theorem State.setEcnCh_sq (s : State) (k j : Nat) (v : Ecn) : (s.setEcnCh k v).sq j = s.sq j := rfl
@[simp] theorem State.setEcnCh_cq (s : State) (k j : Nat) (v : Ecn) : (s.setEcnCh k v).cq j = s.cq j := rfl
@[simp] theorem State.setEcnCh_part (s : State) (k j : Nat) (v : Ecn) : (s.setEcnCh k v).part j = s.part j := rfl
@[simp] theorem State.setEcnCh_xlU (s : State) (k j : Nat) (v : Ecn) : (s.setEcnCh k v).xlU j = s.xlU j := rfl
@[simp] theorem State.setEcnCh_dcU (s : State) (k j : Nat) (v : Ecn) : (s.setEcnCh k v).dcU j = s.dcU j := rfl
@[simp] theorem State.setEcnCh_tab (s : State) (k j : Nat) (v : Ecn) : (s.setEcnCh k v).tab j = s.tab j := rfl
@[simp] theorem State.setEcnCh_mover (s : State) (k j : Nat) (v : Ecn) : (s.setEcnCh k v).mover j = s.mover j := rfl
@[simp] theorem State.setEcnCh_chan (s : State) (k j : Nat) (v : Ecn) : (s.setEcnCh k v).chan j = s.chan j := rfl
@[simp] theorem State.setEcnCh_cnt (s : State) (k j : Nat) (v : Ecn) : (s.setEcnCh k v).cnt j = s.cnt j := rfl
@[simp] theorem State.setEcnCh_rope (s : State) (k j : Nat) (v : Ecn) : (s.setEcnCh k v).rope j = s.rope j := rfl
@[simp] theorem State.setEcnCh_strmAt (s : State) (k j : Nat) (v : Ecn) : (s.setEcnCh k v).strmAt j = s.strmAt j := rfl
@[simp] theorem State.setEcnCh_rstE (s : State) (k j : Nat) (v : Ecn) : (s.setEcnCh k v).rstE j = s.rstE j := rfl
@[simp] theorem State.setEcnCh_strmP (s : State) (k j : Nat) (v : Ecn) : (s.setEcnCh k v).strmP j = s.strmP j := rfl

/-! ### Writes of `xl` -/

/-- A change is a read and a write. -/
@[simp] theorem State.modXlU_eq (s : State) (k : Nat) (g : Xl → Xl) : s.modXlU k g = s.setXlU k (g (s.xlU k)) := rfl

/-- A read after a write. -/
@[simp] theorem State.setXlU_xlU (s : State) (k j : Nat) (v : Xl) :
    (s.setXlU k v).xlU j = if j = k then v else s.xlU j := SMap.get_put _ _ _ _ _

@[simp] theorem State.setXlU_pending (s : State) (k : Nat) (v : Xl) : (s.setXlU k v).pending = s.pending := rfl
@[simp] theorem State.setXlU_cc (s : State) (k : Nat) (v : Xl) : (s.setXlU k v).cc = s.cc := rfl
@[simp] theorem State.setXlU_nextAid (s : State) (k : Nat) (v : Xl) : (s.setXlU k v).nextAid = s.nextAid := rfl
@[simp] theorem State.setXlU_seq (s : State) (k : Nat) (v : Xl) : (s.setXlU k v).seq = s.seq := rfl
@[simp] theorem State.setXlU_free (s : State) (k : Nat) (v : Xl) : (s.setXlU k v).free = s.free := rfl
@[simp] theorem State.setXlU_boot (s : State) (k : Nat) (v : Xl) : (s.setXlU k v).boot = s.boot := rfl
@[simp] theorem State.setXlU_pins (s : State) (k : Nat) (v : Xl) : (s.setXlU k v).pins = s.pins := rfl
@[simp] theorem State.setXlU_esc (s : State) (k : Nat) (v : Xl) : (s.setXlU k v).esc = s.esc := rfl
@[simp] theorem State.setXlU_rst (s : State) (k : Nat) (v : Xl) : (s.setXlU k v).rst = s.rst := rfl
@[simp] theorem State.setXlU_blk (s : State) (k : Nat) (v : Xl) : (s.setXlU k v).blk = s.blk := rfl
@[simp] theorem State.setXlU_sink (s : State) (k : Nat) (v : Xl) : (s.setXlU k v).sink = s.sink := rfl
@[simp] theorem State.setXlU_par (s : State) (k : Nat) (v : Xl) : (s.setXlU k v).par = s.par := rfl
@[simp] theorem State.setXlU_stc (s : State) (k : Nat) (v : Xl) : (s.setXlU k v).stc = s.stc := rfl
@[simp] theorem State.setXlU_granRet (s : State) (k : Nat) (v : Xl) : (s.setXlU k v).granRet = s.granRet := rfl
@[simp] theorem State.setXlU_granErr (s : State) (k : Nat) (v : Xl) : (s.setXlU k v).granErr = s.granErr := rfl
@[simp] theorem State.setXlU_scrub (s : State) (k : Nat) (v : Xl) : (s.setXlU k v).scrub = s.scrub := rfl
@[simp] theorem State.setXlU_pwr (s : State) (k : Nat) (v : Xl) : (s.setXlU k v).pwr = s.pwr := rfl
@[simp] theorem State.setXlU_hsec (s : State) (k : Nat) (v : Xl) : (s.setXlU k v).hsec = s.hsec := rfl
@[simp] theorem State.setXlU_dbg (s : State) (k : Nat) (v : Xl) : (s.setXlU k v).dbg = s.dbg := rfl
@[simp] theorem State.setXlU_irq (s : State) (k : Nat) (v : Xl) : (s.setXlU k v).irq = s.irq := rfl
@[simp] theorem State.setXlU_strm (s : State) (k : Nat) (v : Xl) : (s.setXlU k v).strm = s.strm := rfl
@[simp] theorem State.setXlU_host (s : State) (k : Nat) (v : Xl) : (s.setXlU k v).host = s.host := rfl
@[simp] theorem State.setXlU_tens (s : State) (k : Nat) (v : Xl) : (s.setXlU k v).tens = s.tens := rfl
@[simp] theorem State.setXlU_sqs (s : State) (k : Nat) (v : Xl) : (s.setXlU k v).sqs = s.sqs := rfl
@[simp] theorem State.setXlU_cqs (s : State) (k : Nat) (v : Xl) : (s.setXlU k v).cqs = s.cqs := rfl
@[simp] theorem State.setXlU_parts (s : State) (k : Nat) (v : Xl) : (s.setXlU k v).parts = s.parts := rfl
@[simp] theorem State.setXlU_ecn (s : State) (k : Nat) (v : Xl) : (s.setXlU k v).ecn = s.ecn := rfl
@[simp] theorem State.setXlU_dc (s : State) (k : Nat) (v : Xl) : (s.setXlU k v).dc = s.dc := rfl
@[simp] theorem State.setXlU_tabs (s : State) (k : Nat) (v : Xl) : (s.setXlU k v).tabs = s.tabs := rfl
@[simp] theorem State.setXlU_arb (s : State) (k : Nat) (v : Xl) : (s.setXlU k v).arb = s.arb := rfl
@[simp] theorem State.setXlU_movers (s : State) (k : Nat) (v : Xl) : (s.setXlU k v).movers = s.movers := rfl
@[simp] theorem State.setXlU_chans (s : State) (k : Nat) (v : Xl) : (s.setXlU k v).chans = s.chans := rfl
@[simp] theorem State.setXlU_cnts (s : State) (k : Nat) (v : Xl) : (s.setXlU k v).cnts = s.cnts := rfl
@[simp] theorem State.setXlU_ropes (s : State) (k : Nat) (v : Xl) : (s.setXlU k v).ropes = s.ropes := rfl
@[simp] theorem State.setXlU_strms (s : State) (k : Nat) (v : Xl) : (s.setXlU k v).strms = s.strms := rfl
@[simp] theorem State.setXlU_acc (s : State) (k : Nat) (v : Xl) : (s.setXlU k v).acc = s.acc := rfl
@[simp] theorem State.setXlU_stg (s : State) (k : Nat) (v : Xl) : (s.setXlU k v).stg = s.stg := rfl
@[simp] theorem State.setXlU_inv (s : State) (k : Nat) (v : Xl) : (s.setXlU k v).inv = s.inv := rfl
@[simp] theorem State.setXlU_peer (s : State) (k : Nat) (v : Xl) : (s.setXlU k v).peer = s.peer := rfl
@[simp] theorem State.setXlU_mg (s : State) (k : Nat) (v : Xl) : (s.setXlU k v).mg = s.mg := rfl
@[simp] theorem State.setXlU_nvm (s : State) (k : Nat) (v : Xl) : (s.setXlU k v).nvm = s.nvm := rfl
@[simp] theorem State.setXlU_smb (s : State) (k : Nat) (v : Xl) : (s.setXlU k v).smb = s.smb := rfl
@[simp] theorem State.setXlU_tap (s : State) (k : Nat) (v : Xl) : (s.setXlU k v).tap = s.tap := rfl

@[simp] theorem State.setXlU_ten (s : State) (k j : Nat) (v : Xl) : (s.setXlU k v).ten j = s.ten j := rfl
@[simp] theorem State.setXlU_sq (s : State) (k j : Nat) (v : Xl) : (s.setXlU k v).sq j = s.sq j := rfl
@[simp] theorem State.setXlU_cq (s : State) (k j : Nat) (v : Xl) : (s.setXlU k v).cq j = s.cq j := rfl
@[simp] theorem State.setXlU_part (s : State) (k j : Nat) (v : Xl) : (s.setXlU k v).part j = s.part j := rfl
@[simp] theorem State.setXlU_ecnCh (s : State) (k j : Nat) (v : Xl) : (s.setXlU k v).ecnCh j = s.ecnCh j := rfl
@[simp] theorem State.setXlU_dcU (s : State) (k j : Nat) (v : Xl) : (s.setXlU k v).dcU j = s.dcU j := rfl
@[simp] theorem State.setXlU_tab (s : State) (k j : Nat) (v : Xl) : (s.setXlU k v).tab j = s.tab j := rfl
@[simp] theorem State.setXlU_mover (s : State) (k j : Nat) (v : Xl) : (s.setXlU k v).mover j = s.mover j := rfl
@[simp] theorem State.setXlU_chan (s : State) (k j : Nat) (v : Xl) : (s.setXlU k v).chan j = s.chan j := rfl
@[simp] theorem State.setXlU_cnt (s : State) (k j : Nat) (v : Xl) : (s.setXlU k v).cnt j = s.cnt j := rfl
@[simp] theorem State.setXlU_rope (s : State) (k j : Nat) (v : Xl) : (s.setXlU k v).rope j = s.rope j := rfl
@[simp] theorem State.setXlU_strmAt (s : State) (k j : Nat) (v : Xl) : (s.setXlU k v).strmAt j = s.strmAt j := rfl
@[simp] theorem State.setXlU_rstE (s : State) (k j : Nat) (v : Xl) : (s.setXlU k v).rstE j = s.rstE j := rfl
@[simp] theorem State.setXlU_strmP (s : State) (k j : Nat) (v : Xl) : (s.setXlU k v).strmP j = s.strmP j := rfl

/-! ### Writes of `dc` -/

/-- A change is a read and a write. -/
@[simp] theorem State.modDcU_eq (s : State) (k : Nat) (g : DCache → DCache) : s.modDcU k g = s.setDcU k (g (s.dcU k)) := rfl

/-- A read after a write. -/
@[simp] theorem State.setDcU_dcU (s : State) (k j : Nat) (v : DCache) :
    (s.setDcU k v).dcU j = if j = k then v else s.dcU j := SMap.get_put _ _ _ _ _

@[simp] theorem State.setDcU_pending (s : State) (k : Nat) (v : DCache) : (s.setDcU k v).pending = s.pending := rfl
@[simp] theorem State.setDcU_cc (s : State) (k : Nat) (v : DCache) : (s.setDcU k v).cc = s.cc := rfl
@[simp] theorem State.setDcU_nextAid (s : State) (k : Nat) (v : DCache) : (s.setDcU k v).nextAid = s.nextAid := rfl
@[simp] theorem State.setDcU_seq (s : State) (k : Nat) (v : DCache) : (s.setDcU k v).seq = s.seq := rfl
@[simp] theorem State.setDcU_free (s : State) (k : Nat) (v : DCache) : (s.setDcU k v).free = s.free := rfl
@[simp] theorem State.setDcU_boot (s : State) (k : Nat) (v : DCache) : (s.setDcU k v).boot = s.boot := rfl
@[simp] theorem State.setDcU_pins (s : State) (k : Nat) (v : DCache) : (s.setDcU k v).pins = s.pins := rfl
@[simp] theorem State.setDcU_esc (s : State) (k : Nat) (v : DCache) : (s.setDcU k v).esc = s.esc := rfl
@[simp] theorem State.setDcU_rst (s : State) (k : Nat) (v : DCache) : (s.setDcU k v).rst = s.rst := rfl
@[simp] theorem State.setDcU_blk (s : State) (k : Nat) (v : DCache) : (s.setDcU k v).blk = s.blk := rfl
@[simp] theorem State.setDcU_sink (s : State) (k : Nat) (v : DCache) : (s.setDcU k v).sink = s.sink := rfl
@[simp] theorem State.setDcU_par (s : State) (k : Nat) (v : DCache) : (s.setDcU k v).par = s.par := rfl
@[simp] theorem State.setDcU_stc (s : State) (k : Nat) (v : DCache) : (s.setDcU k v).stc = s.stc := rfl
@[simp] theorem State.setDcU_granRet (s : State) (k : Nat) (v : DCache) : (s.setDcU k v).granRet = s.granRet := rfl
@[simp] theorem State.setDcU_granErr (s : State) (k : Nat) (v : DCache) : (s.setDcU k v).granErr = s.granErr := rfl
@[simp] theorem State.setDcU_scrub (s : State) (k : Nat) (v : DCache) : (s.setDcU k v).scrub = s.scrub := rfl
@[simp] theorem State.setDcU_pwr (s : State) (k : Nat) (v : DCache) : (s.setDcU k v).pwr = s.pwr := rfl
@[simp] theorem State.setDcU_hsec (s : State) (k : Nat) (v : DCache) : (s.setDcU k v).hsec = s.hsec := rfl
@[simp] theorem State.setDcU_dbg (s : State) (k : Nat) (v : DCache) : (s.setDcU k v).dbg = s.dbg := rfl
@[simp] theorem State.setDcU_irq (s : State) (k : Nat) (v : DCache) : (s.setDcU k v).irq = s.irq := rfl
@[simp] theorem State.setDcU_strm (s : State) (k : Nat) (v : DCache) : (s.setDcU k v).strm = s.strm := rfl
@[simp] theorem State.setDcU_host (s : State) (k : Nat) (v : DCache) : (s.setDcU k v).host = s.host := rfl
@[simp] theorem State.setDcU_tens (s : State) (k : Nat) (v : DCache) : (s.setDcU k v).tens = s.tens := rfl
@[simp] theorem State.setDcU_sqs (s : State) (k : Nat) (v : DCache) : (s.setDcU k v).sqs = s.sqs := rfl
@[simp] theorem State.setDcU_cqs (s : State) (k : Nat) (v : DCache) : (s.setDcU k v).cqs = s.cqs := rfl
@[simp] theorem State.setDcU_parts (s : State) (k : Nat) (v : DCache) : (s.setDcU k v).parts = s.parts := rfl
@[simp] theorem State.setDcU_ecn (s : State) (k : Nat) (v : DCache) : (s.setDcU k v).ecn = s.ecn := rfl
@[simp] theorem State.setDcU_xl (s : State) (k : Nat) (v : DCache) : (s.setDcU k v).xl = s.xl := rfl
@[simp] theorem State.setDcU_tabs (s : State) (k : Nat) (v : DCache) : (s.setDcU k v).tabs = s.tabs := rfl
@[simp] theorem State.setDcU_arb (s : State) (k : Nat) (v : DCache) : (s.setDcU k v).arb = s.arb := rfl
@[simp] theorem State.setDcU_movers (s : State) (k : Nat) (v : DCache) : (s.setDcU k v).movers = s.movers := rfl
@[simp] theorem State.setDcU_chans (s : State) (k : Nat) (v : DCache) : (s.setDcU k v).chans = s.chans := rfl
@[simp] theorem State.setDcU_cnts (s : State) (k : Nat) (v : DCache) : (s.setDcU k v).cnts = s.cnts := rfl
@[simp] theorem State.setDcU_ropes (s : State) (k : Nat) (v : DCache) : (s.setDcU k v).ropes = s.ropes := rfl
@[simp] theorem State.setDcU_strms (s : State) (k : Nat) (v : DCache) : (s.setDcU k v).strms = s.strms := rfl
@[simp] theorem State.setDcU_acc (s : State) (k : Nat) (v : DCache) : (s.setDcU k v).acc = s.acc := rfl
@[simp] theorem State.setDcU_stg (s : State) (k : Nat) (v : DCache) : (s.setDcU k v).stg = s.stg := rfl
@[simp] theorem State.setDcU_inv (s : State) (k : Nat) (v : DCache) : (s.setDcU k v).inv = s.inv := rfl
@[simp] theorem State.setDcU_peer (s : State) (k : Nat) (v : DCache) : (s.setDcU k v).peer = s.peer := rfl
@[simp] theorem State.setDcU_mg (s : State) (k : Nat) (v : DCache) : (s.setDcU k v).mg = s.mg := rfl
@[simp] theorem State.setDcU_nvm (s : State) (k : Nat) (v : DCache) : (s.setDcU k v).nvm = s.nvm := rfl
@[simp] theorem State.setDcU_smb (s : State) (k : Nat) (v : DCache) : (s.setDcU k v).smb = s.smb := rfl
@[simp] theorem State.setDcU_tap (s : State) (k : Nat) (v : DCache) : (s.setDcU k v).tap = s.tap := rfl

@[simp] theorem State.setDcU_ten (s : State) (k j : Nat) (v : DCache) : (s.setDcU k v).ten j = s.ten j := rfl
@[simp] theorem State.setDcU_sq (s : State) (k j : Nat) (v : DCache) : (s.setDcU k v).sq j = s.sq j := rfl
@[simp] theorem State.setDcU_cq (s : State) (k j : Nat) (v : DCache) : (s.setDcU k v).cq j = s.cq j := rfl
@[simp] theorem State.setDcU_part (s : State) (k j : Nat) (v : DCache) : (s.setDcU k v).part j = s.part j := rfl
@[simp] theorem State.setDcU_ecnCh (s : State) (k j : Nat) (v : DCache) : (s.setDcU k v).ecnCh j = s.ecnCh j := rfl
@[simp] theorem State.setDcU_xlU (s : State) (k j : Nat) (v : DCache) : (s.setDcU k v).xlU j = s.xlU j := rfl
@[simp] theorem State.setDcU_tab (s : State) (k j : Nat) (v : DCache) : (s.setDcU k v).tab j = s.tab j := rfl
@[simp] theorem State.setDcU_mover (s : State) (k j : Nat) (v : DCache) : (s.setDcU k v).mover j = s.mover j := rfl
@[simp] theorem State.setDcU_chan (s : State) (k j : Nat) (v : DCache) : (s.setDcU k v).chan j = s.chan j := rfl
@[simp] theorem State.setDcU_cnt (s : State) (k j : Nat) (v : DCache) : (s.setDcU k v).cnt j = s.cnt j := rfl
@[simp] theorem State.setDcU_rope (s : State) (k j : Nat) (v : DCache) : (s.setDcU k v).rope j = s.rope j := rfl
@[simp] theorem State.setDcU_strmAt (s : State) (k j : Nat) (v : DCache) : (s.setDcU k v).strmAt j = s.strmAt j := rfl
@[simp] theorem State.setDcU_rstE (s : State) (k j : Nat) (v : DCache) : (s.setDcU k v).rstE j = s.rstE j := rfl
@[simp] theorem State.setDcU_strmP (s : State) (k j : Nat) (v : DCache) : (s.setDcU k v).strmP j = s.strmP j := rfl

/-! ### Writes of `tabs` -/

/-- A change is a read and a write. -/
@[simp] theorem State.modTab_eq (s : State) (k : Nat) (g : Tab → Tab) : s.modTab k g = s.setTab k (g (s.tab k)) := rfl

/-- A read after a write. -/
@[simp] theorem State.setTab_tab (s : State) (k j : Nat) (v : Tab) :
    (s.setTab k v).tab j = if j = k then v else s.tab j := SMap.get_put _ _ _ _ _

@[simp] theorem State.setTab_pending (s : State) (k : Nat) (v : Tab) : (s.setTab k v).pending = s.pending := rfl
@[simp] theorem State.setTab_cc (s : State) (k : Nat) (v : Tab) : (s.setTab k v).cc = s.cc := rfl
@[simp] theorem State.setTab_nextAid (s : State) (k : Nat) (v : Tab) : (s.setTab k v).nextAid = s.nextAid := rfl
@[simp] theorem State.setTab_seq (s : State) (k : Nat) (v : Tab) : (s.setTab k v).seq = s.seq := rfl
@[simp] theorem State.setTab_free (s : State) (k : Nat) (v : Tab) : (s.setTab k v).free = s.free := rfl
@[simp] theorem State.setTab_boot (s : State) (k : Nat) (v : Tab) : (s.setTab k v).boot = s.boot := rfl
@[simp] theorem State.setTab_pins (s : State) (k : Nat) (v : Tab) : (s.setTab k v).pins = s.pins := rfl
@[simp] theorem State.setTab_esc (s : State) (k : Nat) (v : Tab) : (s.setTab k v).esc = s.esc := rfl
@[simp] theorem State.setTab_rst (s : State) (k : Nat) (v : Tab) : (s.setTab k v).rst = s.rst := rfl
@[simp] theorem State.setTab_blk (s : State) (k : Nat) (v : Tab) : (s.setTab k v).blk = s.blk := rfl
@[simp] theorem State.setTab_sink (s : State) (k : Nat) (v : Tab) : (s.setTab k v).sink = s.sink := rfl
@[simp] theorem State.setTab_par (s : State) (k : Nat) (v : Tab) : (s.setTab k v).par = s.par := rfl
@[simp] theorem State.setTab_stc (s : State) (k : Nat) (v : Tab) : (s.setTab k v).stc = s.stc := rfl
@[simp] theorem State.setTab_granRet (s : State) (k : Nat) (v : Tab) : (s.setTab k v).granRet = s.granRet := rfl
@[simp] theorem State.setTab_granErr (s : State) (k : Nat) (v : Tab) : (s.setTab k v).granErr = s.granErr := rfl
@[simp] theorem State.setTab_scrub (s : State) (k : Nat) (v : Tab) : (s.setTab k v).scrub = s.scrub := rfl
@[simp] theorem State.setTab_pwr (s : State) (k : Nat) (v : Tab) : (s.setTab k v).pwr = s.pwr := rfl
@[simp] theorem State.setTab_hsec (s : State) (k : Nat) (v : Tab) : (s.setTab k v).hsec = s.hsec := rfl
@[simp] theorem State.setTab_dbg (s : State) (k : Nat) (v : Tab) : (s.setTab k v).dbg = s.dbg := rfl
@[simp] theorem State.setTab_irq (s : State) (k : Nat) (v : Tab) : (s.setTab k v).irq = s.irq := rfl
@[simp] theorem State.setTab_strm (s : State) (k : Nat) (v : Tab) : (s.setTab k v).strm = s.strm := rfl
@[simp] theorem State.setTab_host (s : State) (k : Nat) (v : Tab) : (s.setTab k v).host = s.host := rfl
@[simp] theorem State.setTab_tens (s : State) (k : Nat) (v : Tab) : (s.setTab k v).tens = s.tens := rfl
@[simp] theorem State.setTab_sqs (s : State) (k : Nat) (v : Tab) : (s.setTab k v).sqs = s.sqs := rfl
@[simp] theorem State.setTab_cqs (s : State) (k : Nat) (v : Tab) : (s.setTab k v).cqs = s.cqs := rfl
@[simp] theorem State.setTab_parts (s : State) (k : Nat) (v : Tab) : (s.setTab k v).parts = s.parts := rfl
@[simp] theorem State.setTab_ecn (s : State) (k : Nat) (v : Tab) : (s.setTab k v).ecn = s.ecn := rfl
@[simp] theorem State.setTab_xl (s : State) (k : Nat) (v : Tab) : (s.setTab k v).xl = s.xl := rfl
@[simp] theorem State.setTab_dc (s : State) (k : Nat) (v : Tab) : (s.setTab k v).dc = s.dc := rfl
@[simp] theorem State.setTab_arb (s : State) (k : Nat) (v : Tab) : (s.setTab k v).arb = s.arb := rfl
@[simp] theorem State.setTab_movers (s : State) (k : Nat) (v : Tab) : (s.setTab k v).movers = s.movers := rfl
@[simp] theorem State.setTab_chans (s : State) (k : Nat) (v : Tab) : (s.setTab k v).chans = s.chans := rfl
@[simp] theorem State.setTab_cnts (s : State) (k : Nat) (v : Tab) : (s.setTab k v).cnts = s.cnts := rfl
@[simp] theorem State.setTab_ropes (s : State) (k : Nat) (v : Tab) : (s.setTab k v).ropes = s.ropes := rfl
@[simp] theorem State.setTab_strms (s : State) (k : Nat) (v : Tab) : (s.setTab k v).strms = s.strms := rfl
@[simp] theorem State.setTab_acc (s : State) (k : Nat) (v : Tab) : (s.setTab k v).acc = s.acc := rfl
@[simp] theorem State.setTab_stg (s : State) (k : Nat) (v : Tab) : (s.setTab k v).stg = s.stg := rfl
@[simp] theorem State.setTab_inv (s : State) (k : Nat) (v : Tab) : (s.setTab k v).inv = s.inv := rfl
@[simp] theorem State.setTab_peer (s : State) (k : Nat) (v : Tab) : (s.setTab k v).peer = s.peer := rfl
@[simp] theorem State.setTab_mg (s : State) (k : Nat) (v : Tab) : (s.setTab k v).mg = s.mg := rfl
@[simp] theorem State.setTab_nvm (s : State) (k : Nat) (v : Tab) : (s.setTab k v).nvm = s.nvm := rfl
@[simp] theorem State.setTab_smb (s : State) (k : Nat) (v : Tab) : (s.setTab k v).smb = s.smb := rfl
@[simp] theorem State.setTab_tap (s : State) (k : Nat) (v : Tab) : (s.setTab k v).tap = s.tap := rfl

@[simp] theorem State.setTab_ten (s : State) (k j : Nat) (v : Tab) : (s.setTab k v).ten j = s.ten j := rfl
@[simp] theorem State.setTab_sq (s : State) (k j : Nat) (v : Tab) : (s.setTab k v).sq j = s.sq j := rfl
@[simp] theorem State.setTab_cq (s : State) (k j : Nat) (v : Tab) : (s.setTab k v).cq j = s.cq j := rfl
@[simp] theorem State.setTab_part (s : State) (k j : Nat) (v : Tab) : (s.setTab k v).part j = s.part j := rfl
@[simp] theorem State.setTab_ecnCh (s : State) (k j : Nat) (v : Tab) : (s.setTab k v).ecnCh j = s.ecnCh j := rfl
@[simp] theorem State.setTab_xlU (s : State) (k j : Nat) (v : Tab) : (s.setTab k v).xlU j = s.xlU j := rfl
@[simp] theorem State.setTab_dcU (s : State) (k j : Nat) (v : Tab) : (s.setTab k v).dcU j = s.dcU j := rfl
@[simp] theorem State.setTab_mover (s : State) (k j : Nat) (v : Tab) : (s.setTab k v).mover j = s.mover j := rfl
@[simp] theorem State.setTab_chan (s : State) (k j : Nat) (v : Tab) : (s.setTab k v).chan j = s.chan j := rfl
@[simp] theorem State.setTab_cnt (s : State) (k j : Nat) (v : Tab) : (s.setTab k v).cnt j = s.cnt j := rfl
@[simp] theorem State.setTab_rope (s : State) (k j : Nat) (v : Tab) : (s.setTab k v).rope j = s.rope j := rfl
@[simp] theorem State.setTab_strmAt (s : State) (k j : Nat) (v : Tab) : (s.setTab k v).strmAt j = s.strmAt j := rfl
@[simp] theorem State.setTab_rstE (s : State) (k j : Nat) (v : Tab) : (s.setTab k v).rstE j = s.rstE j := rfl
@[simp] theorem State.setTab_strmP (s : State) (k j : Nat) (v : Tab) : (s.setTab k v).strmP j = s.strmP j := rfl

/-! ### Writes of `movers` -/

/-- A change is a read and a write. -/
@[simp] theorem State.modMover_eq (s : State) (k : Nat) (g : Mover → Mover) : s.modMover k g = s.setMover k (g (s.mover k)) := rfl

/-- A read after a write. -/
@[simp] theorem State.setMover_mover (s : State) (k j : Nat) (v : Mover) :
    (s.setMover k v).mover j = if j = k then v else s.mover j := SMap.get_put _ _ _ _ _

@[simp] theorem State.setMover_pending (s : State) (k : Nat) (v : Mover) : (s.setMover k v).pending = s.pending := rfl
@[simp] theorem State.setMover_cc (s : State) (k : Nat) (v : Mover) : (s.setMover k v).cc = s.cc := rfl
@[simp] theorem State.setMover_nextAid (s : State) (k : Nat) (v : Mover) : (s.setMover k v).nextAid = s.nextAid := rfl
@[simp] theorem State.setMover_seq (s : State) (k : Nat) (v : Mover) : (s.setMover k v).seq = s.seq := rfl
@[simp] theorem State.setMover_free (s : State) (k : Nat) (v : Mover) : (s.setMover k v).free = s.free := rfl
@[simp] theorem State.setMover_boot (s : State) (k : Nat) (v : Mover) : (s.setMover k v).boot = s.boot := rfl
@[simp] theorem State.setMover_pins (s : State) (k : Nat) (v : Mover) : (s.setMover k v).pins = s.pins := rfl
@[simp] theorem State.setMover_esc (s : State) (k : Nat) (v : Mover) : (s.setMover k v).esc = s.esc := rfl
@[simp] theorem State.setMover_rst (s : State) (k : Nat) (v : Mover) : (s.setMover k v).rst = s.rst := rfl
@[simp] theorem State.setMover_blk (s : State) (k : Nat) (v : Mover) : (s.setMover k v).blk = s.blk := rfl
@[simp] theorem State.setMover_sink (s : State) (k : Nat) (v : Mover) : (s.setMover k v).sink = s.sink := rfl
@[simp] theorem State.setMover_par (s : State) (k : Nat) (v : Mover) : (s.setMover k v).par = s.par := rfl
@[simp] theorem State.setMover_stc (s : State) (k : Nat) (v : Mover) : (s.setMover k v).stc = s.stc := rfl
@[simp] theorem State.setMover_granRet (s : State) (k : Nat) (v : Mover) : (s.setMover k v).granRet = s.granRet := rfl
@[simp] theorem State.setMover_granErr (s : State) (k : Nat) (v : Mover) : (s.setMover k v).granErr = s.granErr := rfl
@[simp] theorem State.setMover_scrub (s : State) (k : Nat) (v : Mover) : (s.setMover k v).scrub = s.scrub := rfl
@[simp] theorem State.setMover_pwr (s : State) (k : Nat) (v : Mover) : (s.setMover k v).pwr = s.pwr := rfl
@[simp] theorem State.setMover_hsec (s : State) (k : Nat) (v : Mover) : (s.setMover k v).hsec = s.hsec := rfl
@[simp] theorem State.setMover_dbg (s : State) (k : Nat) (v : Mover) : (s.setMover k v).dbg = s.dbg := rfl
@[simp] theorem State.setMover_irq (s : State) (k : Nat) (v : Mover) : (s.setMover k v).irq = s.irq := rfl
@[simp] theorem State.setMover_strm (s : State) (k : Nat) (v : Mover) : (s.setMover k v).strm = s.strm := rfl
@[simp] theorem State.setMover_host (s : State) (k : Nat) (v : Mover) : (s.setMover k v).host = s.host := rfl
@[simp] theorem State.setMover_tens (s : State) (k : Nat) (v : Mover) : (s.setMover k v).tens = s.tens := rfl
@[simp] theorem State.setMover_sqs (s : State) (k : Nat) (v : Mover) : (s.setMover k v).sqs = s.sqs := rfl
@[simp] theorem State.setMover_cqs (s : State) (k : Nat) (v : Mover) : (s.setMover k v).cqs = s.cqs := rfl
@[simp] theorem State.setMover_parts (s : State) (k : Nat) (v : Mover) : (s.setMover k v).parts = s.parts := rfl
@[simp] theorem State.setMover_ecn (s : State) (k : Nat) (v : Mover) : (s.setMover k v).ecn = s.ecn := rfl
@[simp] theorem State.setMover_xl (s : State) (k : Nat) (v : Mover) : (s.setMover k v).xl = s.xl := rfl
@[simp] theorem State.setMover_dc (s : State) (k : Nat) (v : Mover) : (s.setMover k v).dc = s.dc := rfl
@[simp] theorem State.setMover_tabs (s : State) (k : Nat) (v : Mover) : (s.setMover k v).tabs = s.tabs := rfl
@[simp] theorem State.setMover_arb (s : State) (k : Nat) (v : Mover) : (s.setMover k v).arb = s.arb := rfl
@[simp] theorem State.setMover_chans (s : State) (k : Nat) (v : Mover) : (s.setMover k v).chans = s.chans := rfl
@[simp] theorem State.setMover_cnts (s : State) (k : Nat) (v : Mover) : (s.setMover k v).cnts = s.cnts := rfl
@[simp] theorem State.setMover_ropes (s : State) (k : Nat) (v : Mover) : (s.setMover k v).ropes = s.ropes := rfl
@[simp] theorem State.setMover_strms (s : State) (k : Nat) (v : Mover) : (s.setMover k v).strms = s.strms := rfl
@[simp] theorem State.setMover_acc (s : State) (k : Nat) (v : Mover) : (s.setMover k v).acc = s.acc := rfl
@[simp] theorem State.setMover_stg (s : State) (k : Nat) (v : Mover) : (s.setMover k v).stg = s.stg := rfl
@[simp] theorem State.setMover_inv (s : State) (k : Nat) (v : Mover) : (s.setMover k v).inv = s.inv := rfl
@[simp] theorem State.setMover_peer (s : State) (k : Nat) (v : Mover) : (s.setMover k v).peer = s.peer := rfl
@[simp] theorem State.setMover_mg (s : State) (k : Nat) (v : Mover) : (s.setMover k v).mg = s.mg := rfl
@[simp] theorem State.setMover_nvm (s : State) (k : Nat) (v : Mover) : (s.setMover k v).nvm = s.nvm := rfl
@[simp] theorem State.setMover_smb (s : State) (k : Nat) (v : Mover) : (s.setMover k v).smb = s.smb := rfl
@[simp] theorem State.setMover_tap (s : State) (k : Nat) (v : Mover) : (s.setMover k v).tap = s.tap := rfl

@[simp] theorem State.setMover_ten (s : State) (k j : Nat) (v : Mover) : (s.setMover k v).ten j = s.ten j := rfl
@[simp] theorem State.setMover_sq (s : State) (k j : Nat) (v : Mover) : (s.setMover k v).sq j = s.sq j := rfl
@[simp] theorem State.setMover_cq (s : State) (k j : Nat) (v : Mover) : (s.setMover k v).cq j = s.cq j := rfl
@[simp] theorem State.setMover_part (s : State) (k j : Nat) (v : Mover) : (s.setMover k v).part j = s.part j := rfl
@[simp] theorem State.setMover_ecnCh (s : State) (k j : Nat) (v : Mover) : (s.setMover k v).ecnCh j = s.ecnCh j := rfl
@[simp] theorem State.setMover_xlU (s : State) (k j : Nat) (v : Mover) : (s.setMover k v).xlU j = s.xlU j := rfl
@[simp] theorem State.setMover_dcU (s : State) (k j : Nat) (v : Mover) : (s.setMover k v).dcU j = s.dcU j := rfl
@[simp] theorem State.setMover_tab (s : State) (k j : Nat) (v : Mover) : (s.setMover k v).tab j = s.tab j := rfl
@[simp] theorem State.setMover_chan (s : State) (k j : Nat) (v : Mover) : (s.setMover k v).chan j = s.chan j := rfl
@[simp] theorem State.setMover_cnt (s : State) (k j : Nat) (v : Mover) : (s.setMover k v).cnt j = s.cnt j := rfl
@[simp] theorem State.setMover_rope (s : State) (k j : Nat) (v : Mover) : (s.setMover k v).rope j = s.rope j := rfl
@[simp] theorem State.setMover_strmAt (s : State) (k j : Nat) (v : Mover) : (s.setMover k v).strmAt j = s.strmAt j := rfl
@[simp] theorem State.setMover_rstE (s : State) (k j : Nat) (v : Mover) : (s.setMover k v).rstE j = s.rstE j := rfl
@[simp] theorem State.setMover_strmP (s : State) (k j : Nat) (v : Mover) : (s.setMover k v).strmP j = s.strmP j := rfl

/-! ### Writes of `chans` -/

/-- A change is a read and a write. -/
@[simp] theorem State.modChan_eq (s : State) (k : Nat) (g : Chan → Chan) : s.modChan k g = s.setChan k (g (s.chan k)) := rfl

/-- A read after a write. -/
@[simp] theorem State.setChan_chan (s : State) (k j : Nat) (v : Chan) :
    (s.setChan k v).chan j = if j = k then v else s.chan j := SMap.get_put _ _ _ _ _

@[simp] theorem State.setChan_pending (s : State) (k : Nat) (v : Chan) : (s.setChan k v).pending = s.pending := rfl
@[simp] theorem State.setChan_cc (s : State) (k : Nat) (v : Chan) : (s.setChan k v).cc = s.cc := rfl
@[simp] theorem State.setChan_nextAid (s : State) (k : Nat) (v : Chan) : (s.setChan k v).nextAid = s.nextAid := rfl
@[simp] theorem State.setChan_seq (s : State) (k : Nat) (v : Chan) : (s.setChan k v).seq = s.seq := rfl
@[simp] theorem State.setChan_free (s : State) (k : Nat) (v : Chan) : (s.setChan k v).free = s.free := rfl
@[simp] theorem State.setChan_boot (s : State) (k : Nat) (v : Chan) : (s.setChan k v).boot = s.boot := rfl
@[simp] theorem State.setChan_pins (s : State) (k : Nat) (v : Chan) : (s.setChan k v).pins = s.pins := rfl
@[simp] theorem State.setChan_esc (s : State) (k : Nat) (v : Chan) : (s.setChan k v).esc = s.esc := rfl
@[simp] theorem State.setChan_rst (s : State) (k : Nat) (v : Chan) : (s.setChan k v).rst = s.rst := rfl
@[simp] theorem State.setChan_blk (s : State) (k : Nat) (v : Chan) : (s.setChan k v).blk = s.blk := rfl
@[simp] theorem State.setChan_sink (s : State) (k : Nat) (v : Chan) : (s.setChan k v).sink = s.sink := rfl
@[simp] theorem State.setChan_par (s : State) (k : Nat) (v : Chan) : (s.setChan k v).par = s.par := rfl
@[simp] theorem State.setChan_stc (s : State) (k : Nat) (v : Chan) : (s.setChan k v).stc = s.stc := rfl
@[simp] theorem State.setChan_granRet (s : State) (k : Nat) (v : Chan) : (s.setChan k v).granRet = s.granRet := rfl
@[simp] theorem State.setChan_granErr (s : State) (k : Nat) (v : Chan) : (s.setChan k v).granErr = s.granErr := rfl
@[simp] theorem State.setChan_scrub (s : State) (k : Nat) (v : Chan) : (s.setChan k v).scrub = s.scrub := rfl
@[simp] theorem State.setChan_pwr (s : State) (k : Nat) (v : Chan) : (s.setChan k v).pwr = s.pwr := rfl
@[simp] theorem State.setChan_hsec (s : State) (k : Nat) (v : Chan) : (s.setChan k v).hsec = s.hsec := rfl
@[simp] theorem State.setChan_dbg (s : State) (k : Nat) (v : Chan) : (s.setChan k v).dbg = s.dbg := rfl
@[simp] theorem State.setChan_irq (s : State) (k : Nat) (v : Chan) : (s.setChan k v).irq = s.irq := rfl
@[simp] theorem State.setChan_strm (s : State) (k : Nat) (v : Chan) : (s.setChan k v).strm = s.strm := rfl
@[simp] theorem State.setChan_host (s : State) (k : Nat) (v : Chan) : (s.setChan k v).host = s.host := rfl
@[simp] theorem State.setChan_tens (s : State) (k : Nat) (v : Chan) : (s.setChan k v).tens = s.tens := rfl
@[simp] theorem State.setChan_sqs (s : State) (k : Nat) (v : Chan) : (s.setChan k v).sqs = s.sqs := rfl
@[simp] theorem State.setChan_cqs (s : State) (k : Nat) (v : Chan) : (s.setChan k v).cqs = s.cqs := rfl
@[simp] theorem State.setChan_parts (s : State) (k : Nat) (v : Chan) : (s.setChan k v).parts = s.parts := rfl
@[simp] theorem State.setChan_ecn (s : State) (k : Nat) (v : Chan) : (s.setChan k v).ecn = s.ecn := rfl
@[simp] theorem State.setChan_xl (s : State) (k : Nat) (v : Chan) : (s.setChan k v).xl = s.xl := rfl
@[simp] theorem State.setChan_dc (s : State) (k : Nat) (v : Chan) : (s.setChan k v).dc = s.dc := rfl
@[simp] theorem State.setChan_tabs (s : State) (k : Nat) (v : Chan) : (s.setChan k v).tabs = s.tabs := rfl
@[simp] theorem State.setChan_arb (s : State) (k : Nat) (v : Chan) : (s.setChan k v).arb = s.arb := rfl
@[simp] theorem State.setChan_movers (s : State) (k : Nat) (v : Chan) : (s.setChan k v).movers = s.movers := rfl
@[simp] theorem State.setChan_cnts (s : State) (k : Nat) (v : Chan) : (s.setChan k v).cnts = s.cnts := rfl
@[simp] theorem State.setChan_ropes (s : State) (k : Nat) (v : Chan) : (s.setChan k v).ropes = s.ropes := rfl
@[simp] theorem State.setChan_strms (s : State) (k : Nat) (v : Chan) : (s.setChan k v).strms = s.strms := rfl
@[simp] theorem State.setChan_acc (s : State) (k : Nat) (v : Chan) : (s.setChan k v).acc = s.acc := rfl
@[simp] theorem State.setChan_stg (s : State) (k : Nat) (v : Chan) : (s.setChan k v).stg = s.stg := rfl
@[simp] theorem State.setChan_inv (s : State) (k : Nat) (v : Chan) : (s.setChan k v).inv = s.inv := rfl
@[simp] theorem State.setChan_peer (s : State) (k : Nat) (v : Chan) : (s.setChan k v).peer = s.peer := rfl
@[simp] theorem State.setChan_mg (s : State) (k : Nat) (v : Chan) : (s.setChan k v).mg = s.mg := rfl
@[simp] theorem State.setChan_nvm (s : State) (k : Nat) (v : Chan) : (s.setChan k v).nvm = s.nvm := rfl
@[simp] theorem State.setChan_smb (s : State) (k : Nat) (v : Chan) : (s.setChan k v).smb = s.smb := rfl
@[simp] theorem State.setChan_tap (s : State) (k : Nat) (v : Chan) : (s.setChan k v).tap = s.tap := rfl

@[simp] theorem State.setChan_ten (s : State) (k j : Nat) (v : Chan) : (s.setChan k v).ten j = s.ten j := rfl
@[simp] theorem State.setChan_sq (s : State) (k j : Nat) (v : Chan) : (s.setChan k v).sq j = s.sq j := rfl
@[simp] theorem State.setChan_cq (s : State) (k j : Nat) (v : Chan) : (s.setChan k v).cq j = s.cq j := rfl
@[simp] theorem State.setChan_part (s : State) (k j : Nat) (v : Chan) : (s.setChan k v).part j = s.part j := rfl
@[simp] theorem State.setChan_ecnCh (s : State) (k j : Nat) (v : Chan) : (s.setChan k v).ecnCh j = s.ecnCh j := rfl
@[simp] theorem State.setChan_xlU (s : State) (k j : Nat) (v : Chan) : (s.setChan k v).xlU j = s.xlU j := rfl
@[simp] theorem State.setChan_dcU (s : State) (k j : Nat) (v : Chan) : (s.setChan k v).dcU j = s.dcU j := rfl
@[simp] theorem State.setChan_tab (s : State) (k j : Nat) (v : Chan) : (s.setChan k v).tab j = s.tab j := rfl
@[simp] theorem State.setChan_mover (s : State) (k j : Nat) (v : Chan) : (s.setChan k v).mover j = s.mover j := rfl
@[simp] theorem State.setChan_cnt (s : State) (k j : Nat) (v : Chan) : (s.setChan k v).cnt j = s.cnt j := rfl
@[simp] theorem State.setChan_rope (s : State) (k j : Nat) (v : Chan) : (s.setChan k v).rope j = s.rope j := rfl
@[simp] theorem State.setChan_strmAt (s : State) (k j : Nat) (v : Chan) : (s.setChan k v).strmAt j = s.strmAt j := rfl
@[simp] theorem State.setChan_rstE (s : State) (k j : Nat) (v : Chan) : (s.setChan k v).rstE j = s.rstE j := rfl
@[simp] theorem State.setChan_strmP (s : State) (k j : Nat) (v : Chan) : (s.setChan k v).strmP j = s.strmP j := rfl

/-! ### Writes of `cnts` -/

/-- A change is a read and a write. -/
@[simp] theorem State.modCnt_eq (s : State) (k : Nat) (g : Cnt → Cnt) : s.modCnt k g = s.setCnt k (g (s.cnt k)) := rfl

/-- A read after a write. -/
@[simp] theorem State.setCnt_cnt (s : State) (k j : Nat) (v : Cnt) :
    (s.setCnt k v).cnt j = if j = k then v else s.cnt j := SMap.get_put _ _ _ _ _

@[simp] theorem State.setCnt_pending (s : State) (k : Nat) (v : Cnt) : (s.setCnt k v).pending = s.pending := rfl
@[simp] theorem State.setCnt_cc (s : State) (k : Nat) (v : Cnt) : (s.setCnt k v).cc = s.cc := rfl
@[simp] theorem State.setCnt_nextAid (s : State) (k : Nat) (v : Cnt) : (s.setCnt k v).nextAid = s.nextAid := rfl
@[simp] theorem State.setCnt_seq (s : State) (k : Nat) (v : Cnt) : (s.setCnt k v).seq = s.seq := rfl
@[simp] theorem State.setCnt_free (s : State) (k : Nat) (v : Cnt) : (s.setCnt k v).free = s.free := rfl
@[simp] theorem State.setCnt_boot (s : State) (k : Nat) (v : Cnt) : (s.setCnt k v).boot = s.boot := rfl
@[simp] theorem State.setCnt_pins (s : State) (k : Nat) (v : Cnt) : (s.setCnt k v).pins = s.pins := rfl
@[simp] theorem State.setCnt_esc (s : State) (k : Nat) (v : Cnt) : (s.setCnt k v).esc = s.esc := rfl
@[simp] theorem State.setCnt_rst (s : State) (k : Nat) (v : Cnt) : (s.setCnt k v).rst = s.rst := rfl
@[simp] theorem State.setCnt_blk (s : State) (k : Nat) (v : Cnt) : (s.setCnt k v).blk = s.blk := rfl
@[simp] theorem State.setCnt_sink (s : State) (k : Nat) (v : Cnt) : (s.setCnt k v).sink = s.sink := rfl
@[simp] theorem State.setCnt_par (s : State) (k : Nat) (v : Cnt) : (s.setCnt k v).par = s.par := rfl
@[simp] theorem State.setCnt_stc (s : State) (k : Nat) (v : Cnt) : (s.setCnt k v).stc = s.stc := rfl
@[simp] theorem State.setCnt_granRet (s : State) (k : Nat) (v : Cnt) : (s.setCnt k v).granRet = s.granRet := rfl
@[simp] theorem State.setCnt_granErr (s : State) (k : Nat) (v : Cnt) : (s.setCnt k v).granErr = s.granErr := rfl
@[simp] theorem State.setCnt_scrub (s : State) (k : Nat) (v : Cnt) : (s.setCnt k v).scrub = s.scrub := rfl
@[simp] theorem State.setCnt_pwr (s : State) (k : Nat) (v : Cnt) : (s.setCnt k v).pwr = s.pwr := rfl
@[simp] theorem State.setCnt_hsec (s : State) (k : Nat) (v : Cnt) : (s.setCnt k v).hsec = s.hsec := rfl
@[simp] theorem State.setCnt_dbg (s : State) (k : Nat) (v : Cnt) : (s.setCnt k v).dbg = s.dbg := rfl
@[simp] theorem State.setCnt_irq (s : State) (k : Nat) (v : Cnt) : (s.setCnt k v).irq = s.irq := rfl
@[simp] theorem State.setCnt_strm (s : State) (k : Nat) (v : Cnt) : (s.setCnt k v).strm = s.strm := rfl
@[simp] theorem State.setCnt_host (s : State) (k : Nat) (v : Cnt) : (s.setCnt k v).host = s.host := rfl
@[simp] theorem State.setCnt_tens (s : State) (k : Nat) (v : Cnt) : (s.setCnt k v).tens = s.tens := rfl
@[simp] theorem State.setCnt_sqs (s : State) (k : Nat) (v : Cnt) : (s.setCnt k v).sqs = s.sqs := rfl
@[simp] theorem State.setCnt_cqs (s : State) (k : Nat) (v : Cnt) : (s.setCnt k v).cqs = s.cqs := rfl
@[simp] theorem State.setCnt_parts (s : State) (k : Nat) (v : Cnt) : (s.setCnt k v).parts = s.parts := rfl
@[simp] theorem State.setCnt_ecn (s : State) (k : Nat) (v : Cnt) : (s.setCnt k v).ecn = s.ecn := rfl
@[simp] theorem State.setCnt_xl (s : State) (k : Nat) (v : Cnt) : (s.setCnt k v).xl = s.xl := rfl
@[simp] theorem State.setCnt_dc (s : State) (k : Nat) (v : Cnt) : (s.setCnt k v).dc = s.dc := rfl
@[simp] theorem State.setCnt_tabs (s : State) (k : Nat) (v : Cnt) : (s.setCnt k v).tabs = s.tabs := rfl
@[simp] theorem State.setCnt_arb (s : State) (k : Nat) (v : Cnt) : (s.setCnt k v).arb = s.arb := rfl
@[simp] theorem State.setCnt_movers (s : State) (k : Nat) (v : Cnt) : (s.setCnt k v).movers = s.movers := rfl
@[simp] theorem State.setCnt_chans (s : State) (k : Nat) (v : Cnt) : (s.setCnt k v).chans = s.chans := rfl
@[simp] theorem State.setCnt_ropes (s : State) (k : Nat) (v : Cnt) : (s.setCnt k v).ropes = s.ropes := rfl
@[simp] theorem State.setCnt_strms (s : State) (k : Nat) (v : Cnt) : (s.setCnt k v).strms = s.strms := rfl
@[simp] theorem State.setCnt_acc (s : State) (k : Nat) (v : Cnt) : (s.setCnt k v).acc = s.acc := rfl
@[simp] theorem State.setCnt_stg (s : State) (k : Nat) (v : Cnt) : (s.setCnt k v).stg = s.stg := rfl
@[simp] theorem State.setCnt_inv (s : State) (k : Nat) (v : Cnt) : (s.setCnt k v).inv = s.inv := rfl
@[simp] theorem State.setCnt_peer (s : State) (k : Nat) (v : Cnt) : (s.setCnt k v).peer = s.peer := rfl
@[simp] theorem State.setCnt_mg (s : State) (k : Nat) (v : Cnt) : (s.setCnt k v).mg = s.mg := rfl
@[simp] theorem State.setCnt_nvm (s : State) (k : Nat) (v : Cnt) : (s.setCnt k v).nvm = s.nvm := rfl
@[simp] theorem State.setCnt_smb (s : State) (k : Nat) (v : Cnt) : (s.setCnt k v).smb = s.smb := rfl
@[simp] theorem State.setCnt_tap (s : State) (k : Nat) (v : Cnt) : (s.setCnt k v).tap = s.tap := rfl

@[simp] theorem State.setCnt_ten (s : State) (k j : Nat) (v : Cnt) : (s.setCnt k v).ten j = s.ten j := rfl
@[simp] theorem State.setCnt_sq (s : State) (k j : Nat) (v : Cnt) : (s.setCnt k v).sq j = s.sq j := rfl
@[simp] theorem State.setCnt_cq (s : State) (k j : Nat) (v : Cnt) : (s.setCnt k v).cq j = s.cq j := rfl
@[simp] theorem State.setCnt_part (s : State) (k j : Nat) (v : Cnt) : (s.setCnt k v).part j = s.part j := rfl
@[simp] theorem State.setCnt_ecnCh (s : State) (k j : Nat) (v : Cnt) : (s.setCnt k v).ecnCh j = s.ecnCh j := rfl
@[simp] theorem State.setCnt_xlU (s : State) (k j : Nat) (v : Cnt) : (s.setCnt k v).xlU j = s.xlU j := rfl
@[simp] theorem State.setCnt_dcU (s : State) (k j : Nat) (v : Cnt) : (s.setCnt k v).dcU j = s.dcU j := rfl
@[simp] theorem State.setCnt_tab (s : State) (k j : Nat) (v : Cnt) : (s.setCnt k v).tab j = s.tab j := rfl
@[simp] theorem State.setCnt_mover (s : State) (k j : Nat) (v : Cnt) : (s.setCnt k v).mover j = s.mover j := rfl
@[simp] theorem State.setCnt_chan (s : State) (k j : Nat) (v : Cnt) : (s.setCnt k v).chan j = s.chan j := rfl
@[simp] theorem State.setCnt_rope (s : State) (k j : Nat) (v : Cnt) : (s.setCnt k v).rope j = s.rope j := rfl
@[simp] theorem State.setCnt_strmAt (s : State) (k j : Nat) (v : Cnt) : (s.setCnt k v).strmAt j = s.strmAt j := rfl
@[simp] theorem State.setCnt_rstE (s : State) (k j : Nat) (v : Cnt) : (s.setCnt k v).rstE j = s.rstE j := rfl
@[simp] theorem State.setCnt_strmP (s : State) (k j : Nat) (v : Cnt) : (s.setCnt k v).strmP j = s.strmP j := rfl

/-! ### Writes of `ropes` -/

/-- A change is a read and a write. -/
@[simp] theorem State.modRope_eq (s : State) (k : Nat) (g : Rope → Rope) : s.modRope k g = s.setRope k (g (s.rope k)) := rfl

/-- A read after a write. -/
@[simp] theorem State.setRope_rope (s : State) (k j : Nat) (v : Rope) :
    (s.setRope k v).rope j = if j = k then v else s.rope j := SMap.get_put _ _ _ _ _

@[simp] theorem State.setRope_pending (s : State) (k : Nat) (v : Rope) : (s.setRope k v).pending = s.pending := rfl
@[simp] theorem State.setRope_cc (s : State) (k : Nat) (v : Rope) : (s.setRope k v).cc = s.cc := rfl
@[simp] theorem State.setRope_nextAid (s : State) (k : Nat) (v : Rope) : (s.setRope k v).nextAid = s.nextAid := rfl
@[simp] theorem State.setRope_seq (s : State) (k : Nat) (v : Rope) : (s.setRope k v).seq = s.seq := rfl
@[simp] theorem State.setRope_free (s : State) (k : Nat) (v : Rope) : (s.setRope k v).free = s.free := rfl
@[simp] theorem State.setRope_boot (s : State) (k : Nat) (v : Rope) : (s.setRope k v).boot = s.boot := rfl
@[simp] theorem State.setRope_pins (s : State) (k : Nat) (v : Rope) : (s.setRope k v).pins = s.pins := rfl
@[simp] theorem State.setRope_esc (s : State) (k : Nat) (v : Rope) : (s.setRope k v).esc = s.esc := rfl
@[simp] theorem State.setRope_rst (s : State) (k : Nat) (v : Rope) : (s.setRope k v).rst = s.rst := rfl
@[simp] theorem State.setRope_blk (s : State) (k : Nat) (v : Rope) : (s.setRope k v).blk = s.blk := rfl
@[simp] theorem State.setRope_sink (s : State) (k : Nat) (v : Rope) : (s.setRope k v).sink = s.sink := rfl
@[simp] theorem State.setRope_par (s : State) (k : Nat) (v : Rope) : (s.setRope k v).par = s.par := rfl
@[simp] theorem State.setRope_stc (s : State) (k : Nat) (v : Rope) : (s.setRope k v).stc = s.stc := rfl
@[simp] theorem State.setRope_granRet (s : State) (k : Nat) (v : Rope) : (s.setRope k v).granRet = s.granRet := rfl
@[simp] theorem State.setRope_granErr (s : State) (k : Nat) (v : Rope) : (s.setRope k v).granErr = s.granErr := rfl
@[simp] theorem State.setRope_scrub (s : State) (k : Nat) (v : Rope) : (s.setRope k v).scrub = s.scrub := rfl
@[simp] theorem State.setRope_pwr (s : State) (k : Nat) (v : Rope) : (s.setRope k v).pwr = s.pwr := rfl
@[simp] theorem State.setRope_hsec (s : State) (k : Nat) (v : Rope) : (s.setRope k v).hsec = s.hsec := rfl
@[simp] theorem State.setRope_dbg (s : State) (k : Nat) (v : Rope) : (s.setRope k v).dbg = s.dbg := rfl
@[simp] theorem State.setRope_irq (s : State) (k : Nat) (v : Rope) : (s.setRope k v).irq = s.irq := rfl
@[simp] theorem State.setRope_strm (s : State) (k : Nat) (v : Rope) : (s.setRope k v).strm = s.strm := rfl
@[simp] theorem State.setRope_host (s : State) (k : Nat) (v : Rope) : (s.setRope k v).host = s.host := rfl
@[simp] theorem State.setRope_tens (s : State) (k : Nat) (v : Rope) : (s.setRope k v).tens = s.tens := rfl
@[simp] theorem State.setRope_sqs (s : State) (k : Nat) (v : Rope) : (s.setRope k v).sqs = s.sqs := rfl
@[simp] theorem State.setRope_cqs (s : State) (k : Nat) (v : Rope) : (s.setRope k v).cqs = s.cqs := rfl
@[simp] theorem State.setRope_parts (s : State) (k : Nat) (v : Rope) : (s.setRope k v).parts = s.parts := rfl
@[simp] theorem State.setRope_ecn (s : State) (k : Nat) (v : Rope) : (s.setRope k v).ecn = s.ecn := rfl
@[simp] theorem State.setRope_xl (s : State) (k : Nat) (v : Rope) : (s.setRope k v).xl = s.xl := rfl
@[simp] theorem State.setRope_dc (s : State) (k : Nat) (v : Rope) : (s.setRope k v).dc = s.dc := rfl
@[simp] theorem State.setRope_tabs (s : State) (k : Nat) (v : Rope) : (s.setRope k v).tabs = s.tabs := rfl
@[simp] theorem State.setRope_arb (s : State) (k : Nat) (v : Rope) : (s.setRope k v).arb = s.arb := rfl
@[simp] theorem State.setRope_movers (s : State) (k : Nat) (v : Rope) : (s.setRope k v).movers = s.movers := rfl
@[simp] theorem State.setRope_chans (s : State) (k : Nat) (v : Rope) : (s.setRope k v).chans = s.chans := rfl
@[simp] theorem State.setRope_cnts (s : State) (k : Nat) (v : Rope) : (s.setRope k v).cnts = s.cnts := rfl
@[simp] theorem State.setRope_strms (s : State) (k : Nat) (v : Rope) : (s.setRope k v).strms = s.strms := rfl
@[simp] theorem State.setRope_acc (s : State) (k : Nat) (v : Rope) : (s.setRope k v).acc = s.acc := rfl
@[simp] theorem State.setRope_stg (s : State) (k : Nat) (v : Rope) : (s.setRope k v).stg = s.stg := rfl
@[simp] theorem State.setRope_inv (s : State) (k : Nat) (v : Rope) : (s.setRope k v).inv = s.inv := rfl
@[simp] theorem State.setRope_peer (s : State) (k : Nat) (v : Rope) : (s.setRope k v).peer = s.peer := rfl
@[simp] theorem State.setRope_mg (s : State) (k : Nat) (v : Rope) : (s.setRope k v).mg = s.mg := rfl
@[simp] theorem State.setRope_nvm (s : State) (k : Nat) (v : Rope) : (s.setRope k v).nvm = s.nvm := rfl
@[simp] theorem State.setRope_smb (s : State) (k : Nat) (v : Rope) : (s.setRope k v).smb = s.smb := rfl
@[simp] theorem State.setRope_tap (s : State) (k : Nat) (v : Rope) : (s.setRope k v).tap = s.tap := rfl

@[simp] theorem State.setRope_ten (s : State) (k j : Nat) (v : Rope) : (s.setRope k v).ten j = s.ten j := rfl
@[simp] theorem State.setRope_sq (s : State) (k j : Nat) (v : Rope) : (s.setRope k v).sq j = s.sq j := rfl
@[simp] theorem State.setRope_cq (s : State) (k j : Nat) (v : Rope) : (s.setRope k v).cq j = s.cq j := rfl
@[simp] theorem State.setRope_part (s : State) (k j : Nat) (v : Rope) : (s.setRope k v).part j = s.part j := rfl
@[simp] theorem State.setRope_ecnCh (s : State) (k j : Nat) (v : Rope) : (s.setRope k v).ecnCh j = s.ecnCh j := rfl
@[simp] theorem State.setRope_xlU (s : State) (k j : Nat) (v : Rope) : (s.setRope k v).xlU j = s.xlU j := rfl
@[simp] theorem State.setRope_dcU (s : State) (k j : Nat) (v : Rope) : (s.setRope k v).dcU j = s.dcU j := rfl
@[simp] theorem State.setRope_tab (s : State) (k j : Nat) (v : Rope) : (s.setRope k v).tab j = s.tab j := rfl
@[simp] theorem State.setRope_mover (s : State) (k j : Nat) (v : Rope) : (s.setRope k v).mover j = s.mover j := rfl
@[simp] theorem State.setRope_chan (s : State) (k j : Nat) (v : Rope) : (s.setRope k v).chan j = s.chan j := rfl
@[simp] theorem State.setRope_cnt (s : State) (k j : Nat) (v : Rope) : (s.setRope k v).cnt j = s.cnt j := rfl
@[simp] theorem State.setRope_strmAt (s : State) (k j : Nat) (v : Rope) : (s.setRope k v).strmAt j = s.strmAt j := rfl
@[simp] theorem State.setRope_rstE (s : State) (k j : Nat) (v : Rope) : (s.setRope k v).rstE j = s.rstE j := rfl
@[simp] theorem State.setRope_strmP (s : State) (k j : Nat) (v : Rope) : (s.setRope k v).strmP j = s.strmP j := rfl

/-! ### Writes of `strms` -/

/-- A change is a read and a write. -/
@[simp] theorem State.modStrmAt_eq (s : State) (k : Nat) (g : Strm → Strm) : s.modStrmAt k g = s.setStrmAt k (g (s.strmAt k)) := rfl

/-- A read after a write. -/
@[simp] theorem State.setStrmAt_strmAt (s : State) (k j : Nat) (v : Strm) :
    (s.setStrmAt k v).strmAt j = if j = k then v else s.strmAt j := SMap.get_put _ _ _ _ _

@[simp] theorem State.setStrmAt_pending (s : State) (k : Nat) (v : Strm) : (s.setStrmAt k v).pending = s.pending := rfl
@[simp] theorem State.setStrmAt_cc (s : State) (k : Nat) (v : Strm) : (s.setStrmAt k v).cc = s.cc := rfl
@[simp] theorem State.setStrmAt_nextAid (s : State) (k : Nat) (v : Strm) : (s.setStrmAt k v).nextAid = s.nextAid := rfl
@[simp] theorem State.setStrmAt_seq (s : State) (k : Nat) (v : Strm) : (s.setStrmAt k v).seq = s.seq := rfl
@[simp] theorem State.setStrmAt_free (s : State) (k : Nat) (v : Strm) : (s.setStrmAt k v).free = s.free := rfl
@[simp] theorem State.setStrmAt_boot (s : State) (k : Nat) (v : Strm) : (s.setStrmAt k v).boot = s.boot := rfl
@[simp] theorem State.setStrmAt_pins (s : State) (k : Nat) (v : Strm) : (s.setStrmAt k v).pins = s.pins := rfl
@[simp] theorem State.setStrmAt_esc (s : State) (k : Nat) (v : Strm) : (s.setStrmAt k v).esc = s.esc := rfl
@[simp] theorem State.setStrmAt_rst (s : State) (k : Nat) (v : Strm) : (s.setStrmAt k v).rst = s.rst := rfl
@[simp] theorem State.setStrmAt_blk (s : State) (k : Nat) (v : Strm) : (s.setStrmAt k v).blk = s.blk := rfl
@[simp] theorem State.setStrmAt_sink (s : State) (k : Nat) (v : Strm) : (s.setStrmAt k v).sink = s.sink := rfl
@[simp] theorem State.setStrmAt_par (s : State) (k : Nat) (v : Strm) : (s.setStrmAt k v).par = s.par := rfl
@[simp] theorem State.setStrmAt_stc (s : State) (k : Nat) (v : Strm) : (s.setStrmAt k v).stc = s.stc := rfl
@[simp] theorem State.setStrmAt_granRet (s : State) (k : Nat) (v : Strm) : (s.setStrmAt k v).granRet = s.granRet := rfl
@[simp] theorem State.setStrmAt_granErr (s : State) (k : Nat) (v : Strm) : (s.setStrmAt k v).granErr = s.granErr := rfl
@[simp] theorem State.setStrmAt_scrub (s : State) (k : Nat) (v : Strm) : (s.setStrmAt k v).scrub = s.scrub := rfl
@[simp] theorem State.setStrmAt_pwr (s : State) (k : Nat) (v : Strm) : (s.setStrmAt k v).pwr = s.pwr := rfl
@[simp] theorem State.setStrmAt_hsec (s : State) (k : Nat) (v : Strm) : (s.setStrmAt k v).hsec = s.hsec := rfl
@[simp] theorem State.setStrmAt_dbg (s : State) (k : Nat) (v : Strm) : (s.setStrmAt k v).dbg = s.dbg := rfl
@[simp] theorem State.setStrmAt_irq (s : State) (k : Nat) (v : Strm) : (s.setStrmAt k v).irq = s.irq := rfl
@[simp] theorem State.setStrmAt_strm (s : State) (k : Nat) (v : Strm) : (s.setStrmAt k v).strm = s.strm := rfl
@[simp] theorem State.setStrmAt_host (s : State) (k : Nat) (v : Strm) : (s.setStrmAt k v).host = s.host := rfl
@[simp] theorem State.setStrmAt_tens (s : State) (k : Nat) (v : Strm) : (s.setStrmAt k v).tens = s.tens := rfl
@[simp] theorem State.setStrmAt_sqs (s : State) (k : Nat) (v : Strm) : (s.setStrmAt k v).sqs = s.sqs := rfl
@[simp] theorem State.setStrmAt_cqs (s : State) (k : Nat) (v : Strm) : (s.setStrmAt k v).cqs = s.cqs := rfl
@[simp] theorem State.setStrmAt_parts (s : State) (k : Nat) (v : Strm) : (s.setStrmAt k v).parts = s.parts := rfl
@[simp] theorem State.setStrmAt_ecn (s : State) (k : Nat) (v : Strm) : (s.setStrmAt k v).ecn = s.ecn := rfl
@[simp] theorem State.setStrmAt_xl (s : State) (k : Nat) (v : Strm) : (s.setStrmAt k v).xl = s.xl := rfl
@[simp] theorem State.setStrmAt_dc (s : State) (k : Nat) (v : Strm) : (s.setStrmAt k v).dc = s.dc := rfl
@[simp] theorem State.setStrmAt_tabs (s : State) (k : Nat) (v : Strm) : (s.setStrmAt k v).tabs = s.tabs := rfl
@[simp] theorem State.setStrmAt_arb (s : State) (k : Nat) (v : Strm) : (s.setStrmAt k v).arb = s.arb := rfl
@[simp] theorem State.setStrmAt_movers (s : State) (k : Nat) (v : Strm) : (s.setStrmAt k v).movers = s.movers := rfl
@[simp] theorem State.setStrmAt_chans (s : State) (k : Nat) (v : Strm) : (s.setStrmAt k v).chans = s.chans := rfl
@[simp] theorem State.setStrmAt_cnts (s : State) (k : Nat) (v : Strm) : (s.setStrmAt k v).cnts = s.cnts := rfl
@[simp] theorem State.setStrmAt_ropes (s : State) (k : Nat) (v : Strm) : (s.setStrmAt k v).ropes = s.ropes := rfl
@[simp] theorem State.setStrmAt_acc (s : State) (k : Nat) (v : Strm) : (s.setStrmAt k v).acc = s.acc := rfl
@[simp] theorem State.setStrmAt_stg (s : State) (k : Nat) (v : Strm) : (s.setStrmAt k v).stg = s.stg := rfl
@[simp] theorem State.setStrmAt_inv (s : State) (k : Nat) (v : Strm) : (s.setStrmAt k v).inv = s.inv := rfl
@[simp] theorem State.setStrmAt_peer (s : State) (k : Nat) (v : Strm) : (s.setStrmAt k v).peer = s.peer := rfl
@[simp] theorem State.setStrmAt_mg (s : State) (k : Nat) (v : Strm) : (s.setStrmAt k v).mg = s.mg := rfl
@[simp] theorem State.setStrmAt_nvm (s : State) (k : Nat) (v : Strm) : (s.setStrmAt k v).nvm = s.nvm := rfl
@[simp] theorem State.setStrmAt_smb (s : State) (k : Nat) (v : Strm) : (s.setStrmAt k v).smb = s.smb := rfl
@[simp] theorem State.setStrmAt_tap (s : State) (k : Nat) (v : Strm) : (s.setStrmAt k v).tap = s.tap := rfl

@[simp] theorem State.setStrmAt_ten (s : State) (k j : Nat) (v : Strm) : (s.setStrmAt k v).ten j = s.ten j := rfl
@[simp] theorem State.setStrmAt_sq (s : State) (k j : Nat) (v : Strm) : (s.setStrmAt k v).sq j = s.sq j := rfl
@[simp] theorem State.setStrmAt_cq (s : State) (k j : Nat) (v : Strm) : (s.setStrmAt k v).cq j = s.cq j := rfl
@[simp] theorem State.setStrmAt_part (s : State) (k j : Nat) (v : Strm) : (s.setStrmAt k v).part j = s.part j := rfl
@[simp] theorem State.setStrmAt_ecnCh (s : State) (k j : Nat) (v : Strm) : (s.setStrmAt k v).ecnCh j = s.ecnCh j := rfl
@[simp] theorem State.setStrmAt_xlU (s : State) (k j : Nat) (v : Strm) : (s.setStrmAt k v).xlU j = s.xlU j := rfl
@[simp] theorem State.setStrmAt_dcU (s : State) (k j : Nat) (v : Strm) : (s.setStrmAt k v).dcU j = s.dcU j := rfl
@[simp] theorem State.setStrmAt_tab (s : State) (k j : Nat) (v : Strm) : (s.setStrmAt k v).tab j = s.tab j := rfl
@[simp] theorem State.setStrmAt_mover (s : State) (k j : Nat) (v : Strm) : (s.setStrmAt k v).mover j = s.mover j := rfl
@[simp] theorem State.setStrmAt_chan (s : State) (k j : Nat) (v : Strm) : (s.setStrmAt k v).chan j = s.chan j := rfl
@[simp] theorem State.setStrmAt_cnt (s : State) (k j : Nat) (v : Strm) : (s.setStrmAt k v).cnt j = s.cnt j := rfl
@[simp] theorem State.setStrmAt_rope (s : State) (k j : Nat) (v : Strm) : (s.setStrmAt k v).rope j = s.rope j := rfl
@[simp] theorem State.setStrmAt_rstE (s : State) (k j : Nat) (v : Strm) : (s.setStrmAt k v).rstE j = s.rstE j := rfl
@[simp] theorem State.setStrmAt_strmP (s : State) (k j : Nat) (v : Strm) : (s.setStrmAt k v).strmP j = s.strmP j := rfl

/-! ### Writes of `rst` -/

/-- A change is a read and a write. -/
@[simp] theorem State.modRstE_eq (s : State) (k : Nat) (g : RstEng → RstEng) : s.modRstE k g = s.setRstE k (g (s.rstE k)) := rfl

/-- A read after a write. -/
@[simp] theorem State.setRstE_rstE (s : State) (k j : Nat) (v : RstEng) :
    (s.setRstE k v).rstE j = if j = k then v else s.rstE j := SMap.get_put _ _ _ _ _

@[simp] theorem State.setRstE_pending (s : State) (k : Nat) (v : RstEng) : (s.setRstE k v).pending = s.pending := rfl
@[simp] theorem State.setRstE_cc (s : State) (k : Nat) (v : RstEng) : (s.setRstE k v).cc = s.cc := rfl
@[simp] theorem State.setRstE_nextAid (s : State) (k : Nat) (v : RstEng) : (s.setRstE k v).nextAid = s.nextAid := rfl
@[simp] theorem State.setRstE_seq (s : State) (k : Nat) (v : RstEng) : (s.setRstE k v).seq = s.seq := rfl
@[simp] theorem State.setRstE_free (s : State) (k : Nat) (v : RstEng) : (s.setRstE k v).free = s.free := rfl
@[simp] theorem State.setRstE_boot (s : State) (k : Nat) (v : RstEng) : (s.setRstE k v).boot = s.boot := rfl
@[simp] theorem State.setRstE_pins (s : State) (k : Nat) (v : RstEng) : (s.setRstE k v).pins = s.pins := rfl
@[simp] theorem State.setRstE_esc (s : State) (k : Nat) (v : RstEng) : (s.setRstE k v).esc = s.esc := rfl
@[simp] theorem State.setRstE_blk (s : State) (k : Nat) (v : RstEng) : (s.setRstE k v).blk = s.blk := rfl
@[simp] theorem State.setRstE_sink (s : State) (k : Nat) (v : RstEng) : (s.setRstE k v).sink = s.sink := rfl
@[simp] theorem State.setRstE_par (s : State) (k : Nat) (v : RstEng) : (s.setRstE k v).par = s.par := rfl
@[simp] theorem State.setRstE_stc (s : State) (k : Nat) (v : RstEng) : (s.setRstE k v).stc = s.stc := rfl
@[simp] theorem State.setRstE_granRet (s : State) (k : Nat) (v : RstEng) : (s.setRstE k v).granRet = s.granRet := rfl
@[simp] theorem State.setRstE_granErr (s : State) (k : Nat) (v : RstEng) : (s.setRstE k v).granErr = s.granErr := rfl
@[simp] theorem State.setRstE_scrub (s : State) (k : Nat) (v : RstEng) : (s.setRstE k v).scrub = s.scrub := rfl
@[simp] theorem State.setRstE_pwr (s : State) (k : Nat) (v : RstEng) : (s.setRstE k v).pwr = s.pwr := rfl
@[simp] theorem State.setRstE_hsec (s : State) (k : Nat) (v : RstEng) : (s.setRstE k v).hsec = s.hsec := rfl
@[simp] theorem State.setRstE_dbg (s : State) (k : Nat) (v : RstEng) : (s.setRstE k v).dbg = s.dbg := rfl
@[simp] theorem State.setRstE_irq (s : State) (k : Nat) (v : RstEng) : (s.setRstE k v).irq = s.irq := rfl
@[simp] theorem State.setRstE_strm (s : State) (k : Nat) (v : RstEng) : (s.setRstE k v).strm = s.strm := rfl
@[simp] theorem State.setRstE_host (s : State) (k : Nat) (v : RstEng) : (s.setRstE k v).host = s.host := rfl
@[simp] theorem State.setRstE_tens (s : State) (k : Nat) (v : RstEng) : (s.setRstE k v).tens = s.tens := rfl
@[simp] theorem State.setRstE_sqs (s : State) (k : Nat) (v : RstEng) : (s.setRstE k v).sqs = s.sqs := rfl
@[simp] theorem State.setRstE_cqs (s : State) (k : Nat) (v : RstEng) : (s.setRstE k v).cqs = s.cqs := rfl
@[simp] theorem State.setRstE_parts (s : State) (k : Nat) (v : RstEng) : (s.setRstE k v).parts = s.parts := rfl
@[simp] theorem State.setRstE_ecn (s : State) (k : Nat) (v : RstEng) : (s.setRstE k v).ecn = s.ecn := rfl
@[simp] theorem State.setRstE_xl (s : State) (k : Nat) (v : RstEng) : (s.setRstE k v).xl = s.xl := rfl
@[simp] theorem State.setRstE_dc (s : State) (k : Nat) (v : RstEng) : (s.setRstE k v).dc = s.dc := rfl
@[simp] theorem State.setRstE_tabs (s : State) (k : Nat) (v : RstEng) : (s.setRstE k v).tabs = s.tabs := rfl
@[simp] theorem State.setRstE_arb (s : State) (k : Nat) (v : RstEng) : (s.setRstE k v).arb = s.arb := rfl
@[simp] theorem State.setRstE_movers (s : State) (k : Nat) (v : RstEng) : (s.setRstE k v).movers = s.movers := rfl
@[simp] theorem State.setRstE_chans (s : State) (k : Nat) (v : RstEng) : (s.setRstE k v).chans = s.chans := rfl
@[simp] theorem State.setRstE_cnts (s : State) (k : Nat) (v : RstEng) : (s.setRstE k v).cnts = s.cnts := rfl
@[simp] theorem State.setRstE_ropes (s : State) (k : Nat) (v : RstEng) : (s.setRstE k v).ropes = s.ropes := rfl
@[simp] theorem State.setRstE_strms (s : State) (k : Nat) (v : RstEng) : (s.setRstE k v).strms = s.strms := rfl
@[simp] theorem State.setRstE_acc (s : State) (k : Nat) (v : RstEng) : (s.setRstE k v).acc = s.acc := rfl
@[simp] theorem State.setRstE_stg (s : State) (k : Nat) (v : RstEng) : (s.setRstE k v).stg = s.stg := rfl
@[simp] theorem State.setRstE_inv (s : State) (k : Nat) (v : RstEng) : (s.setRstE k v).inv = s.inv := rfl
@[simp] theorem State.setRstE_peer (s : State) (k : Nat) (v : RstEng) : (s.setRstE k v).peer = s.peer := rfl
@[simp] theorem State.setRstE_mg (s : State) (k : Nat) (v : RstEng) : (s.setRstE k v).mg = s.mg := rfl
@[simp] theorem State.setRstE_nvm (s : State) (k : Nat) (v : RstEng) : (s.setRstE k v).nvm = s.nvm := rfl
@[simp] theorem State.setRstE_smb (s : State) (k : Nat) (v : RstEng) : (s.setRstE k v).smb = s.smb := rfl
@[simp] theorem State.setRstE_tap (s : State) (k : Nat) (v : RstEng) : (s.setRstE k v).tap = s.tap := rfl

@[simp] theorem State.setRstE_ten (s : State) (k j : Nat) (v : RstEng) : (s.setRstE k v).ten j = s.ten j := rfl
@[simp] theorem State.setRstE_sq (s : State) (k j : Nat) (v : RstEng) : (s.setRstE k v).sq j = s.sq j := rfl
@[simp] theorem State.setRstE_cq (s : State) (k j : Nat) (v : RstEng) : (s.setRstE k v).cq j = s.cq j := rfl
@[simp] theorem State.setRstE_part (s : State) (k j : Nat) (v : RstEng) : (s.setRstE k v).part j = s.part j := rfl
@[simp] theorem State.setRstE_ecnCh (s : State) (k j : Nat) (v : RstEng) : (s.setRstE k v).ecnCh j = s.ecnCh j := rfl
@[simp] theorem State.setRstE_xlU (s : State) (k j : Nat) (v : RstEng) : (s.setRstE k v).xlU j = s.xlU j := rfl
@[simp] theorem State.setRstE_dcU (s : State) (k j : Nat) (v : RstEng) : (s.setRstE k v).dcU j = s.dcU j := rfl
@[simp] theorem State.setRstE_tab (s : State) (k j : Nat) (v : RstEng) : (s.setRstE k v).tab j = s.tab j := rfl
@[simp] theorem State.setRstE_mover (s : State) (k j : Nat) (v : RstEng) : (s.setRstE k v).mover j = s.mover j := rfl
@[simp] theorem State.setRstE_chan (s : State) (k j : Nat) (v : RstEng) : (s.setRstE k v).chan j = s.chan j := rfl
@[simp] theorem State.setRstE_cnt (s : State) (k j : Nat) (v : RstEng) : (s.setRstE k v).cnt j = s.cnt j := rfl
@[simp] theorem State.setRstE_rope (s : State) (k j : Nat) (v : RstEng) : (s.setRstE k v).rope j = s.rope j := rfl
@[simp] theorem State.setRstE_strmAt (s : State) (k j : Nat) (v : RstEng) : (s.setRstE k v).strmAt j = s.strmAt j := rfl
@[simp] theorem State.setRstE_strmP (s : State) (k j : Nat) (v : RstEng) : (s.setRstE k v).strmP j = s.strmP j := rfl

/-! ### Writes of `strm` -/

/-- A change is a read and a write. -/
@[simp] theorem State.modStrmP_eq (s : State) (k : Nat) (g : StrmP → StrmP) : s.modStrmP k g = s.setStrmP k (g (s.strmP k)) := rfl

/-- A read after a write. -/
@[simp] theorem State.setStrmP_strmP (s : State) (k j : Nat) (v : StrmP) :
    (s.setStrmP k v).strmP j = if j = k then v else s.strmP j := SMap.get_put _ _ _ _ _

@[simp] theorem State.setStrmP_pending (s : State) (k : Nat) (v : StrmP) : (s.setStrmP k v).pending = s.pending := rfl
@[simp] theorem State.setStrmP_cc (s : State) (k : Nat) (v : StrmP) : (s.setStrmP k v).cc = s.cc := rfl
@[simp] theorem State.setStrmP_nextAid (s : State) (k : Nat) (v : StrmP) : (s.setStrmP k v).nextAid = s.nextAid := rfl
@[simp] theorem State.setStrmP_seq (s : State) (k : Nat) (v : StrmP) : (s.setStrmP k v).seq = s.seq := rfl
@[simp] theorem State.setStrmP_free (s : State) (k : Nat) (v : StrmP) : (s.setStrmP k v).free = s.free := rfl
@[simp] theorem State.setStrmP_boot (s : State) (k : Nat) (v : StrmP) : (s.setStrmP k v).boot = s.boot := rfl
@[simp] theorem State.setStrmP_pins (s : State) (k : Nat) (v : StrmP) : (s.setStrmP k v).pins = s.pins := rfl
@[simp] theorem State.setStrmP_esc (s : State) (k : Nat) (v : StrmP) : (s.setStrmP k v).esc = s.esc := rfl
@[simp] theorem State.setStrmP_rst (s : State) (k : Nat) (v : StrmP) : (s.setStrmP k v).rst = s.rst := rfl
@[simp] theorem State.setStrmP_blk (s : State) (k : Nat) (v : StrmP) : (s.setStrmP k v).blk = s.blk := rfl
@[simp] theorem State.setStrmP_sink (s : State) (k : Nat) (v : StrmP) : (s.setStrmP k v).sink = s.sink := rfl
@[simp] theorem State.setStrmP_par (s : State) (k : Nat) (v : StrmP) : (s.setStrmP k v).par = s.par := rfl
@[simp] theorem State.setStrmP_stc (s : State) (k : Nat) (v : StrmP) : (s.setStrmP k v).stc = s.stc := rfl
@[simp] theorem State.setStrmP_granRet (s : State) (k : Nat) (v : StrmP) : (s.setStrmP k v).granRet = s.granRet := rfl
@[simp] theorem State.setStrmP_granErr (s : State) (k : Nat) (v : StrmP) : (s.setStrmP k v).granErr = s.granErr := rfl
@[simp] theorem State.setStrmP_scrub (s : State) (k : Nat) (v : StrmP) : (s.setStrmP k v).scrub = s.scrub := rfl
@[simp] theorem State.setStrmP_pwr (s : State) (k : Nat) (v : StrmP) : (s.setStrmP k v).pwr = s.pwr := rfl
@[simp] theorem State.setStrmP_hsec (s : State) (k : Nat) (v : StrmP) : (s.setStrmP k v).hsec = s.hsec := rfl
@[simp] theorem State.setStrmP_dbg (s : State) (k : Nat) (v : StrmP) : (s.setStrmP k v).dbg = s.dbg := rfl
@[simp] theorem State.setStrmP_irq (s : State) (k : Nat) (v : StrmP) : (s.setStrmP k v).irq = s.irq := rfl
@[simp] theorem State.setStrmP_host (s : State) (k : Nat) (v : StrmP) : (s.setStrmP k v).host = s.host := rfl
@[simp] theorem State.setStrmP_tens (s : State) (k : Nat) (v : StrmP) : (s.setStrmP k v).tens = s.tens := rfl
@[simp] theorem State.setStrmP_sqs (s : State) (k : Nat) (v : StrmP) : (s.setStrmP k v).sqs = s.sqs := rfl
@[simp] theorem State.setStrmP_cqs (s : State) (k : Nat) (v : StrmP) : (s.setStrmP k v).cqs = s.cqs := rfl
@[simp] theorem State.setStrmP_parts (s : State) (k : Nat) (v : StrmP) : (s.setStrmP k v).parts = s.parts := rfl
@[simp] theorem State.setStrmP_ecn (s : State) (k : Nat) (v : StrmP) : (s.setStrmP k v).ecn = s.ecn := rfl
@[simp] theorem State.setStrmP_xl (s : State) (k : Nat) (v : StrmP) : (s.setStrmP k v).xl = s.xl := rfl
@[simp] theorem State.setStrmP_dc (s : State) (k : Nat) (v : StrmP) : (s.setStrmP k v).dc = s.dc := rfl
@[simp] theorem State.setStrmP_tabs (s : State) (k : Nat) (v : StrmP) : (s.setStrmP k v).tabs = s.tabs := rfl
@[simp] theorem State.setStrmP_arb (s : State) (k : Nat) (v : StrmP) : (s.setStrmP k v).arb = s.arb := rfl
@[simp] theorem State.setStrmP_movers (s : State) (k : Nat) (v : StrmP) : (s.setStrmP k v).movers = s.movers := rfl
@[simp] theorem State.setStrmP_chans (s : State) (k : Nat) (v : StrmP) : (s.setStrmP k v).chans = s.chans := rfl
@[simp] theorem State.setStrmP_cnts (s : State) (k : Nat) (v : StrmP) : (s.setStrmP k v).cnts = s.cnts := rfl
@[simp] theorem State.setStrmP_ropes (s : State) (k : Nat) (v : StrmP) : (s.setStrmP k v).ropes = s.ropes := rfl
@[simp] theorem State.setStrmP_strms (s : State) (k : Nat) (v : StrmP) : (s.setStrmP k v).strms = s.strms := rfl
@[simp] theorem State.setStrmP_acc (s : State) (k : Nat) (v : StrmP) : (s.setStrmP k v).acc = s.acc := rfl
@[simp] theorem State.setStrmP_stg (s : State) (k : Nat) (v : StrmP) : (s.setStrmP k v).stg = s.stg := rfl
@[simp] theorem State.setStrmP_inv (s : State) (k : Nat) (v : StrmP) : (s.setStrmP k v).inv = s.inv := rfl
@[simp] theorem State.setStrmP_peer (s : State) (k : Nat) (v : StrmP) : (s.setStrmP k v).peer = s.peer := rfl
@[simp] theorem State.setStrmP_mg (s : State) (k : Nat) (v : StrmP) : (s.setStrmP k v).mg = s.mg := rfl
@[simp] theorem State.setStrmP_nvm (s : State) (k : Nat) (v : StrmP) : (s.setStrmP k v).nvm = s.nvm := rfl
@[simp] theorem State.setStrmP_smb (s : State) (k : Nat) (v : StrmP) : (s.setStrmP k v).smb = s.smb := rfl
@[simp] theorem State.setStrmP_tap (s : State) (k : Nat) (v : StrmP) : (s.setStrmP k v).tap = s.tap := rfl

@[simp] theorem State.setStrmP_ten (s : State) (k j : Nat) (v : StrmP) : (s.setStrmP k v).ten j = s.ten j := rfl
@[simp] theorem State.setStrmP_sq (s : State) (k j : Nat) (v : StrmP) : (s.setStrmP k v).sq j = s.sq j := rfl
@[simp] theorem State.setStrmP_cq (s : State) (k j : Nat) (v : StrmP) : (s.setStrmP k v).cq j = s.cq j := rfl
@[simp] theorem State.setStrmP_part (s : State) (k j : Nat) (v : StrmP) : (s.setStrmP k v).part j = s.part j := rfl
@[simp] theorem State.setStrmP_ecnCh (s : State) (k j : Nat) (v : StrmP) : (s.setStrmP k v).ecnCh j = s.ecnCh j := rfl
@[simp] theorem State.setStrmP_xlU (s : State) (k j : Nat) (v : StrmP) : (s.setStrmP k v).xlU j = s.xlU j := rfl
@[simp] theorem State.setStrmP_dcU (s : State) (k j : Nat) (v : StrmP) : (s.setStrmP k v).dcU j = s.dcU j := rfl
@[simp] theorem State.setStrmP_tab (s : State) (k j : Nat) (v : StrmP) : (s.setStrmP k v).tab j = s.tab j := rfl
@[simp] theorem State.setStrmP_mover (s : State) (k j : Nat) (v : StrmP) : (s.setStrmP k v).mover j = s.mover j := rfl
@[simp] theorem State.setStrmP_chan (s : State) (k j : Nat) (v : StrmP) : (s.setStrmP k v).chan j = s.chan j := rfl
@[simp] theorem State.setStrmP_cnt (s : State) (k j : Nat) (v : StrmP) : (s.setStrmP k v).cnt j = s.cnt j := rfl
@[simp] theorem State.setStrmP_rope (s : State) (k j : Nat) (v : StrmP) : (s.setStrmP k v).rope j = s.rope j := rfl
@[simp] theorem State.setStrmP_strmAt (s : State) (k j : Nat) (v : StrmP) : (s.setStrmP k v).strmAt j = s.strmAt j := rfl
@[simp] theorem State.setStrmP_rstE (s : State) (k j : Nat) (v : StrmP) : (s.setStrmP k v).rstE j = s.rstE j := rfl

end Sys2Proof.Machine
end

