-- ==== Sys2Proof/Laws/Stream.lean ====
section
/-! SUPPORT. What the shared operations on streams can do: states of streams, READY, wake-ups, pins, the end of a
command's effects. -/

namespace Sys2Proof.Machine

/-- `t` differs from `s` in streams' states, waits and stops, tenants' activity and the READY order alone. -/
structure State.Woken (s t : State) : Prop where
  rest : t = { s with strms := t.strms, tens := t.tens, seq := t.seq }
  strm : ∀ j, ∃ st w r a n, t.strmAt j = { s.strmAt j with st := st, wait := w, readySeq := r, stopAt := a, ntile := n }
  ten : ∀ j, ∃ a v, t.ten j = { s.ten j with active := a, vt := v }

theorem State.Woken.refl (s : State) : s.Woken s := ⟨rfl, fun _ => ⟨_, _, _, _, _, rfl⟩, fun _ => ⟨_, _, rfl⟩⟩

theorem State.Woken.trans {s t u : State} (h : s.Woken t) (h' : t.Woken u) : s.Woken u := by
  refine ⟨?_, fun j => ?_, fun j => ?_⟩
  · have a := h.rest; have b := h'.rest
    rw [b, a]
  · obtain ⟨a, b, c, d, n, e⟩ := h.strm j
    obtain ⟨a', b', c', d', n', e'⟩ := h'.strm j
    exact ⟨a', b', c', d', n', by rw [e', e]⟩
  · obtain ⟨a, b, e⟩ := h.ten j
    obtain ⟨a', b', e'⟩ := h'.ten j
    exact ⟨a', b', by rw [e', e]⟩

/-- Bringing a tenant's activity up to date. -/
theorem State.refreshActive_woken (s : State) (k : Nat) : s.Woken (s.refreshActive k) := by
  unfold State.refreshActive
  dsimp only
  split
  · exact .refl s
  · split <;>
    · refine ⟨rfl, fun _ => ⟨_, _, _, _, _, rfl⟩, fun j => ?_⟩
      by_cases h : j = k
      · subst h; simp
      · exact ⟨(s.ten j).active, (s.ten j).vt, by simp [h]⟩

/-- Changing what a wake-up may change of one stream. -/
theorem State.setStrmAt_woken (s : State) (sid : Nat) (v : Strm)
    (h : ∃ st w r a n, v = { s.strmAt sid with st := st, wait := w, readySeq := r, stopAt := a, ntile := n }) :
    s.Woken (s.setStrmAt sid v) := by
  refine ⟨rfl, fun j => ?_, fun j => ⟨_, _, rfl⟩⟩
  by_cases hj : j = sid
  · subst hj; simpa using h
  · simp [hj]; exact ⟨_, _, _, _, _, rfl⟩

/-- Putting a stream in a state. -/
theorem State.setSt_woken (s : State) (sid : Nat) (st : StState) (w : Wait) : s.Woken (s.setSt sid st w) := by
  unfold State.setSt
  exact (s.setStrmAt_woken sid _ ⟨_, _, _, _, _, rfl⟩).trans (State.refreshActive_woken _ _)

/-- Halting a stream whose home Mover is out of service. -/
theorem State.haltHome_woken (s : State) (sid : Nat) : s.Woken (s.haltHome sid) := by
  unfold State.haltHome
  exact (s.setStrmAt_woken sid _ ⟨_, _, _, _, _, rfl⟩).trans (State.setSt_woken _ _ _ _)

/-- The READY order is one of the things that may change. -/
theorem State.Woken.withSeq {s t : State} (h : s.Woken t) (n : Nat) : s.Woken { t with seq := n } :=
  ⟨congrArg (fun u : State => { u with seq := n }) h.rest, h.strm, h.ten⟩

/-- Making a stream READY. -/
theorem State.makeReady_woken (s : State) (sid : Nat) : s.Woken (s.makeReady sid) := by
  unfold State.makeReady
  split
  · exact s.setSt_woken _ _ _
  · split
    · exact s.haltHome_woken _
    · split
      · exact s.setSt_woken _ _ _
      · exact ((s.setStrmAt_woken sid { s.strmAt sid with readySeq := s.seq } ⟨_, _, _, _, _, rfl⟩).trans
          (State.setSt_woken _ sid .ready .none)).withSeq _

theorem State.refreshActive_strms (s : State) (k : Nat) : (s.refreshActive k).strms = s.strms := by
  unfold State.refreshActive
  dsimp only
  split
  · rfl
  · split <;> rfl

theorem State.refreshActive_strmAt (s : State) (k j : Nat) : (s.refreshActive k).strmAt j = s.strmAt j := by
  unfold State.strmAt; rw [State.refreshActive_strms]

/-- The streams after one is put in a state. -/
theorem State.setSt_strmAt (s : State) (sid j : Nat) (st : StState) (w : Wait) :
    (s.setSt sid st w).strmAt j = if j = sid
      then { s.strmAt sid with
        st := st
        wait := w
        stopAt := if st == .armed || (st == .ready && (s.strmAt sid).stopAt != .recordArmed) then .none
          else (s.strmAt sid).stopAt }
      else s.strmAt j := by
  unfold State.setSt
  rw [State.refreshActive_strmAt, State.setStrmAt_strmAt]

/-- Making a stream READY leaves the others. -/
theorem State.makeReady_other (s : State) (sid j : Nat) (h : j ≠ sid) : (s.makeReady sid).strmAt j = s.strmAt j := by
  unfold State.makeReady
  split
  · rw [State.setSt_strmAt, if_neg h]
  · split
    · unfold State.haltHome
      rw [State.setSt_strmAt, if_neg h, State.modStrmAt_eq, State.setStrmAt_strmAt, if_neg h]
    · split
      · rw [State.setSt_strmAt, if_neg h]
      · show (State.setSt _ sid .ready .none).strmAt j = _
        rw [State.setSt_strmAt, if_neg h, State.modStrmAt_eq, State.setStrmAt_strmAt, if_neg h]

/-- A stream that no held record and no home channel keeps back becomes READY. -/
theorem State.makeReady_ready (s : State) (sid : Nat) (h : s.hasHeld sid = false) (ho : s.homeOut sid = false)
    (hb : s.homeBusy sid = false) :
    (s.makeReady sid).strmAt sid = { s.strmAt sid with
      st := .ready
      wait := .none
      readySeq := s.seq
      stopAt := if (s.strmAt sid).stopAt = .recordArmed then .recordArmed else .none } := by
  unfold State.makeReady
  rw [h, ho, hb]
  show (State.setSt _ sid .ready .none).strmAt sid = _
  rw [State.setSt_strmAt, if_pos rfl, State.modStrmAt_eq, State.setStrmAt_strmAt, if_pos rfl]
  by_cases hs : (s.strmAt sid).stopAt = .recordArmed <;> simp [hs]

/-- A stream without a pin has none to release. -/
theorem State.unpin_none (s : State) (sid : Nat) (h : (s.strmAt sid).fgenp = 0) : s.unpin sid = s := by
  unfold State.unpin
  simp [h]

/-- Making streams READY. -/
theorem State.makeReadies_woken (s : State) (l : List Nat) : s.Woken (s.makeReadies l) := by
  induction l generalizing s with
  | nil => exact .refl s
  | cons a l ih => exact (s.makeReady_woken a).trans (ih _)

/-- Waking the streams whose conditions hold. -/
theorem State.wakeUp_woken (s : State) : s.Woken s.wakeUp := s.makeReadies_woken _

/-- What a wake-up leaves of the command a stream holds. -/
theorem State.Woken.cmd {s t : State} (h : s.Woken t) (j : Nat) : (t.strmAt j).cmd = (s.strmAt j).cmd := by
  obtain ⟨a, b, c, d, n, e⟩ := h.strm j
  rw [e]

theorem State.Woken.chans {s t : State} (h : s.Woken t) : t.chans = s.chans := by rw [h.rest]
theorem State.Woken.chan {s t : State} (h : s.Woken t) (j : Nat) : t.chan j = s.chan j := by
  unfold State.chan; rw [h.chans]
theorem State.Woken.cnts {s t : State} (h : s.Woken t) : t.cnts = s.cnts := by rw [h.rest]
theorem State.Woken.cnt {s t : State} (h : s.Woken t) (j : Nat) : t.cnt j = s.cnt j := by unfold State.cnt; rw [h.cnts]
theorem State.Woken.ropes {s t : State} (h : s.Woken t) : t.ropes = s.ropes := by rw [h.rest]
theorem State.Woken.rope {s t : State} (h : s.Woken t) (j : Nat) : t.rope j = s.rope j := by
  unfold State.rope; rw [h.ropes]
theorem State.Woken.parts {s t : State} (h : s.Woken t) : t.parts = s.parts := by rw [h.rest]
theorem State.Woken.part {s t : State} (h : s.Woken t) (j : Nat) : t.part j = s.part j := by
  unfold State.part; rw [h.parts]
theorem State.Woken.acc {s t : State} (h : s.Woken t) : t.acc = s.acc := by rw [h.rest]

/-! ### The end of a command's effects -/

@[simp] theorem State.ch_eq (s : State) (m c : Nat) : s.ch m c = s.chan (4 * m + c) := rfl
@[simp] theorem State.modCh_eq (s : State) (m c : Nat) (g : Chan → Chan) :
    s.modCh m c g = s.setChan (4 * m + c) (g (s.chan (4 * m + c))) := rfl
@[simp] theorem State.modCmd_eq (s : State) (sid : Nat) (g : CmdCtx → CmdCtx) :
    s.modCmd sid g = s.setStrmAt sid { s.strmAt sid with cmd := (s.strmAt sid).cmd.map g } := rfl

/-- The streams after a command's effects are applied. -/
theorem State.cmdDone_strmAt (s : State) (m c sid j : Nat) :
    (s.cmdDone m c sid).strmAt j = if j = sid
      then { s.strmAt sid with cmd := (s.strmAt sid).cmd.map fun k => { k with stage := .done } } else s.strmAt j := by
  simp [State.cmdDone]

/-- The channels after a command's effects are applied. -/
theorem State.cmdDone_chan (s : State) (m c sid j : Nat) :
    (s.cmdDone m c sid).chan j = if j = 4 * m + c
      then { s.chan (4 * m + c) with
        ph := .done
        got := []
        slot := none
        xl := []
        coal := []
        pf := (s.chan (4 * m + c)).pf.filter fun e => e.1 / 2 ^ 40 != (s.strmAt sid).pc.toNat } else s.chan j := by
  simp [State.cmdDone]

/-- Nothing but the stream and the channel changes. -/
theorem State.cmdDone_rest (s : State) (m c sid : Nat) :
    s.cmdDone m c sid = { s with strms := (s.cmdDone m c sid).strms, chans := (s.cmdDone m c sid).chans } := rfl

end Sys2Proof.Machine
end

