-- ==== Sys2Proof/Laws/Sync.lean ====
section
/-! SUPPORT. What fault records and operations on counters leave unchanged, and what they change. -/

namespace Sys2Proof.Machine

/-- `t` has the counters, rope lines, channels and streams of `s`. -/
structure State.Kept (s t : State) : Prop where
  cnts : t.cnts = s.cnts
  ropes : t.ropes = s.ropes
  chans : t.chans = s.chans
  strms : t.strms = s.strms

theorem State.Kept.cnt {s t : State} (h : s.Kept t) (j : Nat) : t.cnt j = s.cnt j := by unfold State.cnt; rw [h.cnts]
theorem State.Kept.rope {s t : State} (h : s.Kept t) (j : Nat) : t.rope j = s.rope j := by
  unfold State.rope; rw [h.ropes]
theorem State.Kept.chan {s t : State} (h : s.Kept t) (j : Nat) : t.chan j = s.chan j := by
  unfold State.chan; rw [h.chans]
theorem State.Kept.strmAt {s t : State} (h : s.Kept t) (j : Nat) : t.strmAt j = s.strmAt j := by
  unfold State.strmAt; rw [h.strms]

theorem State.Kept.trans {s t u : State} (h : s.Kept t) (g : t.Kept u) : s.Kept u :=
  ⟨g.1.trans h.1, g.2.trans h.2, g.3.trans h.3, g.4.trans h.4⟩

theorem State.pushAcc_kept (s : State) (a : Access) : s.Kept (s.pushAcc a) := ⟨rfl, rfl, rfl, rfl⟩
theorem State.setPart_kept (s : State) (p : Nat) (v : Part) : s.Kept (s.setPart p v) := ⟨rfl, rfl, rfl, rfl⟩
theorem State.setTen_kept (s : State) (p : Nat) (v : Tenant) : s.Kept (s.setTen p v) := ⟨rfl, rfl, rfl, rfl⟩
theorem State.setCq_kept (s : State) (p : Nat) (v : Cq) : s.Kept (s.setCq p v) := ⟨rfl, rfl, rfl, rfl⟩
theorem State.setSq_kept (s : State) (p : Nat) (v : Sq) : s.Kept (s.setSq p v) := ⟨rfl, rfl, rfl, rfl⟩
theorem State.Kept.refl (s : State) : s.Kept s := ⟨rfl, rfl, rfl, rfl⟩

theorem State.pumpFq_kept (s : State) (p : Nat) : s.Kept (s.pumpFq p) := by
  unfold State.pumpFq; dsimp only
  split
  · exact .refl s
  · split
    · exact .refl s
    · exact (s.setPart_kept _ _).trans (State.pushAcc_kept _ _)

/-- A fault record touches its partition's queue and the list of accesses alone. -/
theorem State.pushFault_kept (s : State) (p : Nat) (f : FRec) : s.Kept (s.pushFault p f) := by
  unfold State.pushFault; dsimp only
  split
  · exact s.setPart_kept _ _
  · exact (s.setPart_kept _ _).trans (State.pumpFq_kept _ _)

/-- A counter after an increment (R225, R228). -/
def Cnt.added (q : Cnt) (d : Int) : Cnt :=
  let v : Int := (q.value.toNat : Int) + d
  { q with
    value := if 2 ^ 32 ≤ v then 0xFFFFFFFF else if v < 0 then 0 else BitVec.ofInt 32 v
    ovf := q.ovf || decide (2 ^ 32 ≤ v)
    unf := q.unf || decide (v < 0) }

/-- An increment: the counter, a fault record at the most, and the streams that it wakes. -/
theorem State.cntAdd_steps (s : State) (key : Nat) (d : Int) (sid m c : Nat) :
    ∃ u, (s.setCnt key ((s.cnt key).added d)).Kept u ∧ u.Woken (s.cntAdd key d sid m c) := by
  have e : s.cntAdd key d sid m c = State.wakeUp (
      let k := s.cnt key
      let v : Int := (k.value.toNat : Int) + d
      let hi := decide ((2 ^ 32 : Nat) ≤ v)
      let lo := decide (v < 0)
      let s1 := s.setCnt key ((s.cnt key).added d)
      let x := s.strmAt sid
      if hi && !k.ovf then s1.pushFault x.part.toNat (syncRec x sid m c fltOver)
      else if lo && !k.unf then s1.pushFault x.part.toNat (syncRec x sid m c fltUnder) else s1) := by
    unfold State.cntAdd Cnt.added
    simp
  rw [e]
  refine ⟨_, ?_, State.wakeUp_woken _⟩
  dsimp only
  split
  · exact State.pushFault_kept _ _ _
  · split
    · exact State.pushFault_kept _ _ _
    · exact .refl _

theorem State.cntAdd_cnt (s : State) (key : Nat) (d : Int) (sid m c j : Nat) :
    (s.cntAdd key d sid m c).cnt j = if j = key then (s.cnt key).added d else s.cnt j := by
  obtain ⟨u, h, w⟩ := s.cntAdd_steps key d sid m c
  rw [w.cnt, h.cnt, State.setCnt_cnt]

theorem State.cntAdd_ropes (s : State) (key : Nat) (d : Int) (sid m c : Nat) :
    (s.cntAdd key d sid m c).ropes = s.ropes := by
  obtain ⟨u, h, w⟩ := s.cntAdd_steps key d sid m c
  rw [w.ropes, h.ropes, State.setCnt_ropes]

theorem State.cntAdd_chan (s : State) (key : Nat) (d : Int) (sid m c j : Nat) :
    (s.cntAdd key d sid m c).chan j = s.chan j := by
  obtain ⟨u, h, w⟩ := s.cntAdd_steps key d sid m c
  rw [w.chan, h.chan, State.setCnt_chan]

theorem State.cntAdd_cmd (s : State) (key : Nat) (d : Int) (sid m c j : Nat) :
    ((s.cntAdd key d sid m c).strmAt j).cmd = (s.strmAt j).cmd := by
  obtain ⟨u, h, w⟩ := s.cntAdd_steps key d sid m c
  rw [w.cmd, h.strmAt, State.setCnt_strmAt]

/-- Where no stream waits to repeat an arrival, none is repeated. -/
theorem State.repeatArrivals_none (s : State) (isIt : Wait → Bool) (retry : State → Strm → State × Wait)
    (h : ∀ e ∈ s.strms, isIt e.2.wait = false) : s.repeatArrivals isIt retry = s := by
  unfold State.repeatArrivals
  rw [List.filter_eq_nil_iff.mpr fun e he => by simp [h e he]]
  rfl

/-- One round of a BARRIER-mode counter whose last arrival has come (R230); further rounds follow. -/
theorem State.cntRounds_next (s : State) (key n : Nat) (hm : (s.cnt key).mode = 0) (hb : (s.cnt key).bound = true)
    (hp : (s.cnt key).part ≠ 0) (ha : (s.cnt key).arr = (s.cnt key).part)
    (hw : ∀ e ∈ s.strms, ∀ r, e.2.wait ≠ .dblCounter key r true) :
    s.cntRounds key (n + 1) = (s.setCnt key { s.cnt key with
      value := (s.cnt key).value + 1, arr := (s.cnt key).next, next := 0 }).wakeUp.cntRounds key n := by
  show (if _ then _ else _) = _
  dsimp only
  rw [if_pos ⟨hm, hb, hp, ha⟩, State.repeatArrivals_none]
  intro e he
  have h1 := hw e he
  split
  · rename_i q r a heq
    cases hq : (q == key && a)
    · rfl
    · simp at hq; exact absurd (heq ▸ by rw [hq.1, hq.2]) (h1 r)
  · rfl

/-- A counter whose arrivals are not complete stays as it is. -/
theorem State.cntRounds_stop (s : State) (key n : Nat) (h : (s.cnt key).arr ≠ (s.cnt key).part) : s.cntRounds key n = s := by
  cases n with
  | zero => rfl
  | succ n =>
    show (if _ then _ else _) = _
    dsimp only
    rw [if_neg fun h' => h h'.2.2.2]

end Sys2Proof.Machine
end

