-- ==== Sys2Proof/Laws/Command.lean ====
section
/-! SUPPORT. Commands that a channel holds: what carrying one out runs, and the end of its effects. -/

namespace Sys2Proof.Machine

/-- A decoded command is carried out by the function of its own row. -/
theorem State.Holds.run {s : State} {m c sid : Nat} {k : CmdCtx} (h : s.Holds m c sid k) (is : BitVec 512 → Bool)
    (f : Nat → CmdCtx → State) (hi : is k.raw = true) : s.onCmd m c is f = f sid k := by
  obtain ⟨a, b, c', d, e⟩ := h
  simp only [State.onCmd, a, e, b, c', d, hi, and_self, if_true]

/-- After `cmdDone` the command has had its effect. -/
theorem State.cmdDone_done {s : State} {m c sid : Nat} {k : CmdCtx} (ha : (s.chan (4 * m + c)).act = some sid)
    (hc : (s.strmAt sid).cmd = some k) : (s.cmdDone m c sid).Done m c sid k :=
  ⟨by simpa [State.cmdDone_chan] using ha, by simp [State.cmdDone_chan], by simp [State.cmdDone_strmAt, hc]⟩

/-- `cmdDone` leaves every other stream and channel. -/
theorem State.cmdDone_others (s : State) (m c sid : Nat) : s.Others (s.cmdDone m c sid) m c sid :=
  ⟨fun j hj => by simp [State.cmdDone_strmAt, hj], fun j hj => by simp [State.cmdDone_chan, hj]⟩

/-- A SIGNAL's effects, when no rule refuses its configuration now, and that and its attached signal lead to `u`. -/
theorem State.sigApply_eq {s u : State} {m c sid : Nat} {k : CmdCtx} (hr : s.configRefused (s.strmAt sid) k.raw = false)
    (h : (s.sigConfig sid k.raw).applySignal m c sid k.raw = u) :
    s.sigApply m c sid k = (u.modCmd sid fun y => { y with sigDone := true }).cmdDone m c sid := by
  unfold State.sigApply; dsimp only; rw [hr, if_neg (by decide), h]

/-- It completes the SIGNAL. -/
theorem State.sigApply_done {s u : State} {m c sid : Nat} {k : CmdCtx} (hr : s.configRefused (s.strmAt sid) k.raw = false)
    (h : (s.sigConfig sid k.raw).applySignal m c sid k.raw = u) (ha : (u.chan (4 * m + c)).act = some sid)
    (hc : (u.strmAt sid).cmd = some k) : (s.sigApply m c sid k).Done m c sid { k with sigDone := true } := by
  rw [State.sigApply_eq hr h]
  exact State.cmdDone_done (by simpa using ha) (by simp [hc])

end Sys2Proof.Machine
end

