-- ==== Sys2Proof/Laws/Host.lean ====
section
/-! SUPPORT. What a write of the HOST port finds (R335, R381, R383, R384). -/

namespace Sys2Proof.Machine

/-- Waking from DOZE and cancelling a drain. -/
theorem State.awake_drainCancel (s : State) : s.awake.drainCancel = { s with
    pwr := if s.pwr.state = 2 then { s.pwr with state := 0, wake := false }
      else if s.pwr.state = 3 then { s.pwr with state := 0, canc := true, rreq := false } else s.pwr } := by
  unfold State.awake
  by_cases h2 : s.pwr.state = 2
  · rw [if_pos h2, if_pos h2]; rfl
  · rw [if_neg h2, if_neg h2]
    unfold State.drainCancel
    by_cases h3 : s.pwr.state = 3
    · rw [if_pos h3, if_pos h3]
    · rw [if_neg h3, if_neg h3]

/-- A write that the block serves acts on the state it finds. -/
theorem State.hostWrite_eq {s : State} (h : s.Serves) (c : Instr) (f : State → State) : s.hostWrite c f = f s.reached := by
  have h1 : s.inRun = true := by simp [State.inRun, h.run]
  have h2 : s.hostHeld = false := by
    simp [State.hostHeld, h.wait]; exact ⟨h.retain, h.wake⟩
  unfold State.hostWrite State.hostDo
  rw [h1, h.host, if_neg (by decide), h2, if_neg (by decide), State.awake_drainCancel]
  rfl

end Sys2Proof.Machine
end

