-- ==== Sys2Proof/Laws/Nvm.lean ====
section
/-! SUPPORT. The NVM: what a read gives after a write and after an erase, and the canonical form that every operation on
it keeps. -/

namespace Sys2Proof.Machine

/-- Bytes written one after another keep the canonical form, wherever each of them goes. -/
theorem nvm_writes_wf {α : Type} (l : List α) (addr : α → Nat) (byte : α → Byte) (m : SMap Byte) (h : SMap.wf m 0xFF) :
    SMap.wf (l.foldl (fun r e => SMap.put r 0xFF (addr e) (byte e)) m) 0xFF := by
  induction l generalizing m with
  | nil => exact h
  | cons e t ih => exact ih _ (SMap.wf_put m 0xFF (byte e) (addr e) h)

/-- An erase keeps the canonical form. -/
theorem nvmErase_wf (m : SMap Byte) (a n : Nat) (h : SMap.wf m 0xFF) : SMap.wf (nvmErase m a n) 0xFF :=
  ⟨h.1.sublist List.filter_sublist, fun e he => h.2 e (List.mem_of_mem_filter he)⟩

/-- An erased byte reads 0xFF, and an erase leaves every byte outside its range. -/
theorem nvmErase_get (m : SMap Byte) (a n i : Nat) :
    (nvmErase m a n).get 0xFF i = if a ≤ i ∧ i < a + n then 0xFF else m.get 0xFF i := by
  induction m with
  | nil => simp [nvmErase, SMap.get]
  | cons e t ih =>
    have u : nvmErase (e :: t) a n = if a ≤ e.1 ∧ e.1 < a + n then nvmErase t a n else e :: nvmErase t a n := by
      unfold nvmErase
      rw [List.filter_cons]
      by_cases h : a ≤ e.1 ∧ e.1 < a + n
      · simp [h]
      · have : (!(decide (a ≤ e.1) && decide (e.1 < a + n))) = true := by simp; omega
        rw [if_pos this, if_neg h]
    rw [u]
    split <;> rename_i he
    · rw [ih]
      split
      · rfl
      · have hk : ¬ e.1 = i := by omega
        simp [SMap.get, hk]
    · by_cases hk : e.1 = i
      · have : ¬ (a ≤ i ∧ i < a + n) := by omega
        simp [SMap.get, hk, this]
      · simp only [SMap.get, if_neg hk, ih]

/-- Bytes written from an address on keep the canonical form. -/
theorem State.nvmPut_wf (s : State) (a : Nat) (l : List Byte) (h : SMap.wf s.nvm 0xFF) : SMap.wf (s.nvmPut a l).nvm 0xFF :=
  nvm_writes_wf l.zipIdx (fun e => a + e.2) (fun e => e.1) s.nvm h

/-- Bytes written from an address on read back, and every other byte is as before. -/
theorem nvm_writes_get (l : List Byte) (a k i : Nat) (m : SMap Byte) :
    SMap.get ((l.zipIdx k).foldl (fun r e => SMap.put r 0xFF (a + e.2) e.1) m) 0xFF i
      = if a + k ≤ i ∧ i < a + k + l.length then l.getD (i - (a + k)) 0 else SMap.get m 0xFF i := by
  induction l generalizing k m with
  | nil =>
    have h : ¬ (a + k ≤ i ∧ i < a + k + ([] : List Byte).length) := by rw [List.length_nil]; omega
    rw [if_neg h]
    rfl
  | cons b t ih =>
    rw [List.zipIdx_cons, List.foldl_cons, ih, SMap.get_put]
    rcases Nat.lt_trichotomy i (a + k) with h | h | h
    · have h1 : ¬ (a + (k + 1) ≤ i ∧ i < a + (k + 1) + t.length) := by omega
      have h2 : ¬ (a + k ≤ i ∧ i < a + k + (b :: t).length) := by omega
      rw [if_neg h1, if_neg h2, if_neg (by omega)]
    · subst h
      have h1 : ¬ (a + (k + 1) ≤ a + k ∧ a + k < a + (k + 1) + t.length) := by omega
      rw [if_neg h1, if_pos rfl, if_pos (by simp)]
      simp
    · have e : i - (a + k) = (i - (a + (k + 1))) + 1 := by omega
      by_cases h1 : a + (k + 1) ≤ i ∧ i < a + (k + 1) + t.length
      · rw [if_pos h1, if_pos (by rw [List.length_cons]; omega), e]; simp
      · have h2 : ¬ (a + k ≤ i ∧ i < a + k + (b :: t).length) := by rw [List.length_cons]; omega
        have h3 : ¬ i = a + k := by omega
        rw [if_neg h1, if_neg h2]
        exact if_neg h3

/-- An entry mirrored into the ring keeps the canonical form. -/
theorem ringPut_wf (m : SMap Byte) (seq : Nat) (l : List Byte) (h : SMap.wf m 0xFF) : SMap.wf (ringPut m seq l) 0xFF := by
  unfold ringPut
  refine nvm_writes_wf l.zipIdx (fun e => ringAddr seq + e.2) (fun e => e.1) _ ?_
  split
  · exact nvmErase_wf m _ _ h
  · exact h

/-- The unlock counter's next record keeps the canonical form. -/
theorem ucntPut_wf (m : SMap Byte) (v : Nat) (h : SMap.wf m 0xFF) : SMap.wf (ucntPut m v) 0xFF := by
  unfold ucntPut
  split
  · exact nvm_writes_wf _ (fun e : Byte × Nat => nvmLog + 8 * 0 + e.2) (fun e => e.1) _ (nvmErase_wf m _ _ h)
  · dsimp only
    split
    · exact nvm_writes_wf _ (fun e : Byte × Nat => nvmLog + 8 * _ + e.2) (fun e => e.1) _ h
    · exact nvm_writes_wf _ (fun e : Byte × Nat => nvmLog + 8 * _ + e.2) (fun e => e.1) _ (nvmErase_wf m _ _ h)

end Sys2Proof.Machine
end

