-- ==== Sys2Proof/WellFormed.lean ====
section
/-! DEFINITION. When a command is one that the block's ports can bring it: response data of the length of the access
(R140, R43, R307, R415), whole beats (R36, R286, R430), readings for every sensor (R406). Indices need no check: their
types bound them. -/

namespace Sys2Proof

/-- A packet: a 32-B header and 0 to 512 payload bytes, in whole beats of 32 B (R286). -/
def wfPacket (pkt : List Byte) : Bool :=
  decide (32 ≤ pkt.length) && decide (pkt.length ≤ 544) && decide (pkt.length % 32 = 0)

/-- The check of one command. -/
def Instr.wf : Instr → Bool
  | .ecnosDescriptor _ _ data _ => decide (data.length = 32)
  | .commandFetched _ _ data _ => decide (data.length = 64) || decide (data.length = 128)
  | .sourceReadResponse _ data _ _ => decide (0 < data.length) && decide (data.length ≤ 2048)
  | .glacierRecordLoaded _ data _ => decide (data.length = 64)
  | .slotTableReadDone _ _ data _ => decide (data.length = 8192)
  | .peerWrite _ pkt => wfPacket pkt
  | .peerRdreq _ pkt => wfPacket pkt
  | .peerRdrsp _ pkt => wfPacket pkt
  | .peerWack _ pkt => wfPacket pkt
  | .peerNack _ pkt => wfPacket pkt
  | .peerCredit _ pkt => wfPacket pkt
  | .packetForward _ pkt _ => wfPacket pkt
  | .strmBeat _ data _ _ _ => decide (data.length = 32)
  | .sensorSample temps volts _ => decide (temps.length = 8) && decide (volts.length = 4)
  | .smbResp _ data _ => decide (data.length = 32)
  | .mbUpdate _ size data r => decide (r ≠ Resp.okay) || decide (data.length = 1024) || decide (data.length = size.toNat)

  | .coreResetRelease bad _ => bad.all fun g => decide (g < 640)
  | _ => true

end Sys2Proof
end

