-- ==== Sys2Proof/Tests/Slice0.lean ====
section
/-! SUPPORT. Tests of single commands on small states: for each statement a state and operands that meet its hypotheses,
with a field or two of what the command leaves. -/

namespace Sys2Proof.Tests

set_option Elab.async false

open Sys2Proof.Machine

/-! ### Helpers -/

/-- Whether a command answers a next state with a property. -/
def after (c : Instr) (s : State) (p : State → Bool) : Bool :=
  match exec c s with
  | .next t => p t
  | .fault _ => false
  | .refused _ => false

/-- A little-endian number from fields (byte, lowest bit, value). -/
def put (l : List (Nat × Nat × Nat)) : Nat := (l.map fun e => e.2.2 * 2 ^ (8 * e.1 + e.2.1)).sum

/-- A command from fields. -/
def raw (l : List (Nat × Nat × Nat)) : BitVec 512 := BitVec.ofNat 512 (put l)

/-- RUN, with every reset released. -/
def base : State :=
  { State.reset with
    boot := { Boot.reset with state := 13 }
    pins := { aon := false, core := false, far0 := false, far1 := false, near := false, peer0 := false, peer1 := false,
              strm := false, host := false } }

/-- The base state serves host writes. -/
theorem base_serves : base.Serves := ⟨rfl, rfl, by decide, by decide, rfl⟩

/-- Channel 1 of Mover 0 holds the command k of stream x, numbered 5, decoded. -/
def holding (s : State) (x : Strm) (k : CmdCtx) : State :=
  { s with
    strms := [(5, { x with st := .running, cmd := some k })]
    chans := [(1, { Chan.reset with act := some 5, ph := .decoded })] }

/-- A homed stream of tenant 1. -/
def homed : Strm := { Strm.reset with ten := 1, hen := true, hmv := 0, hch := 1 }

/-- A decoded command. -/
def cmd (l : List (Nat × Nat × Nat)) : CmdCtx := { CmdCtx.fresh (raw l) with stage := .copies, decoded := true }

/-- The channel holds the command. -/
theorem holding_holds (s : State) (x : Strm) (k : CmdCtx) : (holding s x k).Holds 0 1 5 k :=
  ⟨rfl, rfl, rfl, rfl, rfl⟩

/-- A fault record. -/
def frec : FRec :=
  { fcode := 1, part := 0, dir := false, walk := false, pav := false, vav := false, ten := 0, tgen := 0, sid := 0, pc := 0,
    va := 0, kind := 0, mover := 0, ch := 0, pa := 0, lvl := 0, resp := 0, ntile := 0, aux := 0 }

/-! ### Well-formedness: a term that each check refuses -/

/-- Response data of the wrong length. -/
theorem test_wf_refuses_data :
    (Instr.ecnosDescriptor 0 0 [] .okay).wf = false ∧ (Instr.commandFetched 0 0 [1] .okay).wf = false ∧
    (Instr.sourceReadResponse 0 [] .okay false).wf = false ∧ (Instr.glacierRecordLoaded 0 [] .okay).wf = false ∧
    (Instr.slotTableReadDone 0 0 [] .okay).wf = false ∧ (Instr.strmBeat 0 [] 0 false false).wf = false ∧
    (Instr.smbResp 0 [] none).wf = false ∧ (Instr.mbUpdate 0 1 [] .okay).wf = false := by decide

/-- A packet shorter than its header is no packet. -/
theorem test_wf_refuses_short_packet :
    (Instr.peerWrite 0 []).wf = false ∧ (Instr.peerRdreq 0 []).wf = false ∧ (Instr.peerRdrsp 0 []).wf = false ∧
    (Instr.peerWack 0 []).wf = false ∧ (Instr.peerNack 0 []).wf = false ∧ (Instr.peerCredit 0 []).wf = false ∧
    (Instr.packetForward 0 [] false).wf = false := by decide

/-- Readings missing, and a granule that does not exist. -/
theorem test_wf_refuses_ranges :
    (Instr.sensorSample [] [] 0).wf = false ∧ (Instr.coreResetRelease [640] false).wf = false := by decide

/-- The table gives the commands no bits. -/
theorem test_no_command_word : decodeTableWord 0 0 = none := rfl

/-! ### Stream commands -/

/-- NOP and FENCE. -/
theorem test_nop_fence :
    (holding base homed (cmd [])).Holds 0 1 5 (cmd []) ∧ cOpc (cmd []).raw = 0 ∧ cOpc (cmd [(0, 0, 11)]).raw = 11 ∧
    after (.nop 0 1) (holding base homed (cmd [])) (fun t => (t.chan 1).ph == .done) = true :=
  ⟨holding_holds _ _ _, by decide +kernel, by decide +kernel, by decide +kernel⟩

/-- A counter in COUNT mode that holds 7, bound to tenant 1. -/
def cnt7 : Cnt := { Cnt.reset with value := 7, mode := 1, bound := true, ten := 1 }

/-- For `test_wait`. -/
def waitW := fun (q : Cnt) (k : CmdCtx) => holding { base with cnts := [(3, q)] } homed k

/-- For `test_wait`. -/
def waitA := cmd [(0, 0, 8), (8, 0, 1), (9, 0, 3), (12, 0, 7)]

/-- For `test_wait`. -/
def waitB := cmd [(0, 0, 8), (8, 0, 1), (9, 0, 3), (12, 0, 0xFFFFFFFF)]

/-- For `test_wait`. -/
def waitC := cmd [(0, 0, 8), (8, 0, 2), (9, 0, 3)]

/-- WAIT for a counter, whose VALUE is WVAL; for a BARRIER-mode counter one round behind the wrap; for a line. -/
theorem test_wait :
    cOpc waitA.raw = 8 ∧ cf waitA.raw 8 0 2 = 1 ∧ (BitVec.ofNat 32 (cf waitA.raw 12 0 32)).toNat ≤ cnt7.value.toNat ∧
    (0 : BitVec 32) - BitVec.ofNat 32 (cf waitB.raw 12 0 32) = 1 ∧ cf waitC.raw 8 0 2 = 2 ∧
    after (.wait 0 1) (waitW cnt7 waitA) (fun t => (t.chan 1).ph == .done) = true ∧
    after (.wait 0 1) (waitW { cnt7 with value := 0, mode := 0 } waitB) (fun t => (t.chan 1).ph == .done) = true ∧
    after (.wait 0 1) (waitW cnt7 waitC) (fun t => (t.chan 1).ph == .done) = true := by decide +kernel

/-- For `test_signal`. -/
def signalK := cmd [(0, 0, 9), (4, 0, 1), (5, 0, 3), (6, 0, 0xFFF8)]

/-- For `test_signal`. -/
def signalW := holding { base with cnts := [(3, cnt7)] } homed signalK

/-- For `test_signal`. -/
def signalE := cmd [(0, 0, 9)]

/-- An attached signal of −8 to a counter that holds 7 ends at 0 with UNF; a SIGNAL with nothing to do completes. -/
theorem test_signal :
    cOpc signalK.raw = 9 ∧ cf signalK.raw 8 0 2 = 0 ∧ cb signalK.raw 8 2 = false ∧ cSkind signalK.raw = 1 ∧ cStgt signalK.raw = 3 ∧
    signalW.syncOk (signalW.strmAt 5) .signal 1 3 = true ∧ (signalW.cnt 3).mode ≠ 0 ∧
    after (.signal 0 1) signalW (fun t => (t.cnt 3).value == 0 && (t.cnt 3).unf) = true ∧
    cOpc signalE.raw = 9 ∧ cf signalE.raw 8 0 2 = 0 ∧ cb signalE.raw 8 2 = false ∧ cSkind signalE.raw = 0 ∧
    after (.signal 0 1) (holding base homed signalE) (fun t => (t.chan 1).ph == .done) = true := by decide +kernel

/-- A writable page of tenant 1. -/
def page5 : TlbE := { ten := 1, gen := 0, lvl := 0, vpn := 5, ppn := 0x123, rd := true, wr := true, attr := 0 }

/-- For `test_signal_flag`. -/
def signalFlagK := cmd [(0, 0, 9), (8, 2, 1), (16, 0, 0x5010), (24, 0, 77)]

/-- For `test_signal_flag`. -/
def signalFlagW := { holding base homed signalFlagK with
  tens := [(1, { Tenant.reset with rootEn := true })], movers := [(0, { Mover.reset with utlb := [page5] })] }

/-- A SIGNAL with a flag write of 4 bytes to a page that the micro-TLB maps. -/
theorem test_signal_flag :
    cOpc signalFlagK.raw = 9 ∧ cf signalFlagK.raw 8 0 2 = 0 ∧ cb signalFlagK.raw 8 2 = true ∧ cf signalFlagK.raw 16 0 48 = 0x5010 ∧ (signalFlagW.ten 1).rootEn = true ∧
    (∀ e ∈ (signalFlagW.mover 0).utlb, e.bad = false) ∧ (∀ e ∈ (signalFlagW.xlU 0).l2, e.bad = false) ∧
    ((signalFlagW.mover 0).utlb.find? fun e => e.maps 1 0 0x5010) = some page5 ∧ page5.wr = true ∧
    after (.signal 0 1) signalFlagW (fun t => t.acc.any fun a => a.kind == .flag && a.pa == 0x123010 && a.data == [77, 0, 0, 0]) = true := by
  decide +kernel

/-- For `test_signal_configure`. -/
def signalConfigureK := cmd [(0, 0, 9), (8, 0, 1), (9, 0, 2), (11, 0, 3), (12, 0, 9)]

/-- For `test_signal_configure`. -/
def signalConfigureW := holding base homed signalConfigureK

/-- A SIGNAL that configures counter 3. -/
theorem test_signal_configure :
    cOpc signalConfigureK.raw = 9 ∧ cf signalConfigureK.raw 8 0 2 = 1 ∧ cb signalConfigureK.raw 8 2 = false ∧ cSkind signalConfigureK.raw = 0 ∧ (signalConfigureW.strmAt 5).hen = true ∧
    cf signalConfigureK.raw 9 0 2 ≠ 3 ∧ (cf signalConfigureK.raw 9 0 2 = 0 ↔ cf signalConfigureK.raw 10 0 4 ≠ 0) ∧ (signalConfigureW.cnt 3).bound = false ∧
    after (.signalConfigure 0 1) signalConfigureW (fun t => (t.cnt 3).value == 9 && (t.cnt 3).mode == 2 && (t.cnt 3).bound) = true := by
  decide +kernel

/-- For `test_barrier`. -/
def barrierK := cmd [(0, 0, 10), (8, 0, 1), (9, 0, 3)]

/-- For `test_barrier`. -/
def barrierW := holding { base with cnts := [(3, { cnt7 with mode := 0, part := 3, arr := 1 })] } homed barrierK

/-- The second of two arrivals completes the round. -/
theorem test_barrier :
    cOpc barrierK.raw = 10 ∧ cf barrierK.raw 8 0 2 = 1 ∧ (barrierW.strmAt 5).arrd = false ∧ (barrierW.cnt 3).mode = 0 ∧ (barrierW.cnt 3).bound = true ∧
    (barrierW.cnt 3).arr &&& BitVec.ofNat 4 (2 ^ 1) = 0 ∧ (barrierW.cnt 3).arr ||| BitVec.ofNat 4 (2 ^ 1) = (barrierW.cnt 3).part ∧
    after (.barrier 0 1) barrierW (fun t => (t.cnt 3).value == 8 && (t.cnt 3).arr == 0) = true := by decide +kernel

/-- No stream repeats its arrival there. -/
theorem test_barrier_alone (k : CmdCtx) : ∀ e ∈ (holding base homed k).strms, ∀ r, e.2.wait ≠ .dblCounter 3 r true := by
  intro e he r
  simp only [holding, List.mem_singleton] at he
  subst he
  exact fun h => by cases h

/-- A persistent stream of tenant 1, ARMED. -/
def armed1 : Strm := { Strm.reset with st := .armed, ten := 1, pers := true, plen := 2 }

/-- For `test_rearm`. -/
def rearmK := cmd [(0, 0, 16), (8, 0, 2000), (11, 0, 1), (16, 0, 64)]

/-- For `test_rearm`. -/
def rearmW0 := holding base homed rearmK

/-- For `test_rearm`. -/
def rearmW := { rearmW0 with strms := rearmW0.strms ++ [(2000, armed1)] }

/-- For `test_rearm`. -/
def rearmR := { rearmW0 with strms := rearmW0.strms ++ [(2000, { armed1 with rcv := true })] }

/-- REARM of stream 2000 with BMASK 1; of a receive stream it loads the base alone. -/
theorem test_rearm :
    cOpc rearmK.raw = 16 ∧ cRop rearmK.raw = 0 ∧ cTarget rearmK.raw = 2000 ∧ (rearmW.strmAt 2000).pers = true ∧
    (rearmW.strmAt 2000).ten = (rearmW.strmAt 5).ten ∧ (rearmW.strmAt 2000).tgen = (rearmW.strmAt 5).tgen ∧ (rearmW.strmAt 5).tgen = (rearmW.ten 1).gen ∧
    (rearmW.strmAt 2000).st = .armed ∧ (rearmW.strmAt 2000).rcv = false ∧ (rearmW.strmAt 2000).fgenp = 0 ∧
    rearmW.homeOut 2000 = false ∧ rearmW.homeBusy 2000 = false ∧ rearmW.hasHeld 2000 = false ∧ (rearmR.strmAt 2000).rcv = true ∧
    after (.rearm 0 1) rearmW (fun t => (t.strmAt 2000).st == .ready && (t.strmAt 2000).b0 == 64) = true ∧
    after (.rearm 0 1) rearmR (fun t => (t.strmAt 2000).st == .armed && (t.strmAt 2000).b0 == 64) = true := by decide +kernel

/-- For `test_load_unload`. -/
def loadUnloadK := { cmd [(0, 0, 16), (8, 0, 2000), (11, 4, 1)] with got := [(8, toLE 64 (put [(0, 4, 1), (7, 0, 2)]))] }

/-- For `test_load_unload`. -/
def loadUnloadW := { holding base homed loadUnloadK with parts := [(0, { Part.reset with ren := true, rglo := 17, rghi := 40 })] }

/-- For `test_load_unload`. -/
def loadUnloadJ := cmd [(0, 0, 16), (8, 0, 2000), (11, 4, 2)]

/-- For `test_load_unload`. -/
def loadUnloadU0 := holding base homed loadUnloadJ

/-- For `test_load_unload`. -/
def loadUnloadU := { loadUnloadU0 with strms := loadUnloadU0.strms ++ [(2000, armed1)] }

/-- LOAD of stream 2000, and its UNLOAD. -/
theorem test_load_unload :
    cOpc loadUnloadK.raw = 16 ∧ cTarget loadUnloadK.raw = 2000 ∧ cRop loadUnloadK.raw = 1 ∧ (loadUnloadW.strmAt 5).tgen = (loadUnloadW.ten 1).gen ∧
    (loadUnloadW.strmAt 2000).st = .empty ∧ loadUnloadW.idOk 0 2000 = true ∧ imageRangeBad (loadUnloadK.copy 8) = false ∧ bbit (loadUnloadK.copy 8) 0 6 = false ∧
    bfld (loadUnloadK.copy 8) 8 0 48 % 4096 = 0 ∧
    after (.load 0 1) loadUnloadW (fun t => (t.strmAt 2000).st == .armed && (t.strmAt 2000).plen == 2) = true ∧
    cTarget loadUnloadJ.raw = 2000 ∧ cRop loadUnloadJ.raw = 2 ∧ (loadUnloadU.strmAt 2000).ten = (loadUnloadU.strmAt 5).ten ∧ (loadUnloadU.strmAt 2000).st = .armed ∧
    (loadUnloadU.strmAt 2000).fgenp = 0 ∧ after (.unload 0 1) loadUnloadU (fun t => t.strmAt 2000 == Strm.reset) = true := by decide +kernel

/-- For `test_loop`. -/
def loopK := cmd [(0, 0, 17), (8, 0, 1)]

/-- For `test_loop`. -/
def loopW := holding base { homed with pers := true, plen := 1 } loopK

/-- A LOOP with LCNT=1 ends the arming at its first pass. -/
theorem test_loop :
    cOpc loopK.raw = 17 ∧ loopK.stage = .copies ∧ cb loopK.raw 12 0 = false ∧ (loopW.strmAt 5).rpend = none ∧ loopK.endArm = false ∧
    loopK.toArmed = false ∧ after (.loop 0 1) loopW (fun t => (t.strmAt 5).pass == 1) = true := by decide +kernel

/-- For `test_table`. -/
def tableK := cmd [(0, 0, 18)]

/-- For `test_table`. -/
def tableW := holding base homed tableK

/-- For `test_table`. -/
def tableJ := cmd [(0, 0, 18), (8, 0, 1), (9, 0, 4)]

/-- For `test_table`. -/
def tableF := { FSlot.reset with gen := 4, ten := 1, keep := true }

/-- For `test_table`. -/
def tableU := { holding base homed tableJ with parts := [(0, { Part.reset with ftab := [(2, tableF)] })] }

/-- TABLE LOAD takes slot 0; TABLE RELEASE of generation 4 clears its KEEP. -/
theorem test_table :
    cOpc tableK.raw = 18 ∧ (tableW.strmAt 5).fgenp = 0 ∧ cb tableK.raw 8 0 = false ∧ tableW.freeSlot 0 = some 0 ∧
    after (.tableLoad 0 1) tableW (fun t => ((t.part 0).ftab.get FSlot.reset 0).ten == 1) = true ∧
    cb tableJ.raw 8 0 = true ∧ tableU.genSlot 0 1 (cf tableJ.raw 9 0 8) = some 2 ∧
    after (.tableRelease 0 1) tableU (fun t => !((t.part 0).ftab.get FSlot.reset 2).keep) = true := by decide +kernel

/-! ### The life of a command -/

/-- Translation on for tenant 1. -/
def rooted : State := { base with tens := [(1, { Tenant.reset with en := true, rootEn := true })] }

/-- A dense descriptor of UINT8 of one dimension. -/
def desc1 (addr n : Nat) : List Byte := toLE 128 (put [(0, 0, 2), (0, 4, 1), (4, 0, addr), (18, 0, n), (22, 0, n), (26, 0, 1)])

/-- A descriptor of UINT8 of rows of 64, of which one block takes `n`. -/
def desc2 (addr n : Nat) : List Byte :=
  toLE 128 (put [(0, 0, 2), (0, 4, 2), (4, 0, addr), (18, 0, 64), (22, 0, 64), (26, 0, 1), (40, 0, n), (44, 0, 16), (48, 0, 64)])

/-- The geometry that the statement's hypotheses speak of. -/
def startsIn (w : State) (k : CmdCtx) : Bool :=
  let g := geoOf (w.strmAt 5) k
  w.placesTo 5 k 5 == none && !k.skipped && !cRwr k.raw && !cRrd k.raw && (w.ten 1).rootEn && (w.mover 0).utlb == []
  && (w.xlU 0).l2 == [] && (w.xlU 0).wc == [] && (w.ch 0 1).pf == [] && decide (0 < g.tiles) && !g.sd.firn
  && (g.meter || !g.dd.firn) && cFgen k.raw == 0 && (w.nearBad 0 0 { k with td := none } g).isNone

/-- For `test_transfer`. -/
def transferK := { cmd [(0, 0, 1), (14, 1, 2), (42, 0, 77)] with got := [(2, desc1 0x1010 100), (3, desc1 0x2000 100)] }

/-- For `test_transfer`. -/
def transferW := holding rooted homed transferK

/-- For `test_transfer`. -/
def transferG := geoOf (transferW.strmAt 5) transferK

/-- A TRANSFER of 100 bytes. -/
theorem test_transfer :
    startsIn transferW transferK = true ∧ transferW.tdestOf 5 = none ∧ transferG.sd.space = false ∧ transferG.dd.space = false ∧ transferG.tileReads 0 ≠ [] ∧ cOpc transferK.raw = 1 ∧
    after (.transfer 0 1) transferW (fun t => (t.chan 1).ph == .tiles && (t.chan 1).lfsr == 77
      && (t.acc.map fun a => (a.kind, a.va, a.len)) ==
        [(.source 0, 0x1000, 128), (.walkRead, 0, 8), (.probe 0, 0x2000, 1)]) = true := by decide +kernel

/-- For `test_meter`. -/
def meterK := { cmd [(0, 0, 4), (16, 0, 0x2000)] with got := [(2, desc1 0x1000 64), (6, toLE 64 0)] }

/-- For `test_meter`. -/
def meterW := holding rooted homed meterK

/-- For `test_meter`. -/
def meterG := geoOf (meterW.strmAt 5) meterK

/-- A METER of 64 elements. -/
theorem test_meter :
    startsIn meterW meterK = true ∧ meterW.tdestOf 5 = none ∧ meterG.meter = true ∧ meterG.sd.space = false ∧ meterG.tileReads 0 ≠ [] ∧ cOpc meterK.raw = 4 ∧
    after (.meter 0 1) meterW (fun t => (t.acc.map fun a => (a.kind, a.va, a.len)) ==
        [(.source 0, 0x1000, 64), (.walkRead, 0, 8), (.probe 0, 0x2000, 1)]) = true := by decide +kernel

/-- For `test_gather_scatter`. -/
def gatherScatterB := [(48, 0, 0x3002), (54, 0, 4), (54, 27, 2)]

/-- For `test_gather_scatter`. -/
def gatherScatterK := { cmd ((0, 0, 2) :: gatherScatterB) with got := [(2, desc2 0x1000 1), (3, desc2 0x2000 4)] }

/-- For `test_gather_scatter`. -/
def gatherScatterW := holding rooted homed gatherScatterK

/-- For `test_gather_scatter`. -/
def gatherScatterJ := { cmd ((0, 0, 3) :: gatherScatterB) with got := [(2, desc2 0x1000 4), (3, desc2 0x2000 1)] }

/-- For `test_gather_scatter`. -/
def gatherScatterU := holding rooted homed gatherScatterJ

/-- A GATHER of four blocks by a list of 16-bit indices, and a SCATTER. -/
theorem test_gather_scatter :
    startsIn gatherScatterW gatherScatterK = true ∧ gatherScatterK.idx = [] ∧ (geoOf (gatherScatterW.strmAt 5) gatherScatterK).tileEntries 0 = [0, 1, 2, 3] ∧ cOpc gatherScatterK.raw = 2 ∧
    after (.gather 0 1) gatherScatterW (fun t => (t.acc.map fun a => (a.kind, a.va, a.len)) == [(.list 0, 0x3000, 64), (.walkRead, 24, 8)]
      || (t.acc.map fun a => (a.kind, a.va, a.len)) == [(.list 0, 0x3000, 64), (.walkRead, 0, 8)]) = true ∧
    startsIn gatherScatterU gatherScatterJ = true ∧ gatherScatterJ.idx = [] ∧ (geoOf (gatherScatterU.strmAt 5) gatherScatterJ).tileEntries 0 ≠ [] ∧ cOpc gatherScatterJ.raw = 3 ∧
    after (.scatter 0 1) gatherScatterU (fun t => (t.acc.map fun a => (a.kind, a.va, a.len)).take 1 == [(.list 0, 0x3000, 64)]) = true := by
  decide +kernel

/-- An access of channel 1 of Mover 0 for stream 5. -/
def acc (aid : Nat) (kind : AKind) (wr : Bool) (va len : Nat) : Access :=
  { blankAcc 0 (.mover 0) 1 kind wr va len with aid := aid, sid := 5, ten := 1, stage := .out }

/-- Stream 5 on channel 1 of Mover 0 in a phase, with accesses. -/
def running (s : State) (x : Strm) (ph : Ph) (l : List Access) : State :=
  { s with strms := [(5, { x with st := .running })], chans := [(1, { Chan.reset with act := some 5, ph := ph })], acc := l }

/-- For `test_command_fetched`. -/
def commandFetchedD := toLE 128 0

/-- For `test_command_fetched`. -/
def commandFetchedW := { running rooted homed .fetch [acc 9 .ring false 0x13C0 64] with
  sqs := [(5, { Sq.reset with en := true, log2sz := 4, head := 15, outst := 2 })] }

/-- For `test_command_fetched`. -/
def commandFetchedU := running rooted { homed with pers := true, ran := true, paddr := 0x4000, plen := 4 } .fetch
  [acc 9 .program false 0x4000 128]

/-- A NOP read from the last slot of a ring of 16 slots, and from a program. -/
theorem test_command_fetched :
    cOpc (cmdOf commandFetchedD) = 0 ∧ reservedZero (cmdOf commandFetchedD) = true ∧ cSkind (cmdOf commandFetchedD) = 0 ∧ (commandFetchedW.strmAt 5).abortHeld = false ∧
    (commandFetchedW.acc.find? fun b => ofChan 0 1 b && (b.kind == .ring || b.kind == .program) && b.stage == .out) = some (acc 9 .ring false 0x13C0 64) ∧
    (commandFetchedW.strmAt 5).pers = false ∧ (commandFetchedW.chan 1).stop = none ∧ (commandFetchedW.chan 1).abort = false ∧
    after (.commandFetched 0 1 commandFetchedD .okay) commandFetchedW (fun t => (t.sq 5).head == 0 && (t.sq 5).outst == 3 && (t.chan 1).ph == .decoded) = true ∧
    (commandFetchedU.acc.find? fun b => ofChan 0 1 b && (b.kind == .ring || b.kind == .program) && b.stage == .out)
      = some (acc 9 .program false 0x4000 128) ∧
    (commandFetchedU.strmAt 5).paddr.toNat + 128 * ((commandFetchedU.strmAt 5).pc.toNat / 2) = 0x4000 ∧ (commandFetchedU.strmAt 5).pc.toNat + 1 ≠ (commandFetchedU.strmAt 5).plen.toNat ∧
    (commandFetchedU.dcU 0).tabs = [] ∧
    after (.commandFetched 0 1 commandFetchedD .okay) commandFetchedU (fun t => (t.chan 1).ph == .decoded && t.acc == []) = true := by decide +kernel

/-- For `test_decode_reads`. -/
def decodeReadsK := { CmdCtx.fresh (raw [(0, 0, 18), (16, 0, 0x3020)]) with missing := [7] }

/-- For `test_decode_reads`. -/
def decodeReadsA := acc 9 (.decode 7) false 0x3000 64

/-- For `test_decode_reads`. -/
def decodeReadsW := running rooted { homed with cmd := some decodeReadsK } .dreads [decodeReadsA]

/-- For `test_decode_reads`. -/
def decodeReadsD := toLE 64 (2 ^ (8 * 62) * 0x3C00)

/-- The image of a TABLE LOAD arrives: 32 bytes of a beat. -/
theorem test_decode_reads :
    (decodeReadsW.chan 1).dflt = none ∧ (decodeReadsW.chan 1).bad = false ∧ (decodeReadsW.chan 1).got = [] ∧ decodeReadsW.decodeReads 0 1 = [decodeReadsA] ∧ decodeReadsK.got = [] ∧
    cOpc decodeReadsK.raw = 18 ∧ cb decodeReadsK.raw 8 0 = false ∧ cf decodeReadsK.raw 16 0 48 % 32 = 0 ∧ decodeReadsA.va = cf decodeReadsK.raw 16 0 48 / 64 * 64 ∧ decodeReadsD.length = 64 ∧
    curveBad ((decodeReadsD.drop (cf decodeReadsK.raw 16 0 48 % 64)).take 32) = false ∧
    after (.decodeReadsDone 0 1 [(decodeReadsD, .okay)] false) decodeReadsW (fun t => (t.chan 1).ph == .decoded && t.acc == []) = true := by decide +kernel

/-- A slot table that asks for the JOIN of slot 0 with 3 units. -/
def slotEnt : List Byte := toLE 32 (put [(0, 0, 1), (1, 0, 1), (4, 0, 3), (8, 0, 64), (16, 0, 128)])

/-- The four reads of that table. -/
def slotReads : List Access := (List.range 4).map fun i => acc (9 + i) .slotTable false (0x8000 + 2048 * i) 2048

/-- No other entry of that table asks for anything. -/
theorem test_slot_others (i : Nat) (h : i < 256) (h0 : i ≠ 0) :
    bfld (((slotEnt ++ List.replicate 8160 0).drop (32 * i)).take 32) 1 0 8 =
      bfld (((slotEnt ++ List.replicate 8160 0).drop (32 * i)).take 32) 3 0 8 := by
  have e : ((slotEnt ++ List.replicate 8160 (0 : Byte)).drop (32 * i)).take 32 = List.replicate 32 0 := by
    rw [List.drop_append, List.drop_eq_nil_of_le (by simp [slotEnt, toLE]; omega), List.nil_append, List.drop_replicate,
      List.take_replicate]
    congr 1
    simp [slotEnt, toLE]; omega
  rw [e]; decide +kernel

/-- For `test_slot_join`. -/
def slotJoinW := { running rooted homed .slots slotReads with parts := [(0, { Part.reset with bsa := 3 })] }

/-- A JOIN of slot 0 with 3 units. -/
theorem test_slot_join :
    (slotJoinW.acc.filter fun a => ofChan 0 1 a && a.kind == .slotTable) = slotReads ∧ slotEnt.length + 8160 = 8192 ∧
    bfld slotEnt 1 0 8 ≠ bfld slotEnt 3 0 8 ∧ bfld slotEnt 0 0 2 = 1 ∧ bfld slotEnt 4 0 16 = 3 ∧
    (slotJoinW.ch 0 1).stop = none ∧ (slotJoinW.ch 0 1).got = [] ∧ (∀ a ∈ slotReads, a.stage = .out) ∧
    slotReads.map (·.va) = (List.range 4).map (fun i => 0x8000 + 2048 * i) ∧
    slotSpace (slotJoinW.strmAt 5).slots 1 ≤ (slotJoinW.part 0).bsUsed ∧ slotSpace (slotJoinW.strmAt 5).slots 2 ≤ (slotJoinW.part 0).spUsed ∧
    (∀ e ∈ (slotJoinW.strmAt 5).slots, e.2.st = 2 → e.2.units ≠ []) ∧ (slotJoinW.ten 1).rootEn = true ∧ (slotJoinW.mover 0).utlb = [] ∧
    (slotJoinW.xlU 0).l2 = [] ∧ (slotJoinW.strmAt 5).slots.find 0 = none ∧ (slotJoinW.part 0).bsUsed + 3 ≤ (slotJoinW.part 0).bsa.toNat ∧ (slotJoinW.ch 0 1).ph = .slots ∧
    after (.slotTableReadDone 0 1 slotEnt .decerr) slotJoinW (fun t => (t.strmAt 5).st == .halted && t.acc == []) = true := by
  decide +kernel

/-- The walk of a source read at a level. -/
def walking (lvl : BitVec 2) (b : Access) : State :=
  let w : Walk := { req := { ten := 1, gen := 0, va := b.va, wr := false, aid := b.aid }, lvl := lvl, tbl := 7, path := [], discard := false }
  { running rooted homed .tiles [b, { blankAcc 0 .walk 0 .walkRead false 0x7000 8 with aid := 10, stage := .out }] with
    xl := [(0, { Xl.reset with walk := some w })] }

/-- For `test_walk`. -/
def walkB := { acc 9 (.source 0) false 0x201040 64 with stage := .xlat }

/-- For `test_walk`. -/
def walkLeaf : BitVec 64 := 0x5000 + 0b010111

/-- For `test_walk`. -/
def walkNode : BitVec 64 := 0x6001

/-- A leaf of level 0 for reads, and an entry that leads from level 1 to level 0. -/
theorem test_walk :
    (walking 0 walkB).findAcc 9 = some walkB ∧ ((walking 0 walkB).xlU 0).queue = [] ∧ walkLeaf.getLsbD 0 = true ∧ walkLeaf.extractLsb' 6 6 = 0 ∧ walkLeaf.extractLsb' 48 16 = 0 ∧
    walkLeaf.getLsbD 1 = true ∧ walkLeaf.extractLsb' 4 2 ≠ 3 ∧ walkLeaf.getLsbD 2 = true ∧
    walkNode.getLsbD 0 = true ∧ walkNode.getLsbD 1 = false ∧ walkNode.extractLsb' 2 4 = 0 ∧ walkNode.extractLsb' 6 6 = 0 ∧
    after (.walkReadResponse 0 walkLeaf .okay false) (walking 0 walkB) (fun t => (t.acc.map fun a => (a.aid, a.pa, a.stage, a.cache))
      == [(9, 0x5040, .issue, 3)] && (t.xlU 0).walk == none) = true ∧
    after (.walkReadResponse 0 walkNode .okay false) (walking 1 walkB) (fun t => (t.acc.map fun a => (a.kind, a.pa))
      == [(.source 0, 0), (.walkRead, 0x6008)]) = true := by decide +kernel

/-- For `test_source_read`. -/
def sourceReadA := acc 9 (.source 0) false 0x1000 64

/-- For `test_source_read`. -/
def sourceReadB := acc 10 (.source 0) false 0x2000 64

/-- For `test_source_read`. -/
def sourceReadW := running rooted homed .tiles [sourceReadA, sourceReadB]

/-- One of two source reads of a tile returns. -/
theorem test_source_read :
    sourceReadW.findAcc 9 = some sourceReadA ∧ ofChan 0 1 sourceReadB = true ∧ sourceReadA.rq = .mover 0 ∧ sourceReadA.drain = false ∧
    after (.sourceReadResponse 9 (toLE 64 5) .okay false) sourceReadW (fun t => (t.chan 1).got == [(0x1000, toLE 64 5)]
      && t.acc == [sourceReadB]) = true := by decide +kernel

/-- For `test_tile_ready`. -/
def tileReadyK := { cmd [(0, 0, 1)] with stage := .tiles, got := [(2, desc1 0x1000 3), (3, desc1 0x203E 3)] }

/-- For `test_tile_ready`. -/
def tileReadyTl : TileSlot := { tile := 0, bytes := [(0x203E, 1), (0x203F, 2), (0x2040, 3), (0x203E, 4)] }

/-- For `test_tile_ready`. -/
def tileReadyW0 := running rooted { homed with cmd := some tileReadyK } .tiles []

/-- For `test_tile_ready`. -/
def tileReadyW := { tileReadyW0 with chans := [(1, { tileReadyW0.chan 1 with slot := some tileReadyTl, xl := [(2, (0x77, 0))] })] }

/-- For `test_tile_ready`. -/
def tileReadyG := runGeo (tileReadyW.strmAt 5) tileReadyK

/-- The one tile of a TRANSFER of three bytes; two of its bytes go to one address. -/
theorem test_tile_ready :
    tileReadyW.slotAwaits 0 1 0 = false ∧ tileReadyG.rwr = false ∧ (tileReadyG.dd.space && !tileReadyG.meter) = false ∧ tileReadyG.tiles = tileReadyTl.tile + 1 ∧
    after (.tileReady 0 1 .good) tileReadyW (fun t => (t.acc.map fun a => (a.pa, a.len, a.data.drop 62, a.en.count true))
      == [(0x77000, 128, [4, 2, 3] ++ List.replicate 63 0, 3)] && (t.strmAt 5).ntile == 1) = true := by decide +kernel

/-- For `test_write_responses`. -/
def writeResponsesK := cmd [(0, 0, 1)]

/-- For `test_write_responses`. -/
def writeResponsesJ := cmd [(0, 0, 9), (8, 2, 1)]

/-- For `test_write_responses`. -/
def writeResponsesA := { acc 9 (.dest 2) true 0x1000 64 with en := [true, false, true] }

/-- For `test_write_responses`. -/
def writeResponsesB := acc 10 (.dest 2) true 0x2000 64

/-- For `test_write_responses`. -/
def writeResponsesW := running rooted { homed with cmd := some writeResponsesK } .tiles [writeResponsesA, writeResponsesB]

/-- For `test_write_responses`. -/
def writeResponsesV := running rooted { homed with cmd := some writeResponsesK } .readBack [acc 9 .readBack false 0x1000 64]

/-- For `test_write_responses`. -/
def writeResponsesU := running rooted { homed with cmd := some writeResponsesJ } .flag [acc 9 .flag true 0x1000 4]

/-- Responses to a write of a tile, a read-back and a flag write. -/
theorem test_write_responses :
    writeResponsesW.findAcc 9 = some writeResponsesA ∧ (writeResponsesW.ch 0 writeResponsesA.ch).act = some writeResponsesA.sid ∧ writeResponsesB ∈ writeResponsesW.acc.filter (fun q => q.aid ≠ 9) ∧
    (∀ p : Fin 8, (writeResponsesW.rstE p).busy = false) ∧ writeResponsesB.drain = false ∧ cf writeResponsesJ.raw 8 0 2 = 0 ∧ cSkind writeResponsesJ.raw = 0 ∧
    after (.writeResponse 9 .okay) writeResponsesW (fun t => ((t.strmAt 5).cmd.map (·.ok)) == some [(2, 2)] && t.acc == [writeResponsesB]) = true ∧
    after (.readBackResponse 9 .okay) writeResponsesV (fun t => (t.chan 1).ph == .done && t.acc == []) = true ∧
    after (.flagWriteResponse 9 .okay) writeResponsesU (fun t => (t.chan 1).ph == .done && t.acc == []) = true := by decide +kernel

/-- For `test_command_complete`. -/
def commandCompleteK := { cmd [(2, 0, 0xABCD)] with stage := .done, recQueue := 5 }

/-- For `test_command_complete`. -/
def commandCompleteW := { running rooted { homed with cmd := some commandCompleteK } .done [] with
  sqs := [(5, { Sq.reset with en := true, log2sz := 4, head := 3, tail := 3, ten := 1 })]
  cqs := [(0, { Cq.reset with en := true, log2sz := 4, ten := 1, base := 8, tail := 15, head := 5 })] }

/-- For `test_command_complete`. -/
def commandCompleteJ := { cmd [] with stage := .done }

/-- For `test_command_complete`. -/
def commandCompleteU := running rooted { homed with cmd := some commandCompleteJ, pers := true, ran := true, plen := 4, pc := 1, paddr := 0x4000 } .done []

/-- The completion of a queue's command with its ring read out, and of a program's last command but the LOOP. -/
theorem test_command_complete :
    commandCompleteW.writesOut 0 1 = false ∧ commandCompleteW.hasHeld 5 = false ∧ commandCompleteW.mustLeave 0 5 = false ∧ (commandCompleteW.chan 1).run < (commandCompleteW.part 0).quantum.toNat ∧
    commandCompleteW.readable 5 = false ∧ (commandCompleteW.strmAt 5).rpend = none ∧ (commandCompleteW.cq 0).held = [] ∧ (commandCompleteW.cq 0).full = false ∧
    ((commandCompleteW.cq 0).tail.toNat + (commandCompleteW.cq 0).given.length) % 2 ^ (commandCompleteW.cq 0).log2sz.toNat = 15 ∧
    after (.commandComplete 0 1) commandCompleteW (fun t => (t.strmAt 5).st == .armed && (t.chan 1).act == none
      && ((t.cq 0).given.map fun g => (g.slot, g.ph)) == [(15, true)]
      && t.acc.any fun a => a.va == 0x81E0 && a.data.take 4 == [0xCD, 0xAB, 0, 0x11]) = true ∧
    (commandCompleteW.xlU 0).wc = [] ∧ (commandCompleteW.ten 1).rootEn = true ∧ (commandCompleteW.chan 1).shadow = none ∧ (commandCompleteW.strmAt 5).wait = .none ∧
    (commandCompleteW.strmAt 5).stopAt = .none ∧ (commandCompleteU.dcU 0).desc ++ (commandCompleteU.dcU 0).tabs = [] ∧ recordDue (commandCompleteU.strmAt 5) commandCompleteJ = false ∧ commandCompleteU.cached 0 1 0 0x4080 = none ∧
    after (.commandComplete 0 1) commandCompleteU (fun t => (t.strmAt 5).pc == 2 && t.acc.any fun a => a.kind == .program && a.va == 0x4080) = true := by
  decide +kernel

/-- For `test_records_written`. -/
def recordsWrittenR : CqRec := { bits := 0, sid := 5, mv := 0, ch := 1, queue := 5, irq := true, outst := true, ord := 0 }

/-- For `test_records_written`. -/
def recordsWrittenA := { blankAcc 0 .record 1 (.cqRec 0 15) true 0x81E0 32 with aid := 9, stage := .out }

/-- For `test_records_written`. -/
def recordsWrittenW := { rooted with
  acc := [recordsWrittenA], sqs := [(5, { Sq.reset with en := true, outst := 2 })]
  cqs := [(0, { Cq.reset with en := true, log2sz := 4, tail := 15, given := [{ item := recordsWrittenR, slot := 15, ph := true, done := false }] })] }

/-- For `test_records_written`. -/
def recordsWrittenB := { blankAcc 0 .record 0 (.fqRec 0) true 0x81E0 32 with aid := 9, stage := .out }

/-- For `test_records_written`. -/
def recordsWrittenU := { rooted with
  acc := [recordsWrittenB], parts := [(0, { Part.reset with fq := { Fq.reset with en := true, log2sz := 4, tail := 15, busy := true, lost := 0xFFFF } })] }

/-- Record writes that land: a completion record at the end of its ring, and fault records. -/
theorem test_records_written :
    recordsWrittenW.findAcc 9 = some recordsWrittenA ∧ recordsWrittenA.drain = false ∧ recordsWrittenU.findAcc 9 = some recordsWrittenB ∧ (recordsWrittenU.part 0).fq.buf = [] ∧
    after (.completionRecordWritten 9 .okay) recordsWrittenW (fun t => (t.cq 0).tail == 0 && !(t.cq 0).ph && (t.cq 0).pend && (t.sq 5).outst == 1) = true ∧
    after (.faultRecordWritten 9 .okay) recordsWrittenU (fun t => (t.part 0).fq.tail == 0 && (t.part 0).fq.ph && (t.part 0).fq.pend) = true ∧
    after (.faultRecordWritten 9 .slverr) recordsWrittenU (fun t => (t.part 0).fq.tail == 15 && (t.part 0).fq.lost == 0xFFFF) = true := by decide +kernel

/-- For `test_ecnos`. -/
def ecnosE := { Ecn.reset with desc := 0x100 }

/-- For `test_ecnos`. -/
def ecnosW := { rooted with ecn := [(10, ecnosE)], parts := [(1, { Part.reset with en := true, ecnEn := true, eten := 1, ecnHi := 0xFF })] }

/-- For `test_ecnos`. -/
def ecnosU := { ecnosW with
  ecn := [(10, { ecnosE with busy := true, next := 0x2000 })], strms := [(1034, { Strm.reset with st := .ready, ten := 1 })] }

/-- For `test_ecnos`. -/
def ecnosA := { blankAcc 1 (.mover 0) 1 (.ecnos 0) false 0x2000 32 with aid := 9, pa := 0x2000, stage := .out }

/-- For `test_ecnos`. -/
def ecnosV := { ecnosU with chans := [(1, { Chan.reset with act := some 1034, ph := .ecnFetch })], acc := [ecnosA] }

/-- For `test_ecnos`. -/
def ecnosD := toLE 32 (put [(0, 0, 0x3010), (8, 0, 0x4000), (16, 0, 100), (20, 0, 0b1000011)])

/-- Ecnos channel 2 of partition 1: START, START with Ecnos mode off, ABORT, and a descriptor of 100 bytes. -/
theorem test_ecnos :
    (ecnosW.ecnCh 10).busy = false ∧ ecnosW.granRet.get false 16 = false ∧ ecnosW.hasHeld 1034 = false ∧
    after (.ecnosStart 1 2) ecnosW (fun t => (t.ecnCh 10).busy && (t.strmAt 1034).st == .ready) = true ∧
    after (.ecnosStart 0 0) ecnosW (fun t => (t.ecnCh 0).err && (t.ecnCh 0).fcode == 0x16) = true ∧
    (∀ h ∈ ecnosU.chans, h.2.act ≠ some 1034) ∧
    after (.ecnosAbort 1 2) ecnosU (fun t => (t.ecnCh 10).done && t.strmAt 1034 == Strm.reset) = true ∧
    (ecnosV.acc.find? fun b => ofChan 0 1 b && isEcnAcc b.kind && b.stage == .out) = some ecnosA ∧
    ecnosV.ecnCheck 1 (BitVec.ofNat 256 (leNat (ecnosD.take 32))) ecnosA.pa = none ∧
    after (.ecnosDescriptor 0 1 ecnosD .okay) ecnosV (fun t => (t.chan 1).ph == .ecnRun
      && (t.acc.map fun b => (b.pa, b.len)) == [(0x3000, 128)]) = true := by decide +kernel

/-! ### Doorbells and configuration -/

/-- Tenant 1 with queue 5 at doorbell slot 2 and completion queue 0 at slot 3, of 16 entries each. -/
def queued : State :=
  { rooted with
    sqs := [(5, { Sq.reset with en := true, log2sz := 4, ten := 1, dbslot := 2, qout := 4 })]
    cqs := [(0, { Cq.reset with en := true, log2sz := 4, ten := 1, dbslot := 3, head := 7 })]
    strms := [(5, { homed with st := .armed, hen := false, queue := 5 })] }

/-- Stream 5 in a state, stopped at a tile of a TRANSFER. -/
def stopped (st : StState) (at' : StopAt) : State :=
  { queued with strms := [(5, { homed with
      st := st, hen := false, queue := 5, stopAt := at', ntile := 3, cmd := some { cmd [(0, 0, 1)] with stage := .tiles } })] }

/-- The queue of that doorbell slot. -/
theorem test_one_queue (j : Nat) (h : (queued.sq j).en = true) : j = 5 := by
  by_contra hj
  have : ¬ 5 = j := fun e => hj e.symm
  simp [queued, State.sq, SMap.get, this, Sq.reset] at h

/-- The completion queue of that doorbell slot. -/
theorem test_one_completion_queue (j : Nat) (h : (queued.cq j).en = true) : j = 0 := by
  by_contra hj
  have : ¬ 0 = j := fun e => hj e.symm
  simp [queued, State.cq, SMap.get, this, Cq.reset] at h

/-- Writes to the page of tenant 3, which is disabled. -/
theorem test_disabled_doorbells :
    base.Serves ∧ (base.ten 3).en = false ∧ after (.dbSqTail 3 2 1) base (· == base.reached) = true ∧
    after (.dbCqHead 3 2 1) base (· == base.reached) = true ∧ after (.dbSkip 3 5) base (· == base.reached) = true :=
  ⟨base_serves, by decide +kernel⟩

/-- Tail 15 of a ring of 16 wakes the ARMED stream; 16 is ignored; head 15 is taken. -/
theorem test_indices :
    queued.boot.state = 13 ∧ queued.pins.host = false ∧ queued.pwr.state = 0 ∧ (queued.ten 1).en = true ∧
    queued.tenFenced 1 = false ∧ queued.sqs.wf Sq.reset ∧ queued.cqs.wf Cq.reset ∧ (queued.sq 5).dbslot = 2 ∧
    (queued.strmAt 5).st = .armed ∧ (queued.sq 5).head ≠ 15 ∧ queued.homeOut 5 = false ∧ (queued.sq 5).outst.toNat < (queued.sq 5).qout.toNat ∧
    queued.hasHeld 5 = false ∧ queued.homeBusy 5 = false ∧
    after (.dbSqTail 1 2 15) queued (fun t => (t.sq 5).tail == 15 && (t.strmAt 5).st == .ready) = true ∧
    after (.dbSqTail 1 2 16) queued (· == queued.reached) = true ∧ (queued.cq 0).held = [] ∧
    after (.dbCqHead 1 3 15) queued (fun t => t == { queued.reached with cqs := queued.cqs.put Cq.reset 0 { queued.cq 0 with head := 15 } })
      = true ∧ after (.dbCqHead 1 3 16) queued (· == queued.reached) = true := by decide +kernel

/-- For `test_stopped_stream`. -/
def stoppedStreamF := stopped .frozen .tile

/-- For `test_stopped_stream`. -/
def stoppedStreamH := stopped .halted .tile

/-- For `test_stopped_stream`. -/
def stoppedStreamX := stoppedStreamH.strmAt 5

/-- For `test_stopped_stream`. -/
def stoppedStreamR0 := stopped .ready .none

/-- For `test_stopped_stream`. -/
def stoppedStreamR := { stoppedStreamR0 with chans := [(6, { Chan.reset with shadow := some 5 })] }

/-- THAW, RESUME, SKIP and ABORT of a stream stopped at a tile; a stream of another tenant. -/
theorem test_stopped_stream :
    stoppedStreamF.homeOut 5 = false ∧ (stoppedStreamF.strmAt 5).rpend = none ∧ stoppedStreamR.chans.wf Chan.reset ∧ isEcn 5 = false ∧
    after (.dbAbort 1 5) stoppedStreamR (fun t => (t.strmAt 5).abortHeld && (t.chan 6).shadow == none) = true ∧
    stoppedStreamF.strmFenced 5 = false ∧ stoppedStreamX.rpend = none ∧ stoppedStreamF.hasHeld 5 = false ∧ stoppedStreamF.homeBusy 5 = false ∧ stoppedStreamX.wait = .none ∧ stoppedStreamX.fgenp = 0 ∧
    (∃ k, stoppedStreamX.cmd = some k ∧ isData k.raw = true ∧ k.stage ≠ .done) ∧
    after (.dbThaw 1 5) stoppedStreamF (fun t => t.strmAt 5 == { stoppedStreamF.strmAt 5 with st := .ready, stopAt := .none, readySeq := stoppedStreamF.seq }) = true ∧
    after (.dbResume 1 5) stoppedStreamH (fun t => t.strmAt 5 == { stoppedStreamX with st := .ready, stopAt := .none, readySeq := stoppedStreamH.seq }) = true ∧
    after (.dbSkip 1 5) stoppedStreamH (fun t => (t.strmAt 5).ntile == 4 && (t.strmAt 5).st == .ready) = true ∧
    after (.dbAbort 1 5) stoppedStreamF (fun t => t.strmAt 5 == { stoppedStreamF.strmAt 5 with abortHeld := true }) = true ∧
    after (.dbAbort 1 5) stoppedStreamH (fun t => ((t.strmAt 5).cmd.map (·.aborted)) == some true && (t.strmAt 5).st == .ready) = true ∧
    after (.dbAbort 1 6) stoppedStreamH (· == stoppedStreamH.reached) = true := by decide +kernel

/-- For `test_sq_enable`. -/
def sqEnableW := { queued with sqs := [], strms := [], parts := [(0, { Part.reset with qen := true })] }

/-- For `test_sq_enable`. -/
def sqEnableV : BitVec 64 := BitVec.ofNat 64 (1 + 4 * 2 + 1 * 2 ^ 6 + 3 * 2 ^ 22 + 9 * 2 ^ 30)

/-- For `test_sq_enable`. -/
def sqEnableU := { queued with parts := [(0, { Part.reset with qen := true })] }

/-- The queue's enable with a ring of 16; with a ring of 8; and the disable of an ARMED queue. -/
theorem test_sq_enable :
    (sqEnableW.sq 5).en = false ∧ sqEnableV.extractLsb' 1 5 = 4 ∧ (sqEnableW.cq 0).en = true ∧ (sqEnableW.cq 0).ten = sqEnableV.extractLsb' 6 8 ∧
    sqEnableW.granRet.get false 0 = false ∧ (sqEnableW.strmAt 5).st = .empty ∧
    after (.sqEnable 5 sqEnableV) sqEnableW (fun t => (t.sq 5).en && (t.sq 5).qout == 3 && (t.strmAt 5).st == .armed) = true ∧
    after (.sqEnable 5 (sqEnableV - 2)) sqEnableW (fun t => !(t.sq 5).en && (t.sq 5).log2sz == 3 && (t.strmAt 5).st == .empty) = true ∧
    (sqEnableU.sq 5).en = true ∧ sqEnableU.sqIdle 5 = true ∧ (sqEnableU.strmAt 5).st = .armed ∧ (sqEnableU.strmAt 5).fgenp = 0 ∧
    (∀ e ∈ sqEnableU.strms, e.2.pers = true → e.2.queue.toNat = 5 → e.2.st = .empty ∨ e.2.st = .armed) ∧
    (∀ e ∈ sqEnableU.cqs, ∀ r ∈ e.2.held, r.queue.toNat ≠ 5) ∧
    after (.sqEnable 5 0x2000000) sqEnableU (fun t => (t.sq 5).en && (t.sq 5).qout == 8 && (t.sq 5).log2sz == 4) = true ∧
    after (.sqDisable 5 0) sqEnableU (fun t => !(t.sq 5).en && (t.sq 5).log2sz == 4 && t.strmAt 5 == { Strm.reset with hch := 1 }) = true := by decide +kernel

/-- For `test_cq_enable`. -/
def cqEnableV : BitVec 64 := BitVec.ofNat 64 (1 + 16 * 2 + 1 * 2 ^ 6)

/-- For `test_cq_enable`. -/
def cqEnableU := { queued with sqs := [] }

/-- A completion queue's enable, with a ring of 2^17 too, its disable, and its disable while a queue uses it. -/
theorem test_cq_enable :
    (queued.cq 1).en = false ∧ cqEnableV.extractLsb' 1 5 = 16 ∧
    after (.cqEnable 1 cqEnableV) queued (fun t => (t.cq 1).en && (t.cq 1).ph && (t.cq 1).log2sz == 16) = true ∧
    after (.cqEnable 1 (cqEnableV + 2)) queued (fun t => !(t.cq 1).en && (t.cq 1).log2sz == 17) = true ∧
    (∃ e ∈ queued.sqs, e.2.en = true ∧ e.2.cq.toNat = 0) ∧ after (.cqDisable 0 0) queued (· == queued.reached) = true ∧
    cqEnableU.acc = [] ∧ (cqEnableU.cq 0).given = [] ∧ after (.cqDisable 0 0) cqEnableU (fun t => !(t.cq 0).en && (t.cq 0).head == 7) = true := by
  decide +kernel

/-- For `test_fault_queue`. -/
def faultQueueF := { Fq.reset with en := true, log2sz := 4, tail := 2, lost := 0xFFFE, buf := [frec, frec] }

/-- For `test_fault_queue`. -/
def faultQueueW := { base with parts := [(2, { Part.reset with fq := faultQueueF })] }

/-- A fault queue's enable, its disable with two records waiting, and HEAD. -/
theorem test_fault_queue :
    (base.part 2).fq.en = false ∧ after (.fqEnable 2 0x5009) base (fun t => (t.part 2).fq.en && (t.part 2).fq.base == 5) = true ∧
    after (.fqEnable 2 0x5007) base (fun t => !(t.part 2).fq.en && (t.part 2).fq.log2sz == 3) = true ∧
    after (.fqEnable 2 0) faultQueueW (· == faultQueueW.reached) = true ∧ (faultQueueW.part 2).fq.en = true ∧
    after (.fqDisable 2 0) faultQueueW (fun t => (t.part 2).fq == { faultQueueF with en := false, lost := 0xFFFF, buf := [] }) = true ∧
    (faultQueueW.part 3).fq.buf = [] ∧ after (.fqHead 3 9) faultQueueW (fun t => (t.part 3).fq.head == 9) = true := by decide +kernel

/-- For `test_tenant_enable`. -/
def tenantEnableW := { base with tens := [(1, { Tenant.reset with avail := true, cerr := true })], parts := [(0, { Part.reset with en := true })] }

/-- GL_TENANT with AVAIL, with a WEIGHT of 0, and EN=0 with and without a queue of the tenant. -/
theorem test_tenant_enable :
    (tenantEnableW.ten 1).avail = true ∧ (tenantEnableW.part (tenantEnableW.ten 1).part.toNat).en = true ∧
    after (.tenantEnable 1 0x100050001) tenantEnableW (fun t => (t.ten 1).en && (t.ten 1).weight == 5 && !(t.ten 1).cerr) = true ∧
    after (.tenantEnable 1 0x100000001) tenantEnableW (fun t => !(t.ten 1).en && (t.ten 1).cerr) = true ∧ tenantEnableW.strms = [] ∧
    after (.tenantDisable 1 0x70000) rooted (fun t => !(t.ten 1).en && (t.ten 1).weight == 7) = true ∧
    after (.tenantDisable 1 0) queued (fun t => (t.ten 1).en && (t.ten 1).cerr) = true := by decide +kernel

/-- For `test_home`. -/
def homeW := { queued with parts := [(0, { Part.reset with mvmask := 0x30 })], movers := [(5, { Mover.reset with oos := true })] }

/-- For `test_home`. -/
def homeV : BitVec 32 := BitVec.ofNat 32 (5 + 4 * 2 ^ 10 + 3 * 2 ^ 16 + 2 ^ 18)

/-- A home on Mover 4, and on a Mover that is out of service. -/
theorem test_home :
    (homeW.strmAt 5).st = .armed ∧ (homeW.part 0).mvmask.getLsbD 4 = true ∧ (homeW.mover 4).oos = false ∧
    after (.ptHome 0 homeV) homeW (fun t => (t.strmAt 5).hen && (t.strmAt 5).hmv == 4 && (t.strmAt 5).hch == 3) = true ∧
    after (.ptHome 0 (homeV + 0x400)) homeW (fun t => (t.part 0).homeDrop && t.strmAt 5 == homeW.strmAt 5) = true := by decide +kernel

/-- For `test_invalidations`. -/
def invalidationsE : TlbE := { ten := 1, gen := 0, lvl := 1, vpn := 3, ppn := 9, rd := true, wr := true, attr := 0 }

/-- For `test_invalidations`. -/
def invalidationsW := { base with
  movers := [(0, { Mover.reset with utlb := [invalidationsE, { invalidationsE with lvl := 0 }] })]
  xl := [(0, { Xl.reset with wc := [{ ten := 1, gen := 0, lvl := 0, vtag := 3, tbl := 5 }, { ten := 2, gen := 0, lvl := 0, vtag := 3, tbl := 6 }] })] }

/-- For `test_invalidations`. -/
def invalidationsU := { invalidationsW with inv := { busy := true, drop := false, waits := [3] } }

/-- Invalidations of a page of 2 MiB and of a tenant, a second one, and the end. -/
theorem test_invalidations :
    invalidationsW.inv.busy = false ∧ invalidationsW.acc = [] ∧ invalidationsW.chans = [] ∧ invalidationsW.xl.all (·.2.queue == []) = true ∧ invalidationsW.movers.wf Mover.reset ∧ invalidationsW.xl.wf Xl.reset ∧
    after (.invPage 1 0x600) invalidationsW (fun t => (t.mover 0).utlb == [{ invalidationsE with lvl := 0 }] && t.inv.busy
      && ((t.xlU 0).wc.map (·.ten)) == [2]) = true ∧
    after (.invTenant 1) invalidationsW (fun t => (t.mover 0).utlb == []) = true ∧ after (.invAll) invalidationsW (fun t => (t.xlU 0).wc == []) = true ∧
    after (.invAll) invalidationsU (fun t => t.inv.drop && (t.mover 0).utlb.length == 2) = true ∧ (∀ a ∈ invalidationsU.acc ++ invalidationsU.sink, a.aid ∉ invalidationsU.inv.waits) ∧
    after .invDone invalidationsU (fun t => !t.inv.busy && t.inv.waits == []) = true := by decide +kernel

/-- For `test_counter_clear`. -/
def counterClearW := { base with
  cnts := [(67, { Cnt.reset with value := 5, arr := 3, next := 1, dent := true, bound := true })]
  movers := [(1, { Mover.reset with susp := [1, 2], sovf := true, froz := true })] }

/-- CLR of a counter and of a suspect list, and SOLO. -/
theorem test_counter_clear :
    after (.counterClear 1 3) counterClearW (fun t => t.cnt 67 == { Cnt.reset with value := 5, bound := true }) = true ∧
    after (.suspectClear 1) counterClearW (fun t => t.mover 1 == Mover.reset) = true ∧
    after (.soloMode 1 0x0B) counterClearW (fun t => (t.mover 1).solo && (t.mover 1).solot == 5) = true := by decide +kernel

/-- For `test_strm_bind`. -/
def strmBindX := { Strm.reset with st := .armed, ten := 1, pers := true, hen := true }

/-- For `test_strm_bind`. -/
def strmBindW := { rooted with strms := [(2000, strmBindX)], strm := [(3, { StrmP.reset with en := true, sid := 7 })] }

/-- For `test_strm_bind`. -/
def strmBindU := { strmBindW with strms := [(2000, { strmBindX with hen := false })] }

/-- For `test_strm_bind`. -/
def strmBindB := { strmBindW with strm := [(2, { StrmP.reset with en := true, sid := 2000, frames := 4, inFrame := true })] }

/-- For `test_strm_bind`. -/
def strmBindV : BitVec 64 := BitVec.ofNat 64 (1 + 2 * 2 + 2000 * 8 + 1 * 2 ^ 24)

/-- TDEST 2 bound to stream 2000, refused without a home, and unbound. -/
theorem test_strm_bind :
    (strmBindW.strmP 2).en = false ∧ (∀ e : Fin 4, e ≠ 2 → (strmBindW.strmP e).en = true → (strmBindW.strmP e).sid ≠ 2000) ∧
    after (.strmBind 2 strmBindV) strmBindW (fun t => (t.strmP 2).en && (t.strmP 2).pack == 2 && (t.strmP 2).sid == 2000) = true ∧
    after (.strmBind 2 strmBindV) strmBindU (· == strmBindU.reached) = true ∧
    after (.strmBind 2 (strmBindV - 1)) strmBindU (fun t => !(t.strmP 2).en && (t.strmP 2).sid == 2000) = true ∧
    (strmBindB.strmP 2).en = true ∧ (strmBindB.strmAt 2000).st ≠ .running ∧
    after (.strmBind 2 0) strmBindB (fun t => t.strmP 2 == { StrmP.reset with sid := 2000, frames := 4 }) = true := by decide +kernel

/-- For `test_register_writes`. -/
def registerWritesW := { base with hsec := { base.hsec with priven := true, vcnt := 0xFFFF } }

/-- For `test_register_writes`. -/
def registerWritesU := { base with host := { base.host with held := some (0x820, 0x1003) } }

/-- Writes of words: barred by PRIVEN, with a strobe missing, without a register, a low half, its high half, GL_IRQ_EN,
and PRIVEN. -/
theorem test_register_writes :
    base.boot.state = 13 ∧ registerWritesW.hsec.priven = true ∧
    after (.registerWrite 0x800 1 0xF false) registerWritesW (fun t => t.hsec.viol && t.hsec.vcnt == 0xFFFF && t.irq.en == 0) = true ∧
    after (.registerWrite 0x800 1 0x7 true) base (· == base.reached) = true ∧ regAt 0x1C = none ∧
    after (.registerWrite 0x1C 1 0xF true) base (· == base.reached) = true ∧ (regAt 0x820).map (fun r => (r.1.wide, r.2)) = some (true, false) ∧
    after (.registerWrite 0x820 0x1003 0xF true) base (fun t => t.host.held == some (0x820, 0x1003) && t.irq == base.irq) = true ∧
    after (.registerWrite 0x824 2 0xF true) registerWritesU (fun t => t.irq.msiaddr == 0x80000400 && t.host.held == none) = true ∧
    after (.registerWrite 0x800 0x15555 0xF true) base (fun t => t.irq.en == 0x5555) = true ∧
    after (.registerWrite 0x600 2 0xF true) registerWritesW (fun t => t.hsec.priven && !t.hsec.viol) = true := by decide +kernel

/-- For `test_register_reads`. -/
def registerReadsW := { base with hsec := { base.hsec with priven := true }, cnts := [(67, { Cnt.reset with value := 0x77, mode := 1 })] }

/-- For `test_register_reads`. -/
def registerReadsU := { base with host := { base.host with latch := some (0, 0x33) } }

/-- For `test_register_reads`. -/
def registerReadsB := { base with boot := Boot.reset }

/-- Reads of words: GL_ID's halves, no register, a counter, barred by PRIVEN, and before RUN. -/
theorem test_register_reads :
    base.host.wait = [] ∧ base.pins.aon = false ∧ base.pwr.off = false ∧ base.pwr.state.toNat < 3 ∧ (regAt 0).map (fun r => (r.1.wide, r.2)) = some (true, false) ∧
    (regAt 4).map (·.2) = some true ∧ after (.registerRead 4 true) registerReadsU (fun t => t.host.rdata == 0x33 && t.host.latch == none) = true ∧
    after (.registerRead 0x1C true) registerReadsU (fun t => t.host.rdata == 0 && t.host.latch == registerReadsU.host.latch) = true ∧
    after (.registerRead 0x80218 true) registerReadsW (fun t => t.host.rdata == 0x77) = true ∧
    after (.registerRead 0x80218 false) registerReadsW (fun t => t.host.rdata == 0 && t.hsec.vcnt == 1) = true ∧
    registerReadsB.boot.state ≠ 13 ∧ after (.registerRead 0 true) registerReadsB (fun t => t.host.rdata == BitVec.ofNat 32 idWord) = true ∧
    after (.registerRead 0x800 true) registerReadsB (fun t => t.host.rdata == 0) = true := by decide +kernel

/-! ### Sequencers, ageing and the shutter tables -/

/-- For `test_sequencer`. -/
def sequencerW := { rooted with
  parts := [(1, { Part.reset with en := true, mvmask := 4, gfirst := 64, glacBase := 2 })]
  tens := [(1, { Tenant.reset with en := true, part := 1, vt := 9 }), (2, { Tenant.reset with en := true, part := 1, vt := 8 })]
  chans := [(9, { Chan.reset with act := some 7, ph := .tiles })], movers := [(2, { Mover.reset with gated := true })]
  strms := [(5, { Strm.reset with st := .ready, ten := 1, part := 1 }), (6, { Strm.reset with st := .ready, ten := 2, part := 1 })] }

/-- For `test_sequencer`. -/
def sequencerU := { sequencerW with strms := [(41030, { Strm.reset with st := .ready, ten := 1, part := 1 })] }

/-- A choice for channel 1 of Mover 2, which has an active stream: of two READY streams the one whose tenant has the
less virtual time; and a stream of the glacier. -/
theorem test_sequencer :
    (sequencerW.part 1).mvmask.getLsbD 2 = true ∧ sequencerW.noPlace 2 = false ∧ (sequencerW.chan 9).shadow = none ∧ (sequencerW.chan 9).loading = none ∧
    (sequencerW.chan 9).act.isSome = true ∧ (sequencerW.strmAt 6).hen = false ∧ (sequencerW.strmAt 6).bad = 0 ∧ sequencerW.soloBars 2 2 = false ∧ sequencerW.tenFenced 2 = false ∧ sequencerW.shadowed 6 = false ∧
    sequencerW.strms.all (fun e => e.1 == 6 || rankLt (sequencerW.rank (6, sequencerW.strmAt 6)) (sequencerW.rank e)) = true ∧
    after (.sequencerChoice 1 2 1 false) sequencerW (fun t => (t.chan 9).shadow == some 6 && !(t.mover 2).gated) = true ∧
    after (.sequencerChoice 1 2 1 false) sequencerU (fun t => (t.chan 9).loading == some 41030
      && (t.acc.map fun a => (a.kind, a.pa, a.len)) == [(.glacRead 2 1, 0x2000 + 64 * 6, 64)]) = true := by decide +kernel

/-- For `test_glacier_record`. -/
def glacierRecordA := { blankAcc 1 (.mover 2) 1 (.glacRead 2 1) false 0x2180 64 with aid := 3, sid := 41030, stage := .out, phys := true }

/-- For `test_glacier_record`. -/
def glacierRecordW := { rooted with
  acc := [glacierRecordA], chans := [(9, { Chan.reset with act := some 7, ph := .tiles, loading := some 41030 })]
  strms := [(41030, { Strm.reset with st := .ready, ten := 1, part := 1 })] }

/-- For `test_glacier_record`. -/
def glacierRecordD := toLE 60 1

/-- A glacier record with the right check value, and one with a wrong one. -/
theorem test_glacier_record :
    glacierRecordW.findAcc 3 = some glacierRecordA ∧ (glacierRecordW.strmAt 41030).st = .ready ∧ glacierRecordW.noPlace 2 = false ∧ glacierRecordW.chans.wf Chan.reset ∧
    crc32c ((glacierRecordD ++ toLE 4 (crc32c glacierRecordD)).take 60) = leNat (((glacierRecordD ++ toLE 4 (crc32c glacierRecordD)).drop 60).take 4) ∧
    crc32c ((glacierRecordD ++ toLE 4 0).take 60) ≠ leNat (((glacierRecordD ++ toLE 4 0).drop 60).take 4) ∧
    after (.glacierRecordLoaded 3 (glacierRecordD ++ toLE 4 (crc32c glacierRecordD)) .okay) glacierRecordW (fun t => (t.chan 9).shadow == some 41030 && t.acc == []) = true ∧
    after (.glacierRecordLoaded 3 (glacierRecordD ++ toLE 4 0) .okay) glacierRecordW (fun t => (t.strmAt 41030).st == .quarantined && t.par.rcnt == 1) = true := by
  decide +kernel

/-- For `test_ageing`. -/
def ageingH : Chan := { Chan.reset with act := some 5, ph := .tiles, inB := 3, outB := 2, slot := some { tile := 0, bytes := [] } }

/-- For `test_ageing`. -/
def ageingA := { acc 9 (.dest 0) true 0x1000 64 with stage := .issue, pa := 0x1000 }

/-- For `test_ageing`. -/
def ageingW := { rooted with
  chans := [(0, { ageingH with inLoss := 30 }), (1, { ageingH with inLoss := 31, outLoss := 31 })]
  strms := [(5, { homed with st := .running })], acc := [ageingA] }

/-- For `test_ageing`. -/
def ageingU := { ageingW with chans := [(1, { ageingH with wLoss := 31 })] }

/-- Channel 1, which has lost 31 cycles, wins a beat from channel 0, and an issue. -/
theorem test_ageing :
    1 ∈ ageingW.beats 0 .input ∧ 0 ∈ ageingW.beats 0 .input ∧ 1 ∈ ageingW.beats 0 .output ∧ (ageingW.chan 0).outLoss < 31 ∧
    after (.arrayAgeing 0 .input 1) ageingW (fun t => (t.chan 1).inB == 2 && (t.chan 1).inLoss == 0 && (t.chan 0).inLoss == 31
      && (t.mover 0).turnI == 1) = true ∧
    after (.arrayAgeing 0 .output 1) ageingW (fun t => (t.chan 1).outB == 1 && (t.chan 0).outLoss == 1) = true ∧
    ageingU.reqOf 0 .write 1 = some (.acc 9) ∧ ageingU.findAcc 9 = some ageingA ∧ ageingU.ready 0 .write = [1] ∧
    after (.issueAgeing 0 .write 1) ageingU (fun t => t.acc == [{ ageingA with stage := .arb }] && (t.chan 1).wLoss == 0) = true := by
  decide +kernel

/-- A read of Mover m of partition p at the arbiter of FAR0. -/
def bidder (aid p m : Nat) : Access := { blankAcc p (.mover m) 0 (.source 0) false 0x1000 64 with aid := aid, stage := .arb }

/-- Two partitions with a tracker each, and a read of each. -/
def arbiter (owner : BitVec 4) : State :=
  { rooted with
    parts := [(1, { Part.reset with trkF := 1 }), (2, { Part.reset with trkF := 1 })]
    tabs := [(0, { Tab.reset with live := [(0, 15), (1, owner)], pri := 0x210, loss := [(1, 8)] })], acc := [bidder 9 1 4, bidder 10 2 5] }

/-- For `test_arbiter`. -/
def arbiterW := arbiter 1

/-- For `test_arbiter`. -/
def arbiterU := arbiter 8

/-- The slot under PTR, the first that is not OFF, belongs to partition 1; and to nobody. -/
theorem test_arbiter :
    arbiterW.clocked = true ∧ arbiterW.pwr.state ≠ 2 ∧ (arbiterW.tab 0).seek 0 256 = 1 ∧ (arbiterW.tab 0).own 1 = 1 ∧ arbiterW.bidding 0 1 = true ∧
    arbiterW.turnBid 0 1 = some (.acc (bidder 9 1 4)) ∧ arbiterW.freeTrackers 0 false ≠ [] ∧
    after (.arbDecision 0 false) arbiterW (fun t => (t.acc.map fun a => (a.aid, a.stage)) == [(9, .out), (10, .arb)]
      && (t.tab 0).ptr == 2 && (t.tab 0).loss == []) = true ∧
    (arbiterU.tab 0).own 1 = 8 ∧ arbiterU.contenders 0 = [1, 2] ∧ (arbiterU.tab 0).priOf 1 < (arbiterU.tab 0).priOf 2 ∧
    arbiterU.turnBid 0 2 = some (.acc (bidder 10 2 5)) ∧
    after (.arbDecision 0 false) arbiterU (fun t => (t.acc.map fun a => (a.aid, a.stage)) == [(9, .arb), (10, .out)]
      && (t.tab 0).lastBg == 2 && (t.tab 0).loss == [(1, 8)] && (t.tab 0).backoff == [(1, true)]) = true := by decide +kernel

/-- For `test_arbiter_timers`. -/
def arbiterTimersK : PktTen := { owner := none, xseq := 0, off := 0, mv := 6, buf := 1, back := none }

/-- For `test_arbiter_timers`. -/
def arbiterTimersR : StgReq := { id := 4, part := 1, mv := 7, ch := 0, sid := 9, tile := 0, group := 2, wr := true, beats := 8, out := true }

/-- For `test_arbiter_timers`. -/
def arbiterTimersW := { rooted with
  stg := [arbiterTimersR]
  peer := { Peer.reset with used := [(1, 3)] }
  acc := [{ bidder 9 1 5 with wr := true, stage := .out, kind := .dest 0, mv := some 5 }]
  tabs := [(1, { Tab.reset with backoff := [(1, true), (2, true)], wins := [(1, 4)], hogc := 0xFF, tenure := some (.acc 9) }),
    (12, { Tab.reset with tenure := some (.pkt arbiterTimersK) }),
    (14, { Tab.reset with tenure := some (.stg 4), left := 3 })] }

/-- Timers, and the cut-off of a tenure of Mover 5 and of a packet. -/
theorem test_arbiter_timers :
    arbiterTimersW.findAcc 9 ≠ none ∧ (arbiterTimersW.tab 12).tenure = some (.pkt arbiterTimersK) ∧ (∀ p : Fin 8, (arbiterTimersW.rstE p).busy = false) ∧
    (arbiterTimersW.stg.find? fun q => q.id == 4) = some arbiterTimersR ∧ (arbiterTimersW.chan 28).act ≠ some 9 ∧
    after (.backoffExpire 1 1) arbiterTimersW (fun t => (t.tab 1).backoff == [(2, true)]) = true ∧
    after (.quotaWindowEnd 1) arbiterTimersW (fun t => (t.tab 1).wins == []) = true ∧
    after (.hogCutoff 1) arbiterTimersW (fun t => (t.tab 1).tenure == none && (t.tab 1).hogc == 0xFF && (t.tab 1).hogmv == 5) = true ∧
    after (.hogCutoff 12) arbiterTimersW (fun t => (t.tab 12).tenure == none && (t.tab 12).hogc == 1 && t.peer.used == [(1, 2)]) = true ∧
    after (.hogCutoff 14) arbiterTimersW (fun t => (t.tab 14).tenure == none && (t.tab 14).hogmv == 7 && t.stg == []) = true := by decide +kernel

/-- For `test_commit`. -/
def commitP := { Part.reset with en := true }

/-- For `test_commit`. -/
def commitW := { rooted with parts := [(0, commitP), (2, commitP)], tabs := [(1, { Tab.reset with shadow := [(255, 2)] }), (2, { Tab.reset with lock := true, shadow := [(0, 3)] })] }

/-- For `test_commit`. -/
def commitU := { commitW with tabs := [(1, { Tab.reset with shadow := [(255, 3)] })] }

/-- For `test_commit`. -/
def commitB := { commitW with arb := { commitW.arb with pend := true } }

/-- A commit over idle tables of which table 2 is locked; of a rota of partition 3, which is not enabled; and a second. -/
theorem test_commit :
    ((List.range 30).any fun t => !(commitW.tab t).lock && commitW.badRota t (commitW.tab t).shadow) = false ∧
    ((List.range 30).all fun t => commitW.tabIdle t && (commitW.tab t).shadow.all fun e => decide (e.1 < 256)) = true ∧
    after .commit commitW (fun t => (t.tab 1).live == [(255, 2)] && (t.tab 2).live == [] && !t.arb.pend) = true ∧
    commitU.badRota 1 (commitU.tab 1).shadow = true ∧ after .commit commitU (fun t => t.arb.cerr && (t.tab 1).live == []) = true ∧
    after .commit commitB (fun t => t.arb.drop) = true := by decide +kernel

/-! ### The peer link -/

/-- Chip 1 of 4; chips 0 and 2 are reached over ports 0 and 1. -/
def linked : State :=
  { rooted with peer := { Peer.reset with chip := 1, en := true, nchip := 4, dir := 0x21, used := [(0, 5), (7, 3)] } }

/-- A packet of header fields and payload. -/
def pkt (l : List (Nat × Nat × Nat)) (payload : List Byte) : List Byte :=
  toLE 28 (put l) ++ toLE 4 (crc32c (toLE 28 (put l) ++ payload)) ++ payload

/-- A packet of a type from chip 2 to this chip for stream 2000, of `n` bytes and with a credit of buffer 3. -/
def toUs (type n : Nat) (l : List (Nat × Nat × Nat)) : List (Nat × Nat × Nat) :=
  [(0, 0, type), (1, 0, 1), (1, 4, 2), (5, 0, 2), (6, 0, n), (8, 0, 2000), (11, 0, 7), (25, 0, 1), (25, 4, 3)] ++ l

/-- For `test_peer_credits`. -/
def peerCreditsC := pkt [(0, 0, 5), (25, 0, 4), (25, 4, 0)] []

/-- For `test_peer_credits`. -/
def peerCreditsE := (pkt (toUs 3 0 []) []).set 31 0

/-- Credits, a wrong check value, and losses. -/
theorem test_peer_credits :
    linked.peerOpen 0 = true ∧ pType peerCreditsC = 5 ∧ pCrcOk peerCreditsC = true ∧ pReserved peerCreditsC = false ∧
    after (.peerCredit 0 peerCreditsC) linked (fun t => t.peer.used == [(0, 1), (7, 3)]) = true ∧
    pType peerCreditsE = 3 ∧ pDst peerCreditsE = 1 ∧ pCrcOk peerCreditsE = false ∧
    after (.peerWack 1 peerCreditsE) linked (fun t => t.peer.used == [(0, 5), (7, 2)] && t.peer.owed == [(6, 1)]
      && (t.peer.stat.get PeStat.reset 1).crce == 1) = true ∧
    pReserved (pkt (toUs 6 0 []) []) = true ∧
    after (.peerNack 1 (pkt (toUs 6 0 []) [])) linked (fun t => t.peer.used == [(0, 5), (7, 2)] && t.peer.owed == []
      && (t.peer.stat.get PeStat.reset 1).drop == 1) = true ∧
    after (.rxLoss 0 0x0209) linked (fun t => t.peer.used == [(0, 3), (7, 3)] && t.peer.owed == [(1, 1)]
      && (t.peer.stat.get PeStat.reset 0).loss == 1) = true := by decide +kernel

/-- A receive stream of 64 bytes that counts in counter 2 of Mover 0. -/
def receiving : State :=
  { linked with
    strms := [(2000, { Strm.reset with
      st := .armed, rcv := true, ten := 1, hen := true, lctr := 2, place := desc1 0x1000 64 })]
    cnts := [(2, { Cnt.reset with bound := true, ten := 1, mode := 2, value := 0xFFFFFF00 })]
    peer := { linked.peer with fftab := [(0, { en := true, chip := 2, mover := 0, ch := 0 })] } }

/-- For `test_peer_requests`. -/
def peerRequestsD := toLE 8 0x11

/-- For `test_peer_requests`. -/
def peerRequestsK := pkt (toUs 0 8 []) peerRequestsD

/-- For `test_peer_requests`. -/
def peerRequestsQ := pkt (toUs 1 8 [(12, 0, 4)]) []

/-- For `test_peer_requests`. -/
def peerRequestsF := pkt (toUs 0 8 [(0, 4, 3), (18, 0, 16)]) peerRequestsD

/-- For `test_peer_requests`. -/
def peerRequestsV := { receiving with peer := { receiving.peer with fftab := [] } }

/-- A WRITE and an RDREQ of 8 bytes; a FINAL one; and a WRITE for a stream that is EMPTY. -/
theorem test_peer_requests :
    (pType peerRequestsK = 0 ∧ pDst peerRequestsK = 1 ∧ pCrcOk peerRequestsK = true ∧ pReserved peerRequestsK = false) ∧ linked.peer.dirOf 2 = 2 ∧ (linked.strmAt 2000).st ≠ .armed ∧
    after (.peerWrite 0 peerRequestsK) linked (fun t => (t.peer.tx.map fun p => (p.port, pType p.bytes, pNst p.bytes)) == [(1, 4, 1)]) = true ∧
    receiving.rxCheck peerRequestsK true = none ∧ receiving.rxCheck peerRequestsQ false = none ∧ receiving.rxCheck peerRequestsF true = none ∧
    pReserved peerRequestsQ = false ∧ pReserved peerRequestsF = false ∧ receiving.ffGrant 2 0 0 = some 0 ∧ (receiving.fin 0).held = none ∧
    (receiving.mover 0).utlb = [] ∧ (receiving.xlU 0).l2 = [] ∧ (receiving.xlU 0).wc = [] ∧ linked.ffGrant 2 0 0 = none ∧
    (receiving.fin 0).live = false ∧ peerRequestsV.ffGrant 2 0 0 = none ∧ peerRequestsV.rxCheck peerRequestsK true = none ∧
    after (.peerWrite 0 peerRequestsK) peerRequestsV (fun t => (t.peer.jobs.map (·.landed)) == [8]
      && (t.acc.map fun a => (a.kind, a.va, a.en.count true)) == [(.rxWrite 0, 0x1000, 8), (.walkRead, 0, 0)]) = true ∧
    after (.peerRdreq 0 peerRequestsQ) receiving (fun t => (t.peer.jobs.map (·.want)) == [(List.range 8).map (0x1004 + ·)]) = true ∧
    after (.peerWrite 0 peerRequestsF) receiving (fun t => (t.fin 0).held == some (0, peerRequestsD) && t.acc == []) = true := by decide +kernel

/-- For `test_peer_responses`. -/
def peerResponsesR : RemReq := { mv := 0, ch := 1, port := 0, wr := true, xseq := 7, off := 512, len := 8, tile := 3, sent := true }

/-- For `test_peer_responses`. -/
def peerResponsesQ := { peerResponsesR with wr := false, off := 1024 }

/-- For `test_peer_responses`. -/
def peerResponsesW := { linked with
  strms := [(5, { homed with st := .running, cmd := some { cmd [(0, 0, 1)] with stage := .tiles } })]
  chans := [(1, { Chan.reset with act := some 5, ph := .tiles })], peer := { linked.peer with rem := [peerResponsesR, peerResponsesQ] } }

/-- For `test_peer_responses`. -/
def peerResponsesAck := pkt (toUs 3 0 [(2, 6, 1), (3, 0, 1), (12, 0, 512)]) []

/-- For `test_peer_responses`. -/
def peerResponsesRsp := pkt (toUs 2 8 [(2, 6, 1), (3, 0, 1), (12, 0, 1024)]) (toLE 8 5)

/-- For `test_peer_responses`. -/
def peerResponsesU := { peerResponsesW with peer := { peerResponsesW.peer with rem := [peerResponsesQ, { peerResponsesQ with off := 2048 }] } }

/-- For `test_peer_responses`. -/
def peerResponsesNak := pkt (toUs 4 0 [(2, 6, 1), (3, 0, 1), (12, 0, 512), (24, 0, 1)]) []

/-- Responses to a remote WRITE and read of channel 1 while others are awaited, and one that nobody awaits. -/
theorem test_peer_responses :
    (pCrcOk peerResponsesAck = true ∧ pReserved peerResponsesAck = false ∧ pDst peerResponsesAck = 1) ∧ linked.answered peerResponsesAck (some true) = none ∧
    after (.peerWack 0 peerResponsesAck) linked (fun t => (t.peer.stat.get PeStat.reset 0).drop == 1) = true ∧
    peerResponsesW.answered peerResponsesAck (some true) = some peerResponsesR ∧ peerResponsesQ ∈ peerResponsesW.peer.rem.erase peerResponsesR ∧ (peerResponsesW.ch 0 1).stop = none ∧
    after (.peerWack 0 peerResponsesAck) peerResponsesW (fun t => t.peer.rem == [peerResponsesQ]
      && ((t.strmAt 5).cmd.map fun k => (k.ok, k.remoteOk.length)) == some ([(3, 8)], 8)) = true ∧
    peerResponsesU.answered peerResponsesRsp (some false) = some peerResponsesQ ∧ pReserved peerResponsesRsp = false ∧
    after (.peerRdrsp 0 peerResponsesRsp) peerResponsesU (fun t => (t.ch 0 1).got == [(1024, toLE 8 5)]) = true ∧
    peerResponsesW.answered peerResponsesNak none = some peerResponsesR ∧ pReserved peerResponsesNak = false ∧ (peerResponsesW.ch 0 1).errValid = false ∧
    after (.peerNack 0 peerResponsesNak) peerResponsesW (fun t => ((t.ch 0 1).stop.map fun z => (z.frec.fcode, z.ntile)) == some (0x21, 3)
      && ((t.ch 0 1).stop.bind fun z => z.err.map (·.resp)) == some 3) = true := by decide +kernel

/-- For `test_forward`. -/
def forwardP := pkt [(0, 0, 0), (1, 0, 2), (1, 4, 0), (5, 0, 3), (6, 0, 8), (25, 0, 2)] (toLE 8 0x11)

/-- For `test_forward`. -/
def forwardZ := pkt [(0, 0, 1), (1, 0, 2), (5, 0, 0), (6, 0, 8)] []

/-- Packets for chip 2: forwarded, with a wrong check value, and at TTL 0. -/
theorem test_forward :
    pType forwardP ≠ 5 ∧ pDst forwardP = 2 ∧ 32 ≤ forwardP.length ∧ pReserved forwardP = false ∧ pTtl forwardP = 3 ∧ linked.peer.dirOf 2 = 2 ∧ pTtl forwardZ = 0 ∧
    after (.packetForward 0 forwardP false) linked (fun t => (t.peer.tx.map fun q => (q.port, pTtl q.bytes, pCrcOk q.bytes, pCrcnt q.bytes)) == [(1, 2, true, 0)] && t.peer.used == [(0, 3), (7, 3)]) = true ∧
    after (.packetForward 0 (forwardP.set 31 0) false) linked (fun t => (t.peer.tx.map fun q => (pTtl q.bytes, pCrcOk q.bytes)) == [(2, false)]
      && (t.peer.stat.get PeStat.reset 0).fwdcrc == 1) = true ∧
    after (.packetForward 0 forwardZ false) linked (fun t => t.peer.tx == [] && (t.peer.stat.get PeStat.reset 0).drop == 1) = true := by
  decide +kernel

/-- For `test_receive_ends`. -/
def receiveEndsH := fun (type n : Nat) (l : List (Nat × Nat × Nat)) => BitVec.ofNat 256 (put (toUs type n l))

/-- For `test_receive_ends`. -/
def receiveEndsJ : RxJob :=
  { id := 3, port := 1, sid := 2000, hdr := receiveEndsH 0 8 [], wr := true, landed := 8, err := false
    got := [], want := [], drain := false, fin := none }

/-- For `test_receive_ends`. -/
def receiveEndsJob := fun (receiveEndsF : SMap FinTrk) (q : RxJob) => { receiving with peer := { receiving.peer with jobs := [q], fin := receiveEndsF } }

/-- For `test_receive_ends`. -/
def receiveEndsF : FinTrk := { live := true, xseq := 7, landed := 8, held := none }

/-- For `test_receive_ends`. -/
def receiveEndsW := receiveEndsJob [] receiveEndsJ

/-- For `test_receive_ends`. -/
def receiveEndsFi := receiveEndsJob [(0, receiveEndsF)] { receiveEndsJ with fin := some 0, hdr := receiveEndsH 0 8 [(0, 4, 3), (18, 0, 16)] }

/-- For `test_receive_ends`. -/
def receiveEndsRe := receiveEndsJob [] { receiveEndsJ with wr := false, hdr := receiveEndsH 1 2 [], want := [0x1001, 2 ^ 48 + 9], got := [(0x1000, toLE 64 0x2211)] }

/-- For `test_receive_ends`. -/
def receiveEndsHe := receiveEndsJob [(0, { receiveEndsF with held := some (3, toLE 8 1) })] { receiveEndsJ with fin := some 0, hdr := receiveEndsH 0 8 [(0, 4, 3), (18, 0, 16)] }

/-- For `test_receive_ends`. -/
def receiveEndsEa := receiveEndsJob [(0, { receiveEndsF with landed := 7, held := some (3, toLE 8 1) })] { receiveEndsJ with fin := some 0, hdr := receiveEndsH 0 8 [(0, 4, 3), (18, 0, 16)] }

/-- The end of a WRITE, of a FINAL WRITE, of another packet of its transfer, and of a read; and the release of a held
FINAL packet, early and in time. -/
theorem test_receive_ends :
    receiveEndsW.job 3 = some receiveEndsJ ∧ receiveEndsW.jobReady receiveEndsJ = true ∧ pRsid receiveEndsJ.head = 2000 ∧ receiveEndsW.peer.dirOf (pSrc receiveEndsJ.head) = 2 ∧
    (receiveEndsFi.fin 0).xseq.toNat = pXseq receiveEndsJ.head ∧ receiveEndsFi.jobReady { receiveEndsJ with fin := some 0, hdr := receiveEndsH 0 8 [(0, 4, 3), (18, 0, 16)] } = true ∧
    (receiveEndsW.cnt 2).value.toNat + 16 < 2 ^ 32 ∧ pTtl receiveEndsJ.head = 2 ∧
    after (.receiveWritesLanded 3) receiveEndsW (fun t => (t.cnt 2).value == 0xFFFFFF08 && (t.peer.tx.map fun p => pType p.bytes) == [3]
      && t.peer.owed == [(4, 1)]) = true ∧
    after (.receiveWritesLanded 3) receiveEndsFi (fun t => (t.cnt 2).value == 0xFFFFFF10 && t.fin 0 == FinTrk.reset) = true ∧
    after (.receiveWritesLanded 3) (receiveEndsJob [(0, receiveEndsF)] { receiveEndsJ with fin := some 0, hdr := receiveEndsH 0 8 [(0, 4, 1)] }) (fun t => (t.fin 0).landed == 16) = true ∧
    after (.receiveReadsDone 3) receiveEndsRe (fun t => (t.peer.tx.map fun p => (pLen p.bytes, pPayload p.bytes)) == [(2, [0x22, 9])]) = true ∧
    after (.finalRelease 0) receiveEndsEa (· == receiveEndsEa) = true ∧ (receiveEndsHe.fin 0).landed + 8 = 16 ∧
    after (.finalRelease 0) receiveEndsHe (fun t => (t.fin 0).held == none && (t.acc.map (·.kind)) == [.rxWrite 3, .walkRead]) = true := by
  decide +kernel

/-- For `test_peer_timeout`. -/
def peerTimeoutR : RemReq := { mv := 0, ch := 1, port := 0, wr := true, xseq := 7, off := 512, len := 8, tile := 3, sent := true }

/-- For `test_peer_timeout`. -/
def peerTimeoutW := { linked with
  parts := [(0, { Part.reset with fq := { Fq.reset with en := true, busy := true } })]
  strms := [(5, { homed with st := .running, cmd := some { cmd [(0, 0, 1)] with stage := .tiles } })]
  chans := [(1, { Chan.reset with act := some 5, ph := .tiles })], peer := { linked.peer with rem := [{ peerTimeoutR with tile := 4 }, peerTimeoutR, { peerTimeoutR with ch := 2 }] } }

/-- Two requests of a channel time out; one of another channel does not. -/
theorem test_peer_timeout :
    (peerTimeoutW.ch 0 1).stop = none ∧ (peerTimeoutW.ch 0 1).abort = false ∧ (peerTimeoutW.ch 0 1).shadow = none ∧ peerTimeoutW.acc = [] ∧ (peerTimeoutW.part 0).fq.buf.length < 64 ∧ (peerTimeoutW.ch 0 1).errValid = false ∧
    after (.peerTimeout 0 1) peerTimeoutW (fun t => t.peer.rem == [{ peerTimeoutR with ch := 2 }] && (t.strmAt 5).st == .halted && (t.strmAt 5).ntile == 3
      && (t.ch 0 1).act == none && ((t.part 0).fq.buf.map (·.fcode)) == [0x40]) = true := by decide +kernel

/-! ### Resets -/

/-- Mover 5 in partition 1 with tenant 1, the escalation count at 3. -/
def ready : State :=
  { base with
    parts := [(1, { Part.reset with en := true, mvmask := 0x20 })]
    tens := [(1, { Tenant.reset with en := true, avail := true, part := 1, weight := 4, gen := 0xFF, root := 9 })]
    chans := [(20, { Chan.reset with xseq := 0xFF, lfsr := 7 })], movers := [(5, { Mover.reset with gated := true })]
    cnts := [(321, { Cnt.reset with bound := true, value := 3, ten := 1 })]
    boot := { base.boot with imgcfg := 0x18 } }

/-- The fences of a tenant's, a Mover's and a partition's reset, and a tenant that is not AVAIL. -/
theorem test_fences :
    (∀ q : Fin 9, (ready.xlU q).queue = []) ∧
    ready.esc.oos = false ∧ ready.blk = none ∧ (ready.ten 1).avail = true ∧ (ready.rstE 1).busy = false ∧
    ready.countFull = false ∧ ready.ladder = false ∧ ready.partOf 5 = 1 ∧ ready.chans.wf Chan.reset ∧
    after (.resetTenant 1 true) ready (fun t => (t.rstE 1).busy && (t.rstE 1).unit == 1 && (t.rstE 1).target == 1
      && (t.ten 1).gen == 0 && !(t.ten 1).en && (t.ten 1).root == 9 && t.esc.hist == [(1, 1, 0)] && t.cnts == ready.cnts) = true ∧
    after (.resetTenant 2 true) ready (fun t => t.esc.drop && t.rst == []) = true ∧
    after (.resetMover 5) ready (fun t => (t.rstE 1).unit == 2 && (t.rstE 1).target == 5 && (t.mover 5).froz && !(t.mover 5).gated
      && (t.chan 20).xseq == 0 && (t.chan 21).xseq == 1) = true ∧
    after (.resetPartition 1) ready (fun t => (t.rstE 1).unit == 3 && !(t.ten 1).en && (t.ten 1).gen == 0
      && t.esc.hist == [(3, 1, 0)]) = true := by decide +kernel

/-- For `test_fence_behind`. -/
def fenceBehindE := { RstEng.reset with busy := true, unit := 1, sbath := true, target := 2 }

/-- For `test_fence_behind`. -/
def fenceBehindQ : RstReq := { unit := 2, target := 5, rcv := false, raised := false, ms := 0 }

/-- For `test_fence_behind`. -/
def fenceBehindW := { ready with rst := [(1, fenceBehindE)] }

/-- For `test_fence_behind`. -/
def fenceBehindF := { ready with rst := [(1, { fenceBehindE with queue := [fenceBehindQ, fenceBehindQ, fenceBehindQ, fenceBehindQ] })] }

/-- For `test_fence_behind`. -/
def fenceBehindI := { ready with rst := [(1, { fenceBehindE with target := 1 })] }

/-- Behind a reset in progress: the same one is not begun again, another waits, and with 4 waiting one is dropped. -/
theorem test_fence_behind :
    (fenceBehindW.rstE 1).queue.length < 4 ∧ fenceBehindW.countFull = false ∧ 4 ≤ (fenceBehindF.rstE 1).queue.length ∧
    after (.resetTenant 1 true) fenceBehindI (· == fenceBehindI.reached) = true ∧
    after (.resetTenant 1 true) fenceBehindW (fun t => (t.rstE 1).queue == [{ unit := 1, target := 1, rcv := true, raised := false, ms := 0 }]
      && t.esc.hist == [(1, 1, 0)] && t.tens == fenceBehindW.tens) = true ∧
    after (.resetTenant 1 true) fenceBehindF (fun t => (t.rstE 1).drop && t.esc == fenceBehindF.esc) = true := by decide +kernel

/-- For `test_block_reset`. -/
def blockResetA : Access := { blankAcc 8 .mgmt 0 .mgmt true 0 64 with aid := 3, stage := .out }

/-- For `test_block_reset`. -/
def blockResetU := { ready with blk := some 4, acc := [blockResetA], nvm := [(5, 1)] }

/-- For `test_block_reset`. -/
def blockResetV := { ready with blk := some 5, acc := [blockResetA] }

/-- The fence of a block reset; the ends of the stop baths of a block reset and a power cycle, with an access of the
management core under way. -/
theorem test_block_reset :
    after .resetBlock ready (fun t => t.blk == some 4 && (t.rstE 7).busy && (t.rstE 7).unit == 4) = true ∧
    blockResetU.acc.all (fun b => b.rq == .mgmt) = true ∧ blockResetU.mg.busy = false ∧
    after (.stopBathDrained none) blockResetU (fun t => t.boot.state == 2 && t.blk == none && t.tens == [] && t.cnts == [] && t.acc == [blockResetA]
      && t.nvm == [(5, 1)] && (t.mg.log.map fun e => (e.code, e.arg)) == [(0x10, 12)]) = true ∧
    after (.stopBathDrained none) blockResetV (fun t => t.boot.state == 14 && t.esc.oos && t.mg.pwrcyc && t.blk == none) = true := by
  decide +kernel

/-- For `test_stop_bath`. -/
def stopBathE : RstEng := { RstEng.reset with busy := true, unit := 1, sbath := true, target := 1 }

/-- For `test_stop_bath`. -/
def stopBathW := { ready with
  rst := [(1, stopBathE)], strms := [(5, { homed with st := .halted, hen := false })]
  sqs := [(5, { Sq.reset with en := true, ten := 1 })], cqs := [(0, { Cq.reset with en := true, ten := 1 })] }

/-- For `test_stop_bath`. -/
def stopBathU := { ready with rst := [(1, { stopBathE with unit := 2, target := 5 })] }

/-- For `test_stop_bath`. -/
def stopBathA := { acc 9 (.source 0) false 0x1000 64 with part := 1, rq := .mover 5 }

/-- For `test_stop_bath`. -/
def stopBathV := { stopBathU with acc := [stopBathA, { stopBathA with aid := 10, stage := .arb }], sink := [{ stopBathA with aid := 4 }] }

/-- The stop baths of a tenant's and of a Mover's reset, one that runs out, and a late response. -/
theorem test_stop_bath :
    stopBathW.strms.wf Strm.reset ∧ stopBathW.chans.wf Chan.reset ∧ stopBathW.chans.all (fun stopBathE => stopBathE.2.shadow == none) = true ∧
    stopBathW.bathLeft 1 = [] ∧ stopBathW.blk = none ∧ (stopBathW.rstE 1).queue = [] ∧ (stopBathW.rstE 1).tests = [] ∧ (stopBathW.ten 1).part = 1 ∧ stopBathW.acc = [] ∧
    after (.stopBathDrained (some 1)) stopBathW (fun t => (t.strmAt 5).st == .empty && !(t.sq 5).en && !(t.cq 0).en && !(t.cnt 321).bound
      && (t.rstE 1) == { RstEng.reset with lunit := 1, ltarget := 1 } && (t.mg.log.map (·.code)) == [0x10]
      && (t.ten 1).gen == 0xFF) = true ∧
    stopBathU.bathLeft 1 = [] ∧ after (.stopBathDrained (some 1)) stopBathU (fun t => t.cnt 321 == Cnt.reset && (t.chan 20).lfsr == 1 && (t.mover 5).turnI == 3
      && (t.rstE 1).tests == [5] && (t.rstE 1).busy && !(t.rstE 1).sbath) = true ∧ (stopBathV.rstE 1).target.toNat < 64 ∧
    after (.stopBathTimeout (some 1)) stopBathV (fun t => (t.sink.map (·.aid)) == [4, 9] && (t.rstE 1).abnd == 1 && t.acc == []) = true ∧
    after (.sinkLateResponse 4) stopBathV (fun t => t.sink == []) = true := by decide +kernel

/-- For `test_self_test`. -/
def selfTestW := { ready with rst := [(1, { RstEng.reset with busy := true, unit := 2, target := 5, tests := [5] })] }

/-- The self-test of a Mover's reset passes, fails, and is not done in time. -/
theorem test_self_test :
    selfTestW.partOf 5 = 1 ∧ selfTestW.blk = none ∧ (selfTestW.rstE 1).tests = [5] ∧ selfTestW.acc = [] ∧ selfTestW.mg.cs = none ∧
    after (.moverSelftestDone 5 true) selfTestW (fun t => t.rstE 1 == { RstEng.reset with lunit := 2, ltarget := 5 }
      && (t.mg.log.map (·.code)) == [0x10]) = true ∧
    after (.moverSelftestDone 5 false) selfTestW (fun t => (t.mover 5).oos && (t.mover 5).testf
      && t.mg.log.any (fun e => e.code == 0x13 && e.src == 5)) = true ∧
    after (.moverResetTimeout 5) selfTestW (fun t => (t.mover 5).oos && (t.mover 5).hang && t.mg.log.any (fun e => e.code == 0x13)) = true := by
  decide +kernel

/-! ### Pins, parity and power -/

/-- For `test_rope`. -/
def ropeR := { Rope.reset with en := true, ext := true, mmask := 3, arr := 3, pend := 1, round := 0xFFFFFFFF }

/-- For `test_rope`. -/
def ropeW := { base with ropes := [(15, ropeR)] }

/-- For `test_rope`. -/
def ropeU := { base with ropes := [(15, { ropeR with arr := 1 })] }

/-- For `test_rope`. -/
def ropeV := { ropeW with pwr := { ropeW.pwr with state := 4 } }

/-- For `test_rope`. -/
def ropeB := { base with ropes := [(15, { ropeR with rin := true, arr := 1, rel := true, rout := true })] }

/-- rope_in of a line: the last arrival, an early one, a line without EXT, in RETAIN, and falls. -/
theorem test_rope :
    ropeW.ropeAll 15 = true ∧ ((ropeW.rope 15).taken || (ropeW.rope 15).low) = true ∧ ropeU.ropeAll 15 = false ∧ ropeW.strms = [] ∧
    after (.ropeInRise 15) ropeW (fun t => t.rope 15 == { ropeR with rin := true, round := 0, arr := 1, pend := 0, low := false, rel := true, rout := true }) = true ∧
    after (.ropeInRise 15) ropeU (fun t => t.rope 15 == { ropeR with rin := true, arr := 1, taken := true, low := false }) = true ∧
    after (.ropeInRise 14) ropeW (fun t => (t.rope 14).rin && !(t.rope 14).low) = true ∧
    after (.ropeInRise 15) ropeV (fun t => t.pwr.rose.getLsbD 15 && (t.rope 15).round == 0xFFFFFFFF) = true ∧
    ropeB.clocked = true ∧ after (.ropeInFall 15) ropeB (fun t => !(t.rope 15).rout && (t.rope 15).low && !(t.rope 15).rin) = true ∧
    after (.ropeInFall 15) { ropeB with pins := { ropeB.pins with core := true } } (fun t => (t.rope 15).low) = true := by decide +kernel

/-- For `test_strm_beat`. -/
def strmBeatW := { base with strm := [(1, { StrmP.reset with en := true, frames := 0xFFFF })] }

/-- For `test_strm_beat`. -/
def strmBeatF : Beat := { data := [], last := false, user := false, bad := false }

/-- For `test_strm_beat`. -/
def strmBeatU := { base with strm := [(1, { StrmP.reset with en := true, buf := List.replicate 256 strmBeatF })] }

/-- Beats on an unbound TDEST, on a bound one, and with its buffer full. -/
theorem test_strm_beat :
    base.strmOpen = true ∧ strmBeatW.strmUser 1 = none ∧ (strmBeatW.strmP 1).buf.length < 256 ∧ 256 ≤ (strmBeatU.strmP 1).buf.length ∧
    after (.strmBeat 0 (toLE 32 7) 0xFFFFFFFF false false) base (fun t => (t.strmP 0).ovf == 1) = true ∧
    after (.strmBeat 1 (toLE 32 7) 3 true true) strmBeatW (fun t => t.strmP 1 ==
      { strmBeatW.strmP 1 with buf := [{ data := [7, 0], last := true, user := true, bad := false }] }) = true ∧
    after (.strmBeat 1 (toLE 32 7) 3 false false) { strmBeatW with strm := [(1, { StrmP.reset with en := true, skip := true })] }
      (fun t => (t.strmP 1).ferr == 1 && (t.strmP 1).buf == [] && (t.strmP 1).skip) = true ∧
    after (.strmBeat 1 (toLE 32 7) 3 true true) strmBeatU (fun t => (t.strmP 1).ovf == 1 && (t.strmP 1).frames == 1
      && (t.strmP 1).buf.length == 256) = true := by decide +kernel

/-- For `test_port_reset`. -/
def portResetW := { linked with
  sink := [{ bidder 3 0 0 with stage := .out }], strm := [(1, { StrmP.reset with en := true, buf := [{ data := [1], last := true, user := true, bad := false }] })]
  host := { linked.host with held := some (0x820, 1), latch := some (0, 1), wait := [.registerRead 0 true, .registerWrite 0 0 0xF true] } }

/-- Resets of ports and their release. -/
theorem test_port_reset :
    portResetW.pwr.off = false ∧ portResetW.acc = [] ∧ (portResetW.strmUser 0 = none ∧ portResetW.strmUser 1 = none) ∧
    after (.portResetAssert .host) portResetW (fun t => t.pins.host && t.host.held == none && t.host.latch == none
      && t.host.wait == [.registerWrite 0 0 0xF true]) = true ∧ portResetW.boot.state = 13 ∧ (∀ p : Fin 8, (portResetW.rstE p).busy = false) ∧
    after (.portResetAssert .far0) portResetW (fun t => t.pins.far0 && t.sink == []) = true ∧
    after (.portResetAssert .strm) portResetW (fun t => (t.strmP 1).buf == [] && (t.strmP 1).en) = true ∧
    after (.portResetRelease .peer1) portResetW (fun t => t.peer.used == [(0, 5)] && !t.pins.peer1) = true := by decide +kernel

/-- For `test_scrub`. -/
def scrubW := { base with scrub := 70, strms := [(70, { Strm.reset with st := .armed })] }

/-- The scrub of a good record, of a bad one, the end of a pass; and the parity of PT_CTL of partition 3. -/
theorem test_scrub :
    (scrubW.strmAt 70).bad = 0 ∧ scrubW.strms.wf Strm.reset ∧ scrubW.chans.wf Chan.reset ∧ scrubW.scrub < 40960 ∧ scrubW.granRet.get false 1 = false ∧ scrubW.clocked = true ∧
    after (.scrubRead false) scrubW (fun t => t == { scrubW with scrub := 71 }) = true ∧
    after (.scrubRead true) scrubW (fun t => (t.strmAt 70).st == .quarantined && t.granErr == [(1, 1)] && t.par.rcnt == 1
      && (t.mg.log.any fun e => e.code == 0x21)) = true ∧ after .scrubPass scrubW (fun t => t.scrub == 0) = true ∧
    after (.regParityRewrite 0x13000 false false) base (fun t => t.par.reg && t.par.lroff == 0x13000 && (t.mg.log.map (·.code)) == [0x22]) = true := by
  decide +kernel

/-- For `test_online_test`. -/
def onlineTestW := { base with movers := [(3, { Mover.reset with gated := true })] }

/-- For `test_online_test`. -/
def onlineTestU := { base with movers := [(3, { Mover.reset with phase := 1, req := true }), (4, { Mover.reset with phase := 2, req := true })] }

/-- For `test_online_test`. -/
def onlineTestG := { base with stc := { base.stc with busy := true, group := 2 } }

/-- An online test: begun, refused beside another, drained, passed and failed; and a Staging test. -/
theorem test_online_test :
    onlineTestW.partOf 3 = 8 ∧ (onlineTestW.rstE 8).busy = false ∧ (onlineTestW.mover 3).phase = 0 ∧ (onlineTestW.movers.all fun e => e.2.phase == 0) = true ∧
    after (.moverTestReq 3) onlineTestW (fun t => t.mover 3 == { Mover.reset with req := true, phase := 1 }) = true ∧
    after (.moverTestReq 5) onlineTestU (fun t => (t.mover 5).tdrop && (t.mover 5).phase == 0) = true ∧ onlineTestU.testQuiet 3 = true ∧
    after (.moverTestDrained 3) onlineTestU (fun t => (t.mover 3).phase == 2) = true ∧
    after (.moverTestDone 4 true) onlineTestU (fun t => t.mover 4 == { Mover.reset with tpass := true }) = true ∧
    after (.moverTestDone 4 false) onlineTestU (fun t => (t.mover 4).oos && (t.mover 4).tfail && (t.mg.log.map (·.code)) == [0x13]) = true ∧
    base.stc.busy = false ∧ after (.stagingTestGo 6) base (fun t => t.stc.busy && t.stc.group == 6) = true ∧
    after (.stagingTestGo 6) onlineTestG (fun t => t.stc.drop && t.stc.group == 2) = true ∧
    after (.stagingTestDone none) onlineTestG (fun t => t.stc.pass && !t.stc.busy) = true ∧
    after (.stagingTestDone (some 9)) onlineTestG (fun t => t.stc.fail && t.stc.fbank == 9) = true := by decide +kernel

/-- For `test_light_doze`. -/
def lightDozeW := { base with movers := (List.range 64).map fun m => (m, { Mover.reset with gated := true }), pwr := { base.pwr with dzen := true, dzcnt := 0xFFFF } }

/-- For `test_light_doze`. -/
def lightDozeU := { base with pwr := { base.pwr with state := 2 } }

/-- LIGHT and DOZE. -/
theorem test_light_doze :
    base.pwr.lgen = true ∧ base.gateable 7 = true ∧ after (.moverGate 7) base (fun t => (t.mover 7).gated) = true ∧
    lightDozeW.dozeIdle = true ∧ after .dozeEnter lightDozeW (fun t => t.pwr.state == 2 && t.pwr.dzcnt == 0xFFFF) = true ∧
    after .dozeWake lightDozeU (fun t => t.pwr.wake && t.pwr.state == 2) = true ∧
    after .dozeWakeDone { lightDozeU with pwr := { lightDozeU.pwr with wake := true } } (fun t => t.pwr.state == 0) = true := by decide +kernel

/-- For `test_retain`. -/
def retainK := { Cnt.reset with value := 5 }

/-- For `test_retain`. -/
def retainD := { base with cnts := [(7, retainK)], pwr := { base.pwr with state := 3, rreq := true } }

/-- For `test_retain`. -/
def retainR := { base with pwr := { base.pwr with state := 4, save := some ([(7, retainK)], []), rreq := true, wakem := 2 } }

/-- For `test_retain`. -/
def retainV := { retainR with pwr := { retainR.pwr with state := 5 } }

/-- RETAIN: requested, ignored while a test runs, reached, woken, cancelled, and left. -/
theorem test_retain :
    base.reached.retainBarred = false ∧ base.chans = [] ∧ after .retainRequest base (fun t => t.pwr.state == 3 && t.pwr.rreq) = true ∧
    after .retainRequest { base with stc := { base.stc with busy := true } } (fun t => t.pwr.drop && t.pwr.state == 0) = true ∧
    retainD.retainQuiet = true ∧ retainD.movers.wf Mover.reset ∧
    after .retainDrained retainD (fun t => t.pwr.state == 4 && t.pwr.save == some ([(7, retainK)], []) && t.cnts == []) = true ∧
    retainR.wakeOn (.rope 1) = true ∧ retainR.wakeOn (.rope 0) = false ∧ after (.retainWake (.rope 0)) retainR (· == retainR) = true ∧
    after (.retainWake (.rope 1)) retainR (fun t => t.pwr.state == 5 && t.pwr.lwake == 2) = true ∧
    after (.retainWake .mgmt) retainD (fun t => t.pwr.state == 0 && t.pwr.canc) = true ∧ retainV.pwr.rose = 0 ∧ retainV.esc.held = false ∧
    ((List.range 16).all fun n => !(retainV.rope n).rin) = true ∧
    after (.retainWakeDone []) retainV (fun t => t.cnts == [(7, retainK)] && t.pwr.state == 0 && t.pwr.save == none) = true := by decide +kernel

/-- For `test_resets`. -/
def resetsW := { ready with
  nvm := [(0xF00001, 1)], acc := [acc 9 (.source 0) false 0x1000 64], pwr := { ready.pwr with dzen := true }
  ropes := [(3, { Rope.reset with en := true, rout := true })] }

/-- For `test_resets`. -/
def resetsM := { State.reset with boot := { Boot.reset with state := 2 }, pins := { State.reset.pins with aon := false } }

/-- Power off, the always-on reset and the core reset, and their release. -/
theorem test_resets :
    resetsW.mg.work = none ∧ resetsW.mg.busy = false ∧ after .powerOff resetsW (fun t => t.pwr.off && t.nvm == resetsW.nvm && t.tens == [] && t.pins == State.reset.pins) = true ∧
    after .aonResetAssert resetsW (fun t => t.pins.aon && t.pwr == Pwr.reset && t.boot == Boot.reset) = true ∧ State.reset.pins.aon = true ∧
    after (.aonResetRelease 0x2A) State.reset (fun t => !t.pins.aon && t.pins.core && t.boot.state == 2 && t.smb.addr == 0x2A) = true ∧
    after .coreResetAssert resetsW (fun t => t.pins.core && t.boot.state == 2 && t.tens == [] && t.acc == [] && (t.sink.map (·.aid)) == [9] && !(t.rope 3).rout) = true ∧
    resetsM.esc.oos = false ∧ after (.coreResetRelease [] false) resetsM (fun t => !t.pins.core && t.boot.state == 3) = true ∧
    after (.coreResetRelease [639] false) resetsM (fun t => t.granRet == [(639, true)] && (t.mg.log.map (·.arg)) == [639]) = true ∧
    after (.coreResetRelease [] true) resetsM (fun t => t.boot.state == 14 && t.boot.faila == 12 && t.boot.failb == 12) = true := by
  decide +kernel

/-! ### Start -/

/-- A flash from an address on. -/
def flash (a : Nat) : List Byte → SMap Byte
  | [] => []
  | b :: l => (a, b) :: flash (a + 1) l

/-- What a flash so filled holds. -/
theorem flash_get (l : List Byte) (a i : Nat) : SMap.get (flash a l) 0xFF (a + i) = l.getD i 0xFF := by
  induction l generalizing a i with
  | nil => simp [flash, SMap.get]
  | cons b t ih =>
    cases i with
    | zero => simp [flash, SMap.get]
    | succ k =>
      have h : ¬ a = a + 1 + k := by omega
      have e : a + (k + 1) = a + 1 + k := by omega
      simp only [flash, SMap.get, e, if_neg h]
      rw [ih]; simp

/-- A read of the whole of it. -/
theorem flash_read (l : List Byte) (a n : Nat) (h : l.length = n) : nvmRead (flash a l) a n = l := by
  subst h
  apply List.ext_getElem
  · simp [nvmRead]
  · intro i h1 h2
    simp only [nvmRead, List.getElem_map, List.getElem_range, flash_get]
    simp [h2]

/-- A header of an image of 4 KiB with an empty REGS section and SEQ 7. -/
def header : List Byte :=
  toLE 1024 (put [(0, 0, 0x4932544E), (4, 0, 1), (5, 0, 1), (6, 0, 2), (8, 0, 4096), (12, 0, 7), (256, 0, 1), (260, 0, 1024)])

/-- The header passes its checks. -/
theorem test_header : headerFail header = 0 ∧ imgSize header = 4096 ∧ imgSeq header = 7 ∧ header.length = 1024 := by decide +kernel

/-- Step 3 with that header in slot A. -/
theorem test_candidate : headerFail (nvmRead (flash 0 header) 0 1024) = 0 := by
  rw [flash_read header 0 1024 test_header.2.2.2]; exact test_header.1

/-- Start at a step, behind the release of the core reset. -/
def starting (n : BitVec 4) : State := { base with boot := { Boot.reset with state := n } }

/-- Step 3 with an erased flash. -/
theorem test_boot_no_image :
    (starting 3).startable = true ∧ (starting 3).boot.state = 3 ∧ headerFail (nvmRead (starting 3).nvm 0 1024) = 2 ∧
    headerFail (nvmRead (starting 3).nvm 0x800000 1024) = 2 ∧
    after .bootImageLoad (starting 3) (fun t => t.boot.state == 14 && t.boot.faila == 2 && t.boot.failb == 2) = true := by decide +kernel

/-- An image in Staging at step 8: one section of a type at byte 288. -/
def image (type : Nat) (l : List Byte) : State :=
  { starting 8 with boot := { Boot.reset with
      state := 8, size := 512, cands := [false]
      img := toLE 256 (2 ^ 40) ++ toLE 32 (put [(0, 0, type), (4, 0, 288), (8, 0, l.length)]) ++ l } }

/-- An access of the boot sequencer that is outstanding on FAR0. -/
def bootAcc (kind : AKind) (wr : Bool) : Access := { blankAcc 8 .mgmt 0 kind wr 0x4000 4 with aid := 9, stage := .out }

/-- A script's entries: one of an operation, and END; the access of the first is outstanding. -/
def script (op fatal : Nat) (val : Nat) : State :=
  let s := image 2 (toLE 16 (put [(0, 0, op), (0, 5, fatal), (8, 0, val)]) ++ toLE 16 0)
  { s with boot := { s.boot with running := true }, acc := if op = 1 ∨ op = 2 then [bootAcc .script (op == 1)] else [] }

/-- For `test_attempts`. -/
def attemptsW := { starting 4 with boot := { Boot.reset with state := 4, cands := [false] } }

/-- For `test_attempts`. -/
def attemptsU := { attemptsW with boot := { attemptsW.boot with cands := [false, true] } }

/-- For `test_attempts`. -/
def attemptsQ := script 1 1 0

/-- For `test_attempts`. -/
def attemptsC := { attemptsQ with acc := [], boot := { attemptsQ.boot with lost := true } }

/-- Attempts that end: a read of the flash, at step 3 and at step 4, with a fallback and without, and entries of FATAL=1,
one of them cut off by FAR0's reset. -/
theorem test_attempts :
    attemptsW.startable = true ∧ attemptsW.boot.slot = false ∧ attemptsU.boot.tried = [] ∧
    after (.nvmReadTimeout true) (starting 3) (fun t => t.boot.state == 14 && t.boot.failb == 1) = true ∧
    after (.nvmReadTimeout true) attemptsW (· == attemptsW) = true ∧
    after (.nvmReadTimeout false) attemptsW (fun t => t.boot.state == 14 && t.boot.faila == 1) = true ∧
    after (.nvmReadTimeout false) attemptsU (fun t => t.boot.state == 4 && t.boot.slot) = true ∧
    (attemptsQ.scriptNow.map fun e => (e.op, e.fatal)) = some (1, true) ∧ (∃ a ∈ attemptsQ.acc, a.kind = .script ∧ a.stage = .out ∧ a.drain = false) ∧
    after (.scriptWrite .decerr) attemptsQ (fun t => t.boot.state == 14 && t.boot.faila == 9) = true ∧
    after (.scriptWrite .decerr) attemptsC (fun t => t.boot.state == 14 && t.boot.faila == 9) = true ∧
    ((script 2 1 0).scriptNow.map fun e => (e.op, e.fatal)) = some (2, true) ∧
    after .scriptPollTimeout (script 2 1 0) (fun t => t.boot.faila == 9) = true ∧
    after .scriptTimeLimit (script 2 0 0) (fun t => t.boot.faila == 9) = true := by decide +kernel

/-- For `test_script`. -/
def scriptW := image 2 (toLE 16 3 ++ toLE 16 0)

/-- For `test_script`. -/
def scriptO := image 2 (toLE 16 (put [(0, 0, 1), (4, 0, 0x8000), (8, 0, 0x77)]))

/-- The script's begin, with and without a script, and with a WRITE as its first entry; its entries; an entry of FATAL=0
that fails. -/
theorem test_script :
    (scriptW.portHeld 0 = false ∧ scriptW.boot.running = false ∧ (secBytes scriptW.bootImage 2).isSome = true) ∧
    after .bootScriptStart scriptW (fun t => t.boot.running && t.boot.sidx == 0 && t.acc == []) = true ∧
    after .bootScriptStart scriptO (fun t => t.acc.any fun a => a.kind == .script && a.wr && a.data == [0x77, 0, 0, 0] && a.stage == .arb) = true ∧
    (secBytes (image 1 []).bootImage 2).isNone = true ∧ after .bootScriptStart (image 1 []) (fun t => t.boot.state == 9) = true ∧
    ((script 1 0 0).acc.find? fun b => b.kind == .script && b.stage == .out && !b.drain) = some (bootAcc .script true) ∧
    after (.scriptWrite .okay) (script 1 0 0) (fun t => t.boot.sidx == 1 && t.acc == []) = true ∧
    ((script 2 0 0x5000000F).scriptNow.map fun e => (e.op, e.val)) = some (2, 0x5000000F) ∧
    after (.scriptPoll 0x0 .okay) (script 2 0 0x5000000F) (fun t => t.boot.sidx == 1) = true ∧
    after (.scriptPoll 0x1 .okay) (script 2 0 0x5000000F) (fun t => t.boot.sidx == 0 && t.acc.any fun a => a.kind == .script) = true ∧
    after .scriptDelay (script 3 0 9) (fun t => t.boot.sidx == 1) = true ∧
    after .scriptEnd (script 0 0 0) (fun t => t.boot.state == 9 && !t.boot.running) = true ∧
    after (.scriptWrite .slverr) (script 1 0 0) (fun t => t.boot.sidx == 1 && (t.mg.log.map (·.code)) == [3]) = true ∧
    after .scriptPollTimeout (script 2 0 0) (fun t => t.boot.sidx == 1 && t.boot.state == 8) = true := by decide +kernel

/-- For `test_handover`. -/
def handoverAt9 := fun (i : State) => { i with boot := { i.boot with state := 9 } }

/-- For `test_handover`. -/
def handoverW := handoverAt9 (image 1 [])

/-- For `test_handover`. -/
def handoverD := image 3 (toLE 64 5)

/-- For `test_handover`. -/
def handoverU := { handoverAt9 handoverD with acc := [bootAcc .bootData true] }

/-- For `test_handover`. -/
def handoverC := { handoverW with boot := { handoverW.boot with lost := true } }

/-- For `test_handover`. -/
def handoverB := handoverAt9 (image 4 (List.replicate 64 0xFF))

/-- The DATA copy's write; the handover of an image without DATA; an error response of a copy, one cut off, and a boot
stream that is refused. -/
theorem test_handover :
    handoverW.startable = true ∧ handoverW.boot.lost = false ∧ handoverW.acc = [] ∧ secBytes handoverW.bootImage 4 = none ∧ handoverW.mg.cs = none ∧
    (bootRegs handoverW.bootImage).length = 0 ∧
    after .bootScriptStart handoverD (fun t => t.acc.any fun a => a.kind == .bootData && a.wr && a.data.take 64 == toLE 64 5) = true ∧
    after (.bootDataDone .okay []) handoverW (fun t => t.boot.state == 13 && (t.mg.log.map (·.code)) == [1]) = true ∧
    handoverU.acc.all (fun a => a.stage == .out && a.kind == .bootData && !a.drain) = true ∧
    after (.bootDataDone .okay [.slverr]) handoverU (fun t => t.boot.state == 14 && t.boot.faila == 10) = true ∧
    after (.bootDataDone .okay []) handoverC (fun t => t.boot.state == 14 && t.boot.faila == 10) = true ∧
    (secBytes handoverB.bootImage 4).isSome = true ∧ handoverB.bootEntBad (((secBytes handoverB.bootImage 4).getD []).take 64) = true ∧
    (bootRegs handoverB.bootImage).length = 0 ∧ after (.bootDataDone .okay []) handoverB (fun t => t.boot.faila == 11) = true := by decide +kernel

/-! ### The management core -/

/-- For `test_sample`. -/
def sampleW := { base with mg := { base.mg with lim := 1, ms := 0xFFFFFFFF, droops := [(1, 4)] }, dbg := { base.dbg with refusedAt := some (0 - 1000) } }

/-- A sample at the limits: 105 °C is held to 103 °C; 712 mV is no warning, 711 mV is. -/
theorem test_sample :
    base.pwr.off = false ∧ base.pins.aon = false ∧ sampleW.mg.tact = 0 ∧ sampleW.mg.vact = 0 ∧
    after (.sensorSample [1649, 0, 0, 0, 0, 0, 0, 0] [711, 712, 750, 690] 1) sampleW (fun t => t.mg.ms == 0 && t.mg.clkf == 1 && t.mg.dsamp == [(1, 4)] && t.dbg.refusedAt == none
      && t.mg.lim == 0b0000100101) = true ∧
    after (.sensorSample [1648, 0, 0, 0, 0, 0, 0, 0] [750, 750, 750, 750] 0) sampleW (fun t => t.mg.lim == 0) = true ∧
    after (.sensorSample [1680, 0, 0, 0, 0, 0, 0, 0] [750, 750, 750, 750] 0) base (fun t => t.mg.lim == 0) = true := by decide +kernel

/-- For `test_management`. -/
def managementE : LogE := { tms := 1, sev := 0, code := 1, src := 0, seq := 15, arg := 0 }

/-- For `test_management`. -/
def managementW := { base with mg := { base.mg with droops := [(2, 0xFFFF)], nseq := 17, mseq := 15, mpos := 15, log := [{ managementE with seq := 16 }, managementE], pwrcyc := true } }

/-- A droop at its count's end, the watchdog, the mirror of one of two entries at a page's end, and PWRCYC_REQ. -/
theorem test_management :
    after (.droop 2) managementW (fun t => t.mg.droops == [(2, 0xFFFF)] && ((t.mg.log.take 1).map fun v => (v.code, v.src, v.seq)) == [(0x34, 2, 17)]) = true ∧
    managementW.mg.busy = false ∧ after .mgmtWatchdog managementW (fun t => ((t.mg.log.take 1).map fun v => (v.code, v.src)) == [(0x70, 0xFF)]) = true ∧
    after .logMirror managementW (fun t => t.mg.mseq == 16 && t.mg.mpos == 16) = true ∧
    after .logMirror { managementW with mg := { managementW.mg with busy := true } } (fun t => t.mg.mseq == 15 && t.nvm == managementW.nvm) = true ∧ managementW.mg.pin = false ∧
    after .pwrcycReqRise managementW (fun t => t.mg.pin && t.esc.pcr) = true := by decide +kernel

/-- For `test_mailbox`. -/
def mailboxW1 : BitVec 64 := BitVec.ofNat 64 (1600 + 1601 * 2 ^ 16 + 30 * 2 ^ 32 + 31 * 2 ^ 48)

/-- SENSORS, THRESH with thresholds that fit and that do not, and RETAIN. -/
theorem test_mailbox :
    base.mg.busy = false ∧ after .mbSensors base (fun t => t.mg.done && t.mg.status == 1 && (t.mg.log.map (·.arg)) == [0x104]) = true ∧
    (mailboxW1.extractLsb' 0 16).toInt < (mailboxW1.extractLsb' 16 16).toInt ∧
    after (.mbThresh mailboxW1 0x5501) base (fun t => t.mg.status == 1 && t.mg.twarn == 1600 && t.mg.vcrit == 31 && t.mg.tact == 1 && t.mg.amask == 0x55) = true ∧
    after (.mbThresh mailboxW1 3) base (fun t => t.mg.status == 2 && t.mg.twarn == 1680) = true ∧
    after .mbRetain { base with stc := { base.stc with busy := true } } (fun t => t.pwr.drop && t.mg.status == 2) = true ∧
    after .mbRetain base (fun t => t.pwr.state == 3 && t.mg.done && t.mg.status == 1) = true := by decide +kernel

/-- For `test_mailbox_far`. -/
def mailboxFarE : LogE := { tms := 1, sev := 0, code := 1, src := 0, seq := 15, arg := 0 }

/-- For `test_mailbox_far`. -/
def mailboxFarW := { base with mg := { base.mg with log := [{ mailboxFarE with seq := 16 }, mailboxFarE] } }

/-- For `test_mailbox_far`. -/
def mailboxFarU := { base with mg := { base.mg with busy := true, work := some { op := 3, update := none, head := false, bus := true } } }

/-- For `test_mailbox_far`. -/
def mailboxFarC := { mailboxFarU with mg := { mailboxFarU.mg with mbrsp := [(0, 64)], work := some { op := 2, update := none, head := false, bus := false } } }

/-- CONTACT and LOGCOPY, and the end of a request with a bus error, and of a contact sheet. -/
theorem test_mailbox_far :
    after (.mbContact 0x40 0) base (fun t => t.mg.busy && (t.mg.work.map (·.op)) == some 2 && t.mg.log == []) = true ∧
    after (.mbLogcopy 0x50 2) mailboxFarW (fun t => t.mg.busy && t.mg.mbrsp == [(0, 15)]) = true ∧ mailboxFarU.acc = [] ∧
    after (.mailboxRequestEnd .okay true) mailboxFarU (fun t => !t.mg.busy && t.mg.done && t.mg.status == 3) = true ∧
    after (.mailboxRequestEnd .okay true) mailboxFarC (fun t => (t.mg.log.map fun mailboxFarE => (mailboxFarE.code, mailboxFarE.arg)) == [(0x40, 0x102), (0x41, 64)]) = true := by decide +kernel

/-- A read of an UPDATE's image that is outstanding. -/
def mbRd : Access := { blankAcc 8 .mgmt 0 .mbRead false 0x1000 1024 with aid := 9, stage := .out }

/-- An UPDATE in progress that has read, or not, bytes 0 to 1,023. -/
def updating (head : Bool) (size : BitVec 64) : State :=
  { base with
    acc := [mbRd]
    mg := { base.mg with
      busy := true, work := some { op := 1, update := none, head := head, bus := false }, mbreq := [(1, 0x1000), (2, size)] } }

/-- For `test_update`. -/
def updateW := updating false 4096

/-- For `test_update`. -/
def updateV := { updateW with boot := { updateW.boot with seq := 7 } }

/-- UPDATE: begun, and refused; a wrong header, a SIZE that differs, a SEQ that is not later, and a read in error. -/
theorem test_update :
    after (.mbUpdate 0x1000 4096 [] .okay) base (fun t => t.mg.busy && (t.acc.map (·.len)).sum == 1024) = true ∧
    after (.mbUpdate 0x1001 4096 [] .okay) base (fun t => t.mg.status == 2 && t.acc == []) = true ∧
    headerFail [1, 2, 3] = 2 ∧ after (.mbUpdate 0x1000 4096 [1, 2, 3] .okay) updateW (fun t => t.mg.status == 4 && t.acc == []) = true ∧
    after (.mbUpdate 0x1000 8192 header .okay) (updating false 8192) (fun t => t.mg.status == 4 && t.mg.mbrsp == [(0, 0x700000012)]) = true ∧
    after (.mbUpdate 0x1000 4096 header .okay) updateV (fun t => t.mg.status == 7 && !t.mg.busy) = true ∧
    after (.mbUpdate 0x1000 4096 header .decerr) updateW (fun t => t.mg.status == 3 && !t.mg.busy) = true := by decide +kernel

/-- For `test_update_goes_on`. -/
def updateGoesOnW := updating false 4096

/-- For `test_update_goes_on`. -/
def updateGoesOnU := { base with mg := { base.mg with busy := true, work := some { op := 1, update := some (true, [9, 0xFF]), head := true, bus := false } } }

/-- UPDATE: a header that passes leads to the reads of the whole image, and the image to its signature; the programming of
another, and an NVM error. -/
theorem test_update_goes_on :
    updateGoesOnW.boot.seq = 0 ∧ 0 < (imgSeq header - updateGoesOnW.boot.seq).toInt ∧ updateGoesOnW.acc.all (fun a => a.stage == .out) = true ∧ updateGoesOnW.pwr.state ≠ 4 ∧
    after (.mbUpdate 0x1000 4096 header .okay) updateGoesOnW (fun t => t.mg.busy && (t.acc.map (·.len)).sum == 4096
      && (t.mg.work.map (·.head)) == some true) = true ∧
    ((updating true 4096).mg.work.map (·.head)) = some true ∧
    after (.mailboxRequestEnd .okay true) updateGoesOnU (fun t => t.nvm == [(0x800000, 9)] && t.mg.status == 1) = true ∧
    after (.mailboxRequestEnd .okay false) updateGoesOnU (fun t => t.nvm == [] && t.mg.status == 5) = true := by decide +kernel

/-! ### The debug lock, SMBus, the test ports and casting -/

/-- For `test_debug`. -/
def debugW := { base with dbg := { base.dbg with state := 1 } }

/-- For `test_debug`. -/
def debugU := { base with dbg := { base.dbg with state := 2 } }

/-- A challenge, VGO and RELOCK; a challenge within a second of a refusal is none of the statement's. -/
theorem test_debug :
    base.dbg.refusedAt = none ∧ after .chreq base (fun t => t.dbg.state == 1 && t.nvm.length == 5) = true ∧
    debugW.dbg.state = 1 ∧ after .vgo debugW (fun t => t.dbg.state == 2) = true ∧ debugU.dbg.state = 2 ∧
    after .relock debugU (fun t => t.dbg.state == 0) = true := by decide +kernel

/-- For `test_smbus`. -/
def smbusW := { base with mg := { base.mg with alrt := 0x111, lim := 1 }, smb := { out := [], addr := 0x2A, pec := 0 } }

/-- For `test_smbus`. -/
def smbusR := { base with pwr := { base.pwr with state := 4 } }

/-- SMBus: the identity, the alert response in FAIL, the exchange, in RETAIN too, and ALERTCLR of a held limit. -/
theorem test_smbus :
    after .smbId base (fun t => t.smb.out == [1, 2, 0x32, 0x4E, 0, 0, 0, 0]) = true ∧
    after .smbAlertResponse smbusW (fun t => t.smb.out == [0x54]) = true ∧ after .smbAlertResponse base (fun t => t.smb.out == []) = true ∧
    after (.smbResp 0x60 (toLE 32 (2 ^ 248)) none) base (fun t => t.dbg.resp == BitVec.ofNat 1024 (2 ^ 1016)) = true ∧
    after (.smbVgo none) { base with dbg := { base.dbg with state := 1 } } (fun t => t.dbg.state == 2) = true ∧
    base.dbg.state = 0 ∧ after (.smbChreq 6 none) base (fun t => t.dbg.scope == 2 && t.dbg.state == 1) = true ∧
    after .smbDbgstat smbusR (fun t => t.smb.out == []) = true ∧ after (.smbChreq 1 none) smbusR (fun t => t.dbg.state == 0) = true ∧
    crc8 [0x54, 0x43] ≠ 0 ∧ after (.smbVgo (some 0)) { smbusW with dbg := { smbusW.dbg with state := 1 } } (fun t => t.dbg.state == 1) = true ∧
    after (.smbVgo (some (crc8 [0x54, 0x43]))) { smbusW with dbg := { smbusW.dbg with state := 1 } } (fun t => t.dbg.state == 2) = true ∧
    crc8 [0x54, 0x30, 0xFF, 0x01] ≠ 0 ∧ after (.smbAlertclr 0x1FF (some 0)) smbusW (fun t => t.mg.alrt == 0x111) = true ∧
    after (.smbAlertclr 0x1FF none) smbusW (fun t => t.mg.alrt == 1) = true := by decide +kernel

/-- For `test_test_ports`. -/
def testPortsC := { base with pins := { base.pins with core := true } }

/-- For `test_test_ports`. -/
def testPortsG := { testPortsC with dbg := { testPortsC.dbg with grant := 2 } }

/-- The TAP and the wrapper, with the core reset released and asserted. -/
theorem test_test_ports :
    base.pwr.off = false ∧ base.dbg.lock = true ∧ after .extest base (fun t => t.tap.ir == .idcode && t.tap.wir == .bypass) = true ∧
    after .extest testPortsC (fun t => t.tap.ir == .extest) = true ∧ after .bypass base (fun t => t.tap.ir == .bypass) = true ∧
    after .wsExtest testPortsC (fun t => t.tap.wir == .extest) = true ∧ after .wsExtest base (fun t => t.tap.wir == .bypass) = true ∧
    after (.wsMbist 9) base (fun t => t.tap.wir == .bypass) = true ∧ after .wsIntest testPortsC (fun t => t.tap.wir == .bypass) = true ∧
    after .wsIntest testPortsG (fun t => t.tap.wir == .intest) = true ∧ after .wsDebug testPortsG (fun t => t.tap.wir == .bypass) = true := by decide +kernel

/-- For `test_identity_cast`. -/
def identityCastG : CastCfg := { src := 3, dst := 3, rnd := 1, sat := true, aff := false }

/-- An element of a format cast to its own format, with AFF=0. -/
theorem test_identity_cast :
    identityCastG.src = identityCastG.dst ∧ identityCastG.aff = false ∧ castElem identityCastG .nan 5 { lfsr := 9, nanf := false, satf := true } 0x7E01
      = (0x7E01, { lfsr := 9, nanf := false, satf := true }) := by decide +kernel

/-- For `test_step`. -/
def stepW := { base with pending := [.relock, .vgo], dbg := { base.dbg with state := 3, grant := 1 }, nvm := [(5, 1)] }

/-- A step runs the command in front and leaves the one behind it. -/
theorem test_step :
    SMap.wf stepW.nvm 0xFF ∧ (match step stepW with
      | .next t => t.pending == [.vgo] && t.dbg.grant == 0 && t.nvm == [(5, 1)]
      | _ => false) = true := by decide +kernel

/-- For `test_read_ahead`. -/
def readAheadW := { running rooted homed .tiles [acc 9 (.prefetch 1) false 0x1000 64] with
  chans := [(1, { Chan.reset with act := some 5, ph := .tiles, win := 1, pfst := 0, pf := [(1, [])] })]
  strms := [(5, { homed with st := .running, cmd := some (cmd [(0, 0, 1)]) })] }

/-- A burst read ahead reaches the window, and its tile then takes it from there; an error leaves the window empty. -/
theorem test_read_ahead :
    after (.sourceReadResponse 9 (toLE 64 5) .okay false) readAheadW (fun t =>
      t.acc == [] && (let (u, l) := t.takeAhead 0 1 5 1 0 [(0x1000, 64), (0x1040, 64)]
        (u.chan 1).got == [(0x1000, toLE 64 5)] && (u.chan 1).pf == [] && l == [(0x1040, 64)])) = true ∧
    after (.sourceReadResponse 9 [] .slverr false) readAheadW (fun t =>
      t.acc == [] && (t.chan 1).pf == [(1, [])] && (t.chan 1).stop == none && t.parts == readAheadW.parts) = true := by decide +kernel

end Sys2Proof.Tests
end

section
/-! Number formats: the identity case of the cast unit (chapter 03, R74, R75). -/

namespace Sys2Proof.Machine

/-- The cast unit's first branch: with equal formats and no affine step, the element passes by the decoder, the rounding
and the LFSR (R75). -/
theorem castElem_of_src_eq_dst {g : CastCfg} (hfmt : g.src = g.dst) (haff : g.aff = false) (scale : Num) (zero : Int)
    (c : CastSt) (bits : Nat) : castElem g scale zero c bits = (bits, c) := by
  unfold castElem
  exact if_pos ⟨hfmt, haff⟩

end Sys2Proof.Machine

namespace Sys2Proof

/-- Settles O57, by the cast unit's first branch. -/
theorem identityCast : Obligations.identity_cast := by
  unfold Obligations.identity_cast
  intro g scale zero c bits hfmt haff
  exact Machine.castElem_of_src_eq_dst hfmt haff scale zero c bits

end Sys2Proof
end

section
/-! The doorbell page of a disabled tenant (chapter 09, R250). -/

namespace Sys2Proof.Machine

/-- Reaching the block for a write changes no tenant's registers. -/
@[simp] theorem State.reached_ten (s : State) (t : Nat) : s.reached.ten t = s.ten t := rfl

/-- The enable bit of the tenant guards its whole doorbell page (R250). -/
theorem State.inPage_of_disabled {s : State} {t : Nat} (hen : (s.ten t).en = false) (f : State → State) :
    s.inPage t f = s := by
  simp [State.inPage, hen]

/-- A served write that acts inside the page of a disabled tenant leaves the state as it finds it. -/
theorem State.hostWrite_inPage_of_disabled {s : State} {t : Nat} (hs : s.Serves) (hen : (s.ten t).en = false)
    (c : Instr) (f : State → State) : s.hostWrite c (fun u => u.inPage t f) = s.reached :=
  calc s.hostWrite c (fun u => u.inPage t f)
      = s.reached.inPage t f := State.hostWrite_eq hs c _
    _ = s.reached := State.inPage_of_disabled (by simpa using hen) f

/-- A doorbell that names a stream is a write inside the tenant's page too (R174, R196). -/
theorem State.hostWrite_inNamed_of_disabled {s : State} {t : Nat} (hs : s.Serves) (hen : (s.ten t).en = false)
    (c : Instr) (sid : Nat) (f : State → State) : s.hostWrite c (fun u => u.inNamed t sid f) = s.reached :=
  State.hostWrite_inPage_of_disabled hs hen c _

end Sys2Proof.Machine

namespace Sys2Proof

open Machine

/-- Settles O17: each of the six doorbells is a host write inside the tenant's page, whose enable bit is clear. -/
theorem disabledTenantDoorbells : Obligations.disabled_tenant_doorbells := by
  unfold Obligations.disabled_tenant_doorbells
  intro s t hs hen k h v sid
  have page (c : Instr) (f : State → State) :
      Host.Outcome.next (s.hostWrite c fun u => u.inPage t f) = (.next s.reached : Host.Outcome State Fault Refusal) :=
    congrArg _ (State.hostWrite_inPage_of_disabled hs hen c f)
  have named (c : Instr) (f : State → State) :
      Host.Outcome.next (s.hostWrite c fun u => u.inNamed t sid.toNat f)
        = (.next s.reached : Host.Outcome State Fault Refusal) :=
    congrArg _ (State.hostWrite_inNamed_of_disabled hs hen c sid.toNat f)
  exact ⟨page (.dbSqTail t k v) fun u => u.sqTailOp t k v.toNat, page (.dbCqHead t h v) fun u => u.cqHeadOp t h v.toNat,
    named (.dbAbort t sid) fun u => u.abortOp sid.toNat, named (.dbThaw t sid) fun u => u.thawOp sid.toNat,
    named (.dbResume t sid) fun u => u.resumeOp sid.toNat, named (.dbSkip t sid) fun u => u.skipHalted sid.toNat⟩

end Sys2Proof
end

section
/-! What only a few events write: the queue of commands and the NVM. One lemma per function of the model says that the
function leaves both as they are. A proof `(rfl)` in brackets keeps `simp` from using the lemma by unfolding alone, so
that the lemma can discharge a hypothesis of another one; `-implicitDefEqProofs` does the same for the laws of State. -/

namespace Sys2Proof.Machine

/-- What only a few events write: the queue of commands and the NVM. -/
def State.stored (s : State) : List Instr × SMap Byte := (s.pending, s.nvm)

@[simp] theorem State.stored_eta (s : State) : (s.pending, s.nvm) = s.stored := (rfl)

@[simp] theorem State.stored_ite (c : Prop) [Decidable c] (s t : State) :
    (if c then s else t).stored = if c then s.stored else t.stored := apply_ite State.stored c s t

/-- Steps that each keep a list of things in order keep it together. -/
@[simp] theorem State.stored_foldl {α : Type} {f : State → α → State} (hf : ∀ s a, (f s a).stored = s.stored) (s : State)
    (l : List α) : (l.foldl f s).stored = s.stored := by
  induction l generalizing s with
  | nil => rfl
  | cons a l ih => exact (ih _).trans (hf s a)

@[simp] theorem State.stored_mk (pending cc nextAid seq free boot pins esc rst blk sink par stc granRet granErr scrub
    pwr hsec dbg irq strm host tens sqs cqs parts ecn xl dc tabs arb movers chans cnts ropes strms acc stg inv peer mg
    nvm smb tap) :
    (State.mk pending cc nextAid seq free boot pins esc rst blk sink par stc granRet granErr scrub pwr hsec dbg irq
      strm host tens sqs cqs parts ecn xl dc tabs arb movers chans cnts ropes strms acc stg inv peer mg nvm smb
      tap).stored = (pending, nvm) := (rfl)

/-- Steps on a tuple that each keep a part of it keep that part together. -/
theorem foldl_keeps {α β γ : Type} (g : β → γ) {f : β → α → β} (hf : ∀ b a, g (f b a) = g b) (l : List α) (b : β) :
    g (l.foldl f b) = g b := by
  induction l generalizing b with
  | nil => rfl
  | cons a l ih => exact (ih _).trans (hf b a)

/-! ### Functions of Ops.lean -/

@[simp] theorem State.setTen_stored (s : State) (k v) : (s.setTen k v).stored = s.stored := (rfl)
@[simp] theorem State.modTen_stored (s : State) (k g) : (s.modTen k g).stored = s.stored := (rfl)
@[simp] theorem State.setSq_stored (s : State) (k v) : (s.setSq k v).stored = s.stored := (rfl)
@[simp] theorem State.modSq_stored (s : State) (k g) : (s.modSq k g).stored = s.stored := (rfl)
@[simp] theorem State.setCq_stored (s : State) (k v) : (s.setCq k v).stored = s.stored := (rfl)
@[simp] theorem State.modCq_stored (s : State) (k g) : (s.modCq k g).stored = s.stored := (rfl)
@[simp] theorem State.setPart_stored (s : State) (k v) : (s.setPart k v).stored = s.stored := (rfl)
@[simp] theorem State.modPart_stored (s : State) (k g) : (s.modPart k g).stored = s.stored := (rfl)
@[simp] theorem State.setEcnCh_stored (s : State) (k v) : (s.setEcnCh k v).stored = s.stored := (rfl)
@[simp] theorem State.modEcnCh_stored (s : State) (k g) : (s.modEcnCh k g).stored = s.stored := (rfl)
@[simp] theorem State.setXlU_stored (s : State) (k v) : (s.setXlU k v).stored = s.stored := (rfl)
@[simp] theorem State.modXlU_stored (s : State) (k g) : (s.modXlU k g).stored = s.stored := (rfl)
@[simp] theorem State.setDcU_stored (s : State) (k v) : (s.setDcU k v).stored = s.stored := (rfl)
@[simp] theorem State.modDcU_stored (s : State) (k g) : (s.modDcU k g).stored = s.stored := (rfl)
@[simp] theorem State.setTab_stored (s : State) (k v) : (s.setTab k v).stored = s.stored := (rfl)
@[simp] theorem State.modTab_stored (s : State) (k g) : (s.modTab k g).stored = s.stored := (rfl)
@[simp] theorem State.setMover_stored (s : State) (k v) : (s.setMover k v).stored = s.stored := (rfl)
@[simp] theorem State.modMover_stored (s : State) (k g) : (s.modMover k g).stored = s.stored := (rfl)
@[simp] theorem State.setChan_stored (s : State) (k v) : (s.setChan k v).stored = s.stored := (rfl)
@[simp] theorem State.modChan_stored (s : State) (k g) : (s.modChan k g).stored = s.stored := (rfl)
@[simp] theorem State.setCnt_stored (s : State) (k v) : (s.setCnt k v).stored = s.stored := (rfl)
@[simp] theorem State.modCnt_stored (s : State) (k g) : (s.modCnt k g).stored = s.stored := (rfl)
@[simp] theorem State.setRope_stored (s : State) (k v) : (s.setRope k v).stored = s.stored := (rfl)
@[simp] theorem State.modRope_stored (s : State) (k g) : (s.modRope k g).stored = s.stored := (rfl)
@[simp] theorem State.setStrmAt_stored (s : State) (k v) : (s.setStrmAt k v).stored = s.stored := (rfl)
@[simp] theorem State.modStrmAt_stored (s : State) (k g) : (s.modStrmAt k g).stored = s.stored := (rfl)
@[simp] theorem State.setRstE_stored (s : State) (k v) : (s.setRstE k v).stored = s.stored := (rfl)
@[simp] theorem State.modRstE_stored (s : State) (k g) : (s.modRstE k g).stored = s.stored := (rfl)
@[simp] theorem State.setStrmP_stored (s : State) (k v) : (s.setStrmP k v).stored = s.stored := (rfl)
@[simp] theorem State.modStrmP_stored (s : State) (k g) : (s.modStrmP k g).stored = s.stored := (rfl)

/-! ### Functions of Access.lean -/

@[simp] theorem State.logEvent_stored (s : State) (code src arg) :
    (s.logEvent code src arg).stored = s.stored := (rfl)

@[simp] theorem State.dataParity_stored (s : State) (m sid) : (s.dataParity m sid).stored = s.stored := (rfl)
@[simp] theorem State.cacheParity_stored (s : State) (m sid) : (s.cacheParity m sid).stored = s.stored := (rfl)

@[simp] theorem State.shedCount_stored (s : State) (m sid n) : (s.shedCount m sid n).stored = s.stored := by
  simp -implicitDefEqProofs [shedCount]

@[simp] theorem State.modCh_stored (s : State) (m c f) : (s.modCh m c f).stored = s.stored := (rfl)
@[simp] theorem State.delAcc_stored (s : State) (aid) : (s.delAcc aid).stored = s.stored := (rfl)
@[simp] theorem State.modAcc_stored (s : State) (aid f) : (s.modAcc aid f).stored = s.stored := (rfl)
@[simp] theorem State.pushAcc_stored (s : State) (a) : (s.pushAcc a).stored = s.stored := (rfl)
@[simp] theorem State.pushPhys_stored (s : State) (a attr) : (s.pushPhys a attr).stored = s.stored := (rfl)
@[simp] theorem State.pushFar0_stored (s : State) (a) : (s.pushFar0 a).stored = s.stored := (rfl)
@[simp] theorem State.pushNear_stored (s : State) (a n) : (s.pushNear a n).stored = s.stored := (rfl)

@[simp] theorem State.lookup_stored (s : State) (p mv ten gen va wr) :
    (s.lookup p mv ten gen va wr).2.stored = s.stored := by
  unfold lookup
  dsimp only
  repeat' split
  all_goals simp

@[simp] theorem State.shedTlb_stored (s : State) (a) : (s.shedTlb a).stored = s.stored := by
  unfold shedTlb
  dsimp only
  repeat' split
  all_goals simp

@[simp] theorem State.walkRead_stored (s : State) (p w) : (s.walkRead p w).stored = s.stored := (rfl)

@[simp] theorem State.shedWalk_stored (s : State) (p r) : (s.shedWalk p r).stored = s.stored := by
  simp [shedWalk]

@[simp] theorem State.startWalk_stored (s : State) (p r) : (s.startWalk p r).stored = s.stored := by
  unfold startWalk
  dsimp only
  split <;> simp

@[simp] theorem State.translated_stored (s : State) (a e) : (s.translated a e).stored = s.stored := by
  unfold translated
  split <;> simp

@[simp] theorem State.pumpWalk_stored (s : State) (p l fs) : (s.pumpWalk p l fs).1.stored = s.stored := by
  induction l generalizing s fs with
  | nil => simp [pumpWalk]
  | cons r t ih =>
    unfold pumpWalk
    split
    · exact ih s fs
    · next a _ =>
      have h := (s.shedTlb a).lookup_stored p (rqMover a.rq) r.ten r.gen r.va r.wr
      split <;> simp_all

@[simp] theorem State.makeFar_stored (s : State) (a) : (s.makeFar a).1.stored = s.stored := by
  have h := (s.shedTlb a).lookup_stored a.part (rqMover a.rq) a.ten a.gen a.va a.permW
  unfold makeFar
  split
  · simp_all
  · simp_all
  · dsimp only
    split <;> simp_all

@[simp] theorem State.makeFars_stored (s : State) (l) : (s.makeFars l).1.stored = s.stored := by
  induction l generalizing s with
  | nil => rfl
  | cons a t ih =>
    have h := s.makeFar_stored a
    unfold makeFars
    split <;> simp_all

/-! ### Functions of Fault.lean -/

@[simp] theorem State.sendMsi_stored (s : State) (p n) : (s.sendMsi p n).stored = s.stored := (rfl)

@[simp] theorem State.pumpFq_stored (s : State) (p) : (s.pumpFq p).stored = s.stored := by
  unfold pumpFq
  dsimp only
  split <;> simp

@[simp] theorem State.fqLose_stored (s : State) (p) : (s.fqLose p).stored = s.stored := (rfl)

@[simp] theorem State.pushFault_stored (s : State) (p f) : (s.pushFault p f).stored = s.stored := by
  simp [pushFault]

@[simp] theorem State.fqPending_stored (s : State) (p) : (s.fqPending p).stored = s.stored := by
  simp [fqPending]

@[simp] theorem State.fqWritten_stored (s : State) (p ok) : (s.fqWritten p ok).stored = s.stored := by
  simp [fqWritten]

@[simp] theorem State.fqAnswered_stored (s : State) (a p ok) : (s.fqAnswered a p ok).stored = s.stored := by
  simp [fqAnswered]

@[simp] theorem State.writeRecord_stored (s : State) (c r slot ph) :
    (s.writeRecord c r slot ph).1.stored = s.stored := by
  simp [writeRecord]

theorem State.giveSlot_stored {s : State} {c : Nat} {r : CqRec} {u} (h : s.giveSlot c r = some u) : u.1.stored = s.stored := by
  unfold giveSlot at h
  dsimp only at h
  split at h
  · cases h
  · cases h
    simp

@[simp] theorem State.cqPending_stored (s : State) (c) : (s.cqPending c).stored = s.stored := by
  simp [cqPending]

@[simp] theorem State.outstDec_stored (s : State) (r) : (s.outstDec r).stored = s.stored := by
  simp [outstDec]

@[simp] theorem State.cqAdvance_stored (s : State) (c l) : (s.cqAdvance c l).stored = s.stored := by
  induction l generalizing s with
  | nil => simp [cqAdvance]
  | cons g t ih =>
    unfold cqAdvance
    dsimp only
    split <;> [rw [ih]; skip] <;> simp

/-! ### Functions of Stream.lean -/

@[simp] theorem State.refreshActive_stored (s : State) (t) : (s.refreshActive t).stored = s.stored := by
  simp [refreshActive]

@[simp] theorem State.setSt_stored (s : State) (sid st w) : (s.setSt sid st w).stored = s.stored := by
  simp [setSt]

@[simp] theorem State.haltHome_stored (s : State) (sid) : (s.haltHome sid).stored = s.stored := by
  simp [haltHome]

@[simp] theorem State.makeReady_stored (s : State) (sid) : (s.makeReady sid).stored = s.stored := by
  simp [makeReady]

@[simp] theorem State.makeReadies_stored (s : State) (l) : (s.makeReadies l).stored = s.stored := by
  simp [makeReadies]

@[simp] theorem State.setWait_stored (s : State) (sid w) : (s.setWait sid w).stored = s.stored := by
  simp [setWait]

@[simp] theorem State.wakeUp_stored (s : State) : (s.wakeUp).stored = s.stored := by
  simp [wakeUp]

@[simp] theorem State.wakeHome_stored (s : State) (m c) : (s.wakeHome m c).stored = s.stored := by
  simp [wakeHome]

@[simp] theorem State.modGen_stored (s : State) (p g f) : (s.modGen p g f).stored = s.stored := by
  unfold modGen
  split <;> simp

@[simp] theorem State.unpin_stored (s : State) (sid) : (s.unpin sid).stored = s.stored := by
  simp [unpin]

@[simp] theorem State.rearmEnds_stored (s : State) (issuer target aborted) :
    (s.rearmEnds issuer target aborted).stored = s.stored := by
  unfold rearmEnds
  dsimp only
  split <;> simp

@[simp] theorem State.applyPending_stored (s : State) (sid) : (s.applyPending sid).stored = s.stored := by
  unfold applyPending
  split <;> simp

@[simp] theorem State.discardPending_stored (s : State) (sid) : (s.discardPending sid).stored = s.stored := by
  unfold discardPending
  split <;> simp

@[simp] theorem State.makeArmed_stored (s : State) (sid) : (s.makeArmed sid).stored = s.stored := by
  unfold makeArmed
  dsimp only
  split <;> simp

@[simp] theorem State.takeWindow_stored (s : State) (m c sid) : (s.takeWindow m c sid).stored = s.stored := by
  simp [takeWindow]

@[simp] theorem State.freeWindow_stored (s : State) (m c p) : (s.freeWindow m c p).stored = s.stored := (rfl)

@[simp] theorem State.recordOut_stored (s : State) (m c sid kind) : (s.recordOut m c sid kind).stored = s.stored := by
  simp [recordOut]

@[simp] theorem State.writeBack_stored (s : State) (m c sid) : (s.writeBack m c sid).stored = s.stored := by
  simp [writeBack]

@[simp] theorem State.moveSpace_stored (s : State) (p old new) : (s.moveSpace p old new).stored = s.stored := (rfl)

@[simp] theorem State.endBoundary_stored (s : State) (m c sid done) :
    (s.endBoundary m c sid done).stored = s.stored := by
  unfold endBoundary
  split <;> simp

@[simp] theorem State.pushStg_stored (s : State) (m c sid tile wr n) :
    (s.pushStg m c sid tile wr n).stored = s.stored := by
  simp -implicitDefEqProofs [pushStg]

@[simp] theorem State.dropChan_stored (s : State) (m c keep) : (s.dropChan m c keep).stored = s.stored := (rfl)

@[simp] theorem State.leaveOnly_stored (s : State) (m c) : (s.leaveOnly m c).stored = s.stored := by
  unfold leaveOnly
  split <;> simp

@[simp] theorem State.latchErr_stored (s : State) (m c e) : (s.latchErr m c e).stored = s.stored := (rfl)
@[simp] theorem State.lateErr_stored (s : State) (m c) : (s.lateErr m c).stored = s.stored := (rfl)

@[simp] theorem State.latchStop_stored (s : State) (m c x) : (s.latchStop m c x).stored = s.stored := by
  unfold latchStop
  split <;> simp

@[simp] theorem State.applyStop_stored (s : State) (m c sid x) : (s.applyStop m c sid x).stored = s.stored := by
  simp [applyStop]

@[simp] theorem State.shedCopy_stored (s : State) (p ten gen addr m sid) :
    (s.shedCopy p ten gen addr m sid).stored = s.stored := by
  simp [shedCopy]

@[simp] theorem State.cacheUse_stored (s : State) (p ten gen addr) :
    (s.cacheUse p ten gen addr).stored = s.stored := (rfl)

@[simp] theorem State.cacheIn_stored (s : State) (p ten gen addr data) :
    (s.cacheIn p ten gen addr data).stored = s.stored := (rfl)

@[simp] theorem State.makeOr_stored (s : State) (m c l n) : (s.makeOr m c l n).1.stored = s.stored := by
  have h := s.makeFars_stored l
  unfold makeOr
  split <;> simp_all

/-! ### Functions of Sync.lean -/

@[simp] theorem State.cntAdd_stored (s : State) (key d sid m c) : (s.cntAdd key d sid m c).stored = s.stored := by
  simp [cntAdd]

@[simp] theorem State.repeatArrivals_stored {retry : State → Strm → State × Wait}
    (h : ∀ s x, (retry s x).1.stored = s.stored) (s : State) (isIt) : (s.repeatArrivals isIt retry).stored = s.stored := by
  unfold repeatArrivals
  refine State.stored_foldl (fun t e => ?_) _ _
  dsimp only
  split <;> simp [h]

@[simp] theorem State.cntRounds_stored (s : State) (key n) : (s.cntRounds key n).stored = s.stored := by
  induction n generalizing s with
  | zero => rfl
  | succ n ih =>
    unfold cntRounds
    dsimp only
    split
    · rw [ih, State.wakeUp_stored, State.repeatArrivals_stored fun t x => State.setCnt_stored .., State.setCnt_stored]
    · rfl

@[simp] theorem State.cntRound_stored (s : State) (key) : (s.cntRound key).stored = s.stored := by
  simp [cntRound]

@[simp] theorem State.cntArrive_stored (s : State) (key c) : (s.cntArrive key c).1.stored = s.stored := by
  simp [cntArrive]

@[simp] theorem State.cntConfig_stored (s : State) (key mode part init ten) :
    (s.cntConfig key mode part init ten).stored = s.stored := by
  simp [cntConfig]

@[simp] theorem State.ropeEval_stored (s : State) (n) : (s.ropeEval n).stored = s.stored := by
  simp -implicitDefEqProofs [ropeEval]

@[simp] theorem State.ropeEvalAll_stored (s : State) : (s.ropeEvalAll).stored = s.stored := by
  simp [ropeEvalAll]

@[simp] theorem State.ropeArrive_stored (s : State) (n m) : (s.ropeArrive n m).1.stored = s.stored := by
  simp [ropeArrive]

@[simp] theorem State.ropeIn_stored (s : State) (n) : (s.ropeIn n).stored = s.stored := by
  simp [ropeIn]

@[simp] theorem State.ropeDown_stored (s : State) (n) : (s.ropeDown n).stored = s.stored := (rfl)

@[simp] theorem State.applySignal_stored (s : State) (m c sid raw) :
    (s.applySignal m c sid raw).stored = s.stored := by
  unfold applySignal
  dsimp only
  repeat' split
  all_goals simp

/-! ### Functions of Check.lean -/

@[simp] theorem State.tabUse_stored (s : State) (p e) : (s.tabUse p e).stored = s.stored := (rfl)

@[simp] theorem State.findCopy_stored (s : State) (p ten gen drr n) :
    (s.findCopy p ten gen drr n).2.stored = s.stored := by
  unfold findCopy
  split
  · rfl
  · split
    · rfl
    · split <;> simp
    · split <;> simp

@[simp] theorem State.keepCopy_stored (s : State) (p ten gen n data) :
    (s.keepCopy p ten gen n data).stored = s.stored := by
  unfold keepCopy
  split <;> simp

@[simp] theorem State.modCmd_stored (s : State) (sid f) : (s.modCmd sid f).stored = s.stored := (rfl)

@[simp] theorem State.readNeed_stored (s : State) (m c sid n) : (s.readNeed m c sid n).stored = s.stored := by
  refine State.stored_foldl (fun t b => ?_) _ _
  have h := t.makeFar_stored (t.chanAcc m c sid (.decode n.place) false b.1 b.2)
  split <;> simp_all

@[simp] theorem State.decodeEnd_stored (s : State) (m c sid) : (s.decodeEnd m c sid).1.stored = s.stored := by
  unfold decodeEnd
  dsimp only
  repeat' split
  all_goals simp

@[simp] theorem State.lookUp_stored (s : State) (m c sid) : (s.lookUp m c sid).1.stored = s.stored := by
  unfold lookUp
  dsimp only
  split
  · rfl
  · next k _ =>
    generalize hr : List.foldl _ (s, k.got, []) _ = r
    have h : r.1.stored = s.stored := by
      rw [← hr]
      refine foldl_keeps (fun b : State × SMap (List Byte) × List Need => b.1.stored) (fun b n => ?_) _ _
      generalize hu : State.findCopy _ _ _ _ _ n = u
      have h : u.2.stored = b.1.stored := by
        rw [← hu]
        simp
      split <;> simp_all
    split
    · simp [h]
    · split <;> simp -implicitDefEqProofs [h]

@[simp] theorem State.decode1_stored (s : State) (m c sid) : (s.decode1 m c sid).1.stored = s.stored := by
  unfold decode1
  dsimp only
  split
  · rfl
  · split <;> simp

/-! ### Functions of Active.lean -/

@[simp] theorem State.holdCmd_stored (s : State) (m c sid raw) : (s.holdCmd m c sid raw).stored = s.stored := by
  simp [holdCmd]

@[simp] theorem State.takeCmd_stored (s : State) (m c sid raw) : (s.takeCmd m c sid raw).1.stored = s.stored := by
  unfold takeCmd
  dsimp only
  split <;> simp

@[simp] theorem State.readSlots_stored (s : State) (m c sid sltab) :
    (s.readSlots m c sid sltab).1.stored = s.stored := by
  simp [readSlots]

@[simp] theorem State.fetchProgram_stored {hit : BitVec 512 → State → State × Going}
    (h : ∀ r s, (hit r s).1.stored = s.stored) (s : State) (m c sid i) : (s.fetchProgram m c sid i hit).1.stored = s.stored := by
  unfold fetchProgram
  dsimp only
  split <;> simp [h]

@[simp] theorem State.fetchNext_stored (s : State) (m c sid) : (s.fetchNext m c sid).1.stored = s.stored := by
  unfold fetchNext
  dsimp only
  split
  · split
    · simp
    · refine State.fetchProgram_stored (fun r t => ?_) _ _ _ _ _
      split <;> simp
  · split <;> simp

@[simp] theorem State.ecnFetch_stored (s : State) (m c sid) : (s.ecnFetch m c sid).1.stored = s.stored := by
  unfold ecnFetch
  dsimp only
  repeat' split
  all_goals simp

@[simp] theorem State.ecnEnd_stored (s : State) (sid f) : (s.ecnEnd sid f).stored = s.stored := by
  unfold ecnEnd
  split <;> simp

@[simp] theorem State.begin_stored (s : State) (m c sid) : (s.begin m c sid).1.stored = s.stored := by
  unfold begin
  dsimp only
  repeat' split
  all_goals simp

@[simp] theorem State.startStream_stored (s : State) (m c sid) : (s.startStream m c sid).stored = s.stored := by
  unfold startStream
  dsimp only
  generalize hu : List.foldl _ _ _ = u
  have hus : u.stored = s.stored := by
    rw [← hu, State.stored_foldl fun t k => t.setWait_stored _ _]
    simp
  have he := u.ecnFetch_stored m c sid
  have hb := u.begin_stored m c sid
  split <;> split <;> simp_all

@[simp] theorem State.leave_stored (s : State) (m c) : (s.leave m c).stored = s.stored := by
  unfold leave
  dsimp only
  split <;> simp

@[simp] theorem State.stopNow_stored (s : State) (m c sid x) : (s.stopNow m c sid x).stored = s.stored := by
  unfold stopNow
  dsimp only
  split <;> simp

@[simp] theorem State.finishStop_stored (s : State) (m c) : (s.finishStop m c).stored = s.stored := by
  unfold finishStop
  split <;> simp

@[simp] theorem State.lateReads_stored (s : State) (m c) : (s.lateReads m c).stored = s.stored := (rfl)

@[simp] theorem State.beginStop_stored (s : State) (m c x) : (s.beginStop m c x).stored = s.stored := by
  simp [beginStop]

/-! ### Functions of Complete.lean -/

@[simp] theorem State.dropShadow_stored (s : State) (sid) : (s.dropShadow sid).stored = s.stored := (rfl)

@[simp] theorem State.recordFault_stored (s : State) (sid frozen f) :
    (s.recordFault sid frozen f).stored = s.stored := by
  unfold recordFault
  dsimp only
  split <;> simp

@[simp] theorem State.recordXlat_stored (s : State) (f) : (s.recordXlat f).stored = s.stored := by
  unfold recordXlat
  split <;> simp

theorem State.placeRecord_stored {s t : State} {c : Nat} {r : CqRec} (h : s.placeRecord c r = some t) : t.stored = s.stored := by
  unfold placeRecord at h
  split at h
  · cases h
  · next h' => cases h; exact State.giveSlot_stored h'
  · next h' => cases h; rw [State.recordXlat_stored, State.giveSlot_stored h']

@[simp] theorem State.pumpHeld_stored (s : State) (c l) : (s.pumpHeld c l).stored = s.stored := by
  induction l generalizing s with
  | nil => rfl
  | cons r t ih =>
    unfold pumpHeld
    split
    · exact ih s
    · split
      · rfl
      · next h => simp [ih, State.placeRecord_stored h]

@[simp] theorem State.pumpAll_stored (s : State) (n) : (s.pumpAll n).stored = s.stored := by
  induction n generalizing s with
  | zero => rfl
  | succ n ih => rw [pumpAll, ih, State.stored_foldl fun t e => t.pumpHeld_stored _ _]

@[simp] theorem State.pumpCq_stored (s : State) (c) : (s.pumpCq c).stored = s.stored := by
  simp [pumpCq]

@[simp] theorem State.handOff_stored (s : State) (r) : (s.handOff r).stored = s.stored := by
  unfold handOff
  dsimp only
  split
  · simp
  · cases h : s.placeRecord _ r with
    | none => simp
    | some t => exact State.placeRecord_stored h

@[simp] theorem State.tableDone_stored (s : State) (sid k) : (s.tableDone sid k).stored = s.stored := by
  unfold tableDone
  split <;> simp

@[simp] theorem State.goOn_stored (m c sid) (r : State × Going) : (State.goOn m c sid r).stored = r.1.stored := by
  unfold goOn
  split <;> simp

@[simp] theorem State.boundary_stored (s : State) (m c sid) : (s.boundary m c sid).stored = s.stored := by
  unfold boundary
  dsimp only
  repeat' split
  all_goals simp -implicitDefEqProofs

@[simp] theorem State.endArming_stored (s : State) (m c sid) : (s.endArming m c sid).stored = s.stored := by
  unfold endArming
  dsimp only
  split <;> simp

@[simp] theorem State.completeCmd_stored (s : State) (m c sid k) : (s.completeCmd m c sid k).stored = s.stored := by
  unfold completeCmd
  dsimp only
  repeat' split
  all_goals simp -implicitDefEqProofs

@[simp] theorem State.completeOp_stored (s : State) (m c) : (s.completeOp m c).stored = s.stored := by
  unfold completeOp
  dsimp only
  repeat' split
  all_goals simp

/-! ### Functions of Run.lean -/

@[simp] theorem State.busError_stored (s : State) (m c a code resp) :
    (s.busError m c a code resp).stored = s.stored := by
  simp [busError]

@[simp] theorem State.lateRead_stored (s : State) (m a resp) : (s.lateRead m a resp).stored = s.stored := by
  simp [lateRead]

@[simp] theorem State.takePin_stored (s : State) (sid c) : (s.takePin sid c).stored = s.stored := by
  unfold takePin
  dsimp only
  split <;> simp

@[simp] theorem State.strmPull_stored (s : State) (sid d width height need) :
    (s.strmPull sid d width height need).stored = s.stored := by
  simp [strmPull]

@[simp] theorem State.strmDone_stored (s : State) (k) : (s.strmDone k).stored = s.stored := by
  unfold strmDone
  split <;> simp

@[simp] theorem State.remote_stored (s : State) (m c sid n k wr off len final payload) :
    (s.remote m c sid n k wr off len final payload).stored = s.stored := (rfl)

@[simp] theorem State.cmdDone_stored (s : State) (m c sid) : (s.cmdDone m c sid).stored = s.stored := (rfl)

@[simp] theorem State.readBack_stored (s : State) (m c sid w) : (s.readBack m c sid w).stored = s.stored := by
  unfold readBack
  dsimp only
  split
  · generalize hu : State.makeFar _ _ = r
    have h : r.1.stored = s.stored := by
      rw [← hu]
      simp
    split <;> simp_all
  · simp

@[simp] theorem State.tilesDone_stored (s : State) (m c sid) : (s.tilesDone m c sid).stored = s.stored := by
  unfold tilesDone
  dsimp only
  repeat' split
  all_goals simp

@[simp] theorem State.abortDone_stored (s : State) (m c sid) : (s.abortDone m c sid).stored = s.stored := by
  unfold abortDone
  split <;> simp

@[simp] theorem State.settle_stored (s : State) (m c) : (s.settle m c).stored = s.stored := by
  unfold settle
  dsimp only
  repeat' split
  all_goals simp

@[simp] theorem State.withhold_stored (s : State) (m c sid n) : (s.withhold m c sid n).stored = s.stored := (rfl)

@[simp] theorem State.form_stored (s : State) (m c sid n k g) : (s.form m c sid n k g).stored = s.stored := by
  unfold form
  dsimp only
  repeat' split
  all_goals simp

@[simp] theorem State.makeTile_stored (s : State) (m c n l) : (s.makeTile m c n l).1.stored = s.stored := by
  have h := s.makeFars_stored l
  unfold makeTile
  split <;> simp_all

@[simp] theorem State.probeDest_stored (s : State) (m c sid n g) : (s.probeDest m c sid n g).1.stored = s.stored := by
  unfold probeDest
  split <;> simp

@[simp] theorem State.endAhead_stored (s : State) (m c n) : (s.endAhead m c n).stored = s.stored := (rfl)
@[simp] theorem State.pushSpill_stored (s : State) (a pa) : (s.pushSpill a pa).stored = s.stored := (rfl)

@[simp] theorem State.takeAhead_stored (s : State) (m c sid n space bs) :
    (s.takeAhead m c sid n space bs).1.stored = s.stored := by
  simp -implicitDefEqProofs [takeAhead]

@[simp] theorem State.shedCoal_stored (s : State) (m c sid n g) : (s.shedCoal m c sid n g).stored = s.stored := by
  simp [shedCoal]

@[simp] theorem State.nearCheck_stored (s : State) (m c sid n k g) :
    (s.nearCheck m c sid n k g).1.stored = s.stored := by
  unfold nearCheck
  split <;> simp

@[simp] theorem State.readSource_stored (s : State) (m c sid n k g) :
    (s.readSource m c sid n k g).1.stored = s.stored := by
  unfold readSource
  dsimp only
  repeat' split
  all_goals simp -implicitDefEqProofs

@[simp] theorem State.readAgain_stored (s : State) (m sid n a) : (s.readAgain m sid n a).stored = s.stored := by
  unfold readAgain
  split <;> simp

@[simp] theorem State.readAhead_stored (s : State) (m c) : (s.readAhead m c).stored = s.stored := by
  unfold readAhead
  dsimp only
  repeat' split
  all_goals simp -implicitDefEqProofs

@[simp] theorem State.aheadRead_stored (s : State) (m sid n a data r parity) :
    (s.aheadRead m sid n a data r parity).stored = s.stored := by
  unfold aheadRead
  dsimp only
  repeat' split
  all_goals simp

@[simp] theorem State.aheadSpilled_stored (s : State) (m n space a) :
    (s.aheadSpilled m n space a).stored = s.stored := by
  unfold aheadSpilled
  split <;> simp

@[simp] theorem State.startReads_stored (s : State) (m c sid n k g) :
    (s.startReads m c sid n k g).1.stored = s.stored := by
  unfold startReads
  split
  · simp
  · have h := s.nearCheck_stored m c sid n k g
    split
    · simp_all
    · next s0 _ =>
      have h' := s0.readSource_stored m c sid n k g
      split <;> simp_all

@[simp] theorem State.readList_stored (s : State) (m c sid n k es) :
    (s.readList m c sid n k es).1.stored = s.stored := by
  simp [readList]

@[simp] theorem State.tryForm_stored (s : State) (m c sid n) : (s.tryForm m c sid n).1.stored = s.stored := by
  unfold tryForm
  dsimp only
  repeat' split
  all_goals simp

@[simp] theorem State.beginTile_stored (s : State) (m c sid n) : (s.beginTile m c sid n).1.stored = s.stored := by
  unfold beginTile
  dsimp only
  split
  · rfl
  · next k _ =>
    generalize hu : State.modCmd _ sid _ = u
    have hus : u.stored = s.stored := by
      rw [← hu]
      simp
    have hn := u.nearCheck_stored m c sid n k (runGeo (s.strmAt sid) k)
    have hr := u.startReads_stored m c sid n k (runGeo (s.strmAt sid) k)
    split
    · simp [hus]
    · split <;> split <;> simp_all

@[simp] theorem State.startTiles_stored (s : State) (m c sid n fuel) :
    (s.startTiles m c sid n fuel).stored = s.stored := by
  induction fuel generalizing s n with
  | zero => rfl
  | succ fuel ih =>
    have h := s.beginTile_stored m c sid n
    unfold startTiles
    split <;> simp_all

@[simp] theorem State.startTile_stored (s : State) (m c sid n) : (s.startTile m c sid n).stored = s.stored := by
  unfold startTile
  split <;> simp

@[simp] theorem State.advanceTile_stored (s : State) (m c sid n) : (s.advanceTile m c sid n).stored = s.stored := by
  have h := s.tryForm_stored m c sid n
  unfold advanceTile
  split <;> simp_all

@[simp] theorem State.writeBurst_stored (s : State) (m c sid n g bytes off b) :
    (s.writeBurst m c sid n g bytes off b).stored = s.stored := by
  simp [writeBurst]

@[simp] theorem State.sendTile_stored (s : State) (m c sid n k g bytes) :
    (s.sendTile m c sid n k g bytes).stored = s.stored := by
  simp -implicitDefEqProofs [sendTile]

@[simp] theorem State.writeTile_stored (s : State) (m c sid t off) :
    (s.writeTile m c sid t off).stored = s.stored := by
  unfold writeTile
  split <;> simp

@[simp] theorem State.beatParity_stored (s : State) (m sid l) : (s.beatParity m sid l).stored = s.stored := by
  simp [beatParity]

@[simp] theorem State.tileReadyOp_stored (s : State) (m c p) : (s.tileReadyOp m c p).stored = s.stored := by
  unfold tileReadyOp
  dsimp only
  repeat' split
  all_goals simp

@[simp] theorem State.runData_stored (s : State) (m c sid k) : (s.runData m c sid k).stored = s.stored := by
  unfold runData
  dsimp only
  repeat' split
  all_goals simp

/-! ### Functions of StreamCmd.lean -/

@[simp] theorem State.onCmd_stored {s : State} {f : Nat → CmdCtx → State} (h :
    ∀ sid k, (f sid k).stored = s.stored) (m c is) :
    (s.onCmd m c is f).stored = s.stored := by
  unfold onCmd
  dsimp only
  split
  · rfl
  · split
    · rfl
    · split <;> simp [h]

@[simp] theorem State.waitCmd_stored (s : State) (m c sid w) : (s.waitCmd m c sid w).stored = s.stored := by
  simp [waitCmd]

@[simp] theorem State.refuseCmd_stored (s : State) (m c sid) : (s.refuseCmd m c sid).stored = s.stored := by
  simp -implicitDefEqProofs [refuseCmd]

@[simp] theorem State.dataOp_stored (s : State) (m c op) : (s.dataOp m c op).stored = s.stored := by
  refine State.onCmd_stored (fun sid k => ?_) _ _ _
  split
  · simp
  · split
    · simp
    · dsimp only
      split <;> simp
  · simp

@[simp] theorem State.waitOp_stored (s : State) (m c) : (s.waitOp m c).stored = s.stored := by
  simp -implicitDefEqProofs [waitOp]

@[simp] theorem State.barrierOp_stored (s : State) (m c) : (s.barrierOp m c).stored = s.stored := by
  refine State.onCmd_stored (fun sid k => ?_) _ _ _
  dsimp only
  split
  · simp
  · have h : (if cKind k.raw = 1 then s.cntArrive (cntKey (s.strmAt sid).hmv.toNat (cTgt k.raw)) c
        else s.ropeArrive (cTgt k.raw) m).1.stored = s.stored := by
      split <;> simp
    split <;> simp [h]

@[simp] theorem State.sigConfig_stored (s : State) (sid c) : (s.sigConfig sid c).stored = s.stored := by
  simp [sigConfig]

@[simp] theorem State.sigApply_stored (s : State) (m c sid k) : (s.sigApply m c sid k).stored = s.stored := by
  simp [sigApply]

@[simp] theorem State.signalOp_stored (s : State) (m c sop) : (s.signalOp m c sop).stored = s.stored := by
  simp -implicitDefEqProofs [signalOp]

@[simp] theorem State.rearmNow_stored (s : State) (t r) : (s.rearmNow t r).stored = s.stored := by
  simp [rearmNow]

@[simp] theorem State.rearmCmd_stored {s : State} {f : Nat → CmdCtx → Nat → State} (h :
    ∀ sid k j, (f sid k j).stored = s.stored)
    (m c op) : (s.rearmCmd m c op f).stored = s.stored := by
  refine State.onCmd_stored (fun sid k => ?_) _ _ _
  simp [h]

@[simp] theorem State.rearmOp_stored (s : State) (m c) : (s.rearmOp m c).stored = s.stored := by
  simp -implicitDefEqProofs [rearmOp]

@[simp] theorem State.loadOp_stored (s : State) (m c) : (s.loadOp m c).stored = s.stored := by
  simp -implicitDefEqProofs [loadOp]

@[simp] theorem State.freeSlots_stored (s : State) (p l) : (s.freeSlots p l).stored = s.stored := (rfl)

@[simp] theorem State.unloadOp_stored (s : State) (m c) : (s.unloadOp m c).stored = s.stored := by
  simp -implicitDefEqProofs [unloadOp]

@[simp] theorem State.loopEnd_stored (s : State) (m c sid) : (s.loopEnd m c sid).stored = s.stored := by
  simp [loopEnd]

@[simp] theorem State.slotsDone_stored (s : State) (m c sid) : (s.slotsDone m c sid).stored = s.stored := by
  unfold slotsDone
  dsimp only
  repeat' split
  all_goals simp -implicitDefEqProofs

@[simp] theorem State.loopOp_stored (s : State) (m c) : (s.loopOp m c).stored = s.stored := by
  refine State.onCmd_stored (fun sid k => ?_) _ _ _
  dsimp only
  split <;> simp

@[simp] theorem State.tableLoadOp_stored (s : State) (m c) : (s.tableLoadOp m c).stored = s.stored := by
  refine State.onCmd_stored (fun sid k => ?_) _ _ _
  dsimp only
  split <;> simp

@[simp] theorem State.tableReleaseOp_stored (s : State) (m c) : (s.tableReleaseOp m c).stored = s.stored := by
  refine State.onCmd_stored (fun sid k => ?_) _ _ _
  dsimp only
  split <;> simp

/-! ### Functions of Peer.lean -/

@[simp] theorem State.modStat_stored (s : State) (port f) : (s.modStat port f).stored = s.stored := (rfl)
@[simp] theorem State.peDrop_stored (s : State) (port) : (s.peDrop port).stored = s.stored := (rfl)
@[simp] theorem State.creditIn_stored (s : State) (port b n) : (s.creditIn port b n).stored = s.stored := (rfl)
@[simp] theorem State.creditOwe_stored (s : State) (key) : (s.creditOwe key).stored = s.stored := (rfl)

@[simp] theorem State.awake_stored (s : State) : (s.awake).stored = s.stored := by
  simp [awake]

@[simp] theorem State.freeBuf_stored (s : State) (port pkt) : (s.freeBuf port pkt).stored = s.stored := by
  simp [freeBuf]

@[simp] theorem State.intake_stored {use : State → State} (h : ∀ s, (use s).stored = s.stored) (s :
    State) (port type pkt) :
    (s.intake port type pkt use).stored = s.stored := by
  simp [intake, h]

@[simp] theorem State.respond_stored (s : State) (hdr type nst payload) :
    (s.respond hdr type nst payload).stored = s.stored := by
  simp [respond]

@[simp] theorem State.nack_stored (s : State) (hdr nst) : (s.nack hdr nst).stored = s.stored := by
  simp [nack]

@[simp] theorem State.modJob_stored (s : State) (id f) : (s.modJob id f).stored = s.stored := (rfl)

@[simp] theorem State.endJob_stored (s : State) (j) : (s.endJob j).stored = s.stored := by
  simp [endJob]

@[simp] theorem State.failJob_stored (s : State) (j nst f) : (s.failJob j nst f).stored = s.stored := by
  unfold failJob
  split <;> simp

@[simp] theorem State.rxXlat_stored (s : State) (id f) : (s.rxXlat id f).stored = s.stored := by
  unfold rxXlat
  split <;> simp

@[simp] theorem State.startJob_stored (s : State) (j pl) : (s.startJob j pl).stored = s.stored := by
  unfold startJob
  dsimp only
  split
  all_goals
    generalize hu : State.makeFars _ _ = r
    have h : r.1.stored = s.stored := by
      rw [← hu]
      simp
    split <;> simp_all

@[simp] theorem State.setFin_stored (s : State) (k v) : (s.setFin k v).stored = s.stored := (rfl)

@[simp] theorem State.finTake_stored (s : State) (k xseq) : (s.finTake k xseq).stored = s.stored := by
  unfold finTake
  dsimp only
  repeat' split
  all_goals simp

@[simp] theorem State.finSees_stored (s : State) (wr pkt) : (s.finSees wr pkt).stored = s.stored := by
  unfold finSees
  split <;> simp

@[simp] theorem State.request_stored (s : State) (port wr pkt) : (s.request port wr pkt).stored = s.stored := by
  unfold request
  dsimp only
  generalize hu : State.finSees _ _ _ = u
  have h : u.stored = s.stored := by
    rw [← hu]
    simp
  split
  · split <;> simp [h]
  · split
    · split
      · exact h
      · split
        · cases (u.fin _).held.bind fun o => u.job o.1 <;> simp [h]
        · simp [h]
    · simp [h]

@[simp] theorem State.jobAnswer_stored (s : State) (id a r data hog) :
    (s.jobAnswer id a r data hog).stored = s.stored := by
  unfold jobAnswer
  dsimp only
  repeat' split
  all_goals simp

@[simp] theorem State.landing_stored (s : State) (sid n) : (s.landing sid n).stored = s.stored := by
  simp [landing]

@[simp] theorem State.landedOp_stored (s : State) (id) : (s.landedOp id).stored = s.stored := by
  unfold landedOp
  dsimp only
  repeat' split
  all_goals simp

@[simp] theorem State.readsDoneOp_stored (s : State) (id) : (s.readsDoneOp id).stored = s.stored := by
  unfold readsDoneOp
  split <;> simp

@[simp] theorem State.finalReleaseOp_stored (s : State) (k) : (s.finalReleaseOp k).stored = s.stored := by
  unfold finalReleaseOp
  dsimp only
  repeat' split
  all_goals simp

@[simp] theorem State.delRem_stored (s : State) (r) : (s.delRem r).stored = s.stored := (rfl)

@[simp] theorem State.response_stored {use : State → RemReq → Nat → State} (h :
    ∀ s r n, (use s r n).stored = s.stored)
    (s : State) (port type wr pkt) : (s.response port type wr pkt use).stored = s.stored := by
  refine State.intake_stored (fun t => ?_) _ _ _ _
  dsimp only
  split
  · simp
  · split <;> simp [h]

@[simp] theorem State.wackOp_stored (s : State) (port pkt) : (s.wackOp port pkt).stored = s.stored := by
  simp -implicitDefEqProofs [wackOp]

@[simp] theorem State.remoteStop_stored (s : State) (r sid code resp) :
    (s.remoteStop r sid code resp).stored = s.stored := by
  simp [remoteStop]

@[simp] theorem State.nackOp_stored (s : State) (port pkt) : (s.nackOp port pkt).stored = s.stored := by
  simp -implicitDefEqProofs [nackOp]

@[simp] theorem State.rdrspOp_stored (s : State) (port pkt) : (s.rdrspOp port pkt).stored = s.stored := by
  simp -implicitDefEqProofs [rdrspOp]

@[simp] theorem State.timeoutOp_stored (s : State) (m c) : (s.timeoutOp m c).stored = s.stored := by
  unfold timeoutOp
  dsimp only
  split <;> simp

@[simp] theorem State.forwardOp_stored (s : State) (port pkt gap) : (s.forwardOp port pkt gap).stored = s.stored := by
  simp [forwardOp]

@[simp] theorem State.rxLossOp_stored (s : State) (port hdr) : (s.rxLossOp port hdr).stored = s.stored := by
  simp [rxLossOp]

/-! ### Functions of Ecnos.lean -/

@[simp] theorem State.ecnLeave_stored (s : State) (m c sid f) : (s.ecnLeave m c sid f).stored = s.stored := by
  unfold ecnLeave
  dsimp only
  repeat' split
  all_goals simp

@[simp] theorem State.ecnFail_stored (s : State) (m c n f err) : (s.ecnFail m c n f err).stored = s.stored := by
  simp -implicitDefEqProofs [ecnFail]

@[simp] theorem State.ecnNext_stored (s : State) (m c sid) : (s.ecnNext m c sid).stored = s.stored := by
  have h := s.ecnFetch_stored m c sid
  unfold ecnNext
  split <;> simp_all

@[simp] theorem State.ecnSettle_stored (s : State) (m c sid) : (s.ecnSettle m c sid).stored = s.stored := by
  unfold ecnSettle
  dsimp only
  repeat' split
  all_goals simp

@[simp] theorem State.ecnBus_stored (s : State) (m c sid a code resp kind) :
    (s.ecnBus m c sid a code resp kind).stored = s.stored := by
  simp [ecnBus]

@[simp] theorem State.ecnTile_stored (s : State) (m c sid k) : (s.ecnTile m c sid k).stored = s.stored := by
  simp -implicitDefEqProofs [ecnTile]

@[simp] theorem State.ecnDescriptorOp_stored (s : State) (m c data r) :
    (s.ecnDescriptorOp m c data r).stored = s.stored := by
  unfold ecnDescriptorOp
  dsimp only
  repeat' split
  all_goals simp

@[simp] theorem State.ecnForm_stored (s : State) (m c sid) : (s.ecnForm m c sid).stored = s.stored := by
  unfold ecnForm
  dsimp only
  repeat' split
  all_goals simp

@[simp] theorem State.ecnRead_stored (s : State) (a m c sid data r parity) :
    (s.ecnRead a m c sid data r parity).stored = s.stored := by
  simp [ecnRead]

@[simp] theorem State.ecnWrite_stored (s : State) (m c sid p) : (s.ecnWrite m c sid p).stored = s.stored := by
  unfold ecnWrite
  dsimp only
  repeat' split
  all_goals simp -implicitDefEqProofs

@[simp] theorem State.ecnWritten_stored (s : State) (a m c sid r) : (s.ecnWritten a m c sid r).stored = s.stored := by
  simp [ecnWritten]

@[simp] theorem State.ecnStartOp_stored (s : State) (p n) : (s.ecnStartOp p n).stored = s.stored := by
  simp [ecnStartOp]

@[simp] theorem State.ecnAbortOp_stored (s : State) (p n) : (s.ecnAbortOp p n).stored = s.stored := by
  unfold ecnAbortOp
  dsimp only
  repeat' split
  all_goals simp

@[simp] theorem State.drainCancel_stored (s : State) : (s.drainCancel).stored = s.stored := by
  simp [drainCancel]

@[simp] theorem State.hostHold_stored (s : State) (c) : (s.hostHold c).stored = s.stored := (rfl)
@[simp] theorem State.hostRest_stored (s t : State) : (s.hostRest t).stored = t.stored := (rfl)

/-! ### Functions of Events.lean -/

@[simp] theorem State.accFault_stored (s : State) (a frozen err rec) :
    (s.accFault a frozen err rec).stored = s.stored := by
  unfold accFault
  dsimp only
  repeat' split
  all_goals simp -implicitDefEqProofs

@[simp] theorem State.xlatFault_stored (s : State) (f) : (s.xlatFault f).stored = s.stored := by
  unfold xlatFault
  split <;> simp

@[simp] theorem State.pumpWalks_stored (s : State) (p) : (s.pumpWalks p).stored = s.stored := by
  unfold pumpWalks
  split <;> simp

@[simp] theorem State.walkBus_stored (s : State) (a pa resp) : (s.walkBus a pa resp).stored = s.stored := by
  unfold walkBus
  dsimp only
  repeat' split
  all_goals simp

@[simp] theorem State.walkAgain_stored (s : State) (p r) : (s.walkAgain p r).stored = s.stored := by
  simp [walkAgain]

@[simp] theorem State.installWalk_stored (s : State) (p w mv e) : (s.installWalk p w mv e).stored = s.stored := by
  unfold installWalk
  dsimp only
  split <;> simp

@[simp] theorem State.walkOp_stored (s : State) (p e r par) : (s.walkOp p e r par).stored = s.stored := by
  unfold walkOp
  split
  · dsimp only
    split
    · simp
    · split
      · simp
      · split
        · simp
        · split
          · simp
          · split
            · split
              · simp
              · split <;> simp
            · simp
  · rfl

@[simp] theorem State.fetchedOp_stored (s : State) (m c data r) : (s.fetchedOp m c data r).stored = s.stored := by
  unfold fetchedOp
  dsimp only
  repeat' split
  all_goals simp -implicitDefEqProofs

@[simp] theorem State.decodeBus_stored (s : State) (m c a resp) : (s.decodeBus m c a resp).stored = s.stored := (rfl)

@[simp] theorem State.earlyRead_stored (s : State) (m c a data r parity) :
    (s.earlyRead m c a data r parity).stored = s.stored := by
  simp [earlyRead]

@[simp] theorem State.decodeDoneOp_stored (s : State) (m c ds par) :
    (s.decodeDoneOp m c ds par).stored = s.stored := by
  unfold decodeDoneOp
  dsimp only
  split
  · rfl
  · split
    · rfl
    · have hd : (List.foldl (fun (t : State) (a : Access) => t.delAcc a.aid) s (s.decodeReads m c)).stored = s.stored :=
        State.stored_foldl (fun t (a : Access) => t.delAcc_stored a.aid) _ _
      generalize hu : State.modCh (List.foldl _ s _) m c _ = u
      have h : u.stored = s.stored := by
        rw [← hu]
        simp [hd]
      split
      · simp [h]
      · generalize hv : List.foldl _ u _ = v
        have h' : v.stored = s.stored := by
          rw [← hv, ← h]
          exact State.stored_foldl (fun t e => t.decodeBus_stored ..) _ _
        split
        · exact h'
        · generalize hw : List.foldl _ v _ = w
          have hw' : w.stored = s.stored := by
            rw [← hw, ← h']
            exact State.stored_foldl (fun t n => t.keepCopy_stored ..) _ _
          split <;> simp [hw']

@[simp] theorem State.far0Write_stored (s : State) (kind attr addr l) :
    (s.far0Write kind attr addr l).stored = s.stored := by
  simp -implicitDefEqProofs [far0Write]

@[simp] theorem State.mgmtWake_stored (s : State) : (s.mgmtWake).stored = s.stored := by
  simp [mgmtWake]

@[simp] theorem State.mgmtWrite_stored (s : State) (kind addr l) : (s.mgmtWrite kind addr l).stored = s.stored := by
  simp [mgmtWrite]

@[simp] theorem State.mgmtReads_stored (s : State) (addr n) : (s.mgmtReads addr n).stored = s.stored := by
  simp -implicitDefEqProofs [mgmtReads]

@[simp] theorem State.sheetOut_stored (s : State) : (s.sheetOut).stored = s.stored := by
  unfold sheetOut
  split <;> simp

@[simp] theorem State.sheetDue_stored (s : State) (n) : (s.sheetDue n).stored = s.stored := by
  simp [sheetDue]

@[simp] theorem State.scriptLost_stored (s : State) : (s.scriptLost).stored = s.stored := (rfl)
@[simp] theorem State.copyLost_stored (s : State) : (s.copyLost).stored = s.stored := (rfl)

@[simp] theorem State.mgmtWritten_stored (s : State) (k ok) : (s.mgmtWritten k ok).stored = s.stored := by
  unfold mgmtWritten
  dsimp only
  repeat' split
  all_goals simp

@[simp] theorem State.listDone_stored (s : State) (m c sid n) : (s.listDone m c sid n).stored = s.stored := by
  unfold listDone
  dsimp only
  split
  · rfl
  · split
    · simp
    · generalize hu : State.startReads _ _ _ _ _ _ _ = r
      have h : r.1.stored = s.stored := by
        rw [← hu]
        simp
      split <;> simp_all

@[simp] theorem State.sourceOp_stored (s : State) (aid data r parity) :
    (s.sourceOp aid data r parity).stored = s.stored := by
  unfold sourceOp
  dsimp only
  repeat' split
  all_goals simp

@[simp] theorem State.tileOp_stored (s : State) (m c p) : (s.tileOp m c p).stored = s.stored := by
  unfold tileOp
  split <;> simp

@[simp] theorem State.slotTableOp_stored (s : State) (m c data r) : (s.slotTableOp m c data r).stored = s.stored := by
  unfold slotTableOp
  extract_lets
  split
  · split
    · rfl
    · next s1 _ _ _ _ _ _ _ _ _ =>
      have h1 : s1.stored = s.stored := by
        unfold s1
        simp -implicitDefEqProofs
      split
      · simp [h1]
      · extract_lets
        split
        next slots free _ =>
        extract_lets s2 s3
        have h3 : s3.stored = s.stored := by
          unfold s3 s2
          rw [State.stored_mk, State.stored_eta, State.modCh_stored, State.moveSpace_stored, h1]
        split <;> simp [h3]
  · rfl

@[simp] theorem State.slotWritten_stored (s : State) (m c sid) : (s.slotWritten m c sid).stored = s.stored := by
  simp [slotWritten]

@[simp] theorem State.writeRespOp_stored (s : State) (aid r) : (s.writeRespOp aid r).stored = s.stored := by
  unfold writeRespOp
  dsimp only
  repeat' split
  all_goals simp

@[simp] theorem State.readBackOp_stored (s : State) (aid r) : (s.readBackOp aid r).stored = s.stored := by
  unfold readBackOp
  dsimp only
  repeat' split
  all_goals simp

@[simp] theorem State.flagOp_stored (s : State) (aid r) : (s.flagOp aid r).stored = s.stored := by
  unfold flagOp
  dsimp only
  repeat' split
  all_goals simp

@[simp] theorem State.queueReady_stored (s : State) (q) : (s.queueReady q).stored = s.stored := by
  simp [queueReady]

@[simp] theorem State.queuesReady_stored (s : State) (l) : (s.queuesReady l).stored = s.stored := by
  simp [queuesReady]

@[simp] theorem State.recordLanded_stored (s : State) (c slot) : (s.recordLanded c slot).stored = s.stored := by
  simp [recordLanded]

@[simp] theorem State.cqWrittenOp_stored (s : State) (aid r) : (s.cqWrittenOp aid r).stored = s.stored := by
  unfold cqWrittenOp
  dsimp only
  repeat' split
  all_goals simp

@[simp] theorem State.fqWrittenOp_stored (s : State) (aid r) : (s.fqWrittenOp aid r).stored = s.stored := by
  unfold fqWrittenOp
  split
  · rfl
  · split
    · split <;> simp
    · rfl

/-! ### Functions of Sched.lean -/

@[simp] theorem State.evict_stored (s : State) (m c) : (s.evict m c).stored = s.stored := by
  unfold evict
  split <;> simp

@[simp] theorem State.refill_stored (s : State) (m c) : (s.refill m c).stored = s.stored := by
  unfold refill
  split <;> simp

@[simp] theorem State.quarantine_stored (s : State) (sid) : (s.quarantine sid).stored = s.stored := by
  unfold quarantine
  dsimp only
  repeat' split
  all_goals simp

@[simp] theorem State.retire_stored (s : State) (g) : (s.retire g).stored = s.stored := by
  simp [retire]

@[simp] theorem State.recordParity_stored (s : State) (sid) : (s.recordParity sid).stored = s.stored := by
  simp [recordParity]

@[simp] theorem State.placeOn_stored (s : State) (m c sid) : (s.placeOn m c sid).stored = s.stored := by
  unfold placeOn
  split <;> simp

@[simp] theorem State.chooseOp_stored (s : State) (p m c parity) : (s.chooseOp p m c parity).stored = s.stored := by
  unfold chooseOp
  dsimp only
  repeat' split
  all_goals simp

@[simp] theorem State.glacierOp_stored (s : State) (aid data r) : (s.glacierOp aid data r).stored = s.stored := by
  unfold glacierOp
  dsimp only
  repeat' split
  all_goals simp

@[simp] theorem State.arrayGrant_stored (s : State) (m side l w) : (s.arrayGrant m side l w).stored = s.stored := by
  simp -implicitDefEqProofs [arrayGrant]

@[simp] theorem State.arrayRest_stored (s : State) (m side l) : (s.arrayRest m side l).stored = s.stored := by
  simp -implicitDefEqProofs [arrayRest]

@[simp] theorem State.arrayCycle_stored (s : State) (m side) : (s.arrayCycle m side).stored = s.stored := by
  unfold arrayCycle
  dsimp only
  split <;> simp

@[simp] theorem State.arrayAgeOp_stored (s : State) (m side c) : (s.arrayAgeOp m side c).stored = s.stored := by
  simp [arrayAgeOp]

@[simp] theorem State.makeRoom_stored (s : State) (m c n) : (s.makeRoom m c n).stored = s.stored := (rfl)

@[simp] theorem State.issueReq_stored (s : State) (m a) : (s.issueReq m a).stored = s.stored := by
  unfold issueReq
  dsimp only
  repeat' split
  all_goals simp

@[simp] theorem State.issueGrant_stored (s : State) (m cls l w) : (s.issueGrant m cls l w).stored = s.stored := by
  unfold issueGrant
  split <;> simp

theorem State.issueClass_stored {s t : State} {m : Nat} {cls : IssueClass} (h : s.issueClass m cls = some t) : t.stored = s.stored := by
  unfold issueClass at h
  dsimp only at h
  split at h
  · cases h; simp
  · obtain ⟨r, _, rfl⟩ := Option.map_eq_some_iff.mp h
    simp

@[simp] theorem State.issueCycle_stored (s : State) (m) : (s.issueCycle m).stored = s.stored := by
  unfold issueCycle
  dsimp only
  generalize h : Option.or _ _ = o
  cases o with
  | none => rfl
  | some t =>
    simp only [Option.or_eq_some_iff] at h
    rcases h with h | ⟨_, h | ⟨_, h | ⟨_, h⟩⟩⟩ <;> exact State.issueClass_stored h

@[simp] theorem State.issueAgeOp_stored (s : State) (m cls c) : (s.issueAgeOp m cls c).stored = s.stored := by
  simp [issueAgeOp]

@[simp] theorem State.charge_stored (s : State) (k) : (s.charge k).stored = s.stored := by
  unfold charge
  dsimp only
  split <;> simp

/-! ### Functions of Arb.lean -/

@[simp] theorem State.applyCommit_stored (s : State) (t) : (s.applyCommit t).stored = s.stored := by
  unfold applyCommit
  split <;> simp

@[simp] theorem State.applyIdle_stored (s : State) : (s.applyIdle).stored = s.stored := by
  simp [applyIdle]

@[simp] theorem State.commitOp_stored (s : State) : (s.commitOp).stored = s.stored := by
  simp -implicitDefEqProofs [commitOp]

@[simp] theorem State.slotFreed_stored (s : State) (m c) : (s.slotFreed m c).stored = s.stored := by
  unfold slotFreed
  split <;> simp

@[simp] theorem State.endTenure_stored (s : State) (t) : (s.endTenure t).stored = s.stored := by
  unfold endTenure
  split <;> simp

@[simp] theorem State.grantBid_stored (s : State) (t b) : (s.grantBid t b).stored = s.stored := by
  unfold grantBid
  dsimp only
  repeat' split
  all_goals simp

@[simp] theorem State.grant_stored (s : State) (t b) : (s.grant t b).stored = s.stored := by
  unfold grant
  dsimp only
  repeat' split
  all_goals simp

@[simp] theorem State.arbOp_stored (s : State) (t parity) : (s.arbOp t parity).stored = s.stored := by
  unfold arbOp
  dsimp only
  repeat' split
  all_goals simp

@[simp] theorem State.stgHog_stored (s : State) (r) : (s.stgHog r).stored = s.stored := by
  simp [stgHog]

@[simp] theorem State.spillHog_stored (s : State) (m a) : (s.spillHog m a).stored = s.stored := by
  unfold spillHog
  dsimp only
  repeat' split
  all_goals simp

@[simp] theorem State.unsend_stored (s : State) (port k) : (s.unsend port k).stored = s.stored := (rfl)

@[simp] theorem State.hogOp_stored (s : State) (t) : (s.hogOp t).stored = s.stored := by
  unfold hogOp
  dsimp only
  repeat' split
  all_goals simp

@[simp] theorem State.backoffOp_stored (s : State) (t p) : (s.backoffOp t p).stored = s.stored := (rfl)
@[simp] theorem State.quotaOp_stored (s : State) (t) : (s.quotaOp t).stored = s.stored := (rfl)

@[simp] theorem State.creditOut_stored (s : State) (port) : (s.creditOut port).stored = s.stored := by
  unfold creditOut
  split <;> simp

@[simp] theorem State.tenureBeat_stored (s : State) (t) : (s.tenureBeat t).stored = s.stored := by
  simp [tenureBeat]

@[simp] theorem State.upset_stored (s : State) : (s.upset).stored = s.stored := by
  unfold upset
  dsimp only
  repeat' split
  all_goals simp

@[simp] theorem State.badWrites_stored (s : State) : (s.badWrites).stored = s.stored := by
  simp [badWrites]

@[simp] theorem State.tick_stored (s : State) : s.tick.stored = s.stored := by
  simp -implicitDefEqProofs [tick]

/-! ### Functions of Door.lean -/

@[simp] theorem State.inPage_stored {f : State → State} (h : ∀ s, (f s).stored = s.stored) (s : State) (t) :
    (s.inPage t f).stored = s.stored := by
  simp [inPage, h]

@[simp] theorem State.inNamed_stored {f : State → State} (h : ∀ s, (f s).stored = s.stored) (s : State) (t sid) :
    (s.inNamed t sid f).stored = s.stored := by
  refine State.inPage_stored (fun u => ?_) _ _
  simp [h]

@[simp] theorem State.sqTailOp_stored (s : State) (t k tail) : (s.sqTailOp t k tail).stored = s.stored := by
  unfold sqTailOp
  split <;> simp

@[simp] theorem State.cqHeadOp_stored (s : State) (t k head) : (s.cqHeadOp t k head).stored = s.stored := by
  unfold cqHeadOp
  split <;> simp

@[simp] theorem State.holdAbort_stored (s : State) (sid) : (s.holdAbort sid).stored = s.stored := (rfl)

@[simp] theorem State.abortWaiting_stored (s : State) (sid k) : (s.abortWaiting sid k).stored = s.stored := by
  unfold abortWaiting
  dsimp only
  split <;> simp

@[simp] theorem State.abortSpared_stored (s : State) (m c sid k) : (s.abortSpared m c sid k).stored = s.stored := by
  simp [abortSpared]

@[simp] theorem State.abortRunning_stored (s : State) (m c sid) : (s.abortRunning m c sid).stored = s.stored := by
  unfold abortRunning
  split <;> simp

@[simp] theorem State.abortParked_stored (s : State) (sid) : (s.abortParked sid).stored = s.stored := by
  unfold abortParked
  dsimp only
  split <;> simp

@[simp] theorem State.abortHalted_stored (s : State) (sid) : (s.abortHalted sid).stored = s.stored := by
  unfold abortHalted
  dsimp only
  split <;> simp

@[simp] theorem State.abortOp_stored (s : State) (sid) : (s.abortOp sid).stored = s.stored := by
  unfold abortOp
  dsimp only
  repeat' split
  all_goals simp

@[simp] theorem State.rewrite_stored (s : State) (l) : (s.rewrite l).stored = s.stored := by
  refine State.stored_foldl (fun t e => ?_) _ _
  have h := t.writeRecord_stored e.1 e.2.item e.2.slot e.2.ph
  dsimp only
  split <;> simp_all

@[simp] theorem State.dropRecord_stored (s : State) (c g) : (s.dropRecord c g).stored = s.stored := by
  simp [dropRecord]

@[simp] theorem State.goReady_stored (s : State) (sid) : (s.goReady sid).stored = s.stored := by
  simp [goReady]

@[simp] theorem State.recordOn_stored (s : State) (sid drop) : (s.recordOn sid drop).stored = s.stored := by
  unfold recordOn
  dsimp only
  split <;> simp

@[simp] theorem State.againOp_stored (s : State) (sid) : (s.againOp sid).stored = s.stored := by
  unfold againOp
  dsimp only
  split <;> simp

@[simp] theorem State.skipTile_stored (s : State) (sid) : (s.skipTile sid).stored = s.stored := by
  unfold skipTile
  split <;> simp

@[simp] theorem State.skipOp_stored (s : State) (sid) : (s.skipOp sid).stored = s.stored := by
  unfold skipOp
  dsimp only
  repeat' split
  all_goals simp

@[simp] theorem State.thawOp_stored (s : State) (sid) : (s.thawOp sid).stored = s.stored := by
  simp [thawOp]

@[simp] theorem State.resumeOp_stored (s : State) (sid) : (s.resumeOp sid).stored = s.stored := by
  simp [resumeOp]

@[simp] theorem State.skipHalted_stored (s : State) (sid) : (s.skipHalted sid).stored = s.stored := by
  simp [skipHalted]

/-! ### Functions of Conf.lean -/

@[simp] theorem State.armQueue_stored (s : State) (q x) : (s.armQueue q x).stored = s.stored := (rfl)

@[simp] theorem State.sqCfgOp_stored (s : State) (q v) : (s.sqCfgOp q v).stored = s.stored := by
  simp [sqCfgOp]

@[simp] theorem State.cqQuit_stored (s : State) (c) : (s.cqQuit c).stored = s.stored := by
  simp [cqQuit]

@[simp] theorem State.cqCfgOp_stored (s : State) (c v) : (s.cqCfgOp c v).stored = s.stored := by
  simp [cqCfgOp]

@[simp] theorem State.fqCfgOp_stored (s : State) (p v) : (s.fqCfgOp p v).stored = s.stored := by
  simp [fqCfgOp]

@[simp] theorem State.fqHeadOp_stored (s : State) (p head) : (s.fqHeadOp p head).stored = s.stored := by
  simp [fqHeadOp]

@[simp] theorem State.tenantOp_stored (s : State) (t v) : (s.tenantOp t v).stored = s.stored := (rfl)

@[simp] theorem State.homeOp_stored (s : State) (p v) : (s.homeOp p v).stored = s.stored := by
  simp [homeOp]

@[simp] theorem State.invCaches_stored (s : State) (i) : (s.invCaches i).stored = s.stored := (rfl)

@[simp] theorem State.invReads_stored (s : State) (i) : (s.invReads i).stored = s.stored := by
  simp -implicitDefEqProofs [invReads]

@[simp] theorem State.invTile_stored (s : State) (i k) : (s.invTile i k).stored = s.stored := by
  unfold invTile
  dsimp only
  repeat' split
  all_goals simp

@[simp] theorem State.invOp_stored (s : State) (i) : (s.invOp i).stored = s.stored := by
  simp [invOp]

@[simp] theorem State.invDoneOp_stored (s : State) : (s.invDoneOp).stored = s.stored := by
  simp [invDoneOp]

@[simp] theorem State.cntClearOp_stored (s : State) (m k) : (s.cntClearOp m k).stored = s.stored := (rfl)
@[simp] theorem State.suspClearOp_stored (s : State) (m) : (s.suspClearOp m).stored = s.stored := (rfl)

@[simp] theorem State.rehome_stored (s : State) (m) : (s.rehome m).stored = s.stored := by
  simp [rehome]

@[simp] theorem State.soloOp_stored (s : State) (m v) : (s.soloOp m v).stored = s.stored := by
  simp -implicitDefEqProofs [soloOp]

@[simp] theorem State.strmBindOp_stored (s : State) (d v) : (s.strmBindOp d v).stored = s.stored := by
  simp [strmBindOp]

/-! ### Functions of Pins.lean -/

@[simp] theorem State.strmCut_stored (s : State) (d) : (s.strmCut d).stored = s.stored := by
  unfold strmCut
  split <;> simp

@[simp] theorem State.strmFeed_stored (s : State) (d) : (s.strmFeed d).stored = s.stored := by
  unfold strmFeed
  dsimp only
  repeat' split
  all_goals simp

@[simp] theorem State.strmBeatOp_stored (s : State) (d data keep last user) :
    (s.strmBeatOp d data keep last user).stored = s.stored := by
  simp [strmBeatOp]

@[simp] theorem State.ropeRiseOp_stored (s : State) (n) : (s.ropeRiseOp n).stored = s.stored := by
  simp [ropeRiseOp]

@[simp] theorem State.ropeFallOp_stored (s : State) (n) : (s.ropeFallOp n).stored = s.stored := by
  simp [ropeFallOp]

@[simp] theorem State.decodeLost_stored (s : State) (m a) : (s.decodeLost m a).stored = s.stored := by
  simp -implicitDefEqProofs [decodeLost]

@[simp] theorem State.endsBad_stored (s : State) (aid) : (s.endsBad aid).stored = s.stored := by
  unfold endsBad
  dsimp only
  repeat' split
  all_goals simp

@[simp] theorem State.countQids_stored (s : State) : (s.countQids).stored = s.stored := by
  simp -implicitDefEqProofs [countQids]

@[simp] theorem State.memReset_stored (s : State) (ports) : (s.memReset ports).stored = s.stored := by
  simp [memReset]

@[simp] theorem State.dropJobs_stored (s : State) (port) : (s.dropJobs port).stored = s.stored := by
  simp -implicitDefEqProofs [dropJobs]

@[simp] theorem State.peerReset_stored (s : State) (port) : (s.peerReset port).stored = s.stored := by
  simp -implicitDefEqProofs [peerReset]

@[simp] theorem State.strmReset_stored (s : State) : (s.strmReset).stored = s.stored := by
  simp [strmReset]

@[simp] theorem State.portAssertOp_stored (s : State) (p) : (s.portAssertOp p).stored = s.stored := by
  unfold portAssertOp
  dsimp only
  repeat' split
  all_goals simp

@[simp] theorem State.portReleaseOp_stored (s : State) (p) : (s.portReleaseOp p).stored = s.stored := by
  unfold portReleaseOp
  dsimp only
  repeat' split
  all_goals simp

/-! ### Functions of Power.lean -/

@[simp] theorem State.ungate_stored (s : State) (m) : (s.ungate m).stored = s.stored := (rfl)

@[simp] theorem State.moverGateOp_stored (s : State) (m) : (s.moverGateOp m).stored = s.stored := by
  simp [moverGateOp]

@[simp] theorem State.dozeEnterOp_stored (s : State) : (s.dozeEnterOp).stored = s.stored := by
  simp [dozeEnterOp]

@[simp] theorem State.dozeWakeOp_stored (s : State) : (s.dozeWakeOp).stored = s.stored := by
  simp [dozeWakeOp]

@[simp] theorem State.dozeWakeDoneOp_stored (s : State) : (s.dozeWakeDoneOp).stored = s.stored := by
  simp [dozeWakeDoneOp]

@[simp] theorem State.retainReq_stored (s : State) : (s.retainReq).stored = s.stored := by
  simp -implicitDefEqProofs [retainReq]

@[simp] theorem State.retainDrainedOp_stored (s : State) : (s.retainDrainedOp).stored = s.stored := by
  simp [retainDrainedOp]

@[simp] theorem State.retainWakeOp_stored (s : State) (w) : (s.retainWakeOp w).stored = s.stored := by
  simp [retainWakeOp]

/-! ### Functions of Sheet.lean -/

@[simp] theorem State.sheetReads_stored (s : State) (len) : (s.sheetReads len).stored = s.stored := by
  simp [sheetReads]

@[simp] theorem State.sheetTake_stored (s : State) (due) : (s.sheetTake due).stored = s.stored := by
  simp [sheetTake]

@[simp] theorem State.sheetLater_stored (s : State) : (s.sheetLater).stored = s.stored := by
  simp [sheetLater]

/-! ### Functions of Reset.lean -/

@[simp] theorem State.fenceChan_stored (s : State) (k) : (s.fenceChan k).stored = s.stored := by
  unfold fenceChan
  dsimp only
  split <;> simp

@[simp] theorem State.fenceWalks_stored (s : State) : (s.fenceWalks).stored = s.stored := by
  simp [fenceWalks]

@[simp] theorem State.unhold_stored (s : State) (sid) : (s.unhold sid).stored = s.stored := by
  simp [unhold]

@[simp] theorem State.fenceRecords_stored (s : State) (d) : (s.fenceRecords d).stored = s.stored := by
  simp [fenceRecords]

@[simp] theorem State.fenceJobs_stored (s : State) (d) : (s.fenceJobs d).stored = s.stored := by
  simp [fenceJobs]

@[simp] theorem State.countUnsent_stored (s : State) (d) : (s.countUnsent d).stored = s.stored := by
  unfold countUnsent
  split
  · exact State.stored_foldl (fun t p => t.peDrop_stored p) _ _
  · exact State.stored_foldl (fun t p => t.peDrop_stored p) _ _
  · rfl

@[simp] theorem State.fence_stored (s : State) (d) : (s.fence d).stored = s.stored := by
  simp -implicitDefEqProofs [fence]

@[simp] theorem State.dropGen_stored (s : State) (t g) : (s.dropGen t g).stored = s.stored := (rfl)
@[simp] theorem State.genUp_stored (s : State) (t) : (s.genUp t).stored = s.stored := (rfl)
@[simp] theorem State.meetReset_stored (s : State) (freeze m) : (s.meetReset freeze m).stored = s.stored := (rfl)

@[simp] theorem State.removeStrm_stored (s : State) (sid) : (s.removeStrm sid).stored = s.stored := by
  unfold removeStrm
  split <;> simp

@[simp] theorem State.zeroGlac_stored (s : State) (sid) : (s.zeroGlac sid).stored = s.stored := by
  simp [zeroGlac]

@[simp] theorem State.removeAll_stored (s : State) (l) : (s.removeAll l).stored = s.stored := by
  simp [removeAll]

@[simp] theorem State.removeTenant_stored (s : State) (t) : (s.removeTenant t).stored = s.stored := by
  simp [removeTenant]

@[simp] theorem State.haltAt_stored (s : State) (sid) : (s.haltAt sid).stored = s.stored := by
  simp [haltAt]

@[simp] theorem State.haltWaiting_stored (s : State) (sid) : (s.haltWaiting sid).stored = s.stored := by
  unfold haltWaiting
  dsimp only
  split <;> simp

@[simp] theorem State.haltMover_stored (s : State) (m) : (s.haltMover m).stored = s.stored := by
  simp [haltMover]

@[simp] theorem State.clearMover_stored (s : State) (m) : (s.clearMover m).stored = s.stored := by
  simp [clearMover]

@[simp] theorem State.clearPart_stored (s : State) (p) : (s.clearPart p).stored = s.stored := by
  simp -implicitDefEqProofs [clearPart]

@[simp] theorem State.outOfService_stored (s : State) : (s.outOfService).stored = s.stored := by
  simp [outOfService]

@[simp] theorem State.escNote_stored (s : State) (unit target) : (s.escNote unit target).stored = s.stored := (rfl)

@[simp] theorem State.escRaise_stored (s : State) (p unit target) :
    (s.escRaise p unit target).stored = s.stored := (rfl)

@[simp] theorem State.beginBlock_stored (s : State) (unit raised) : (s.beginBlock unit raised).stored = s.stored := by
  simp -implicitDefEqProofs [beginBlock]

@[simp] theorem State.beginReset_stored (s : State) (p unit target rcv raised) :
    (s.beginReset p unit target rcv raised).stored = s.stored := by
  simp -implicitDefEqProofs [beginReset]

@[simp] theorem State.startReset_stored (s : State) (p unit target rcv raised) :
    (s.startReset p unit target rcv raised).stored = s.stored := by
  simp [startReset]

@[simp] theorem State.launch_stored (s : State) (p unit target raised) :
    (s.launch p unit target raised).stored = s.stored := by
  simp [launch]

@[simp] theorem State.preempt_stored (s : State) (p) : (s.preempt p).stored = s.stored := by
  simp [preempt]

@[simp] theorem State.recover_stored (s : State) (p unit target raised) :
    (s.recover p unit target raised).stored = s.stored := by
  unfold recover
  split
  · simp
  · split
    · simp
    · split
      · split
        · simp
        · exact State.stored_foldl (fun t m => t.launch_stored ..) _ _
      · simp

@[simp] theorem State.startBlock_stored (s : State) (unit) : (s.startBlock unit).stored = s.stored := by
  simp [startBlock]

@[simp] theorem State.requestReset_stored (s : State) (unit target rcv) :
    (s.requestReset unit target rcv).stored = s.stored := by
  simp [requestReset]

@[simp] theorem State.raisePart_stored (s : State) (p) : (s.raisePart p).stored = s.stored := by
  simp [raisePart]

@[simp] theorem State.unNote_stored (s : State) (q) : (s.unNote q).stored = s.stored := by
  simp [unNote]

@[simp] theorem State.resetDone_stored (s : State) (p) : (s.resetDone p).stored = s.stored := by
  unfold resetDone
  dsimp only
  split <;> simp

@[simp] theorem State.resetCheck_stored (s : State) (p) : (s.resetCheck p).stored = s.stored := by
  simp [resetCheck]

@[simp] theorem State.resetChecks_stored (s : State) : (s.resetChecks).stored = s.stored := by
  simp [resetChecks]

@[simp] theorem State.bathEnds_stored (s : State) (p) : (s.bathEnds p).stored = s.stored := by
  simp [bathEnds]

@[simp] theorem State.abandon_stored (s : State) (f) : (s.abandon f).stored = s.stored := by
  simp [abandon]

@[simp] theorem State.sinkOp_stored (s : State) (aid) : (s.sinkOp aid).stored = s.stored := by
  simp [sinkOp]

@[simp] theorem State.moverOut_stored (s : State) (m hang testf) : (s.moverOut m hang testf).stored = s.stored := by
  simp [moverOut]

@[simp] theorem State.selftestOp_stored (s : State) (m pass) : (s.selftestOp m pass).stored = s.stored := by
  simp [selftestOp]

@[simp] theorem State.moverHangOp_stored (s : State) (m) : (s.moverHangOp m).stored = s.stored := by
  simp [moverHangOp]

/-! ### Functions of Test.lean -/

@[simp] theorem State.testReqOp_stored (s : State) (m) : (s.testReqOp m).stored = s.stored := by
  simp -implicitDefEqProofs [testReqOp]

@[simp] theorem State.testDrainedOp_stored (s : State) (m) : (s.testDrainedOp m).stored = s.stored := by
  simp [testDrainedOp]

@[simp] theorem State.testDoneOp_stored (s : State) (m pass) : (s.testDoneOp m pass).stored = s.stored := by
  simp [testDoneOp]

@[simp] theorem State.stGoOp_stored (s : State) (g) : (s.stGoOp g).stored = s.stored := by
  simp [stGoOp]

@[simp] theorem State.stDoneOp_stored (s : State) (bad) : (s.stDoneOp bad).stored = s.stored := by
  simp [stDoneOp]

/-! ### Functions of Mgmt.lean -/

@[simp] theorem State.mgmtRetain_stored (s : State) : (s.mgmtRetain).stored = s.stored := by
  simp [mgmtRetain]

@[simp] theorem State.mgmtCycle_stored (s : State) : (s.mgmtCycle).stored = s.stored := by
  simp [mgmtCycle]

@[simp] theorem State.critical_stored (s : State) (act now held) : (s.critical act now held).stored = s.stored := by
  simp [critical]

@[simp] theorem State.riseEvents_stored (s : State) (old new l) : (s.riseEvents old new l).stored = s.stored := by
  simp [riseEvents]

@[simp] theorem State.sampleOp_stored (s : State) (temps volts clk) :
    (s.sampleOp temps volts clk).stored = s.stored := by
  simp [sampleOp]

@[simp] theorem State.droopOp_stored (s : State) (i) : (s.droopOp i).stored = s.stored := by
  simp [droopOp]

@[simp] theorem State.pwrcycOp_stored (s : State) : (s.pwrcycOp).stored = s.stored := by
  simp [pwrcycOp]

@[simp] theorem State.mbEnd_stored (s : State) (op st fail) : (s.mbEnd op st fail).stored = s.stored := (rfl)
@[simp] theorem State.mbResp_stored (s : State) (l) : (s.mbResp l).stored = s.stored := (rfl)
@[simp] theorem State.mbWorks_stored (s : State) (w) : (s.mbWorks w).stored = s.stored := (rfl)

@[simp] theorem State.mbContactGo_stored (s : State) (addr w2) : (s.mbContactGo addr w2).stored = s.stored := by
  simp [mbContactGo]

@[simp] theorem State.mbLogGo_stored (s : State) (addr n) : (s.mbLogGo addr n).stored = s.stored := by
  simp [mbLogGo]

@[simp] theorem State.mbThreshGo_stored (s : State) (w1 w2) : (s.mbThreshGo w1 w2).stored = s.stored := by
  simp [mbThreshGo]

@[simp] theorem State.mbRetainGo_stored (s : State) : (s.mbRetainGo).stored = s.stored := by
  simp [mbRetainGo]

@[simp] theorem State.mbUpdateGo_stored (s : State) (addr) : (s.mbUpdateGo addr).stored = s.stored := by
  simp [mbUpdateGo]

@[simp] theorem State.mbPerform_stored (s : State) : (s.mbPerform).stored = s.stored := by
  simp [mbPerform]

@[simp] theorem State.mbGo_stored (s : State) : (s.mbGo).stored = s.stored := by
  simp [mbGo]

@[simp] theorem State.mbRequest_stored (s : State) (l) : (s.mbRequest l).stored = s.stored := by
  simp [mbRequest]

@[simp] theorem State.mbReadsDone_stored (s : State) : (s.mbReadsDone).stored = s.stored := (rfl)

/-! ### Functions of Dbg.lean -/

@[simp] theorem State.vgoOp_stored (s : State) : (s.vgoOp).stored = s.stored := by
  simp [vgoOp]

@[simp] theorem State.relockOp_stored (s : State) : (s.relockOp).stored = s.stored := (rfl)

@[simp] theorem State.scopeOp_stored (s : State) (v) : (s.scopeOp v).stored = s.stored := by
  simp [scopeOp]

@[simp] theorem State.verifiedOp_stored (s : State) : (s.verifiedOp).stored = s.stored := by
  simp [verifiedOp]

@[simp] theorem State.smbEnd_stored (s : State) : (s.smbEnd).stored = s.stored := (rfl)
@[simp] theorem State.smbGive_stored (s : State) (sent l) : (s.smbGive sent l).stored = s.stored := (rfl)
@[simp] theorem State.smbAnswer_stored (s : State) (code l) : (s.smbAnswer code l).stored = s.stored := (rfl)
@[simp] theorem State.alertClear_stored (s : State) (w) : (s.alertClear w).stored = s.stored := (rfl)

@[simp] theorem State.smbRespOp_stored (s : State) (off data) : (s.smbRespOp off data).stored = s.stored := by
  simp [smbRespOp]

@[simp] theorem State.tapSet_stored (s : State) (ir dr) : (s.tapSet ir dr).stored = s.stored := by
  simp [tapSet]

@[simp] theorem State.wrapSet_stored (s : State) (ok i) : (s.wrapSet ok i).stored = s.stored := by
  simp [wrapSet]

@[simp] theorem State.mbistOp_stored (s : State) (sram) : (s.mbistOp sram).stored = s.stored := by
  unfold mbistOp
  split <;> simp

@[simp] theorem State.wsMbist_stored (s : State) (sram) : (s.wsMbist sram).stored = s.stored := by
  simp [wsMbist]

@[simp] theorem State.extestOp_stored (s : State) : (s.extestOp).stored = s.stored := by
  simp [extestOp]

@[simp] theorem State.tapResetOp_stored (s : State) : (s.tapResetOp).stored = s.stored := (rfl)

/-! ### Functions of RegMap.lean -/

@[simp] theorem State.pwrctlOp_stored (s : State) (v) : (s.pwrctlOp v).stored = s.stored := by
  simp -implicitDefEqProofs [pwrctlOp]

@[simp] theorem State.dbgrespOp_stored (s : State) (k v) : (s.dbgrespOp k v).stored = s.stored := (rfl)

@[simp] theorem State.stctlOp_stored (s : State) (v) : (s.stctlOp v).stored = s.stored := by
  simp [stctlOp]

@[simp] theorem State.tctlOp_stored (s : State) (m v) : (s.tctlOp m v).stored = s.stored := by
  simp [tctlOp]

@[simp] theorem State.ecnCtrlOp_stored (s : State) (p n v) : (s.ecnCtrlOp p n v).stored = s.stored := by
  simp [ecnCtrlOp]

@[simp] theorem State.rootOp_stored (s : State) (t v) : (s.rootOp t v).stored = s.stored := (rfl)

@[simp] theorem State.trInvOp_stored (s : State) (v) : (s.trInvOp v).stored = s.stored := by
  unfold trInvOp
  split <;> simp

@[simp] theorem State.sfCntOp_stored (s : State) (key v) : (s.sfCntOp key v).stored = s.stored := by
  simp [sfCntOp]

@[simp] theorem State.mbctlOp_stored (s : State) (v) : (s.mbctlOp v).stored = s.stored := by
  simp [mbctlOp]

@[simp] theorem State.arSlotOp_stored (s : State) (t w v) : (s.arSlotOp t w v).stored = s.stored := (rfl)
@[simp] theorem State.violate_stored (s : State) : (s.violate).stored = s.stored := (rfl)

@[simp] theorem State.wordRead_stored (s : State) (o r hi) : (s.wordRead o r hi).stored = s.stored := by
  unfold wordRead
  dsimp only
  repeat' split
  all_goals simp

@[simp] theorem State.readZero_stored (s : State) : (s.readZero).stored = s.stored := (rfl)

@[simp] theorem State.hostWordRead_stored (s : State) (off priv) : (s.hostWordRead off priv).stored = s.stored := by
  unfold hostWordRead
  dsimp only
  repeat' split
  all_goals simp

/-! ### Functions of Parity.lean -/

@[simp] theorem State.scrubReadOp_stored (s : State) (parity) : (s.scrubReadOp parity).stored = s.stored := by
  simp [scrubReadOp]

@[simp] theorem State.scrubPassOp_stored (s : State) : (s.scrubPassOp).stored = s.stored := by
  simp [scrubPassOp]

@[simp] theorem State.regReset_stored (s : State) (r) : (s.regReset r).stored = s.stored := by
  unfold regReset
  dsimp only
  repeat' split
  all_goals simp -implicitDefEqProofs

@[simp] theorem State.regParityOp_stored (s : State) (off copyBad alt) :
    (s.regParityOp off copyBad alt).stored = s.stored := by
  unfold regParityOp
  dsimp only
  repeat' split
  all_goals simp

@[simp] theorem State.ropeBack_stored (s : State) (rose now n) : (s.ropeBack rose now n).stored = s.stored := by
  simp [ropeBack]

@[simp] theorem State.restored_stored (s : State) : (s.restored).stored = s.stored := (rfl)

@[simp] theorem State.retainDoneOp_stored (s : State) (bad) : (s.retainDoneOp bad).stored = s.stored := by
  simp [retainDoneOp]

/-! ### Functions of Boot.lean -/

@[simp] theorem State.allTabs_stored (s : State) (f) : (s.allTabs f).stored = s.stored := by
  simp -implicitDefEqProofs [allTabs]

@[simp] theorem State.imgPut_stored (s : State) (r v) : (s.imgPut r v).stored = s.stored := by
  unfold imgPut
  split <;> simp

@[simp] theorem State.failCode_stored (s : State) (b code) : (s.failCode b code).stored = s.stored := (rfl)
@[simp] theorem State.bootClear_stored (s : State) : (s.bootClear).stored = s.stored := (rfl)
@[simp] theorem State.bootStuck_stored (s : State) : (s.bootStuck).stored = s.stored := (rfl)
@[simp] theorem State.trySlot_stored (s : State) (b) : (s.trySlot b).stored = s.stored := (rfl)

@[simp] theorem State.bootFail_stored (s : State) (code) : (s.bootFail code).stored = s.stored := by
  unfold bootFail
  dsimp only
  split <;> simp

@[simp] theorem State.selectSlot_stored (s : State) (lost) : (s.selectSlot lost).stored = s.stored := by
  unfold selectSlot
  dsimp only
  split <;> simp

@[simp] theorem State.readImage_stored (s : State) : (s.readImage).stored = s.stored := (rfl)

@[simp] theorem State.loadRegs_stored (s : State) (l) : (s.loadRegs l).stored = s.stored := by
  simp [loadRegs]

@[simp] theorem State.loadFirmware_stored (s : State) (img) : (s.loadFirmware img).stored = s.stored := by
  unfold loadFirmware
  split <;> simp

@[simp] theorem State.loadSlot_stored (s : State) : (s.loadSlot).stored = s.stored := by
  simp [loadSlot]

@[simp] theorem State.atSlots_stored (s : State) : (s.atSlots).stored = s.stored := by
  simp [atSlots]

@[simp] theorem State.imageLoadOp_stored (s : State) : (s.imageLoadOp).stored = s.stored := by
  simp [imageLoadOp]

@[simp] theorem State.nvmTimeoutOp_stored (s : State) (slot) : (s.nvmTimeoutOp slot).stored = s.stored := by
  simp [nvmTimeoutOp]

@[simp] theorem State.scriptIssue_stored (s : State) : (s.scriptIssue).stored = s.stored := by
  unfold scriptIssue
  split <;> simp

@[simp] theorem State.dataStart_stored (s : State) : (s.dataStart).stored = s.stored := by
  simp [dataStart]

@[simp] theorem State.scriptStartOp_stored (s : State) : (s.scriptStartOp).stored = s.stored := by
  simp [scriptStartOp]

@[simp] theorem State.scriptNext_stored (s : State) : (s.scriptNext).stored = s.stored := by
  simp [scriptNext]

@[simp] theorem State.scriptDrop_stored (s : State) : (s.scriptDrop).stored = s.stored := (rfl)

@[simp] theorem State.scriptFails_stored (s : State) (fatal) : (s.scriptFails fatal).stored = s.stored := by
  simp [scriptFails]

@[simp] theorem State.onEntry_stored {s : State} {f : ScrEnt → State} (h : ∀ e, (f e).stored = s.stored) (op) :
    (s.onEntry op f).stored = s.stored := by
  unfold onEntry
  split <;> simp [h]

@[simp] theorem State.bootCheck_stored (s : State) : (s.bootCheck).stored = s.stored := by
  unfold bootCheck
  dsimp only
  repeat' split
  all_goals simp

@[simp] theorem State.scriptAnswer_stored {f : State → ScrEnt → State} (h :
    ∀ s e, (f s e).stored = s.stored) (s : State) (op r) :
    (s.scriptAnswer op r f).stored = s.stored := by
  unfold scriptAnswer
  split
  · simp
  · refine State.onEntry_stored (fun e => ?_) _
    split <;> simp [h]

@[simp] theorem State.scriptWriteOp_stored (s : State) (r) : (s.scriptWriteOp r).stored = s.stored := by
  simp -implicitDefEqProofs [scriptWriteOp]

@[simp] theorem State.scriptPollOp_stored (s : State) (data r) : (s.scriptPollOp data r).stored = s.stored := by
  simp -implicitDefEqProofs [scriptPollOp]

@[simp] theorem State.scriptEndOp_stored (s : State) : (s.scriptEndOp).stored = s.stored := by
  simp -implicitDefEqProofs [scriptEndOp]

@[simp] theorem State.scriptLimitOp_stored (s : State) : (s.scriptLimitOp).stored = s.stored := by
  simp [scriptLimitOp]

@[simp] theorem State.bootGlac_stored (s : State) (sid) : (s.bootGlac sid).stored = s.stored := by
  simp [bootGlac]

@[simp] theorem State.bootStream_stored (s : State) (e i pl) : (s.bootStream e i pl).stored = s.stored := by
  simp [bootStream]

@[simp] theorem State.handOver_stored (s : State) : (s.handOver).stored = s.stored := by
  simp [handOver]

@[simp] theorem State.bootRead_stored (s : State) (va len) : (s.bootRead va len).stored = s.stored := by
  unfold bootRead
  dsimp only
  generalize hu : State.makeFar _ _ = r
  have h : r.1.stored = s.stored := by
    rw [← hu]
    simp
  split <;> simp_all

@[simp] theorem State.bootLoad_stored (s : State) : (s.bootLoad).stored = s.stored := by
  simp [bootLoad]

@[simp] theorem State.bootPlaced_stored (s : State) (i pl) : (s.bootPlaced i pl).stored = s.stored := by
  simp [bootPlaced]

@[simp] theorem State.bootGot_stored (s : State) (a data r parity) :
    (s.bootGot a data r parity).stored = s.stored := by
  unfold bootGot
  dsimp only
  repeat' split
  all_goals simp

/-- A host-type entry of the image names none of the registers that write the NVM (R326). -/
theorem State.hostEntry_stored {s t : State} {r : Reg} {v : Nat} (h : s.hostEntry r v = some t) : t.stored = s.stored := by
  unfold hostEntry at h
  cases r
  case tenant =>
    dsimp only [regWrite] at h
    split at h
    · cases h
      rfl
    · split at h
      · cases h
      · cases h
        simp
  case ptSched =>
    cases h
    simp [regWrite]
  case trRoot | cqCfg | cqBase | sqCfg | sqBase | ptHome | peTmo =>
    dsimp only [regWrite] at h
    split at h <;> cases h
    all_goals simp
  all_goals
    cases h
    rfl

theorem State.hostEntries_stored {s t : State} {l : List (Reg × Nat)} (h : s.hostEntries l = some t) : t.stored = s.stored := by
  induction l generalizing s with
  | nil =>
    cases h
    rfl
  | cons e l ih =>
    obtain ⟨u, hu, hl⟩ := Option.bind_eq_some_iff.mp h
    exact (ih hl).trans (State.hostEntry_stored hu)

@[simp] theorem State.bootEnds_stored (s : State) : s.bootEnds.stored = s.stored := by
  unfold bootEnds
  dsimp only
  split
  · next h => simp [State.hostEntries_stored h]
  · simp

@[simp] theorem State.dataDoneOp_stored (s : State) (rs) : (s.dataDoneOp rs).stored = s.stored := by
  simp [dataDoneOp]

@[simp] theorem State.readRespOp_stored (s : State) (aid data r parity) :
    (s.readRespOp aid data r parity).stored = s.stored := by
  unfold readRespOp
  split <;> simp

@[simp] theorem State.aonReleaseOp_stored (s : State) (addr) : (s.aonReleaseOp addr).stored = s.stored := by
  simp [aonReleaseOp]

@[simp] theorem State.coreReleaseOp_stored (s : State) (bad badBank) :
    (s.coreReleaseOp bad badBank).stored = s.stored := by
  simp -implicitDefEqProofs [coreReleaseOp]

/-! ### Functions of Step.lean -/

@[simp] theorem State.withFetchWord_stored (s : State) (nbits w) :
    (s.withFetchWord nbits w).stored = s.stored := (rfl)

/-! ### Functions of Safety.lean -/

@[simp] theorem State.reached_stored (s : State) : (s.reached).stored = s.stored := (rfl)

end Sys2Proof.Machine
end

section
/-! What writes the NVM keeps its canonical form, and no command touches the queue: every command, and with it every
step. -/

namespace Sys2Proof.Machine

/-- The queue is as before, and the NVM is in its canonical form where it was. -/
structure State.Keeps (s t : State) : Prop where
  pending : t.pending = s.pending
  nvm : SMap.wf s.nvm 0xFF → SMap.wf t.nvm 0xFF

theorem State.Keeps.of_stored {s t : State} (h : t.stored = s.stored) : s.Keeps t := by
  obtain ⟨hp, hn⟩ := Prod.mk.inj h
  exact ⟨hp, fun w => hn ▸ w⟩

theorem State.Keeps.refl (s : State) : s.Keeps s := ⟨rfl, id⟩

theorem State.Keeps.trans {s t u : State} (h : s.Keeps t) (g : t.Keeps u) : s.Keeps u :=
  ⟨g.pending.trans h.pending, fun w => g.nvm (h.nvm w)⟩

/-- A last step that writes neither. -/
theorem State.Keeps.stored {s t u : State} (h : s.Keeps t) (g : u.stored = t.stored) : s.Keeps u := h.trans (.of_stored g)

theorem State.nvmPut_keeps (s : State) (a l) : s.Keeps (s.nvmPut a l) := ⟨rfl, s.nvmPut_wf a l⟩

theorem State.tornSlot_keeps (s : State) (wild) : s.Keeps (s.tornSlot wild) := by
  unfold tornSlot
  split
  · exact .refl s
  · exact (s.nvmPut_keeps _ _).stored (State.stored_mk ..)

theorem State.powerOffOp_keeps (s : State) : s.Keeps s.powerOffOp :=
  (s.tornSlot_keeps false).stored (by simp [powerOffOp])

theorem State.aonAssertOp_keeps (s : State) : s.Keeps s.aonAssertOp :=
  (s.tornSlot_keeps false).stored (by simp [aonAssertOp])

theorem State.mbAbort_keeps (s : State) : s.Keeps s.mbAbort := by
  unfold mbAbort
  split
  · exact (s.tornSlot_keeps false).stored (by simp)
  · exact .refl s

theorem State.blockState_keeps (s : State) : s.Keeps s.blockState := s.mbAbort_keeps.stored (by simp [blockState])

theorem State.blockDone_keeps (s : State) : s.Keeps s.blockDone := s.blockState_keeps.stored (by simp [blockDone])

theorem State.drainedOp_keeps (s : State) (p) : s.Keeps (s.drainedOp p) := by
  unfold drainedOp
  split
  · exact .of_stored (by simp)
  · split
    · exact .refl s
    · split
      · exact .refl s
      · split
        · exact s.blockDone_keeps
        · exact .of_stored (by simp)

theorem State.timeoutBath_keeps (s : State) (p) : s.Keeps (s.timeoutBath p) := by
  unfold timeoutBath
  split
  · exact .of_stored (by simp)
  · split
    · exact .refl s
    · dsimp only
      generalize hu : List.foldl _ _ _ = u
      have h : s.Keeps u := .of_stored (by rw [← hu]; simp -implicitDefEqProofs)
      split
      · exact h.trans u.blockDone_keeps
      · exact h.stored (by simp)

theorem State.watchdogOp_keeps (s : State) : s.Keeps s.watchdogOp := by
  unfold watchdogOp
  split
  · exact s.mbAbort_keeps.stored (by simp)
  · exact .refl s

theorem State.mirrorOp_keeps (s : State) : s.Keeps s.mirrorOp := by
  unfold mirrorOp
  split
  · exact .refl s
  · refine ⟨rfl, fun w => ?_⟩
    exact List.foldlRecOn (motive := fun m => SMap.wf m 0xFF) _ _ w fun m hm e _ => ringPut_wf m _ _ hm

theorem State.coreAssertOp_keeps (s : State) : s.Keeps s.coreAssertOp := by
  unfold coreAssertOp
  split
  · exact .refl s
  · dsimp only
    refine State.Keeps.stored (t := State.blockState _) ?_ (by simp; rfl)
    exact State.Keeps.trans (.of_stored (by simp)) (State.blockState_keeps _)

theorem State.updateData_keeps (s : State) (addr size data r) : s.Keeps (s.updateData addr size data r) := by
  unfold updateData
  dsimp only
  split
  · exact .of_stored (by simp)
  split
  · exact .of_stored (by simp)
  split
  · exact .of_stored (by simp)
  split
  · exact .of_stored (by simp)
  split
  · exact .of_stored (by simp)
  split
  · exact .of_stored (by simp)
  · have h : s.Keeps s.mbReadsDone := .of_stored (by simp)
    generalize slotBase _ = a, ceilDiv _ _ * 65536 = n
    exact State.Keeps.stored (t := { s.mbReadsDone with nvm := nvmErase s.mbReadsDone.nvm a n })
      ⟨h.pending, fun w => nvmErase_wf _ _ _ (h.nvm w)⟩ (by simp)

theorem State.chreqOp_keeps (s : State) : s.Keeps s.chreqOp := by
  unfold chreqOp
  split
  · exact .refl s
  · dsimp only
    refine ⟨rfl, fun w => ?_⟩
    dsimp only
    exact ucntPut_wf s.nvm (((ucntNow s.nvm).1 + 1) % 2 ^ 32) w

theorem State.dbgctlOp_keeps (s : State) (v) : s.Keeps (s.dbgctlOp v) := by
  unfold dbgctlOp
  dsimp only
  generalize hu : (if bit v 0 = true then (s.scopeOp _).chreqOp else _ : State) = u
  have h : s.Keeps u := by
    rw [← hu]
    split
    · exact State.Keeps.trans (.of_stored (by simp)) (State.chreqOp_keeps _)
    · exact .of_stored (by simp)
  exact h.stored (by simp)

theorem State.regWrite_keeps (s : State) (r v) : s.Keeps (s.regWrite r v) := by
  by_cases h : r = .dbgctl
  · subst h; exact s.dbgctlOp_keeps v
  · cases r
    case dbgctl => exact absurd rfl h
    all_goals exact .of_stored (by simp -implicitDefEqProofs [regWrite])

theorem State.writeHigh_keeps (s : State) (r v) : s.Keeps (s.writeHigh r v) := by
  unfold writeHigh
  split
  · exact .refl s
  · exact s.regWrite_keeps _ _

theorem State.wordWrite_keeps (s : State) (o r hi v) : s.Keeps (s.wordWrite o r hi v) := by
  unfold wordWrite
  dsimp only
  generalize hu : ({ s with host := { s.host with held := none } } : State) = u
  have h : s.Keeps u := .of_stored (by simp [← hu])
  split
  · split
    · split
      · exact h.trans (u.regWrite_keeps _ _)
      · exact h.trans (u.writeHigh_keeps _ _)
    · exact h.trans (u.writeHigh_keeps _ _)
  · split
    · exact .of_stored (by simp)
    · exact h.trans (u.regWrite_keeps _ _)

@[simp] theorem State.hostDo_stored {f : State → State} (h : ∀ u, (f u).stored = u.stored) (s : State) (c) :
    (s.hostDo c f).stored = s.stored := by
  simp [hostDo, h]

@[simp] theorem State.hostWrite_stored {f : State → State} (h : ∀ u, (f u).stored = u.stored) (s : State) (c) :
    (s.hostWrite c f).stored = s.stored :=
  State.hostDo_stored (fun _ => (h _).trans (State.stored_mk ..)) s c

@[simp] theorem State.smbDo_stored {f : State → State} (h : ∀ u, (f u).stored = u.stored) (s : State) :
    (s.smbDo f).stored = s.stored := by
  simp [smbDo, h]

@[simp] theorem State.smbTake_stored {f : State → State} (h : ∀ u, (f u).stored = u.stored) (s : State) (sent pec) :
    (s.smbTake sent pec f).stored = s.stored := by
  simp [smbTake, h]

@[simp] theorem State.smbUnlock_stored {f : State → State} (h : ∀ u, (f u).stored = u.stored) (s : State) :
    (s.smbUnlock f).stored = s.stored := by
  refine State.smbDo_stored (fun u => ?_) s
  simp [h]

theorem State.hostDo_keeps {f : State → State} (h : ∀ u : State, u.Keeps (f u)) (s : State) (c) : s.Keeps (s.hostDo c f) := by
  unfold hostDo
  split
  · exact .refl s
  · split
    · exact .of_stored (by simp)
    · exact State.Keeps.trans (.of_stored (by simp)) (h _)

theorem State.hostWrite_keeps {f : State → State} (h : ∀ u : State, u.Keeps (f u)) (s : State) (c) : s.Keeps (s.hostWrite c f) :=
  State.hostDo_keeps (fun u => State.Keeps.trans (.of_stored (by simp)) (h _)) s c

theorem State.hostWordWrite_keeps (s : State) (off v strb priv) : s.Keeps (s.hostWordWrite off v strb priv) := by
  unfold hostWordWrite
  refine State.hostDo_keeps (fun u => ?_) s _
  split
  · exact .of_stored (by simp)
  · split
    · exact .refl u
    · split
      · exact .refl u
      · exact u.wordWrite_keeps _ _ _ _

theorem State.mbUpdateOp_keeps (s : State) (addr size data r) : s.Keeps (s.mbUpdateOp addr size data r) := by
  unfold mbUpdateOp
  split
  · exact s.updateData_keeps _ _ _ _
  · exact .of_stored (State.hostWrite_stored (fun u => u.mbRequest_stored _) s _)

theorem State.mbEndOp_keeps (s : State) (r nvmOk) : s.Keeps (s.mbEndOp r nvmOk) := by
  have h : s.Keeps s.mbReadsDone := .of_stored (by simp)
  unfold mbEndOp
  split
  · exact .refl s
  split
  · exact .refl s
  dsimp only
  split
  · exact .of_stored (by simp)
  split
  · exact (h.trans (State.tornSlot_keeps _ false)).stored (by simp)
  split
  · exact (h.trans (State.nvmPut_keeps _ _ _)).stored (State.mbEnd_stored ..)
  · exact (h.trans (State.tornSlot_keeps _ true)).stored (by simp)

theorem State.smbDo_keeps {f : State → State} (h : ∀ u : State, u.Keeps (f u)) (s : State) : s.Keeps (s.smbDo f) := by
  unfold smbDo
  split
  · exact h s
  · exact .refl s

theorem State.smbTake_keeps {f : State → State} (h : ∀ u : State, u.Keeps (f u)) (s : State) (sent pec) :
    s.Keeps (s.smbTake sent pec f) := by
  unfold smbTake
  split
  · exact .of_stored (by simp)
  · exact h s

theorem State.smbUnlock_keeps {f : State → State} (h : ∀ u : State, u.Keeps (f u)) (s : State) : s.Keeps (s.smbUnlock f) := by
  refine State.smbDo_keeps (fun u => ?_) s
  split
  · exact .of_stored (by simp)
  · exact h u

theorem execSmbChreq_keeps (s : State) (scope pec) :
    ∃ t, execSmbChreq scope s pec = .next t ∧ s.Keeps t := by
  refine ⟨_, rfl, State.smbUnlock_keeps (fun u => State.smbTake_keeps (fun v => ?_) u _ _) s⟩
  have h : v.Keeps (v.scopeOp (BitVec.ofNat 2 scope.toNat)) := .of_stored (State.scopeOp_stored _ _)
  exact (h.trans (State.chreqOp_keeps _)).stored (State.smbEnd_stored _)

theorem exec_keeps (c : Instr) (s : State) : ∃ t, exec c s = .next t ∧ s.Keeps t := by
  cases c
  case smbChreq scope pec => exact execSmbChreq_keeps s scope pec
  case powerOff => exact ⟨_, rfl, s.powerOffOp_keeps⟩
  case stopBathDrained p => exact ⟨_, rfl, s.drainedOp_keeps _⟩
  case stopBathTimeout p => exact ⟨_, rfl, s.timeoutBath_keeps _⟩
  case mgmtWatchdog => exact ⟨_, rfl, s.watchdogOp_keeps⟩
  case logMirror => exact ⟨_, rfl, s.mirrorOp_keeps⟩
  case mbUpdate => exact ⟨_, rfl, s.mbUpdateOp_keeps _ _ _ _⟩
  case mailboxRequestEnd => exact ⟨_, rfl, s.mbEndOp_keeps _ _⟩
  case chreq => exact ⟨_, rfl, State.hostWrite_keeps State.chreqOp_keeps s _⟩
  case registerWrite => exact ⟨_, rfl, s.hostWordWrite_keeps _ _ _ _⟩
  case aonResetAssert => exact ⟨_, rfl, s.aonAssertOp_keeps⟩
  case coreResetAssert => exact ⟨_, rfl, s.coreAssertOp_keeps⟩
  all_goals exact ⟨_, rfl, .of_stored (by simp -implicitDefEqProofs)⟩

theorem step_keeps_nvm {s t : State} (w : SMap.wf s.nvm 0xFF) (h : step s = .next t) : SMap.wf t.nvm 0xFF := by
  unfold step at h
  split at h
  · split at h
    · cases h
      exact (State.Keeps.of_stored s.tick_stored).nvm w
    · next c u hu =>
      obtain ⟨v, hv, hk⟩ := exec_keeps c u
      unfold hostStep at h
      rw [hv] at h
      cases h
      have hs : s.Keeps u := by
        unfold State.hostTurn at hu
        split at hu
        · cases hu
        · split at hu <;> cases hu
          exact .of_stored (by simp)
      exact ((hs.trans hk).stored (State.hostRest_stored _ _)).nvm w
  · next c rest _ =>
    obtain ⟨v, hv, hk⟩ := exec_keeps c { s with pending := rest }
    rw [hv] at h
    cases h
    exact hk.nvm w

end Sys2Proof.Machine
end

section
/-! O59 and O60: what every command and every step keep. -/

namespace Sys2Proof
open Machine

/-- Settles O59: every command answers a next state, and writes no command that waits. -/
theorem execKeepsQueue : Obligations.exec_keeps_queue := by
  unfold Obligations.exec_keeps_queue
  intro c s
  obtain ⟨t, ht, hk⟩ := exec_keeps c s
  exact ⟨t, ht, hk.pending⟩

/-- Settles O60: each function that writes the NVM puts or erases bytes as the canonical form asks. -/
theorem stepKeepsNvmCanonical : Obligations.step_keeps_nvm_canonical := by
  unfold Obligations.step_keeps_nvm_canonical
  intro s t w h
  exact step_keeps_nvm w h

end Sys2Proof
end

section
/-! O1: the queue. -/

namespace Sys2Proof
open Machine

/-- Settles O1: each clause is a branch of `step`. -/
theorem stepRunsFront : Obligations.step_runs_front := by
  unfold Obligations.step_runs_front
  refine ⟨fun _ _ _ => rfl, fun s hp hw => ?_, fun s t c l hp hw h4 h5 he => ?_⟩
  · have hn : s.hostTurn = none := by
      unfold State.hostTurn
      split
      · rfl
      · next h => exact if_pos (hw.resolve_left (by simp [h]))
    unfold step
    rw [hp]
    simp only [hn]
  · have hs : s.hostTurn = some (c, { s with host := { s.host with wait := [] } }) := by
      unfold State.hostTurn
      rw [hw]
      exact if_neg (not_or.mpr ⟨h4, h5⟩)
    unfold step
    rw [hp]
    simp only [hs, hostStep, he, State.hostRest, hw, List.tail_cons]

/-- Settles O58: the reset state, field by field. -/
theorem resetValues : Obligations.reset_values := by
  unfold Obligations.reset_values
  refine ⟨by decide, rfl, rfl, fun _ => ⟨rfl, rfl, rfl⟩, fun _ => ⟨rfl, rfl⟩, fun _ => rfl, fun _ => rfl, fun _ => rfl,
    fun _ => ⟨rfl, rfl⟩, fun _ => rfl, rfl, rfl, rfl, rfl, rfl, rfl, rfl, rfl, rfl, rfl, rfl, ?_⟩
  exact ⟨List.Pairwise.nil, by simp [State.reset]⟩

end Sys2Proof
end

section
/-! O56: the test ports. -/

namespace Sys2Proof.Machine

/-- With power the TAP takes an instruction. -/
theorem State.tapSet_eq {s : State} (h : s.pwr.off = false) (ir : TapIr) (dr : BitVec 32) :
    s.tapSet ir dr = { s with tap := { s.tap with ir := ir, dr := dr } } := by
  simp [State.tapSet, State.tapUp, h]

/-- With power the wrapper takes an instruction, or `WS_BYPASS` in its place. -/
theorem State.wrapSet_eq {s : State} (h : s.pwr.off = false) (ok : Bool) (i : WrapIr) :
    s.wrapSet ok i = { s with tap := { s.tap with wir := if ok then i else .bypass } } := by
  simp [State.wrapSet, State.tapUp, h]

theorem State.testState_iff (s : State) : s.testState = true ↔ s.pins.core = true ∨ s.boot.state = 14 := by
  simp [State.testState, State.failed]

theorem State.scopeOpen_iff (s : State) (k : Nat) :
    s.scopeOpen k = true ↔ (s.dbg.lock = false ∧ s.boot.state ≠ 14) ∨ s.dbg.grant.getLsbD k = true := by
  simp [State.scopeOpen, State.debugLocked]

/-- The JTAG identification word, bit by bit. -/
theorem idcodeWord_eq : idcodeWord = 0x14E32001 ||| Config.mfr.setWidth 32 <<< 1 := by
  unfold idcodeWord
  generalize Config.mfr = v
  revert v
  decide +kernel

/-- A march test ends with an instruction and nothing else of the state changed but what the SRAMs held. -/
theorem State.mbistOp_rest (s : State) (k : BitVec 8) :
    s.mbistOp k = { s with mg := (s.mbistOp k).mg, free := (s.mbistOp k).free } := by
  unfold State.mbistOp
  dsimp only
  split <;> rfl

end Sys2Proof.Machine

namespace Sys2Proof
open Machine

/-- Settles O56: each instruction is one write of the TAP or of the wrapper. -/
theorem testPorts : Obligations.test_ports := by
  unfold Obligations.test_ports
  constructor
  · intro s hp
    refine ⟨?_, ?_, ?_, fun h => ?_, fun hc hf => ?_, rfl⟩
    · exact congrArg Host.Outcome.next (State.tapSet_eq hp _ _)
    · rw [← idcodeWord_eq]
      exact congrArg Host.Outcome.next (State.tapSet_eq hp _ _)
    · exact congrArg Host.Outcome.next (State.tapSet_eq hp _ _)
    · exact congrArg Host.Outcome.next ((if_pos (s.testState_iff.mpr h)).trans (State.tapSet_eq hp _ _))
    · have h : s.testState ≠ true := by rw [Ne, s.testState_iff, hc]; simpa using hf
      exact congrArg Host.Outcome.next ((if_neg h).trans (State.wrapSet_eq hp _ _))
  · intro s hp sel opened
    have hsel : ∀ (ok : Prop) [Decidable ok] (b : Bool) (i : WrapIr), (b = true ↔ ok) →
        .next (s.wrapSet b i) = sel ok i := by
      intro ok _ b i h
      simp only [sel, State.wrapSet_eq hp, h]
    refine ⟨?_, ?_, ?_, fun k => ?_, ?_, ?_⟩
    · exact congrArg Host.Outcome.next ((State.wrapSet_eq hp _ _).trans (by simp))
    · exact hsel _ _ _ Iff.rfl
    · exact hsel _ _ _ (by simp only [Bool.and_eq_true, State.scopeOpen_iff, opened])
    · by_cases h : s.pins.core = true ∨ s.boot.state = 14
      · have ht : s.testState = true := s.testState_iff.mpr h
        have hm : s.mbistOp k = { s with mg := (s.mbistOp k).mg, free := (s.mbistOp k).free } := s.mbistOp_rest k
        rw [if_pos h]
        refine ⟨_, rfl, ?_⟩
        have hw : s.wsMbist k = { s.mbistOp k with tap := { (s.mbistOp k).tap with wir := .mbist k } } := by
          simp only [State.wsMbist, ht, State.tapUp, hp, Bool.not_false, Bool.and_self, if_true]
          rw [State.wrapSet_eq (by rw [hm]; exact hp)]
          rfl
        rw [hw, hm]
        exact ⟨rfl, rfl⟩
      · have ht : s.testState = false := Bool.eq_false_iff.mpr (mt s.testState_iff.mp h)
        rw [if_neg h]
        have hw : s.wsMbist k = s.wrapSet false (.mbist k) := by simp [State.wsMbist, ht]
        exact (congrArg Host.Outcome.next hw).trans (hsel _ _ _ (by simp))
    · exact hsel _ _ _ (by simp only [Bool.and_eq_true, State.scopeOpen_iff, opened])
    · exact hsel _ _ _ (State.scopeOpen_iff _ _)

end Sys2Proof
end

section
/-! O54: the SMBus reads. -/

namespace Sys2Proof
open Machine

/-- Settles O54: each command gives its response, and the packet error code over the whole transaction. -/
theorem smbusReads : Obligations.smbus_reads := by
  unfold Obligations.smbus_reads
  intro s hs a give answer le
  have hup : s.mgmtUp = true := by simp [State.mgmtUp, hs.power, hs.aon]
  have hdo : ∀ f, s.smbDo f = f s := fun f => if_pos hup
  refine ⟨?_, ?_, ?_, ?_, ?_, fun seq => ?_, ?_, ?_⟩
  · refine congrArg Host.Outcome.next ((hdo _).trans ?_)
    have hf : s.fwWord = s.mg.fwver.toNat + 65536 * b2n s.mg.fwres := by
      have hv := s.mg.fwver.isLt
      unfold State.fwWord
      cases s.mg.fwres <;> simp [pack, b2n] <;> omega
    rw [hf]
    rfl
  · exact congrArg Host.Outcome.next (hdo _)
  · exact congrArg Host.Outcome.next (hdo _)
  · exact congrArg Host.Outcome.next (hdo _)
  · exact congrArg Host.Outcome.next (hdo _)
  · exact congrArg Host.Outcome.next (hdo _)
  · have ha : s.alertLow = true ↔ s.boot.state = 14 ∨ s.mg.alrt.extractLsb' 0 8 &&& s.mg.amask ≠ 0 := by
      have he : BitVec.ofNat 8 s.mg.alrt.toNat = s.mg.alrt.extractLsb' 0 8 :=
        BitVec.eq_of_toNat_eq (by simp)
      simp [State.alertLow, State.failed, he]
    have hl : toLE 1 (2 * s.smb.addr.toNat) = [a] := by
      simp only [toLE, a]
      congr 1
      exact BitVec.eq_of_toNat_eq (by simp)
    show Host.Outcome.next (s.smbDo _) = _
    rw [hdo]
    by_cases h : s.boot.state = 14 ∨ s.mg.alrt.extractLsb' 0 8 &&& s.mg.amask ≠ 0
    · rw [if_pos h, if_pos (ha.mpr h), hl]
      rfl
    · rw [if_neg h, if_neg (mt ha.mp h)]
      rfl
  · exact congrArg Host.Outcome.next (hdo _)

end Sys2Proof
end

section
/-! O2: NOP, FENCE and a WAIT that holds. -/

namespace Sys2Proof.Machine

/-- What `cmdDone` leaves of a command that a channel holds: its completion phase, and nothing else changed. -/
theorem State.Holds.completes {s : State} {m c sid : Nat} {k : CmdCtx} (h : s.Holds m c sid k) :
    (s.cmdDone m c sid).Done m c sid k ∧ s.Others (s.cmdDone m c sid) m c sid ∧
      s.cmdDone m c sid = { s with strms := (s.cmdDone m c sid).strms, chans := (s.cmdDone m c sid).chans } :=
  ⟨State.cmdDone_done h.act h.cmd, s.cmdDone_others m c sid, s.cmdDone_rest m c sid⟩

theorem notBefore_iff (a w : BitVec 32) : notBefore a w = true ↔ 0 ≤ (a - w).toInt := by
  rw [notBefore, BitVec.msb_eq_toInt]
  simp

theorem cntHolds_iff (q : Cnt) (w : BitVec 32) :
    cntHolds q w = true ↔ if q.mode = 0 then 0 ≤ (q.value - w).toInt else w.toNat ≤ q.value.toNat := by
  unfold cntHolds
  split
  · exact notBefore_iff _ _
  · exact decide_eq_true_iff

end Sys2Proof.Machine

namespace Sys2Proof
open Machine

/-- Settles O2: in each case the command's function comes down to `cmdDone`. -/
theorem nopFenceAndWaitComplete : Obligations.nop_fence_and_wait_complete := by
  unfold Obligations.nop_fence_and_wait_complete
  refine ⟨fun s m c sid k h => ⟨fun ho => ?_, fun ho => ?_⟩, fun s m c sid k h ho hc => ?_⟩
  · exact ⟨_, congrArg Host.Outcome.next (h.run _ _ (by simp [ho])), h.completes⟩
  · exact ⟨_, congrArg Host.Outcome.next (h.run _ _ (by simp [ho])), h.completes⟩
  · refine ⟨_, congrArg Host.Outcome.next ((h.run _ _ (by simp [ho])).trans ?_), h.completes⟩
    dsimp only at hc ⊢
    by_cases hk : cKind k.raw = 1
    · exact (if_pos hk).trans (if_pos ((cntHolds_iff _ _).mpr ((if_pos hk).mp hc)))
    · exact (if_neg hk).trans (if_pos ((notBefore_iff _ _).mpr ((if_neg hk).mp hc)))

end Sys2Proof
end

section
/-! O6: LOOP without a batch. -/

namespace Sys2Proof.Machine

/-- The end of a pass of a program with no REARM pending: the arming ends where LCNT passes are done. -/
theorem State.loopEnd_eq {s : State} {sid : Nat} (h : (s.strmAt sid).rpend = none) (m c : Nat) :
    s.loopEnd m c sid = State.cmdDone (if (s.strmAt sid).lcnt ≠ 0 ∧ (s.strmAt sid).pass = (s.strmAt sid).lcnt
      then s.modCmd sid fun k => { k with endArm := true, toArmed := true } else s) m c sid := by
  unfold State.loopEnd
  simp only [h, ne_eq, not_true_eq_false, if_false]

end Sys2Proof.Machine

namespace Sys2Proof
open Machine

/-- Settles O6: the end of the pass `u` follows the count of it, and ends the arming in `v` where it is the last one. -/
theorem loopCountsPasses : Obligations.loop_counts_passes := by
  unfold Obligations.loop_counts_passes
  intro s m c sid k h ho hst hb hp he ha n l last
  have hbat : loopBat k.raw = none := by simp [loopBat, hb]
  refine ⟨_, congrArg Host.Outcome.next (h.run _ _ (by simp [ho])), ?_⟩
  simp only [hst, hbat, beq_self_eq_true, if_true]
  have hc := h.cmd
  have hact : (s.chan (4 * m + c)).act = some sid := h.act
  generalize hu : State.modStrmAt _ sid _ = u
  have hx : u.strmAt sid = { s.strmAt sid with
      pass := n, lcnt := l, slots := [], cmd := some { k with stage := .tiles, pass := n } } := by
    simp [← hu, State.freeSlots, State.moveSpace, hc, n, l]
  have hother : ∀ j, j ≠ sid → u.strmAt j = s.strmAt j := fun j hj => by
    simp [← hu, State.freeSlots, State.moveSpace, hj]
  have hchan : ∀ j, u.chan j = s.chan j := fun j => by simp [← hu, State.freeSlots, State.moveSpace]
  have hacc : u.acc = s.acc := by simp [← hu, State.freeSlots, State.moveSpace]
  have hcnts : u.cnts = s.cnts := by simp [← hu, State.freeSlots, State.moveSpace]
  have hropes : u.ropes = s.ropes := by simp [← hu, State.freeSlots, State.moveSpace]
  rw [State.loopEnd_eq (by rw [hx]; exact hp), hx]
  dsimp only
  generalize hv : (if l ≠ 0 ∧ n = l then u.modCmd sid _ else u) = v
  have hvx : v.strmAt sid = { u.strmAt sid with cmd := some { k with
      stage := .tiles, pass := n, endArm := last, toArmed := last } } := by
    rw [← hv, hx]
    by_cases hl : l ≠ 0 ∧ n = l
    · have hlast : last = true := decide_eq_true hl
      rw [if_pos hl, hlast]
      simp [hx]
    · have hlast : last = false := decide_eq_false hl
      rw [if_neg hl, hlast, hx, he, ha]
  have hrest : (∀ j, j ≠ sid → v.strmAt j = u.strmAt j) ∧ v.chans = u.chans ∧ v.acc = u.acc ∧ v.cnts = u.cnts ∧
      v.ropes = u.ropes := by
    rw [← hv]
    split
    · exact ⟨fun j hj => by simp [hj], rfl, rfl, rfl, rfl⟩
    · exact ⟨fun _ _ => rfl, rfl, rfl, rfl, rfl⟩
  obtain ⟨hvo, hvch, hvacc, hvcnts, hvropes⟩ := hrest
  have hvchan : ∀ j, v.chan j = s.chan j := fun j => (congrArg (SMap.get · _ j) hvch).trans (hchan j)
  refine ⟨?_, ?_, ?_, ?_, hvacc.trans hacc, hvcnts.trans hcnts, hvropes.trans hropes⟩
  · simp [State.cmdDone_strmAt, hvx, hx]
  · simp [State.cmdDone_strmAt, hvx, hx]
  · exact ⟨by simpa [State.cmdDone_chan, hvchan] using hact, by simp [State.cmdDone_chan],
      by simp [State.cmdDone_strmAt, hvx]⟩
  · exact ⟨fun j hj => by simp [State.cmdDone_strmAt, hj, hvo, hother], fun j hj => by
      simp [State.cmdDone_chan, hj, hvchan]⟩

end Sys2Proof
end

section
/-! The end of a command's effects: what it leaves unchanged. -/

namespace Sys2Proof.Machine

@[simp] theorem State.cmdDone_ten (s : State) (m c sid j : Nat) : (s.cmdDone m c sid).ten j = s.ten j := rfl
@[simp] theorem State.cmdDone_sq (s : State) (m c sid j : Nat) : (s.cmdDone m c sid).sq j = s.sq j := rfl
@[simp] theorem State.cmdDone_cq (s : State) (m c sid j : Nat) : (s.cmdDone m c sid).cq j = s.cq j := rfl
@[simp] theorem State.cmdDone_part (s : State) (m c sid j : Nat) : (s.cmdDone m c sid).part j = s.part j := rfl
@[simp] theorem State.cmdDone_ecnCh (s : State) (m c sid j : Nat) : (s.cmdDone m c sid).ecnCh j = s.ecnCh j := rfl
@[simp] theorem State.cmdDone_xlU (s : State) (m c sid j : Nat) : (s.cmdDone m c sid).xlU j = s.xlU j := rfl
@[simp] theorem State.cmdDone_mover (s : State) (m c sid j : Nat) : (s.cmdDone m c sid).mover j = s.mover j := rfl
@[simp] theorem State.cmdDone_cnt (s : State) (m c sid j : Nat) : (s.cmdDone m c sid).cnt j = s.cnt j := rfl
@[simp] theorem State.cmdDone_rope (s : State) (m c sid j : Nat) : (s.cmdDone m c sid).rope j = s.rope j := rfl
@[simp] theorem State.cmdDone_nextAid (s : State) (m c sid : Nat) : (s.cmdDone m c sid).nextAid = s.nextAid := rfl
@[simp] theorem State.cmdDone_seq (s : State) (m c sid : Nat) : (s.cmdDone m c sid).seq = s.seq := rfl
@[simp] theorem State.cmdDone_boot (s : State) (m c sid : Nat) : (s.cmdDone m c sid).boot = s.boot := rfl
@[simp] theorem State.cmdDone_pwr (s : State) (m c sid : Nat) : (s.cmdDone m c sid).pwr = s.pwr := rfl
@[simp] theorem State.cmdDone_tens (s : State) (m c sid : Nat) : (s.cmdDone m c sid).tens = s.tens := rfl
@[simp] theorem State.cmdDone_sqs (s : State) (m c sid : Nat) : (s.cmdDone m c sid).sqs = s.sqs := rfl
@[simp] theorem State.cmdDone_cqs (s : State) (m c sid : Nat) : (s.cmdDone m c sid).cqs = s.cqs := rfl
@[simp] theorem State.cmdDone_parts (s : State) (m c sid : Nat) : (s.cmdDone m c sid).parts = s.parts := rfl
@[simp] theorem State.cmdDone_xl (s : State) (m c sid : Nat) : (s.cmdDone m c sid).xl = s.xl := rfl
@[simp] theorem State.cmdDone_movers (s : State) (m c sid : Nat) : (s.cmdDone m c sid).movers = s.movers := rfl
@[simp] theorem State.cmdDone_cnts (s : State) (m c sid : Nat) : (s.cmdDone m c sid).cnts = s.cnts := rfl
@[simp] theorem State.cmdDone_ropes (s : State) (m c sid : Nat) : (s.cmdDone m c sid).ropes = s.ropes := rfl
@[simp] theorem State.cmdDone_acc (s : State) (m c sid : Nat) : (s.cmdDone m c sid).acc = s.acc := rfl
@[simp] theorem State.cmdDone_inv (s : State) (m c sid : Nat) : (s.cmdDone m c sid).inv = s.inv := rfl

end Sys2Proof.Machine
end

section
/-! O7: the Firn tables' commands. -/

namespace Sys2Proof
open Machine

/-- Settles O7: each command is one write of the slot, and its completion. -/
theorem tableCommands : Obligations.table_commands := by
  unfold Obligations.table_commands
  intro s m c sid k h ho hp p
  have hact : (s.chan (4 * m + c)).act = some sid := h.act
  have hun : s.unpin sid = s := s.unpin_none sid hp
  refine ⟨fun hb n hn => ⟨_, congrArg Host.Outcome.next (h.run _ _ (by simp [ho, hb])), ?_⟩,
    fun hb n hn => ⟨_, congrArg Host.Outcome.next (h.run _ _ (by simp [ho, hb])), ?_⟩⟩
  · simp only [hun]
    rw [hn]
    dsimp only
    refine ⟨?_, fun i hi => ?_, ?_⟩
    · simp [p, SMap.get_put, FSlot.reset]
    · simp [p, SMap.get_put, hi]
    · simp [State.cmdDone_chan]
  · dsimp only
    rw [hn]
    dsimp only
    rw [State.unpin_none _ sid (by simpa using hp)]
    refine ⟨?_, ?_, fun i hi => ?_, ?_⟩
    · simp [p, SMap.get_put]
    · simp [p, SMap.get_put]
    · simp [p, SMap.get_put, hi]
    · exact State.cmdDone_done (by simpa using hact) (by simp [h.cmd])

end Sys2Proof
end

section
/-! O4: the last arrival of a BARRIER. -/

namespace Sys2Proof

theorem SMap.mem_put {α : Type} [DecidableEq α] {m : SMap α} {d v : α} {k : Nat} {e : Nat × α} (h : e ∈ m.put d k v) :
    e = (k, v) ∨ e ∈ m := by
  unfold SMap.put at h
  split at h
  · exact .inr (List.mem_of_mem_filter h)
  · exact SMap.mem_ins m k v e h

theorem SMap.get_mem {α : Type} (m : SMap α) (d : α) (k : Nat) : m.get d k = d ∨ (k, m.get d k) ∈ m := by
  induction m with
  | nil => exact .inl rfl
  | cons e t ih =>
    unfold SMap.get
    split
    · next h => exact .inr (by subst h; exact List.mem_cons_self)
    · exact ih.imp_right (List.mem_cons_of_mem _)

namespace Machine

/-- Every stream's wait is one that `P` allows. -/
def State.Waits (s : State) (P : Wait → Prop) : Prop := ∀ e ∈ s.strms, P e.2.wait

theorem State.Waits.strmAt {s : State} {P : Wait → Prop} (h : s.Waits P) (h0 : P .none) (j : Nat) : P (s.strmAt j).wait := by
  obtain hj | hj := SMap.get_mem s.strms Strm.reset j
  · unfold State.strmAt
    rw [hj]
    exact h0
  · exact h _ hj

theorem State.Waits.setStrmAt {s : State} {P : Wait → Prop} (h : s.Waits P) (j : Nat) {x : Strm} (hx : P x.wait) :
    (s.setStrmAt j x).Waits P := fun e he => by
  obtain rfl | hm := SMap.mem_put he
  · exact hx
  · exact h e hm

theorem State.Waits.setSt {s : State} {P : Wait → Prop} (h : s.Waits P) (j : Nat) (st : StState) {w : Wait} (hw : P w) :
    (s.setSt j st w).Waits P := by
  unfold State.Waits State.setSt
  rw [State.refreshActive_strms]
  exact h.setStrmAt j hw

/-- A wake-up gives a stream no wait but these. -/
theorem State.Waits.makeReady {s : State} {P : Wait → Prop} (h : s.Waits P) (h0 : P .none) (h1 : P .cqFull) (h2 : P .home)
    (j : Nat) : (s.makeReady j).Waits P := by
  unfold State.makeReady
  split
  · exact h.setSt _ _ h1
  · split
    · exact State.Waits.setSt (s := s.modStrmAt j _) (h.setStrmAt j (h.strmAt h0 j)) _ _ h0
    · split
      · exact h.setSt _ _ h2
      · exact State.Waits.setSt (s := s.modStrmAt j _) (h.setStrmAt j (h.strmAt h0 j)) _ _ h0

theorem State.Waits.wakeUp {s : State} {P : Wait → Prop} (h : s.Waits P) (h0 : P .none) (h1 : P .cqFull) (h2 : P .home) :
    s.wakeUp.Waits P :=
  List.foldlRecOn (motive := fun t : State => t.Waits P) _ _ h fun _ ht j _ => ht.makeReady h0 h1 h2 j

end Machine
end Sys2Proof

namespace Sys2Proof.Machine

/-- From `s` to `t` the one counter that changes is `key`, to `v`; rope lines, channels and commands are as before. -/
structure State.CntTo (s t : State) (key : Nat) (v : Cnt) : Prop where
  cnt : t.cnt key = v
  other : ∀ j, j ≠ key → t.cnt j = s.cnt j
  ropes : t.ropes = s.ropes
  chan : ∀ j, t.chan j = s.chan j
  cmd : ∀ j, (t.strmAt j).cmd = (s.strmAt j).cmd

theorem State.CntTo.trans {s t u : State} {key : Nat} {v w : Cnt} (h : s.CntTo t key v) (g : t.CntTo u key w) :
    s.CntTo u key w where
  cnt := g.cnt
  other := fun j hj => (g.other j hj).trans (h.other j hj)
  ropes := g.ropes.trans h.ropes
  chan := fun j => (g.chan j).trans (h.chan j)
  cmd := fun j => (g.cmd j).trans (h.cmd j)

theorem State.setCnt_cntTo (s : State) (key : Nat) (v : Cnt) : s.CntTo (s.setCnt key v) key v :=
  ⟨by simp, fun j hj => by simp [hj], rfl, fun _ => rfl, fun _ => rfl⟩

theorem State.Woken.cntTo {s t : State} (h : s.Woken t) (key : Nat) : s.CntTo t key (s.cnt key) :=
  ⟨h.cnt key, fun j _ => h.cnt j, h.ropes, h.chan, h.cmd⟩

/-- A write of a counter and the wake-ups after it. -/
theorem State.setCnt_wakeUp (s : State) (key : Nat) (v : Cnt) : s.CntTo (s.setCnt key v).wakeUp key v := by
  refine (s.setCnt_cntTo key v).trans ?_
  have h := (s.setCnt key v).wakeUp_woken.cntTo key
  rwa [(s.setCnt_cntTo key v).cnt] at h

/-- No stream is to repeat its arrival at the counter. -/
def State.NoRepeat (s : State) (key : Nat) : Prop := s.Waits fun w => ∀ r, w ≠ .dblCounter key r true

theorem State.NoRepeat.wakeUp {s : State} {key : Nat} (h : s.NoRepeat key) : s.wakeUp.NoRepeat key :=
  State.Waits.wakeUp h (fun _ => nofun) (fun _ => nofun) (fun _ => nofun)

/-- The rounds of a counter whose last arrival has come: one, or two where the next round's arrivals are complete. -/
theorem State.cntRounds_last {s : State} {key : Nat} {q : Cnt} (n : Nat) (hq : s.cnt key = q) (hm : q.mode = 0)
    (hb : q.bound = true) (hp : q.part ≠ 0) (ha : q.arr = q.part) (hw : s.NoRepeat key) :
    s.CntTo (s.cntRounds key (n + 2)) key (if q.next = q.part then { q with value := q.value + 2, arr := 0, next := 0 }
      else { q with value := q.value + 1, arr := q.next, next := 0 }) := by
  subst hq
  rw [State.cntRounds_next s key (n + 1) hm hb hp ha hw]
  have h1 := s.setCnt_wakeUp key { s.cnt key with value := (s.cnt key).value + 1, arr := (s.cnt key).next, next := 0 }
  generalize hu : (s.setCnt key _).wakeUp = u at h1 ⊢
  have hwu : u.NoRepeat key := hu ▸ State.NoRepeat.wakeUp (s := s.setCnt key _) hw
  split
  · next hn =>
    rw [State.cntRounds_next u key n (by rw [h1.cnt]; exact hm) (by rw [h1.cnt]; exact hb) (by rw [h1.cnt]; exact hp)
      (by rw [h1.cnt]; exact hn) hwu, h1.cnt]
    have h2 := h1.trans (u.setCnt_wakeUp key { s.cnt key with value := (s.cnt key).value + 1 + 1, arr := 0, next := 0 })
    rw [State.cntRounds_stop _ key n (by rw [h2.cnt]; exact hp.symm)]
    have hv : (s.cnt key).value + 1 + 1 = (s.cnt key).value + 2 := BitVec.add_assoc ..
    rw [← hv]
    exact h2
  · next hn =>
    rw [State.cntRounds_stop u key (n + 1) (by rw [h1.cnt]; exact hn)]
    exact h1

end Sys2Proof.Machine

namespace Sys2Proof
open Machine

/-- Settles O4: the arrival completes the round, and the round is what the BARRIER waits for. -/
theorem barrierCompletesRound : Obligations.barrier_completes_round := by
  unfold Obligations.barrier_completes_round
  intro s m c sid k h ho hk har key q hm hb ha hl hw
  have hact : (s.chan (4 * m + c)).act = some sid := h.act
  have hp : q.part ≠ 0 := fun h0 => by
    have hor : ∀ (a : BitVec 4) (c : Fin 4), a ||| BitVec.ofNat 4 (2 ^ c.val) ≠ 0 := by decide
    exact hor q.arr c (hl.trans h0)
  have hlen : s.strms ≠ [] := fun h0 => by
    have hc := h.cmd
    simp [State.strmAt, h0, SMap.get, Strm.reset] at hc
  obtain ⟨n, hn⟩ := Nat.exists_eq_add_one_of_ne_zero (mt List.length_eq_zero_iff.mp hlen)
  have hkind : cKind k.raw = 1 := hk
  have harr : s.cntArrive key c = ((s.setCnt key { q with arr := q.part }).cntRounds key (n + 2), .counted (q.value + 1)) := by
    have hq : q.arrive c = ({ q with arr := q.part }, .counted (q.value + 1)) := by
      unfold Cnt.arrive
      rw [← hl]
      exact if_pos ha
    show (let (x, a) := q.arrive c; ((s.setCnt key x).cntRound key, a)) = _
    rw [hq]
    simp only [State.cntRound, State.setCnt_strms, hn]
  have hr := (s.setCnt_cntTo key { q with arr := q.part }).trans
    (State.cntRounds_last n (q := { q with arr := q.part }) (by simp) hm hb hp rfl hw)
  generalize State.cntRounds _ key (n + 2) = u at harr hr
  have hv : notBefore (u.cnt key).value (q.value + 1) = true := by
    rw [notBefore_iff, hr.cnt]
    split
    · have h2 : q.value + 2 - (q.value + 1) = 1 := by bv_omega
      rw [h2]
      decide
    · have h1 : q.value + 1 - (q.value + 1) = 0 := BitVec.sub_self _
      rw [h1]
      decide
  have hop : s.barrierOp m c = (u.modStrmAt sid fun y => { y with
      arrd := true, ntile := BitVec.ofNat 40 (q.value + 1).toNat }).cmdDone m c sid := by
    refine (h.run _ _ (by simp [ho])).trans ?_
    simp only [har, hkind, if_true, Bool.false_eq_true, if_false]
    rw [show cntKey (s.strmAt sid).hmv.toNat (cTgt k.raw) = key from rfl, harr]
    exact if_pos hv
  refine ⟨_, congrArg Host.Outcome.next hop, ?_, fun j hj => ?_, ?_, State.cmdDone_done ?_ ?_, ?_, ?_⟩
  · simpa using hr.cnt
  · simpa using hr.other j hj
  · simpa using hr.ropes
  · simpa using (congrArg Chan.act (hr.chan _)).trans hact
  · simpa using (hr.cmd sid).trans h.cmd
  · simp [State.cmdDone_strmAt]
  · have hlt := (q.value + 1).isLt
    simp only [State.cmdDone_strmAt, State.modStrmAt_eq, State.setStrmAt_strmAt, if_true, BitVec.toNat_ofNat]
    exact Nat.mod_eq_of_lt (by omega)

end Sys2Proof
end

section
/-! Wake-ups leave streams that do not wait; what an increment, and a far access that the micro-TLB maps, come down to. -/

namespace Sys2Proof.Machine

theorem State.makeReadies_other (s : State) {l : List Nat} {j : Nat} (h : j ∉ l) :
    (s.makeReadies l).strmAt j = s.strmAt j := by
  induction l generalizing s with
  | nil => rfl
  | cons a l ih =>
    obtain ⟨ha, hl⟩ := not_or.mp (mt List.mem_cons.mpr h)
    exact (ih (s.makeReady a) hl).trans (s.makeReady_other a j ha)

/-- A wake-up leaves a stream that does not wait. -/
theorem State.wakeUp_other (s : State) {j : Nat} (h : ∀ e ∈ s.strms, e.1 = j → e.2.st ≠ .waiting) :
    s.wakeUp.strmAt j = s.strmAt j := by
  refine s.makeReadies_other fun hj => ?_
  obtain ⟨e, he, rfl⟩ := List.mem_map.mp hj
  obtain ⟨hm, hw⟩ := List.mem_filter.mp he
  simp at hw
  exact h e hm rfl hw.1

/-- An increment of a counter: the counter, a fault record at the most, and a wake-up. -/
theorem State.cntAdd_wakeUp (s : State) (key : Nat) (d : Int) (sid m c : Nat) :
    ∃ u, (s.setCnt key ((s.cnt key).added d)).Kept u ∧ s.cntAdd key d sid m c = u.wakeUp := by
  unfold State.cntAdd Cnt.added
  simp only [decide_eq_true_eq, Nat.cast_pow, Nat.cast_ofNat]
  refine ⟨_, ?_, rfl⟩
  generalize s.setCnt key _ = v
  split
  · exact State.pushFault_kept _ _ _
  · split
    · exact State.pushFault_kept _ _ _
    · exact .refl _

theorem State.cntAdd_other (s : State) (key : Nat) (d : Int) (sid m c : Nat) {j : Nat}
    (h : ∀ e ∈ s.strms, e.1 = j → e.2.st ≠ .waiting) : (s.cntAdd key d sid m c).strmAt j = s.strmAt j := by
  obtain ⟨u, hu, e⟩ := s.cntAdd_wakeUp key d sid m c
  rw [e, u.wakeUp_other (by rw [hu.strms]; exact h), hu.strmAt, State.setCnt_strmAt]

/-- With no damaged entry in reach a look-up discards none. -/
theorem State.shedTlb_clean {s : State} {a : Access} (hl : ∀ e ∈ (s.xlU a.part).l2, e.bad = false)
    (hu : ∀ m, rqMover a.rq = some m → ∀ e ∈ (s.mover m).utlb, e.bad = false) : s.shedTlb a = s := by
  have hnil : ∀ l : List TlbE, (∀ e ∈ l, e.bad = false) → (l.filter fun e => e.bad && e.maps a.ten a.gen a.va) = [] :=
    fun l h => List.filter_eq_nil_iff.mpr fun e he => by simp [h e he]
  unfold State.shedTlb
  dsimp only
  rw [hnil _ hl]
  split
  · rfl
  · split
    · next m hm => rw [hnil _ (hu m hm)]; rfl
    · rfl

/-- A far access that an entry of the Mover's micro-TLB maps with the permission: it is made, with its address. -/
theorem State.makeFar_utlb {s : State} {a : Access} {m : Nat} {e : TlbE} (hr : a.rq = .mover m)
    (hk : ∀ t, a.kind ≠ .probe t) (he : (s.ten a.ten.toNat).rootEn = true)
    (hu : ∀ e ∈ (s.mover m).utlb, e.bad = false) (hl : ∀ e ∈ (s.xlU a.part).l2, e.bad = false)
    (hf : (s.mover m).utlb.find? (fun e => e.maps a.ten a.gen a.va) = some e)
    (hp : (if a.permW then e.wr else e.rd) = true) :
    let u := s.modMover m fun v => { v with utlb := useEntry 64 e v.utlb }
    s.makeFar a = (State.modAcc (u.pushAcc { a with stage := .xlat }) s.nextAid
      fun x => State.atPa (u.pushAcc { a with stage := .xlat }) x (e.pa a.va) e.attr.toNat, none) := by
  intro u
  have hs : s.shedTlb a = s := State.shedTlb_clean hl fun n hn => by
    rw [hr] at hn
    cases hn
    exact hu
  have hlook : s.lookup a.part (rqMover a.rq) a.ten a.gen a.va a.permW = (.hit e, u) := by
    unfold State.lookup
    simp only [he, hr, rqMover, Option.bind_some, hf, permRes, hp, if_true]
    rfl
  unfold State.makeFar
  rw [hs, hlook]
  dsimp only
  unfold State.translated
  split
  · next h _ => exact absurd h (hk _)
  · rfl

end Sys2Proof.Machine
end

section
/-! O3: SIGNAL. -/

namespace Sys2Proof.Machine

/-- The flag write of a SIGNAL (R146). -/
def State.flagAcc (s : State) (m c sid : Nat) (k : CmdCtx) : Access :=
  { s.chanAcc m c sid .flag true (cf k.raw 16 0 48) (cFlen k.raw) with
    data := toLE (cFlen k.raw) (cf k.raw 24 0 64)
    en := List.replicate (cFlen k.raw) true }

theorem State.Holds.signal {s : State} {m c sid : Nat} {k : CmdCtx} (h : s.Holds m c sid k) {n : Nat} (ho : cOpc k.raw = 9)
    (hs : cf k.raw 8 0 2 = n) : s.signalOp m c n =
      if cb k.raw 8 2 then
        State.goOn m c sid ((s.makeOr m c [s.flagAcc m c sid k] 0).1.modCh m c (fun h => { h with ph := .flag }),
          (s.makeOr m c [s.flagAcc m c sid k] 0).2)
      else s.sigApply m c sid k :=
  h.run (fun r => cOpc r == 9 && cSop r == n) _ (by simp [ho, cSop, hs])

/-- Without a flag write a SIGNAL has its other effects at once. -/
theorem State.Holds.signal_effects {s : State} {m c sid : Nat} {k : CmdCtx} (h : s.Holds m c sid k) {n : Nat}
    (ho : cOpc k.raw = 9) (hs : cf k.raw 8 0 2 = n) (hf : cb k.raw 8 2 = false) :
    s.signalOp m c n = s.sigApply m c sid k := by
  rw [h.signal ho hs, hf]
  rfl

/-- A flag write that can be made is awaited. -/
theorem State.Holds.signal_flag {s t : State} {m c sid : Nat} {k : CmdCtx} (h : s.Holds m c sid k) {n : Nat}
    (ho : cOpc k.raw = 9) (hs : cf k.raw 8 0 2 = n) (hf : cb k.raw 8 2 = true)
    (ht : s.makeFar (s.flagAcc m c sid k) = (t, none)) :
    s.signalOp m c n = t.modCh m c fun h => { h with ph := .flag } := by
  have hm : s.makeOr m c [s.flagAcc m c sid k] 0 = (t, .on) := by
    unfold State.makeOr State.makeFars
    rw [ht]
    rfl
  rw [h.signal ho hs, hf, hm]
  rfl

/-- Without SOP no configuration is refused, and none is made. -/
theorem State.config_none {s : State} {x : Strm} {raw : BitVec 512} (h : cf raw 8 0 2 = 0) (sid : Nat) :
    s.configRefused x raw = false ∧ s.sigConfig sid raw = s :=
  ⟨by simp [State.configRefused, h], by simp [State.sigConfig, cSop, h]⟩

/-- What a SIGNAL leaves once its configuration and its attached signal lead to `u`, which holds the command. -/
theorem State.sigApply_ends {s u : State} {m c sid : Nat} {k : CmdCtx} (h : s.Holds m c sid k)
    (hr : s.configRefused (s.strmAt sid) k.raw = false)
    (hu : (s.sigConfig sid k.raw).applySignal m c sid k.raw = u)
    (hch : ∀ j, u.chan j = s.chan j) (hc : (u.strmAt sid).cmd = some k) :
    let t := s.sigApply m c sid k
    (∀ j, t.cnt j = u.cnt j) ∧ t.ropes = u.ropes ∧ (∀ j, j ≠ 4 * m + c → t.chan j = s.chan j) ∧
      (∀ j, j ≠ sid → t.strmAt j = u.strmAt j) ∧ t.Done m c sid { k with sigDone := true } := by
  have hd := State.sigApply_done hr hu (by rw [hch]; exact h.act) hc
  rw [State.sigApply_eq hr hu] at hd ⊢
  refine ⟨fun j => by simp, by simp, fun j hj => ?_, fun j hj => ?_, hd⟩
  · simp [State.cmdDone_chan, hj, hch]
  · simp [State.cmdDone_strmAt, hj]

end Sys2Proof.Machine

namespace Sys2Proof
open Machine

/-- Settles O3: without a flag write a SIGNAL is its configuration and its attached signal, which come down to one write
of a counter and a wake-up; with one it is the making of an access that the micro-TLB maps. -/
theorem signals : Obligations.signals := by
  unfold Obligations.signals
  refine ⟨fun s m c sid k h ho h0 => ⟨fun hf hk => ?_, fun hf hk hok hm => ?_, fun hf => ?_⟩, ?_⟩
  · obtain ⟨hr, hs⟩ := State.config_none (s := s) (x := s.strmAt sid) h0 sid
    have ha : (s.sigConfig sid k.raw).applySignal m c sid k.raw = s := by
      rw [hs]
      exact if_pos hk
    obtain ⟨-, -, hch, hst, hd⟩ := State.sigApply_ends h hr ha (fun _ => rfl) h.cmd
    refine ⟨_, congrArg Host.Outcome.next (h.signal_effects ho h0 hf), hd, ⟨hst, hch⟩, ?_⟩
    rw [State.sigApply_eq hr ha]
    rfl
  · intro key q v
    obtain ⟨hr, hs⟩ := State.config_none (s := s) (x := s.strmAt sid) h0 sid
    have ha : (s.sigConfig sid k.raw).applySignal m c sid k.raw = s.cntAdd key (cSval k.raw) sid m c := by
      rw [hs]
      unfold State.applySignal
      dsimp only
      rw [if_neg (by simp [hk]), if_neg (by simp [hk, hok])]
      exact if_pos ⟨hk, hm⟩
    obtain ⟨hcnt, hrope, hch, hst, hd⟩ := State.sigApply_ends h hr ha (s.cntAdd_chan _ _ _ _ _)
      ((s.cntAdd_cmd _ _ _ _ _ _).trans h.cmd)
    refine ⟨_, congrArg Host.Outcome.next (h.signal_effects ho h0 hf), ?_, fun j hj => ?_, ?_, hch, fun j hj hw => ?_, hd⟩
    · rw [hcnt, State.cntAdd_cnt, if_pos rfl]
      rfl
    · rw [hcnt, State.cntAdd_cnt, if_neg hj]
    · rw [hrope, State.cntAdd_ropes]
    · rw [hst j hj, s.cntAdd_other _ _ _ _ _ hw]
  · intro x va n hen hu hl e he hw
    have hm := State.makeFar_utlb (s := s) (a := s.flagAcc m c sid k) (m := m) (e := e) rfl (fun _ => nofun) hen hu hl he hw
    refine ⟨_, congrArg Host.Outcome.next (h.signal_flag ho h0 hf hm), ?_, rfl, rfl, rfl, ?_⟩
    · simp
    · exact ⟨_, List.mem_map.mpr ⟨{ s.flagAcc m c sid k with stage := .xlat, aid := s.nextAid },
        List.mem_append_right _ List.mem_cons_self, if_pos rfl⟩, rfl, rfl, rfl, rfl, rfl, rfl, rfl, rfl⟩
  · intro s m c sid k h ho h1 hf hk hen hm3 hm0 key q hq
    have hr : s.configRefused (s.strmAt sid) k.raw = false := by
      have hq' : s.cnt (cntKey (s.strmAt sid).hmv.toNat (cf k.raw 11 0 6)) = q := rfl
      unfold State.configRefused
      rw [hq']
      cases hb : q.bound
      · simp only [hb, Bool.and_false, Bool.false_and]
      · obtain ⟨ht, hn⟩ := hq hb
        by_cases hz : q.mode = 0
        · obtain ⟨ha, hx⟩ := hn hz
          simp [ht, ha, hx]
        · have hz' : (q.mode == 0) = false := beq_eq_false_iff_ne.mpr hz
          simp only [ht, hz', bne_self_eq_false, Bool.false_and, Bool.or_false, Bool.and_false]
    have ha : (s.sigConfig sid k.raw).applySignal m c sid k.raw = (s.setCnt key { Cnt.reset with
        value := BitVec.ofNat 32 (cf k.raw 12 0 32), mode := BitVec.ofNat 2 (cf k.raw 9 0 2),
        part := BitVec.ofNat 4 (cf k.raw 10 0 4), bound := true, ten := (s.strmAt sid).ten }).wakeUp := by
      have hs : s.sigConfig sid k.raw = _ := if_pos h1
      rw [hs]
      exact if_pos hk
    have hu := s.setCnt_wakeUp key { Cnt.reset with
        value := BitVec.ofNat 32 (cf k.raw 12 0 32), mode := BitVec.ofNat 2 (cf k.raw 9 0 2),
        part := BitVec.ofNat 4 (cf k.raw 10 0 4), bound := true, ten := (s.strmAt sid).ten }
    obtain ⟨hcnt, hrope, hch, hst, hd⟩ := State.sigApply_ends h hr ha hu.chan ((hu.cmd sid).trans h.cmd)
    refine ⟨_, congrArg Host.Outcome.next (h.signal_effects ho h1 hf), ?_, fun j hj => ?_, ?_, hch, fun j hj hw => ?_, hd⟩
    · rw [hcnt, hu.cnt]
      rfl
    · rw [hcnt, hu.other j hj]
    · rw [hrope, hu.ropes]
    · rw [hst j hj]
      exact State.wakeUp_other (s.setCnt key _) hw

end Sys2Proof
end

section
/-! O5: REARM, LOAD and UNLOAD. -/

namespace Sys2Proof.Machine

/-- A bit of BMASK is the command's bit. -/
theorem bmask_getLsbD (raw : BitVec 512) {i : Nat} (h : i < 4) :
    (BitVec.ofNat 4 (cf raw 11 0 4)).getLsbD i = cb raw 11 i := by
  have e : raw.toNat / 2 ^ (8 * 11 + 0) / 2 ^ i = raw.toNat / 2 ^ (8 * 11 + i) := by
    rw [Nat.div_div_eq_div_mul, ← Nat.pow_add]
  simp only [BitVec.getLsbD_ofNat, h, decide_true, Bool.true_and, cf, cb, fld, Nat.testBit_mod_two_pow]
  rw [Nat.testBit_eq_decide_div_mod_eq, e]
  rfl

/-- The base registers of BMASK over the others. -/
theorem withBases_rearmOf (x : Strm) (raw : BitVec 512) (queue : BitVec 10) (issuer : Nat) :
    x.withBases (rearmOf raw queue issuer) = { x with
      b0 := if cb raw 11 0 then BitVec.ofNat 48 (cf raw 16 0 48) else x.b0
      b1 := if cb raw 11 1 then BitVec.ofNat 48 (cf raw 24 0 48) else x.b1
      b2 := if cb raw 11 2 then BitVec.ofNat 48 (cf raw 32 0 48) else x.b2
      b3 := if cb raw 11 3 then BitVec.ofNat 48 (cf raw 40 0 48) else x.b3 } := by
  unfold Strm.withBases rearmOf
  simp only [bmask_getLsbD raw (show 0 < 4 by decide), bmask_getLsbD raw (show 1 < 4 by decide),
    bmask_getLsbD raw (show 2 < 4 by decide), bmask_getLsbD raw (show 3 < 4 by decide)]

/-- A REARM command that its range rules allow. -/
theorem State.Holds.rearmCmd {s : State} {m c sid : Nat} {k : CmdCtx} (h : s.Holds m c sid k) {op : Nat}
    (ho : cOpc k.raw = 16) (hr : cRop k.raw = op) (hb : s.rearmRange sid (s.strmAt sid) k.raw = false)
    (f : Nat → CmdCtx → Nat → State) : s.rearmCmd m c op f = f sid k (cTarget k.raw) :=
  (h.run _ _ (by simp [ho, hr])).trans (if_neg (by simp [hb]))

/-- A record below the glacier IDs is written nowhere. -/
theorem State.recordOut_low (s : State) (m c : Nat) {sid : Nat} (kind : AKind) (h : sid < 40960) :
    s.recordOut m c sid kind = s := if_pos h

/-- A change of a stream that keeps its home leaves what is asked of the home. -/
theorem State.home_setStrmAt (s : State) {j : Nat} {v : Strm} (he : v.hen = (s.strmAt j).hen)
    (hm : v.hmv = (s.strmAt j).hmv) (hc : v.hch = (s.strmAt j).hch) (ht : v.ten = (s.strmAt j).ten) :
    (s.setStrmAt j v).homeOut j = s.homeOut j ∧ (s.setStrmAt j v).homeBusy j = s.homeBusy j := by
  unfold State.homeOut State.homeBusy State.soloBars State.ch
  simp only [State.setStrmAt_strmAt, if_true, State.setStrmAt_mover, State.setStrmAt_chan, he, hm, hc, ht, and_self]

end Sys2Proof.Machine

namespace Sys2Proof
open Machine

/-- Settles O5: each command writes the target's record, where nothing keeps it, and completes. -/
theorem rearmLoadUnload : Obligations.rearm_load_unload := by
  unfold Obligations.rearm_load_unload
  constructor
  · intro s m c sid k h ho hr x y hne hp ht hg hgx hst based
    have hne' : sid ≠ cTarget k.raw := Ne.symm hne
    have hrange : s.rearmRange sid x k.raw = false := by
      have hown : s.owned y x.ten x.tgen = true := by simp [State.owned, State.genOf, ht, hg, hgx]
      have hs : s.strmAt (cTarget k.raw) = y := rfl
      unfold State.rearmRange
      simp only [hs, hr, hp, hown, hst]
      simp [hne]
    have hrun : ∀ f, s.rearmCmd m c 0 f = f sid k (cTarget k.raw) := h.rearmCmd ho hr hrange
    generalize hw : y.withBases (rearmOf k.raw x.queue sid) = w
    have hbased : based w := by
      rw [← hw, withBases_rearmOf]
      exact ⟨rfl, rfl, rfl, rfl⟩
    have hwy : w = { y with b0 := w.b0, b1 := w.b1, b2 := w.b2, b3 := w.b3 } := by
      rw [← hw]
      rfl
    refine ⟨fun hrcv hf hout hbusy hheld => ?_, fun hrcv => ?_⟩
    · generalize hv : ({ w with pc := 0, pass := 0, queue := x.queue } : Strm) = v
      have hop : s.rearmOp m c = ((s.setStrmAt (cTarget k.raw) v).makeReady (cTarget k.raw)).cmdDone m c sid := by
        refine (hrun _).trans ((if_neg (by simp [y] at hrcv; simp [hrcv])).trans ((if_pos hst).trans ?_))
        unfold State.rearmNow
        rw [s.unpin_none _ hf, State.modStrmAt_eq, hw, ← hv]
        rfl
      obtain ⟨hout', hbusy'⟩ := s.home_setStrmAt (j := cTarget k.raw) (v := v) (by rw [← hv, hwy]) (by rw [← hv, hwy])
        (by rw [← hv, hwy]) (by rw [← hv, hwy])
      have hready := State.makeReady_ready (s.setStrmAt (cTarget k.raw) v) (cTarget k.raw) hheld (hout'.trans hout)
        (hbusy'.trans hbusy)
      have hother := State.makeReady_other (s.setStrmAt (cTarget k.raw) v) (cTarget k.raw)
      have hwoken := State.makeReady_woken (s.setStrmAt (cTarget k.raw) v) (cTarget k.raw)
      generalize State.makeReady _ _ = u at hop hother hready hwoken
      have hstrm : ∀ j, j ≠ cTarget k.raw → u.strmAt j = s.strmAt j := fun j hj => by
        rw [hother j hj, State.setStrmAt_strmAt, if_neg hj]
      refine ⟨_, congrArg Host.Outcome.next hop, State.cmdDone_done ?_ ?_, ?_, fun j hj hj' => ?_, ?_⟩
      · rw [hwoken.chan]
        exact h.act
      · rw [hstrm sid hne']
        exact h.cmd
      · rw [State.cmdDone_strmAt, if_neg hne, hready, State.setStrmAt_strmAt, if_pos rfl, ← hv]
        refine ⟨hbased, ?_⟩
        rw [hwy]
      · rw [State.cmdDone_strmAt, if_neg hj, hstrm j hj']
      · exact (u.cmdDone_rest m c sid).trans (congrArg (fun v : State => { v with
          strms := (u.cmdDone m c sid).strms, chans := (u.cmdDone m c sid).chans }) hwoken.rest)
    · have hop : s.rearmOp m c = (s.setStrmAt (cTarget k.raw) w).cmdDone m c sid :=
        (hrun _).trans ((if_pos (by simpa [y] using hrcv)).trans (by rw [State.modStrmAt_eq, hw]))
      refine ⟨_, congrArg Host.Outcome.next hop, State.cmdDone_done h.act (by simpa [hne'] using h.cmd), ?_,
        fun j hj hj' => ?_, State.cmdDone_rest _ m c sid⟩
      · rw [State.cmdDone_strmAt, if_neg hne, State.setStrmAt_strmAt, if_pos rfl]
        exact ⟨hbased, hwy⟩
      · simp [State.cmdDone_strmAt, hj, hj']
  · intro s m c sid k h ho hne hlow x y i hgx
    have hne' : sid ≠ cTarget k.raw := Ne.symm hne
    have hs : s.strmAt (cTarget k.raw) = y := rfl
    refine ⟨fun hr hst hid himg hal => ?_, fun hr hp ht hg hst hf => ?_⟩
    · have hrange : s.rearmRange sid x k.raw = false := by
        unfold State.rearmRange
        simp only [hs, hr, hst, hid, State.genOf, hgx]
        simp [hne]
      have hpers : bbit i 0 4 = true := by
        simp [imageRangeBad] at himg
        exact himg.1.1.2
      have hop : s.loadOp m c = _ := h.rearmCmd ho hr hrange _
      dsimp only at hop
      rw [State.recordOut_low _ _ _ _ hlow, withBases_rearmOf] at hop
      refine ⟨_, congrArg Host.Outcome.next hop, State.cmdDone_done h.act (by simpa [hne'] using h.cmd), ?_,
        fun j hj hj' => ?_, State.cmdDone_rest _ m c sid⟩
      · rw [State.cmdDone_strmAt, if_neg hne, State.setStrmAt_strmAt, if_pos rfl]
        simp only [apply_ite (BitVec.ofNat 48)]
        unfold strmOfImage
        rw [hpers]
      · simp [State.cmdDone_strmAt, hj, hj']
    · have hrange : s.rearmRange sid x k.raw = false := by
        have hown : s.owned y x.ten x.tgen = true := by simp [State.owned, State.genOf, ht, hg, hgx]
        unfold State.rearmRange
        simp only [hs, hr, hp, hown, hst]
        simp [hne]
      have hop : s.unloadOp m c = _ := h.rearmCmd ho hr hrange _
      dsimp only at hop
      rw [s.unpin_none _ hf, State.recordOut_low _ _ _ _ hlow] at hop
      refine ⟨_, congrArg Host.Outcome.next hop, State.cmdDone_done h.act
        (by simpa [hne', State.freeSlots, State.moveSpace] using h.cmd), ?_, fun j hj hj' => ?_, State.cmdDone_rest _ m c sid, ?_, ?_⟩
      · rw [State.cmdDone_strmAt, if_neg hne, State.setStrmAt_strmAt, if_pos rfl]
      · simp [State.cmdDone_strmAt, hj, hj', State.freeSlots, State.moveSpace]
      · intro hslots
        simp [State.freeSlots, State.moveSpace, hs, hslots, slotSpace]
      · intro p hp
        simp [State.freeSlots, State.moveSpace, hs, hp]
end Sys2Proof
end

section
/-! O40: edges of rope_in. -/

namespace Sys2Proof.Machine

/-- From `s` to `t` line n changes to `r`, and nothing else. -/
structure State.RopeTo (s t : State) (n : Nat) (r : Rope) : Prop where
  rope : t.rope n = r
  other : ∀ j, j ≠ n → t.rope j = s.rope j
  rest : t = { s with ropes := t.ropes }

theorem State.setRope_ropeTo (s : State) (n : Nat) (r : Rope) : s.RopeTo (s.setRope n r) n r :=
  ⟨by simp, fun j hj => by simp [hj], rfl⟩

theorem State.RopeTo.trans {s t u : State} {n : Nat} {r q : Rope} (h : s.RopeTo t n r) (g : t.RopeTo u n q) :
    s.RopeTo u n q where
  rope := g.rope
  other := fun j hj => (g.other j hj).trans (h.other j hj)
  rest := g.rest.trans (congrArg (fun v : State => { v with ropes := u.ropes }) h.rest)

/-- A line after a round with rope_in (R235, R236). -/
def Rope.passed (r : Rope) : Rope :=
  { r with round := r.round + 1, arr := r.pend, pend := 0, taken := false, low := false, rel := true, rout := true }

/-- A line with Movers of its mask missing is up to date. -/
theorem State.ropeEval_open {s : State} {n : Nat} (h : s.ropeAll n = false) : s.ropeEval n = s := if_pos (.inr h)

/-- A stream that is not to repeat its arrival at the line. -/
theorem repeatsRope_eq_false (n : Nat) (w : Wait) : (∀ v, w ≠ .dblRope n v true) →
    (match w with
      | .dblRope q _ a => q == n && a
      | _ => false) = false := by
  intro h
  split
  · next _ q v a =>
    cases a
    · simp
    · have hq : q ≠ n := fun e => h v (by rw [e])
      simp [hq]
  · rfl

/-- The round of a line with EXT=1 completes: every Mover and rope_in are there. -/
theorem State.ropeEval_round {s : State} {n : Nat} {r : Rope} (hr : s.rope n = r) (he : r.en = true) (hx : r.ext = true)
    (ha : s.ropeAll n = true) (ht : r.taken = true) (hw : ∀ e ∈ s.strms, ∀ v, e.2.wait ≠ .dblRope n v true) :
    ∃ u : State, s.ropeEval n = u.wakeUp ∧ s.RopeTo u n r.passed := by
  subst hr
  have hend : ∀ v : State, v.strms = s.strms → v.repeatArrivals (fun w => match w with
      | .dblRope q _ a => q == n && a
      | _ => false) (fun st x =>
        let (q, a) := (st.rope n).arrive x.hmv.toNat
        (st.setRope n q, dblWait a (Wait.dblRope n))) = v := fun v hv =>
    State.repeatArrivals_none _ _ _ fun e hm => repeatsRope_eq_false n _ (hw e (hv ▸ hm))
  unfold State.ropeEval
  rw [if_neg (by simp [he, ha])]
  dsimp only
  rw [if_neg (by simp [ht])]
  cases hrel : (s.rope n).rel
  · rw [if_pos (by simp [hx])]
    refine ⟨_, congrArg State.wakeUp (hend _ rfl), (s.setRope_ropeTo n { s.rope n with rout := true }).trans ?_⟩
    have h := State.setRope_ropeTo (s.setRope n { s.rope n with rout := true }) n (s.rope n).passed
    rw [State.modRope_eq, State.setRope_rope, if_pos rfl]
    simpa [Rope.passed, hx, hrel] using h
  · rw [if_neg (by simp)]
    refine ⟨_, congrArg State.wakeUp (hend _ rfl), ?_⟩
    have h := s.setRope_ropeTo n (s.rope n).passed
    rw [State.modRope_eq]
    simpa [Rope.passed, hx, hrel] using h

theorem State.clocked_iff (s : State) : s.clocked = true ↔
    s.pwr.off = false ∧ s.pins.core = false ∧ s.pwr.state ≠ 4 ∧ s.pwr.state ≠ 5 := by
  simp [State.clocked, and_assoc]

/-- A rise of a line that was low, with power and outside RETAIN and its wake. -/
theorem State.ropeRiseOp_on (s : State) {n : Nat} (hoff : s.pwr.off = false) (hin : (s.rope n).rin = false)
    (h4 : s.pwr.state ≠ 4) (h5 : s.pwr.state ≠ 5) : s.ropeRiseOp n =
      if s.syncUp && (s.rope n).en && (s.rope n).ext then s.ropeIn n
      else s.setRope n { s.rope n with rin := true, low := false } := by
  unfold State.ropeRiseOp
  dsimp only
  rw [if_neg (by simp [hoff, hin]), if_neg (not_or.mpr ⟨h4, h5⟩)]
  rfl

end Sys2Proof.Machine

namespace Sys2Proof
open Machine

/-- Settles O40: an edge writes its line, and a rise that completes the round wakes streams besides. -/
theorem ropePins : Obligations.rope_pins := by
  unfold Obligations.rope_pins
  intro s n hoff r is
  have his : ∀ {z q : Rope}, z = q → is (s.setRope n z) q ∧ s.setRope n z = { s with ropes := (s.setRope n z).ropes } := by
    rintro z _ rfl
    have h := s.setRope_ropeTo n z
    exact ⟨⟨h.rope, h.other⟩, h.rest⟩
  refine ⟨fun hin h4 h5 => ⟨fun hno => ?_, fun he hx hc => ⟨fun ha => ?_, fun ha ht hw => ?_⟩⟩, fun hin h45 => ?_,
    fun hin hc => ?_, fun hin hc => ?_⟩
  · have hup : (s.syncUp && r.en && r.ext) = false := by
      rcases hno with h | h | h
      · simp [h]
      · simp [h]
      · simp [State.syncUp, State.clocked, h]
    have hop : s.ropeRiseOp n = s.setRope n { r with rin := true, low := false } :=
      (s.ropeRiseOp_on hoff hin h4 h5).trans (if_neg (by simp [r] at hup; simpa using hup))
    exact ⟨_, congrArg Host.Outcome.next hop, his rfl⟩
  · have hup : (s.syncUp && r.en && r.ext) = true := by
      rw [he, hx, State.syncUp, s.clocked_iff.mpr ⟨hoff, hc, h4, h5⟩]
      rfl
    have hall : (s.setRope n { r with rin := true, taken := r.taken || r.low, low := false }).ropeAll n = false := by
      rw [← ha]
      simp [State.ropeAll, State.oosMask, r]
    have hop : s.ropeRiseOp n = s.setRope n { r with rin := true, taken := r.taken || r.low, low := false } :=
      (s.ropeRiseOp_on hoff hin h4 h5).trans ((if_pos hup).trans (State.ropeEval_open hall))
    exact ⟨_, congrArg Host.Outcome.next hop, his rfl⟩
  · have hup : (s.syncUp && r.en && r.ext) = true := by
      rw [he, hx, State.syncUp, s.clocked_iff.mpr ⟨hoff, hc, h4, h5⟩]
      rfl
    have hall : (s.setRope n { r with rin := true, taken := r.taken || r.low, low := false }).ropeAll n = true := by
      rw [← ha]
      simp [State.ropeAll, State.oosMask, r]
    have h1 := s.setRope_ropeTo n { r with rin := true, taken := r.taken || r.low, low := false }
    obtain ⟨u, hu, h2⟩ := State.ropeEval_round h1.rope he hx hall ht hw
    have hop : s.ropeRiseOp n = u.wakeUp := (s.ropeRiseOp_on hoff hin h4 h5).trans ((if_pos hup).trans hu)
    have hwoken := u.wakeUp_woken
    have h3 := h1.trans h2
    refine ⟨_, congrArg Host.Outcome.next hop, ⟨(hwoken.rope _).trans h3.rope, fun j hj => (hwoken.rope j).trans
      (h3.other j hj)⟩, ?_⟩
    rw [hwoken.ropes]
    exact hwoken.rest.trans (congrArg (fun v : State => { v with
      strms := u.wakeUp.strms, tens := u.wakeUp.tens, seq := u.wakeUp.seq }) h3.rest)
  · have hop : s.ropeRiseOp n = { s.setRope n { r with rin := true } with
        pwr := { s.pwr with rose := s.pwr.rose ||| BitVec.ofNat 16 (2 ^ n.val) } } :=
      (if_neg (by simp [hoff, show (s.rope n).rin = false from hin])).trans (if_pos h45)
    have h := s.setRope_ropeTo n { r with rin := true }
    refine ⟨_, congrArg Host.Outcome.next hop, ⟨h.rope, h.other⟩, ?_, rfl⟩
    show (s.pwr.rose ||| BitVec.ofNat 16 (2 ^ n.val)).getLsbD n = true
    rw [BitVec.getLsbD_or, BitVec.getLsbD_ofNat, Nat.testBit_two_pow_self, decide_eq_true n.isLt]
    simp
  · have hop : s.ropeFallOp n = s.setRope n { r with rin := false, low := true, rout := r.rout && !r.rel, rel := false } :=
      (if_neg (by simp [hoff, show (s.rope n).rin = true from hin])).trans (if_pos hc)
    exact ⟨_, congrArg Host.Outcome.next hop, his rfl⟩
  · have hop : s.ropeFallOp n = s.setRope n { r with rin := false, low := true } :=
      (if_neg (by simp [hoff, show (s.rope n).rin = true from hin])).trans (if_neg (by simp [State.syncUp, hc]))
    exact ⟨_, congrArg Host.Outcome.next hop, his rfl⟩

end Sys2Proof
end

section
/-! O41: a beat on STRM. -/

namespace Sys2Proof.Machine

/-- A saturating count of 16 bits. -/
theorem satInc_eq (v : BitVec 16) : satInc v = BitVec.ofNat 16 (min 0xFFFF (v.toNat + 1)) := by
  have hv := v.isLt
  refine BitVec.eq_of_toNat_eq ?_
  unfold satInc
  split
  · rw [BitVec.toNat_add, BitVec.toNat_ofNat]
    simp
    omega
  · rw [BitVec.toNat_ofNat]
    omega

/-- The valid bytes of a beat of 32 bytes. -/
theorem keepBytes_eq {data : List Byte} (h : data.length = 32) (keep : BitVec 32) : keepBytes keep data =
    (List.range 32).filterMap fun i => if keep.getLsbD i then data[i]? else none := by
  refine List.filterMap_congr fun i hi => ?_
  have hlt : i < data.length := h ▸ List.mem_range.mp hi
  simp [List.getD_eq_getElem?_getD, List.getElem?_eq_getElem hlt]

/-- A beat without a valid byte holds none. -/
theorem keepBytes_eq_nil (keep : BitVec 32) (data : List Byte) : keepBytes keep data = [] ↔ keep = 0 := by
  constructor
  · intro h
    refine BitVec.eq_of_getLsbD_eq fun i hi => ?_
    have hn := List.filterMap_eq_nil_iff.mp h i (List.mem_range.mpr hi)
    cases hk : keep.getLsbD i
    · simp
    · simp [hk] at hn
  · rintro rfl
    exact List.filterMap_eq_nil_iff.mpr fun i _ => by simp

/-- A beat on a port outside DOZE. -/
theorem State.strmBeatOp_eq {s : State} (ho : s.strmOpen = true) (h2 : s.pwr.state ≠ 2) (d : Nat) (data : List Byte)
    (keep : BitVec 32) (last user : Bool) : s.strmBeatOp d data keep last user =
      let q := s.strmP d
      let q1 := if user then { q with frames := satInc q.frames } else q
      if q.en = false then s.setStrmP d { q with ovf := satInc q.ovf }
      else if 256 ≤ q1.buf.length then (s.setStrmP d { q1 with ovf := satInc q1.ovf }).strmCut d
      else if q1.skip && !user then s.setStrmP d { q1 with
        ferr := if decide (keepBytes keep data ≠ []) && !q1.curBad then satInc q1.ferr else q1.ferr
        curBad := q1.curBad || decide (keepBytes keep data ≠ []) }
      else (s.setStrmP d { q1 with
        buf := q1.buf ++ [{ data := keepBytes keep data, last := last, user := user, bad := !keepOk keep last }]
        skip := false, curBad := q1.curBad && !user }).strmFeed d := by
  have ha : s.awake = s := if_neg h2
  unfold State.strmBeatOp
  rw [ho, ha]
  rfl

/-- On a TDEST that no TRANSFER takes its source from nothing is taken and nothing is cut. -/
theorem State.strm_idle {s : State} {d : Nat} (h : s.strmUser d = none) (v : StrmP) :
    (s.setStrmP d v).strmFeed d = s.setStrmP d v ∧ (s.setStrmP d v).strmCut d = s.setStrmP d v := by
  have hu : (s.setStrmP d v).strmUser d = none := h
  unfold State.strmFeed State.strmCut
  simp only [hu, and_self]

end Sys2Proof.Machine

namespace Sys2Proof
open Machine

/-- Settles O41: the branches of a beat. -/
theorem strmBeats : Obligations.strm_beats := by
  unfold Obligations.strm_beats
  intro s d data keep last user ho h2 q inc
  have hinc : ∀ v, inc v = satInc v := fun v => (satInc_eq v).symm
  have hset : ∀ {t : State} {v w : StrmP}, t = s.setStrmP d v → v = w → t.strmP d = w ∧ t = { s with strm := t.strm } := by
    rintro t v w rfl rfl
    exact ⟨by simp, rfl⟩
  have hq1 : ∀ v : StrmP, (if user then { v with frames := satInc v.frames } else v) =
      { v with frames := if user then inc v.frames else v.frames } := fun v => by
    cases user <;> simp [hinc]
  have hop := s.strmBeatOp_eq ho h2 d data keep last user
  refine ⟨_, rfl, fun he => ?_, fun he hu hs hb hl => ?_, fun he hs hu hb => ?_, fun he hu hb => ?_⟩
  · rw [hinc]
    exact hset (hop.trans (if_pos he)) rfl
  · have hskip : (q.skip && !user) = false := by
      rcases hs with h | h <;> simp [h]
    simp only [hq1] at hop
    refine hset (hop.trans ((if_neg (by simp [q] at he; simp [he])).trans ((if_neg (Nat.not_le.mpr hb)).trans ((if_neg ?_).trans
      (State.strm_idle hu _).1)))) ?_
    · exact Bool.eq_false_iff.mp hskip
    · rw [keepBytes_eq hl]
      rfl
  · subst hu
    refine hset (hop.trans ((if_neg (by simp [q] at he; simp [he])).trans ((if_neg (by simpa using hb)).trans (if_pos ?_)))) ?_
    · simpa using hs
    · by_cases hk : keep = 0
      · have hp : decide (keepBytes keep data ≠ []) = false := by simp [(keepBytes_eq_nil keep data).mpr hk]
        rw [hp, if_pos hk, Bool.false_and, Bool.or_false]
        rfl
      · have hp : decide (keepBytes keep data ≠ []) = true := by simpa using mt (keepBytes_eq_nil keep data).mp hk
        rw [hp, if_neg hk, Bool.true_and, Bool.or_true, hinc]
        cases hc : q.curBad <;> simp [q] at hc <;> simp [hc, q]
  · simp only [hq1] at hop
    simp only [hinc] at hop ⊢
    exact hset (hop.trans ((if_neg (by simp [q] at he; simp [he])).trans ((if_pos hb).trans (State.strm_idle hu _).2))) rfl

end Sys2Proof
end

section
/-! Steps that place, wake and halt streams: what they leave unchanged. -/

namespace Sys2Proof.Machine

/-- From `s` to `t` nothing changes but channels, streams, tenants' activity and the READY order. -/
def State.Placed (s t : State) : Prop := t = { s with chans := t.chans, strms := t.strms, tens := t.tens, seq := t.seq }

theorem State.Placed.refl (s : State) : s.Placed s := rfl

theorem State.Placed.trans {s t u : State} (h : s.Placed t) (g : t.Placed u) : s.Placed u :=
  Eq.trans g (congrArg (fun v : State => { v with chans := u.chans, strms := u.strms, tens := u.tens, seq := u.seq }) h)

theorem State.Woken.placed {s t : State} (h : s.Woken t) : s.Placed t := by
  have hc := h.chans
  unfold State.Placed
  rw [hc]
  exact h.rest

theorem State.setStrmAt_placed (s : State) (sid : Nat) (x : Strm) : s.Placed (s.setStrmAt sid x) := rfl

theorem State.dropShadow_placed (s : State) (sid : Nat) : s.Placed (s.dropShadow sid) := rfl

theorem State.setWait_placed (s : State) (sid : Nat) (w : Wait) : s.Placed (s.setWait sid w) :=
  (s.setSt_woken sid .waiting w).placed

/-- Steps that each place streams do so together. -/
theorem State.Placed.foldl {α : Type} {f : State → α → State} (hf : ∀ s a, State.Placed s (f s a)) (l : List α) (s : State) :
    s.Placed (l.foldl f s) :=
  List.foldlRecOn (motive := s.Placed) l f (.refl s) fun _ h a _ => h.trans (hf _ a)

theorem State.rehome_placed (s : State) (m : Nat) : s.Placed (s.rehome m) :=
  (State.Placed.foldl (fun t k => (t.dropShadow_placed k).trans (State.setWait_placed _ _ _)) _ s).trans
    (State.Placed.foldl (fun t _ => (t.makeReadies_woken _).placed) _ _)

theorem State.haltWaiting_placed (s : State) (sid : Nat) : s.Placed (s.haltWaiting sid) := by
  unfold State.haltWaiting
  refine State.Placed.trans ?_ ((State.setStrmAt_placed _ _ _).trans (State.setSt_woken _ _ _ _).placed)
  split
  · split
    · exact s.setStrmAt_placed _ _
    · exact .refl s
  · exact .refl s

/-- From `s` to `t` nothing changes but channels, streams, tenants' activity, the READY order and rope lines. -/
def State.Ran (s t : State) : Prop :=
  t = { s with chans := t.chans, strms := t.strms, tens := t.tens, seq := t.seq, ropes := t.ropes }

theorem State.Ran.refl (s : State) : s.Ran s := rfl

theorem State.Ran.trans {s t u : State} (h : s.Ran t) (g : t.Ran u) : s.Ran u :=
  Eq.trans g (congrArg (fun v : State =>
    { v with chans := u.chans, strms := u.strms, tens := u.tens, seq := u.seq, ropes := u.ropes }) h)

theorem State.Placed.ran {s t : State} (h : s.Placed t) : s.Ran t := by
  have hr : t.ropes = s.ropes := by rw [h]
  unfold State.Ran
  rw [hr]
  exact h

theorem State.setRope_ran (s : State) (n : Nat) (r : Rope) : s.Ran (s.setRope n r) := rfl

theorem State.repeatArrivals_ran (s : State) (isIt : Wait → Bool) {retry : State → Strm → State × Wait}
    (h : ∀ t x, State.Ran t (retry t x).1) : s.Ran (s.repeatArrivals isIt retry) := by
  unfold State.repeatArrivals
  refine List.foldlRecOn (motive := s.Ran) _ _ (.refl s) fun t ht e _ => ht.trans ?_
  dsimp only
  split
  · exact (h t _).trans (State.setStrmAt_placed _ _ _).ran
  · exact (t.makeReady_woken _).placed.ran

theorem State.ropeEval_ran (s : State) (n : Nat) : s.Ran (s.ropeEval n) := by
  unfold State.ropeEval
  dsimp only
  have h1 : s.Ran (if ((s.rope n).ext && !(s.rope n).rel) = true then s.setRope n { s.rope n with rout := true } else s) := by
    split
    · exact s.setRope_ran _ _
    · exact .refl s
  split
  · exact .refl s
  · split
    · exact h1
    · refine State.Ran.trans ?_ (State.wakeUp_woken _).placed.ran
      exact (h1.trans (State.setRope_ran _ _ _)).trans (State.repeatArrivals_ran _ _ fun t x => t.setRope_ran _ _)

theorem State.ropeEvalAll_ran (s : State) : s.Ran s.ropeEvalAll :=
  List.foldlRecOn (motive := s.Ran) _ _ (.refl s) fun t h n _ => h.trans (t.ropeEval_ran n)

end Sys2Proof.Machine
end

section
/-! O44: the online test of a Mover, and the Staging test. -/

namespace Sys2Proof.Machine

/-- The log takes an event at its front. -/
theorem State.logEvent_log (s : State) (code src arg : Nat) : ∃ e, (s.logEvent code src arg).mg.log = (e :: s.mg.log).take 4096 ∧
    e.code = BitVec.ofNat 8 code ∧ e.src = BitVec.ofNat 8 src ∧ e.arg = BitVec.ofNat 40 arg ∧ e.seq = s.mg.nseq :=
  ⟨_, rfl, rfl, rfl, rfl, rfl⟩

theorem State.Placed.movers {s t : State} (h : s.Placed t) : t.movers = s.movers := by rw [h]
theorem State.Placed.mover {s t : State} (h : s.Placed t) (j : Nat) : t.mover j = s.mover j := by
  unfold State.mover
  rw [h.movers]

/-- A Mover written, and streams placed. -/
theorem State.Placed.of_setMover {s t : State} {m : Nat} {v : Mover} (h : (s.setMover m v).Placed t) :
    t.mover m = v ∧ (∀ j, j ≠ m → t.mover j = s.mover j) ∧
      t = { s with movers := t.movers, chans := t.chans, strms := t.strms, tens := t.tens, seq := t.seq } := by
  refine ⟨(h.mover _).trans (by simp), fun j hj => (h.mover j).trans (by simp [hj]), ?_⟩
  rw [h.movers]
  exact h

/-- What bars a request for the test of a Mover (R371). -/
def State.testBarred (s : State) (m : Nat) : Bool :=
  (s.movers.any fun q => q.1 != m && q.2.phase != 0) || (s.mover m).oos || s.blk.isSome || (s.rstE (s.partOf m)).busy ||
    (s.rstE (s.partOf m)).queue != []

theorem State.testBarred_of_phase {s : State} {m : Nat} (h : ∃ e ∈ s.movers, e.1 ≠ m ∧ e.2.phase ≠ 0) :
    s.testBarred m = true := by
  obtain ⟨e, he, hm, hp⟩ := h
  have hany : (s.movers.any fun q => q.1 != m && q.2.phase != 0) = true :=
    List.any_eq_true.mpr ⟨e, he, by simpa using ⟨hm, hp⟩⟩
  unfold State.testBarred
  rw [hany]
  rfl

theorem State.testBarred_eq_false {s : State} {m : Nat} (h : ∀ e ∈ s.movers, e.1 ≠ m → e.2.phase = 0)
    (ho : (s.mover m).oos = false) (hb : s.blk = none) (he : (s.rstE (s.partOf m)).busy = false)
    (hq : (s.rstE (s.partOf m)).queue = []) : s.testBarred m = false := by
  have hany : (s.movers.any fun q => q.1 != m && q.2.phase != 0) = false := by
    rw [List.any_eq_false]
    intro e he
    by_cases hm : e.1 = m
    · simp [hm]
    · simp [h e he hm]
  unfold State.testBarred
  rw [hany, ho, hb, he, hq]
  rfl

theorem State.testReqOp_barred {s : State} {m : Nat} (h : s.testBarred m = true) :
    s.testReqOp m = s.setMover m { s.mover m with tdrop := true } := if_pos h

/-- A request that nothing bars begins the drain. -/
theorem State.testReqOp_drain {s : State} {m : Nat} (h : s.testBarred m = false) (h0 : (s.mover m).phase = 0) :
    (s.setMover m { s.mover m with req := true, phase := 1, gated := false }).Placed (s.testReqOp m) := by
  have hop : s.testReqOp m = _ := (if_neg (Bool.eq_false_iff.mp h)).trans (if_neg (by simp [h0]))
  rw [hop]
  exact (State.Placed.foldl (fun t k => t.dropShadow_placed k) _ _).trans (State.rehome_placed _ _)

theorem State.Ran.mover {s t : State} (h : s.Ran t) (j : Nat) : t.mover j = s.mover j := by
  rw [h]
  rfl

theorem State.Ran.mg {s t : State} (h : s.Ran t) : t.mg = s.mg := by rw [h]

/-- A Mover written and an event logged, before streams run. -/
theorem State.Ran.of_logged {s t : State} {m code src arg : Nat} {v : Mover}
    (h : ((s.setMover m v).logEvent code src arg).Ran t) : t.mover m = v ∧ (∀ j, j ≠ m → t.mover j = s.mover j) ∧
      ∃ e, t.mg.log = (e :: s.mg.log).take 4096 ∧ e.code = BitVec.ofNat 8 code ∧ e.src = BitVec.ofNat 8 src := by
  obtain ⟨e, he, hcode, hsrc, -, -⟩ := State.logEvent_log (s.setMover m v) code src arg
  refine ⟨(h.mover m).trans ?_, fun j hj => (h.mover j).trans ?_, e, ?_, hcode, hsrc⟩
  · exact (s.setMover_mover m m v).trans (if_pos rfl)
  · exact (s.setMover_mover m j v).trans (if_neg hj)
  · rw [h.mg]
    exact he

/-- A test that fails takes the Mover out of service, and its waiting streams stop. -/
theorem State.testDoneOp_fail {s : State} {m : Nat} (h : (s.mover m).phase = 2) :
    State.Ran ((s.setMover m { s.mover m with req := false, phase := 0, tfail := true, oos := true }).logEvent 0x13 m 0)
      (s.testDoneOp m false) := by
  have hop : s.testDoneOp m false = _ := if_neg (not_not_intro h)
  rw [hop]
  exact ((State.Placed.foldl (fun t k => t.haltWaiting_placed k) _ _).trans (State.wakeUp_woken _).placed).ran.trans
    (State.ropeEvalAll_ran _)

/-- A test that passes lets streams be placed again. -/
theorem State.testDoneOp_pass {s : State} {m : Nat} (h : (s.mover m).phase = 2) :
    (s.setMover m { s.mover m with req := false, phase := 0, tpass := true }).Placed (s.testDoneOp m true) := by
  have hop : s.testDoneOp m true = _ := if_neg (not_not_intro h)
  rw [hop]
  exact State.rehome_placed _ _

end Sys2Proof.Machine

namespace Sys2Proof
open Machine

/-- Settles O44: each command writes the Mover, or the Staging test's register, and places streams besides. -/
theorem onlineTests : Obligations.online_tests := by
  unfold Obligations.online_tests
  refine ⟨fun s m => ?_, fun s => ⟨fun hs g => ⟨fun hb => ?_, fun hb => ?_⟩, fun hb => ⟨?_, fun b hg => ?_⟩⟩⟩
  · intro others frame
    refine ⟨fun hs hblk hbusy hq hoos hph => ⟨fun hnone => ?_, fun hsome => ?_⟩, fun hph hquiet => ?_,
      fun hph => ⟨?_, ?_⟩⟩
    · have hbar : s.reached.testBarred m = false :=
        State.testBarred_eq_false hnone hoos hblk hbusy hq
      exact ⟨_, congrArg Host.Outcome.next (State.hostWrite_eq hs (.moverTestReq m) fun u => u.testReqOp m),
        (State.testReqOp_drain hbar hph).of_setMover⟩
    · have hbar : s.reached.testBarred m = true := State.testBarred_of_phase hsome
      refine ⟨_, congrArg Host.Outcome.next ((State.hostWrite_eq hs (.moverTestReq m) fun u => u.testReqOp m).trans
        (State.testReqOp_barred hbar)), ?_, fun j hj => ?_, rfl⟩
      · exact (State.setMover_mover ..).trans (if_pos rfl)
      · exact (State.setMover_mover ..).trans (if_neg hj)
    · have hop : s.testDrainedOp m = s.setMover m { s.mover m with phase := 2 } := if_pos ⟨hph, hquiet⟩
      exact ⟨_, congrArg Host.Outcome.next hop, by simp, fun j hj => by simp [hj], rfl⟩
    · exact ⟨_, rfl, (State.testDoneOp_pass hph).of_setMover⟩
    · exact ⟨_, rfl, (State.testDoneOp_fail hph).of_logged⟩
  · have hop : exec (.stagingTestGo g) s = .next (s.reached.stGoOp g) :=
      congrArg Host.Outcome.next (State.hostWrite_eq hs (.stagingTestGo g) fun u => u.stGoOp g)
    have hgo : s.reached.stGoOp g = _ := if_neg (Bool.eq_false_iff.mp hb)
    exact ⟨_, hop.trans (congrArg Host.Outcome.next hgo), rfl, rfl⟩
  · have hop : exec (.stagingTestGo g) s = .next (s.reached.stGoOp g) :=
      congrArg Host.Outcome.next (State.hostWrite_eq hs (.stagingTestGo g) fun u => u.stGoOp g)
    exact hop.trans (congrArg Host.Outcome.next (if_pos hb))
  · have hdone : s.stDoneOp none = _ := if_neg (Bool.not_eq_false _ ▸ hb)
    exact ⟨_, congrArg Host.Outcome.next hdone, rfl, rfl⟩
  · have hdone : s.stDoneOp (some b.val) = _ := if_neg (Bool.not_eq_false _ ▸ hb)
    simp only [hg, if_true] at hdone
    exact ⟨_, congrArg Host.Outcome.next hdone, rfl, rfl⟩

end Sys2Proof
end

section
/-! Words packed of fields: a field read back. -/

namespace Sys2Proof.Machine

/-- The field after those of `l`. -/
theorem pack_field (l : List (Nat × Nat)) (w v : Nat) (t : List (Nat × Nat)) :
    pack (l ++ (w, v) :: t) / 2 ^ (l.map (·.1)).sum % 2 ^ w = v % 2 ^ w := by
  induction l with
  | nil => simp [pack, Nat.add_mul_mod_self_left]
  | cons e l ih =>
    have hw : 0 < 2 ^ e.1 := Nat.two_pow_pos e.1
    rw [List.map_cons, List.sum_cons, Nat.pow_add, ← Nat.div_div_eq_div_mul, List.cons_append, pack,
      Nat.add_mul_div_left _ _ hw, Nat.div_eq_of_lt (Nat.mod_lt _ hw), Nat.zero_add]
    exact ih

/-- The same of a machine word that holds it. -/
theorem pack_extract {n : Nat} (l : List (Nat × Nat)) (w v : Nat) (t : List (Nat × Nat)) (h : (l.map (·.1)).sum + w ≤ n) :
    (BitVec.ofNat n (pack (l ++ (w, v) :: t))).extractLsb' (l.map (·.1)).sum w = BitVec.ofNat w v := by
  refine BitVec.eq_of_toNat_eq ?_
  obtain ⟨k, rfl⟩ := Nat.exists_eq_add_of_le h
  rw [BitVec.extractLsb'_toNat, BitVec.toNat_ofNat, BitVec.toNat_ofNat, Nat.shiftRight_eq_div_pow, Nat.add_assoc,
    Nat.pow_add, Nat.mod_mul_right_div_self, Nat.mod_mod_of_dvd _ (Nat.pow_dvd_pow 2 (Nat.le_add_right w k)), pack_field]

end Sys2Proof.Machine
end

section
/-! O53: the debug lock. -/

namespace Sys2Proof.Machine

/-- The fields of a challenge (R400). -/
theorem challenge_fields (scope : BitVec 2) (ucnt : Nat) (seq : BitVec 32) (nonce : BitVec 128) :
    let c := challenge scope ucnt seq.toNat nonce
    c.extractLsb' 0 32 = 0x5544544E ∧ c.extractLsb' 32 8 = scope.setWidth 8 ∧ c.extractLsb' 40 24 = 0 ∧
      c.extractLsb' 64 32 = BitVec.ofNat 32 ucnt ∧ c.extractLsb' 96 32 = seq ∧ c.extractLsb' 128 128 = nonce :=
  ⟨pack_extract [] 32 0x5544544E _ (by simp), (pack_extract [(32, _)] 8 scope.toNat _ (by simp)).trans (by simp),
    pack_extract [(32, _), (8, _)] 24 0 _ (by simp), pack_extract [(32, _), (8, _), (24, _)] 32 ucnt _ (by simp),
    (pack_extract [(32, _), (8, _), (24, _), (32, _)] 32 seq.toNat _ (by simp)).trans (by simp),
    (pack_extract [(32, _), (8, _), (24, _), (32, _), (32, _)] 128 nonce.toNat _ (by simp)).trans (by simp)⟩

end Sys2Proof.Machine

namespace Sys2Proof
open Machine

/-- Settles O53: each command is one branch of its function; the challenge's fields are those of a packed word. -/
theorem debugLock : Obligations.debug_lock := by
  unfold Obligations.debug_lock
  refine ⟨fun s hs => ?_, fun s h2 => ?_⟩
  · intro u
    refine ⟨fun hr => ?_, fun h1 => ?_, ?_⟩
    · intro n
      have hno : (u.dbg.refusedAt.any fun t => decide ((u.mg.ms - t).toNat < refusalMs)) = false := by
        rw [Option.any_eq_false]
        intro t ht
        exact decide_eq_false (Nat.not_lt.mpr (hr t ht))
      have hrun : u.inRun = true := by simp [State.inRun, u, State.reached, hs.run]
      have hop : u.chreqOp = { u with nvm := ucntPut s.nvm n, free := s.free + 1, dbg := { s.dbg with
          state := 1, chal := challenge s.dbg.scope n s.boot.seq.toNat (Config.noise s.free) } } := by
        refine (if_neg (Bool.eq_false_iff.mp hno)).trans ?_
        dsimp only
        rw [hrun]
        rfl
      obtain ⟨h1, h2, h3, h4, h5, h6⟩ := challenge_fields s.dbg.scope n s.boot.seq (Config.noise s.free)
      refine ⟨_, congrArg Host.Outcome.next ((State.hostWrite_eq hs .chreq State.chreqOp).trans hop), ?_⟩
      exact ⟨rfl, by dsimp only, h1, h2, h3, h4, h5, h6, by dsimp only⟩
    · exact congrArg Host.Outcome.next ((State.hostWrite_eq hs .vgo State.vgoOp).trans (if_pos h1))
    · exact congrArg Host.Outcome.next (State.hostWrite_eq hs .relock State.relockOp)
  · intro sig ok
    have hop : s.verifiedOp = _ := if_neg (not_not_intro h2)
    cases hk : ok
    · exact ⟨_, congrArg Host.Outcome.next (hop.trans (if_neg (Bool.eq_false_iff.mp hk))), rfl, rfl, rfl⟩
    · exact ⟨_, congrArg Host.Outcome.next (hop.trans (if_pos hk)), rfl, rfl, rfl⟩

end Sys2Proof
end

section
/-! Numbers as bytes, least significant first. -/

namespace Sys2Proof.Machine

@[simp] theorem toLE_length (n v : Nat) : (toLE n v).length = n := by
  induction n generalizing v with
  | zero => rfl
  | succ n ih => simp [toLE, ih]

theorem leNat_lt (l : List Byte) : leNat l < 256 ^ l.length := by
  induction l with
  | nil => simp [leNat]
  | cons b l ih =>
    have hb := b.isLt
    rw [leNat, List.length_cons, Nat.pow_succ]
    omega

theorem toLE_leNat (l : List Byte) : toLE l.length (leNat l) = l := by
  induction l with
  | nil => rfl
  | cons b l ih =>
    have hb : b.toNat < 256 := b.isLt
    have hm : (b.toNat + 256 * leNat l) % 256 = b.toNat := by omega
    have hd : (b.toNat + 256 * leNat l) / 256 = leNat l := by omega
    rw [List.length_cons, leNat, toLE, hm, hd, ih, BitVec.ofNat_toNat, BitVec.setWidth_eq]

end Sys2Proof.Machine
end

section
/-! O55: the unlock exchange and ALERTCLR over SMBus. -/

namespace Sys2Proof.Machine

theorem State.Managed.smbDo {s : State} (h : s.Managed) (f : State → State) : s.smbDo f = f s :=
  if_pos (by simp [State.mgmtUp, h.power, h.aon])

/-- Outside RETAIN and its wake the unlock exchange is served. -/
theorem State.Managed.smbUnlock {s : State} (h : s.Managed) (h4 : s.pwr.state ≠ 4) (h5 : s.pwr.state ≠ 5)
    (f : State → State) : s.smbUnlock f = f s :=
  (h.smbDo _).trans (if_neg (not_or.mpr ⟨h4, h5⟩))

/-- In RETAIN and its wake it is refused. -/
theorem State.Managed.smbUnlock_refused {s : State} (h : s.Managed) (h45 : s.pwr.state = 4 ∨ s.pwr.state = 5)
    (f : State → State) : s.smbUnlock f = s.smbEnd :=
  (h.smbDo _).trans (if_pos h45)

/-- The scope that a challenge names. -/
theorem challenge_scope (scope : BitVec 2) (ucnt seq : Nat) (nonce : BitVec 128) :
    (challenge scope ucnt seq nonce).extractLsb' 32 8 = scope.setWidth 8 :=
  (pack_extract [(32, _)] 8 scope.toNat _ (by simp)).trans (by simp)

/-- A packet error code that is absent or right. -/
theorem State.smbTake_right {s : State} {sent : List Byte} {pec : Option Byte}
    (h : pec = none ∨ pec = some (crc8 (s.smbAddr :: sent))) (f : State → State) : s.smbTake sent pec f = f s := by
  refine if_neg ?_
  rcases h with rfl | rfl <;> simp

theorem State.smbTake_wrong {s : State} {sent : List Byte} {pec : Option Byte}
    (h : ¬ (pec = none ∨ pec = some (crc8 (s.smbAddr :: sent)))) (f : State → State) :
    s.smbTake sent pec f = s.smbEnd := by
  refine if_pos ?_
  cases pec with
  | none => exact absurd (.inl rfl) h
  | some b => simpa using h

/-- RESP at a multiple of 32 below 128 writes 32 bytes of the response. -/
theorem State.smbRespOp_bytes (s : State) (k : Fin 4) {l : List Byte} (hl : l.length = 32) :
    ∃ r : BitVec 1024, s.smbRespOp (BitVec.ofNat 8 (32 * k.val)) l = { s with
        dbg := { s.dbg with resp := r }, smb := { s.smb with out := [], pec := 0 } } ∧
      toLE 128 r.toNat = (toLE 128 s.dbg.resp.toNat).take (32 * k.val) ++ l ++
        (toLE 128 s.dbg.resp.toNat).drop (32 * k.val + 32) := by
  have hk := k.isLt
  have ho : (BitVec.ofNat 8 (32 * k.val)).toNat = 32 * k.val := by
    rw [BitVec.toNat_ofNat]
    omega
  generalize hb : (toLE 128 s.dbg.resp.toNat).take (32 * k.val) ++ l ++
    (toLE 128 s.dbg.resp.toNat).drop (32 * k.val + 32) = b
  have hlen : b.length = 128 := by
    rw [← hb]
    simp [hl]
    omega
  refine ⟨BitVec.ofNat 1024 (leNat b), ?_, ?_⟩
  · unfold State.smbRespOp
    rw [ho, List.take_of_length_le (Nat.le_of_eq hl)]
    dsimp only
    rw [if_pos ⟨by omega, by omega⟩, hb]
    rfl
  · have hlt : leNat b < 2 ^ 1024 :=
      calc leNat b < (2 ^ 8) ^ b.length := leNat_lt b
        _ = 2 ^ (8 * b.length) := (Nat.pow_mul 2 8 b.length).symm
        _ = 2 ^ 1024 := by rw [hlen]
    rw [BitVec.toNat_ofNat, Nat.mod_eq_of_lt hlt, ← hlen]
    exact toLE_leNat b

/-- A warning or a critical limit of the four monitors is held. -/
theorem limits_held (lim : BitVec 10) :
    (fld lim.toNat 2 4 != 0) = (lim.getLsbD 2 || lim.getLsbD 3 || lim.getLsbD 4 || lim.getLsbD 5) ∧
    (fld lim.toNat 6 4 != 0) = (lim.getLsbD 6 || lim.getLsbD 7 || lim.getLsbD 8 || lim.getLsbD 9) := by
  revert lim
  decide +kernel

/-- The alert bits that a clear leaves: those of what is still held (R419). -/
theorem persistent_getLsbD (lim : BitVec 10) (clkf : BitVec 9) {i : Nat} (h : i < 9) : (persistent lim clkf).getLsbD i =
    ((i == 0 && lim.getLsbD 0) || (i == 1 && lim.getLsbD 1)
      || (i == 2 && (lim.getLsbD 2 || lim.getLsbD 3 || lim.getLsbD 4 || lim.getLsbD 5))
      || (i == 3 && (lim.getLsbD 6 || lim.getLsbD 7 || lim.getLsbD 8 || lim.getLsbD 9)) || (i == 5 && clkf != 0)) := by
  obtain ⟨hv, hc⟩ := limits_held lim
  have hbits : ∀ (a b c d e : Bool) (i : Fin 9),
      (BitVec.ofNat 9 (pack [(1, b2n a), (1, b2n b), (1, b2n c), (1, b2n d), (1, 0), (1, b2n e)])).getLsbD i.val =
        ((i.val == 0 && a) || (i.val == 1 && b) || (i.val == 2 && c) || (i.val == 3 && d) || (i.val == 5 && e)) := by
    decide +kernel
  unfold persistent
  rw [hv, hc]
  exact hbits _ _ _ _ _ ⟨i, h⟩

end Sys2Proof.Machine

namespace Sys2Proof
open Machine

/-- Settles O55: the packet error code and the power state decide whether a command's function is run. -/
theorem smbusUnlockAndAlerts : Obligations.smbus_unlock_and_alerts := by
  unfold Obligations.smbus_unlock_and_alerts
  refine ⟨fun s hs => ?_, fun s w pec hs => ?_⟩
  · intro a give none' refused right
    refine ⟨fun ⟨h4, h5⟩ => ?_, fun h45 => ?_⟩
    · have hu := hs.smbUnlock h4 h5
      refine ⟨congrArg Host.Outcome.next (hu _), ?_, fun pec hw => ?_, fun pec off l hw => ?_, fun pec scope hw => ?_,
        fun pec hr h1 => ?_, fun k l pec hl hr => ?_, fun scope pec hr hst hno => ?_⟩
      · have hl : toLE 1 (s.dbg.state.toNat + 8 * s.dbg.grant.toNat) =
            [BitVec.ofNat 8 (s.dbg.state.toNat + 8 * s.dbg.grant.toNat)] := by
          simp only [toLE, List.cons.injEq, and_true]
          exact BitVec.eq_of_toNat_eq (by simp)
        refine congrArg Host.Outcome.next ((hu _).trans ?_)
        rw [hl]
        rfl
      · exact congrArg Host.Outcome.next ((hu _).trans (State.smbTake_wrong hw _))
      · exact congrArg Host.Outcome.next ((hu _).trans (State.smbTake_wrong hw _))
      · exact congrArg Host.Outcome.next ((hu _).trans (State.smbTake_wrong hw _))
      · refine congrArg Host.Outcome.next ((hu _).trans ((State.smbTake_right hr _).trans ?_))
        exact congrArg State.smbEnd (if_pos h1)
      · obtain ⟨r, hop, hbytes⟩ := s.smbRespOp_bytes k hl
        exact ⟨_, congrArg Host.Outcome.next ((hu _).trans ((State.smbTake_right hr _).trans hop)), hbytes, rfl⟩
      · have hsc : BitVec.ofNat 2 scope.toNat = scope.extractLsb' 0 2 := BitVec.eq_of_toNat_eq (by simp)
        have hs' : s.scopeOp (BitVec.ofNat 2 scope.toNat) = { s with dbg := { s.dbg with scope := scope.extractLsb' 0 2 } } := by
          rw [hsc]
          refine if_neg ?_
          rcases hst with h | h | h <;> rw [h] <;> decide
        have hop : State.chreqOp { s with dbg := { s.dbg with scope := scope.extractLsb' 0 2 } } = _ := if_neg (by simp [hno])
        refine ⟨_, congrArg Host.Outcome.next ((hu _).trans ((State.smbTake_right hr _).trans (congrArg State.smbEnd
          ((congrArg State.chreqOp hs').trans hop)))), rfl, rfl, ?_, rfl, ?_⟩
        · exact challenge_scope _ _ _ _
        · dsimp only [State.smbEnd]
    · have hu := hs.smbUnlock_refused h45
      exact ⟨congrArg Host.Outcome.next (hu _), congrArg Host.Outcome.next (hu _), fun pec =>
        ⟨congrArg Host.Outcome.next (hu _), fun o l => congrArg Host.Outcome.next (hu _), fun scope =>
          congrArg Host.Outcome.next (hu _)⟩⟩
  · intro sum
    refine ⟨fun hn hne => ?_, fun hr => ?_⟩
    · exact congrArg Host.Outcome.next ((hs.smbDo _).trans (State.smbTake_wrong (not_or.mpr ⟨hn, hne⟩) _))
    · refine ⟨_, congrArg Host.Outcome.next ((hs.smbDo _).trans (State.smbTake_right hr _)), fun i hi => ?_, rfl⟩
      show (s.mg.alrt &&& ~~~(BitVec.ofNat 9 w.toNat &&& ~~~persistent s.mg.lim s.mg.clkf)).getLsbD i = _
      have hw : (BitVec.ofNat 9 w.toNat).getLsbD i = w.getLsbD i := by simp [hi]
      rw [← persistent_getLsbD _ _ hi]
      simp [hi]

end Sys2Proof
end

section
/-! Words packed of bits, and events logged one after another. -/

namespace Sys2Proof.Machine

theorem pack_bits_testBit (l : List Bool) (i : Nat) :
    (pack (l.map fun b => (1, b2n b))).testBit i = l.getD i false := by
  induction l generalizing i with
  | nil => simp [pack]
  | cons b l ih =>
    have hb : b2n b % 2 ^ 1 = b2n b := by cases b <;> rfl
    rw [List.map_cons, pack, hb]
    cases i with
    | zero => cases b <;> simp [b2n, Nat.testBit_zero]
    | succ i =>
      have hd : (b2n b + 2 ^ 1 * pack (l.map fun b => (1, b2n b))) / 2 = pack (l.map fun b => (1, b2n b)) := by
        have hlt : b2n b < 2 := by cases b <;> decide
        omega
      rw [Nat.testBit_succ, hd, ih, List.getD_cons_succ]

/-- A bit of a word packed of bits. -/
theorem pack_bits (l : List Bool) {n i : Nat} (h : i < n) :
    (BitVec.ofNat n (pack (l.map fun b => (1, b2n b)))).getLsbD i = l.getD i false := by
  rw [BitVec.getLsbD_ofNat, pack_bits_testBit, decide_eq_true h, Bool.true_and]

/-- From `s` to `t` nothing changes but what an event changes. -/
def State.Logged (s t : State) : Prop := t = { s with mg := { s.mg with
  alrt := t.mg.alrt, log := t.mg.log, nseq := t.mg.nseq, mseq := t.mg.mseq, lost := t.mg.lost } }

theorem State.Logged.refl (s : State) : s.Logged s := rfl

theorem State.Logged.trans {s t u : State} (h : s.Logged t) (g : t.Logged u) : s.Logged u :=
  Eq.trans g (congrArg (fun v : State => { v with mg := { v.mg with
    alrt := u.mg.alrt, log := u.mg.log, nseq := u.mg.nseq, mseq := u.mg.mseq, lost := u.mg.lost } }) h)

theorem State.logEvent_logged (s : State) (code src arg : Nat) : s.Logged (s.logEvent code src arg) := rfl

theorem State.riseEvents_logged (s : State) (old new : Nat) (l : List (Nat × Nat × Nat × Nat)) :
    s.Logged (s.riseEvents old new l) := by
  refine List.foldlRecOn (motive := s.Logged) _ _ (.refl s) fun t h e _ => ?_
  split
  · exact h.trans (t.logEvent_logged _ _ _)
  · exact h

end Sys2Proof.Machine
end

section
/-! O50: events of the management core. -/

namespace Sys2Proof.Machine

/-- The reading that the search for the highest one keeps is one of those seen, and none of them is higher. -/
theorem hottest_foldl (l : List (BitVec 16 × Nat)) (b : Nat × BitVec 16) :
    let r := (l.foldl (fun b e => if b.2.toInt < e.1.toInt then (e.2, e.1) else b) b).2
    r ∈ b.2 :: l.map (·.1) ∧ ∀ x ∈ b.2 :: l.map (·.1), x.toInt ≤ r.toInt := by
  induction l generalizing b with
  | nil => simp
  | cons e l ih =>
    intro r
    by_cases hlt : b.2.toInt < e.1.toInt
    · have hr : r = (l.foldl (fun b e => if b.2.toInt < e.1.toInt then (e.2, e.1) else b) (e.2, e.1)).2 := by
        simp only [r, List.foldl_cons, if_pos hlt]
      obtain ⟨hm, hle⟩ := ih (e.2, e.1)
      rw [← hr] at hm hle
      refine ⟨List.mem_cons_of_mem _ hm, fun x hx => ?_⟩
      rcases List.mem_cons.mp hx with rfl | hx
      · exact (le_of_lt hlt).trans (hle _ List.mem_cons_self)
      · exact hle x hx
    · have hr : r = (l.foldl (fun b e => if b.2.toInt < e.1.toInt then (e.2, e.1) else b) b).2 := by
        simp only [r, List.foldl_cons, if_neg hlt]
      obtain ⟨hm, hle⟩ := ih b
      rw [← hr] at hm hle
      refine ⟨?_, fun x hx => ?_⟩
      · rcases List.mem_cons.mp hm with h | h
        · exact h ▸ List.mem_cons_self
        · exact List.mem_cons_of_mem _ (List.mem_cons_of_mem _ h)
      · rcases List.mem_cons.mp hx with rfl | hx
        · exact hle _ List.mem_cons_self
        · rcases List.mem_cons.mp hx with rfl | hx
          · exact (not_lt.mp hlt).trans (hle _ List.mem_cons_self)
          · exact hle x (List.mem_cons_of_mem _ hx)

theorem hottest_eq {l : List (BitVec 16)} {top : Int} (h : ∀ x ∈ l, BitVec.toInt x ≤ top)
    (ht : ∃ x ∈ l, BitVec.toInt x = top) : (hottest l).2.toInt = top := by
  obtain ⟨x, hx, rfl⟩ := ht
  obtain ⟨hm, hle⟩ := hottest_foldl l.zipIdx (0, l.headD 0)
  rw [List.zipIdx_map_fst] at hm hle
  refine le_antisymm (h _ ?_) (hle x (List.mem_cons_of_mem _ hx))
  rcases List.mem_cons.mp hm with hm | hm
  · refine hm ▸ ?_
    cases l with
    | nil => exact absurd hx List.not_mem_nil
    | cons a l => exact List.mem_cons_self
  · exact hm

/-- The limits held after a sample, bit by bit (R406). -/
theorem Mg.limits_bits (g : Mg) (temps volts : List (BitVec 16)) :
    ((g.limits temps volts).getLsbD 0 = holds (g.lim.getLsbD 0) (hottest temps).2.toInt g.twarn.toInt 32 ∧
      (g.limits temps volts).getLsbD 1 = holds (g.lim.getLsbD 1) (hottest temps).2.toInt g.tcrit.toInt 32) ∧
    ∀ i : Fin 4,
      (g.limits temps volts).getLsbD (2 + i) =
        holds (g.lim.getLsbD (2 + i)) (deviation (volts.getD i 750)) g.vwarn.toNat 10 ∧
      (g.limits temps volts).getLsbD (6 + i) =
        holds (g.lim.getLsbD (6 + i)) (deviation (volts.getD i 750)) g.vcrit.toNat 10 := by
  have h := fun (i : Nat) (hi : i < 10) => pack_bits (n := 10) (i := i)
    (holds (g.lim.getLsbD 0) (hottest temps).2.toInt g.twarn.toInt 32 ::
      holds (g.lim.getLsbD 1) (hottest temps).2.toInt g.tcrit.toInt 32 ::
      ([0, 1, 2, 3].map fun i => holds (g.lim.getLsbD (2 + i)) (deviation (volts.getD i 750)) g.vwarn.toNat 10) ++
      [0, 1, 2, 3].map fun i => holds (g.lim.getLsbD (6 + i)) (deviation (volts.getD i 750)) g.vcrit.toNat 10) hi
  refine ⟨⟨h 0 (by decide), h 1 (by decide)⟩, fun i => ⟨(h (2 + i) (by omega)).trans ?_, (h (6 + i) (by omega)).trans ?_⟩⟩
  · fin_cases i <;> rfl
  · fin_cases i <;> rfl

/-- A clock fault is one of a monitor whose reset input is released. -/
theorem Pins.clockMask_bits (x : Pins) (clk : BitVec 9) (i : Nat) : (clk &&& x.clockMask).getLsbD i =
    (clk.getLsbD i && !((i == 0 && x.core) || (i == 1 && x.far0) || (i == 2 && x.far1) || (i == 3 && x.near)
      || (i == 4 && x.peer0) || (i == 5 && x.peer1) || (i == 6 && x.strm) || (i == 7 && x.host))) := by
  rw [BitVec.getLsbD_and]
  by_cases hi : i < 9
  · have h := pack_bits (n := 9) [!x.core, !x.far0, !x.far1, !x.near, !x.peer0, !x.peer1, !x.strm, !x.host, true] hi
    have hm : x.clockMask.getLsbD i = _ := h
    rw [hm]
    congr 1
    interval_cases i <;> simp
  · rw [BitVec.getLsbD_of_ge clk i (Nat.not_lt.mp hi)]
    simp

/-- What LOG_MIRROR writes at once: the oldest pending entries, to the end of the page. -/
theorem Mg.page_eq (g : Mg) :
    g.page = (g.log.take (g.nseq - g.mseq).toNat).reverse.take (16 - g.mpos % 16) := by
  have hlen : (g.log.take (g.nseq - g.mseq).toNat).reverse.length ≤ (g.nseq - g.mseq).toNat := by
    rw [List.length_reverse]
    exact List.length_take_le _ _
  have htake : g.page = (g.log.take (g.nseq - g.mseq).toNat).reverse.take
      (min (16 - g.mpos % 16) (g.nseq - g.mseq).toNat) := by
    rw [Nat.min_comm]
    rfl
  rw [htake, ← List.take_take, List.take_of_length_le hlen]

theorem State.Managed.up {s : State} (h : s.Managed) : s.mgmtUp = true := by
  unfold State.mgmtUp
  rw [h.power, h.aon]
  rfl

/-- The state with a droop of monitor `i` counted. -/
def State.droopCounted (s : State) (i : Nat) : State :=
  { s with mg := { s.mg with droops := s.mg.droops.put 0 i (satInc (s.mg.droops.get 0 i)) } }

theorem State.Managed.droopOp {s : State} (h : s.Managed) (i : Nat) :
    s.droopOp i = (s.droopCounted i).logEvent 0x34 i (satInc (s.mg.droops.get 0 i)).toNat := by
  refine if_neg ?_
  rw [h.up]
  decide

/-- The state with a sample taken, before its events. -/
def State.sampled (s : State) (temps volts : List (BitVec 16)) (clk : BitVec 9) : State :=
  { s with dbg := s.dbg.ages (s.mg.ms + 1), mg := { s.mg with
      ms := s.mg.ms + 1
      temps := temps
      volts := volts
      dsamp := s.mg.droops
      clkf := clk &&& s.pins.clockMask
      lim := s.mg.limits temps volts
      alrt := s.mg.alrt ||| persistent (s.mg.limits temps volts) (clk &&& s.pins.clockMask) } }

theorem State.critical_off (s : State) (now held : Bool) : s.critical 0 now held = s := rfl

/-- With no critical action configured a sample is taken, its events are logged, and at most the retry of the critical
action ends. -/
theorem State.Managed.sampleOp {s : State} (h : s.Managed) (temps volts : List (BitVec 16)) (clk : BitVec 9)
    (ht : s.mg.tact = 0) (hv : s.mg.vact = 0) : ∃ (u : State) (r : Bool), (s.sampled temps volts clk).Logged u ∧
      s.sampleOp temps volts clk = { u with mg := { u.mg with retry := r } } := by
  unfold State.sampleOp
  rw [if_neg (by rw [h.up]; decide)]
  extract_lets g lim cf hot v s1 s2 s3 rise held s4
  have hlog : s1.Logged s3 := (s1.riseEvents_logged _ _ _).trans (s2.riseEvents_logged _ _ _)
  have hs4 : s4 = s3 := by
    simp only [s4, g, ht, hv, State.critical_off]
  rw [← hs4] at hlog
  split
  · exact ⟨s4, s4.mg.retry, hlog, rfl⟩
  · exact ⟨s4, false, hlog, rfl⟩

end Sys2Proof.Machine

namespace Sys2Proof
open Machine

/-- Settles O50: a sample changes what it takes and what its events change; each other event is one branch. -/
theorem managementEvents : Obligations.management_events := by
  unfold Obligations.management_events
  refine ⟨fun s temps volts clk hs ht hv => ?_, fun s hs => ⟨fun i => ?_, fun hb => ?_, fun hb => ?_, fun hb => ?_, fun hp hpin => ?_⟩⟩
  · obtain ⟨u, r, hlog, hop⟩ := hs.sampleOp temps volts clk ht hv
    obtain ⟨hbits, hrails⟩ := s.mg.limits_bits temps volts
    have hlim : u.mg.lim = s.mg.limits temps volts := by rw [hlog]; rfl
    refine ⟨_, congrArg Host.Outcome.next hop, ?_, ?_, ?_, fun i => ?_, fun top hle hex => ?_, fun i v hv => ?_,
      ?_, ?_, ?_, ?_, ?_, ?_⟩
    · rw [hlog]; rfl
    · rw [hlog]; rfl
    · rw [hlog]; rfl
    · have hclk : u.mg.clkf = clk &&& s.pins.clockMask := by rw [hlog]; rfl
      exact (congrArg (fun w : BitVec 9 => w.getLsbD i) hclk).trans (s.pins.clockMask_bits clk i)
    · dsimp only
      rw [hlim, hbits.1, hbits.2, hottest_eq hle hex]
      exact ⟨rfl, rfl⟩
    · intro d
      have hd : deviation (volts.getD i 750) = d := by
        rw [List.getD_eq_getElem?_getD, hv]
        rfl
      dsimp only
      rw [hlim, (hrails i).1, (hrails i).2, hd]
      exact ⟨rfl, rfl⟩
    · rw [hlog]; rfl
    · rw [hlog]; rfl
    · rw [hlog]; rfl
    · rw [hlog]; rfl
    · rw [hlog]; rfl
    · rw [hlog]; rfl
  · have hop := hs.droopOp i
    have hn : ((s.droopCounted i).mg.droops.get 0 i) = satInc (s.mg.droops.get 0 i) :=
      (SMap.get_put _ _ _ _ _).trans (if_pos rfl)
    refine ⟨_, congrArg Host.Outcome.next hop, ?_, fun j hj => (SMap.get_put _ _ _ _ _).trans (if_neg hj), ?_, ?_, rfl, rfl⟩
    · refine (congrArg BitVec.toNat hn).trans ?_
      rw [satInc_eq, BitVec.toNat_ofNat]
      omega
    · obtain ⟨e, hlog, hcode, hsrc, harg, hseq⟩ := State.logEvent_log (s.droopCounted i) 0x34 i (satInc (s.mg.droops.get 0 i)).toNat
      refine ⟨e, hlog, hcode, hsrc, hseq, ?_⟩
      rw [harg, BitVec.toNat_ofNat]
      refine (Nat.mod_eq_of_lt ?_).trans (congrArg BitVec.toNat hn).symm
      have := (satInc (s.mg.droops.get 0 i)).isLt
      omega
    · have hal : (s.mg.alrt ||| alertBit 0x34).getLsbD 4 = true := by
        rw [BitVec.getLsbD_or, show (alertBit 0x34).getLsbD 4 = true from rfl, Bool.or_true]
      exact hal
  · have hop : s.watchdogOp = s.logEvent 0x70 0xFF 0 := by
      unfold State.watchdogOp State.mbAbort
      rw [if_pos hs.up, if_neg (Bool.eq_false_iff.mp hb)]
    obtain ⟨e, hlog, hcode, hsrc, -, hseq⟩ := s.logEvent_log 0x70 0xFF 0
    exact ⟨_, congrArg Host.Outcome.next hop, ⟨e, hlog, hcode, hsrc, hseq⟩, rfl, rfl, rfl, rfl, rfl, rfl, rfl, rfl⟩
  · have hop : s.mirrorOp = s := if_pos (.inr hb)
    exact congrArg Host.Outcome.next hop
  · intro l
    have hop : s.mirrorOp = _ := if_neg (by rw [hs.up, hb]; decide)
    refine congrArg Host.Outcome.next (hop.trans ?_)
    dsimp only
    rw [s.mg.page_eq]
    rfl
  · have hop : s.pwrcycOp = _ := if_pos (by simp [hp, hpin])
    exact congrArg Host.Outcome.next hop
end Sys2Proof
end

section
/-! O45: the power states. -/

namespace Sys2Proof.Machine

theorem satInc_toNat (v : BitVec 16) : (satInc v).toNat = min 0xFFFF (v.toNat + 1) := by
  rw [satInc_eq, BitVec.toNat_ofNat]
  omega

theorem SMap.get_default_of_notMem {α : Type} {m : SMap α} {d : α} {k : Nat} (h : ∀ e ∈ m, e.1 ≠ k) : m.get d k = d := by
  rcases m.get_mem d k with h0 | h0
  · exact h0
  · exact absurd rfl (h _ h0)

/-- A function of every entry that keeps the default acts on each value of the table. -/
theorem SMap.get_map_filter {α : Type} [DecidableEq α] (m : SMap α) {d : α} {f : α → α} (hf : f d = d)
    (h : m.Pairwise fun a b => a.1 < b.1) (k : Nat) :
    SMap.get ((m.map fun e => (e.1, f e.2)).filter fun e => e.2 ≠ d) d k = f (m.get d k) := by
  induction m with
  | nil => exact hf.symm
  | cons e m ih =>
    obtain ⟨hlt, hm⟩ := List.pairwise_cons.mp h
    have hrest : e.1 = k → SMap.get m d k = d := fun he => SMap.get_default_of_notMem fun x hx h' => by
      have := hlt x hx
      omega
    rw [List.map_cons, List.filter_cons]
    by_cases hd : f e.2 = d
    · rw [if_neg (by simp [hd]), ih hm]
      by_cases he : e.1 = k
      · rw [hrest he, hf, SMap.get, if_pos he, hd]
      · simp [SMap.get, he]
    · rw [if_pos (by simp [hd])]
      by_cases he : e.1 = k
      · simp [SMap.get, he]
      · simp only [SMap.get, if_neg he]
        exact ih hm

/-- With no stream in a shadow set or being loaded a RETAIN request that nothing bars begins the drain. -/
theorem State.retainReq_begin {s : State} (hb : s.retainBarred = false)
    (hc : ∀ e ∈ s.chans, e.2.shadow = none ∧ e.2.loading = none) :
    s.retainReq = { s with pwr := { s.pwr with state := 3, rreq := true } } := by
  have hsh : (s.chans.filterMap fun e => e.2.shadow) = [] := List.filterMap_eq_nil_iff.mpr fun e he => (hc e he).1
  have hld : (s.chans.filterMap fun e => e.2.loading) = [] := List.filterMap_eq_nil_iff.mpr fun e he => (hc e he).2
  unfold State.retainReq
  rw [if_neg (Bool.eq_false_iff.mp hb), hsh, hld]
  rfl

/-- A line whose level is the saved one, and that did not rise in RETAIN, needs nothing at the wake. -/
theorem State.ropeBack_same {s : State} {n : Nat} (b : Bool) (h : (s.rope n).rin = b) : s.ropeBack false b n = s := by
  cases b with
  | true => rfl
  | false =>
    have hf : s.ropeFallOp n = s := if_pos (by rw [h, Bool.not_false, Bool.or_true])
    exact hf

theorem State.ropesBack_same {s : State} {f : Nat → Bool} (l : List Nat) (h : ∀ n ∈ l, (s.rope n).rin = f n) :
    l.foldl (fun (st : State) n => st.ropeBack ((0 : BitVec 16).getLsbD n) (f n) n) s = s := by
  refine List.foldlRecOn (motive := fun t => t = s) _ _ rfl fun t ht n hn => ?_
  have h0 : (0 : BitVec 16).getLsbD n = false := BitVec.getLsbD_zero
  rw [ht, h0]
  exact State.ropeBack_same _ (h n hn)

/-- The end of the wake from RETAIN, where no line's level changed and no reset is held. -/
theorem State.retainDoneOp_same {s : State} {c : SMap Cnt} {r : SMap Rope} (h5 : s.pwr.state = 5)
    (hsave : s.pwr.save = some (c, r)) (hrose : s.pwr.rose = 0) (hheld : s.esc.held = false)
    (hsame : ∀ n, n < 16 → (s.rope n).rin = (r.get Rope.reset n).rin) :
    s.retainDoneOp [] = s.restored.wakeUp.logEvent 0x60 0xFF (2 * s.pwr.lwake.toNat) := by
  have hback : ∀ n ∈ List.range 16, (s.restored.rope n).rin = (s.rope n).rin := fun n hn => by
    have hr : s.restored.ropes = r := by
      unfold State.restored
      rw [hsave]
      rfl
    unfold State.rope at hsame ⊢
    rw [hr]
    exact (hsame n (List.mem_range.mp hn)).symm
  have hesc : (s.restored.wakeUp.logEvent 0x60 0xFF (2 * s.pwr.lwake.toNat)).esc.held = false := by
    have hw : s.restored.wakeUp.esc = s.esc := by
      rw [s.restored.wakeUp_woken.rest]
      rfl
    exact (congrArg Esc.held hw).trans hheld
  unfold State.retainDoneOp
  rw [if_neg (not_not.mpr h5), hrose, State.ropesBack_same (f := fun n => (s.rope n).rin) _ hback]
  exact if_neg (Bool.eq_false_iff.mp hesc)

end Sys2Proof.Machine

namespace Sys2Proof
open Machine

/-- Settles O45: each event of the power states is one branch of its operation. -/
theorem powerStates : Obligations.power_states := by
  unfold Obligations.power_states
  refine ⟨fun s => ⟨fun m hclk hlgen hst hg => ?_, fun hrun hclk hdz hst hidle => ?_, fun hst => ?_, fun hst hw => ?_⟩,
    fun s => ⟨fun hs => ⟨fun hb => ?_, fun hb hc => ?_⟩, fun hst hq hwf => ?_, fun w hw => ⟨fun hst => ?_, fun hst => ?_⟩,
      fun w hw => ?_, fun c r h5 hsave hrose hheld hsame => ?_⟩⟩
  · have hop : s.moverGateOp m = s.setMover m { s.mover m with gated := true } := if_pos (by
      rcases hst with hst | hst <;> simp [hclk, hlgen, hst, hg])
    refine ⟨_, congrArg Host.Outcome.next hop, ?_, fun j hj => ?_, rfl⟩
    · rw [State.setMover_mover, if_pos rfl]
    · rw [State.setMover_mover, if_neg hj]
  · have hop : s.dozeEnterOp = _ := if_pos (by simp [State.inRun, hrun, hclk, hdz, hst, hidle])
    exact ⟨_, congrArg Host.Outcome.next hop, rfl, satInc_toNat _, rfl⟩
  · exact congrArg Host.Outcome.next (if_pos hst : s.dozeWakeOp = _)
  · exact congrArg Host.Outcome.next (if_pos ⟨hst, hw⟩ : s.dozeWakeDoneOp = _)
  · have hop : s.reached.retainReq = _ := if_pos hb
    exact congrArg Host.Outcome.next ((State.hostWrite_eq hs _ _).trans hop)
  · exact congrArg Host.Outcome.next ((State.hostWrite_eq hs _ _).trans (State.retainReq_begin hb hc))
  · have hop : s.retainDrainedOp = _ := if_pos ⟨hst, hq⟩
    have hmv : ∀ m, SMap.get ((s.movers.map fun (m, v) => (m, { v with utlb := [] })).filter fun (_, v) => v ≠ Mover.reset)
        Mover.reset m = { s.mover m with utlb := [] } :=
      SMap.get_map_filter (f := fun v : Mover => { v with utlb := [] }) s.movers rfl hwf.1
    exact ⟨_, congrArg Host.Outcome.next hop, rfl, rfl, rfl, rfl, fun m => congrArg Mover.utlb (hmv m), hmv,
      rfl, rfl, rfl, rfl, rfl, rfl⟩
  · have hop : s.retainWakeOp w = _ := (if_neg (Bool.not_eq_false _ ▸ hw)).trans (if_pos hst)
    exact congrArg Host.Outcome.next hop
  · have hop : s.retainWakeOp w = s.drainCancel :=
      (if_neg (Bool.not_eq_false _ ▸ hw)).trans (if_neg (by rw [hst]; decide))
    exact congrArg Host.Outcome.next (hop.trans (if_pos hst))
  · exact congrArg Host.Outcome.next (if_pos hw : s.retainWakeOp w = s)
  · have hw := s.restored.wakeUp_woken.rest
    have hback : s.restored = { s with
        pwr := { s.pwr with state := 0, rreq := false, rose := 0, save := none }, cnts := c, ropes := r, scrub := 0 } := by
      unfold State.restored
      rw [hsave]
      rfl
    have hkeep : s.restored.wakeUp.cnts = c ∧ s.restored.wakeUp.ropes = r ∧
        s.restored.wakeUp.pwr = { s.pwr with state := 0, rreq := false, rose := 0, save := none } ∧
        s.restored.wakeUp.chans = s.chans ∧ s.restored.wakeUp.movers = s.movers ∧ s.restored.wakeUp.nvm = s.nvm := by
      rw [hw, hback]
      exact ⟨rfl, rfl, rfl, rfl, rfl, rfl⟩
    obtain ⟨hcnts, hropes, hpwr, hchans, hmovers, hnvm⟩ := hkeep
    exact ⟨_, congrArg Host.Outcome.next (State.retainDoneOp_same h5 hsave hrose hheld hsame), hcnts, hropes,
      congrArg Pwr.state hpwr, congrArg Pwr.save hpwr, congrArg Pwr.rreq hpwr, hchans, hmovers, hnvm⟩
end Sys2Proof
end

section
/-! Fields of a word written, and O21: the writes of GL_TENANT and PT_HOME. -/

namespace Sys2Proof.Machine

theorem bit_toNat {n : Nat} (v : BitVec n) (i : Nat) : bit v.toNat i = v.getLsbD i := rfl

theorem fld_toNat {n : Nat} (v : BitVec n) (lo w : Nat) : fld v.toNat lo w = (v.extractLsb' lo w).toNat := by
  rw [BitVec.extractLsb'_toNat, Nat.shiftRight_eq_div_pow]
  rfl

theorem ofNat_fld {n : Nat} (v : BitVec n) (lo w : Nat) : BitVec.ofNat w (fld v.toNat lo w) = v.extractLsb' lo w := by
  rw [fld_toNat, BitVec.ofNat_toNat, BitVec.setWidth_eq]

theorem or_one_bit_zero (v : BitVec 64) : bit (v ||| 1).toNat 0 = true := by
  rw [bit_toNat, BitVec.getLsbD_or, show (1 : BitVec 64).getLsbD 0 = true from rfl, Bool.or_true]

theorem and_bit_zero (v : BitVec 64) : bit (v &&& ~~~1).toNat 0 = false := by
  rw [bit_toNat, BitVec.getLsbD_and, show (~~~(1 : BitVec 64)).getLsbD 0 = false from rfl, Bool.and_false]

theorem one_getLsbD {i : Nat} (h : i ≠ 0) : (1 : BitVec 64).getLsbD i = false := by
  simp [BitVec.getLsbD_one, h]

theorem or_one_bit (v : BitVec 64) {i : Nat} (h : i ≠ 0) : bit (v ||| 1).toNat i = v.getLsbD i := by
  rw [bit_toNat, BitVec.getLsbD_or, one_getLsbD h, Bool.or_false]

theorem and_bit (v : BitVec 64) {i : Nat} (h : i ≠ 0) : bit (v &&& ~~~1).toNat i = v.getLsbD i := by
  rw [bit_toNat, BitVec.getLsbD_and, BitVec.getLsbD_not, one_getLsbD h]
  by_cases hi : i < 64
  · simp [hi]
  · simp [BitVec.getLsbD_of_ge v i (Nat.not_lt.mp hi)]

/-- A field above bit 0 is that of the word with bit 0 set. -/
theorem or_one_field (v : BitVec 64) {lo : Nat} (w : Nat) (h : lo ≠ 0) :
    fld (v ||| 1).toNat lo w = (v.extractLsb' lo w).toNat := by
  rw [fld_toNat]
  refine congrArg BitVec.toNat (BitVec.eq_of_getLsbD_eq fun i _ => ?_)
  rw [BitVec.getLsbD_extractLsb', BitVec.getLsbD_extractLsb', ← bit_toNat, or_one_bit v (by omega)]

/-- A field above bit 0 is that of the word with bit 0 cleared. -/
theorem and_field (v : BitVec 64) {lo : Nat} (w : Nat) (h : lo ≠ 0) :
    fld (v &&& ~~~1).toNat lo w = (v.extractLsb' lo w).toNat := by
  rw [fld_toNat]
  refine congrArg BitVec.toNat (BitVec.eq_of_getLsbD_eq fun i _ => ?_)
  rw [BitVec.getLsbD_extractLsb', BitVec.getLsbD_extractLsb', ← bit_toNat, and_bit v (by omega)]

theorem ofNat_toNat_self {n : Nat} (v : BitVec n) : BitVec.ofNat n v.toNat = v := by
  rw [BitVec.ofNat_toNat, BitVec.setWidth_eq]

/-- GL_TENANT with EN=1 (R248). -/
theorem State.tenantOp_on (s : State) (t : Nat) (v : BitVec 64) : s.tenantOp t (v ||| 1) = s.setTen t
    (if (s.ten t).avail = true ∧ (s.part (s.ten t).part.toNat).en = true ∧ v.extractLsb' 16 16 ≠ 0
     then { s.ten t with en := true, weight := v.extractLsb' 16 16, cerr := (s.ten t).cerr && !v.getLsbD 32 }
     else { s.ten t with cerr := true }) := by
  have hw : (v.extractLsb' 16 16).toNat ≠ 0 ↔ v.extractLsb' 16 16 ≠ 0 := not_congr (BitVec.toNat_eq (y := 0)).symm
  unfold State.tenantOp
  simp only [or_one_bit_zero, or_one_bit v (by decide : 32 ≠ 0), or_one_field v 16 (by decide : 16 ≠ 0), ofNat_toNat_self,
    if_true]
  refine congrArg (s.setTen t) (if_congr ?_ rfl rfl)
  rw [Bool.and_eq_true, Bool.and_eq_true, bne_iff_ne, hw, and_assoc]

/-- GL_TENANT with EN=0 (R248). -/
theorem State.tenantOp_off (s : State) (t : Nat) (v : BitVec 64) : s.tenantOp t (v &&& ~~~1) = s.setTen t
    (if s.tenIdle t = true
     then { s.ten t with en := false, weight := v.extractLsb' 16 16, cerr := (s.ten t).cerr && !v.getLsbD 32 }
     else { s.ten t with cerr := true }) := by
  unfold State.tenantOp
  simp only [and_bit_zero, and_bit v (by decide : 32 ≠ 0), and_field v 16 (by decide : 16 ≠ 0), ofNat_toNat_self,
    Bool.false_eq_true, if_false]

theorem State.tenIdle_iff (s : State) (t : Nat) : s.tenIdle t = true ↔
    (∀ e ∈ s.sqs, e.2.en = true → e.2.ten.toNat ≠ t) ∧ (∀ e ∈ s.cqs, e.2.en = true → e.2.ten.toNat ≠ t)
       ∧ ∀ e ∈ s.strms, e.2.st ≠ .empty → e.2.ten.toNat ≠ t := by
  simp [State.tenIdle, and_assoc]

/-- PT_HOME (R254, R255). -/
theorem State.homeOp_eq (s : State) (p : Nat) (v : BitVec 32) :
    let q := (v.extractLsb' 0 10).toNat
    let m := v.extractLsb' 10 6
    s.homeOp p v =
      if (s.ten (s.sq q).ten.toNat).part.toNat = p ∧ ((s.strmAt q).st = .empty ∨ (s.strmAt q).st = .armed) ∧
          (v.getLsbD 18 = true → (s.part p).mvmask.getLsbD m.toNat = true ∧ (s.mover m.toNat).oos = false)
      then s.setStrmAt q { s.strmAt q with hen := v.getLsbD 18, hmv := m, hch := v.extractLsb' 16 2 }
      else s.setPart p { s.part p with homeDrop := true } := by
  intro q m
  unfold State.homeOp
  simp only [bit_toNat, fld_toNat, ofNat_toNat_self]
  refine if_congr ?_ rfl rfl
  cases v.getLsbD 18 <;> simp [and_assoc, q, m]

end Sys2Proof.Machine

namespace Sys2Proof
open Machine

/-- Settles O21: each write is one branch of its operation, on the state that it finds. -/
theorem tenantsAndHomes : Obligations.tenants_and_homes := by
  unfold Obligations.tenants_and_homes
  refine ⟨fun s t v hs => ?_, fun s p v hs => ?_⟩
  · intro x w cerr is may idle
    have hset : ∀ y z, y = z → is (s.reached.setTen t y) z := fun y z hz =>
      ⟨(State.setTen_ten _ _ _ _).trans ((if_pos rfl).trans hz),
        fun j hj => (State.setTen_ten _ _ _ _).trans (if_neg hj), rfl⟩
    have hon := (State.hostWrite_eq hs (.tenantEnable t v) fun u => u.tenantOp t (v ||| 1)).trans (s.reached.tenantOp_on t v)
    have hoff := (State.hostWrite_eq hs (.tenantDisable t v) fun u => u.tenantOp t (v &&& ~~~1)).trans
      (s.reached.tenantOp_off t v)
    exact ⟨fun hm => ⟨_, congrArg Host.Outcome.next hon, hset _ _ (if_pos hm)⟩,
      fun hm => ⟨_, congrArg Host.Outcome.next hon, hset _ _ (if_neg hm)⟩,
      fun hi => ⟨_, congrArg Host.Outcome.next hoff, hset _ _ (if_pos ((s.reached.tenIdle_iff t).mpr hi))⟩,
      fun hi => ⟨_, congrArg Host.Outcome.next hoff, hset _ _ (if_neg (mt (s.reached.tenIdle_iff t).mp hi))⟩⟩
  · intro q m x ok
    have hop := (State.hostWrite_eq hs (.ptHome p v) fun u => u.homeOp p v).trans (s.reached.homeOp_eq p v)
    refine ⟨fun hok => ⟨_, congrArg Host.Outcome.next (hop.trans (if_pos hok)), rfl, ?_, fun j hj => ?_⟩,
      fun hno => ⟨_, congrArg Host.Outcome.next (hop.trans (if_neg hno)), rfl, ?_, fun j hj => ?_⟩⟩
    · exact (State.setStrmAt_strmAt _ _ _ _).trans (if_pos rfl)
    · exact (State.setStrmAt_strmAt _ _ _ _).trans (if_neg hj)
    · exact (State.setPart_part _ _ _ _).trans (if_pos rfl)
    · exact (State.setPart_part _ _ _ _).trans (if_neg hj)

end Sys2Proof
end

section
/-! O19: enabling and disabling a submission queue. -/

namespace Sys2Proof.Machine

theorem Sq.cfg_eq (x : Sq) (v : BitVec 64) : x.cfg (v ||| 1) = { x with
    log2sz := v.extractLsb' 1 5, ten := v.extractLsb' 6 8, cq := v.extractLsb' 14 8, qout := v.extractLsb' 22 8
    dbslot := v.extractLsb' 30 6, pfw := v.extractLsb' 36 5 } := by
  unfold Sq.cfg
  simp only [or_one_field v _ (by decide : 1 ≠ 0), or_one_field v _ (by decide : 6 ≠ 0),
    or_one_field v _ (by decide : 14 ≠ 0), or_one_field v _ (by decide : 22 ≠ 0), or_one_field v _ (by decide : 30 ≠ 0),
    or_one_field v _ (by decide : 36 ≠ 0), ofNat_toNat_self]

theorem State.sqOk_iff (s : State) (q : Nat) (y : Sq) : s.sqOk q y = true ↔
    (4 ≤ y.log2sz.toNat ∧ y.log2sz.toNat ≤ 16) ∧ ((s.cq y.cq.toNat).en = true ∧ (s.cq y.cq.toNat).ten = y.ten)
      ∧ (∀ e ∈ s.sqs, e.1 ≠ q → e.2.en = true → e.2.ten = y.ten → e.2.dbslot ≠ y.dbslot)
      ∧ ((s.part (s.ten y.ten.toNat).part.toNat).qen = true ∧ (s.part (s.ten y.ten.toNat).part.toNat).qglo.toNat ≤ q / 64
        ∧ q / 64 ≤ (s.part (s.ten y.ten.toNat).part.toNat).qghi.toNat)
      ∧ s.granRet.get false (q / 64) = false ∧ (s.strmAt q).st = .empty := by
  simp [State.sqOk, ringOk, State.retired, and_assoc]

theorem State.sqIdle_iff (s : State) (q : Nat) : s.sqIdle q = true ↔ (s.strmAt q).st = .armed
    ∧ (∀ e ∈ s.strms, e.2.pers = true → e.2.queue.toNat = q → e.2.st = .empty ∨ e.2.st = .armed)
    ∧ ∀ e ∈ s.cqs, ∀ r ∈ e.2.held, r.queue.toNat ≠ q := by
  simp [State.sqIdle, and_assoc, or_iff_not_imp_left]

/-- EN=1 on a disabled queue (R154). -/
theorem State.sqCfgOp_enable {s : State} {q : Nat} (v : BitVec 64) (h : (s.sq q).en = false) :
    s.sqCfgOp q (v ||| 1) = if s.sqOk q ((s.sq q).cfg (v ||| 1)) = true
      then (s.setSq q { (s.sq q).cfg (v ||| 1) with en := true, head := 0, tail := 0 }).armQueue q ((s.sq q).cfg (v ||| 1))
      else s.setSq q ((s.sq q).cfg (v ||| 1)) := by
  unfold State.sqCfgOp
  simp only [h, or_one_bit_zero, Bool.true_and, Bool.false_eq_true, if_false]

/-- An enabled queue takes QOUT from every write. -/
theorem State.sqCfgOp_again {s : State} {q : Nat} (v : BitVec 64) (h : (s.sq q).en = true) :
    s.sqCfgOp q (v ||| 1) = (s.setSq q { s.sq q with qout := v.extractLsb' 22 8 }).queueReady q := by
  unfold State.sqCfgOp
  simp only [h, or_one_bit_zero, or_one_field v _ (by decide : 22 ≠ 0), ofNat_toNat_self, if_true]

/-- EN=0 on an enabled queue. -/
theorem State.sqCfgOp_disable {s : State} {q : Nat} (v : BitVec 64) (h : (s.sq q).en = true) :
    s.sqCfgOp q (v &&& ~~~1) = if s.sqIdle q = true
      then (((s.setSq q { s.sq q with qout := v.extractLsb' 22 8 }).modSq q fun y => { y with en := false }).unpin q).modStrmAt q
        Strm.emptied
      else (s.setSq q { s.sq q with qout := v.extractLsb' 22 8 }).queueReady q := by
  unfold State.sqCfgOp
  simp only [h, and_bit_zero, and_field v _ (by decide : 22 ≠ 0), ofNat_toNat_self, if_true, Bool.false_eq_true, if_false]
  exact if_congr Iff.rfl rfl rfl

/-- A queue that may have become ready changes at most its own stream. -/
theorem State.queueReady_other (s : State) {q j : Nat} (h : j ≠ q) : (s.queueReady q).strmAt j = s.strmAt j := by
  unfold State.queueReady
  dsimp only
  split
  · exact s.makeReady_other q j h
  · rfl

theorem State.queueReady_woken (s : State) (q : Nat) : s.Woken (s.queueReady q) := by
  unfold State.queueReady
  dsimp only
  split
  · exact s.makeReady_woken q
  · exact .refl s

theorem State.modGen_rest (s : State) (p : Nat) (g : BitVec 8) (f : FSlot → FSlot) :
    ∃ ps, s.modGen p g f = { s with parts := ps } := by
  unfold State.modGen
  split
  · exact ⟨_, rfl⟩
  · exact ⟨s.parts, rfl⟩

/-- What an unpinned stream keeps, and what else changes. -/
theorem State.unpin_rest (s : State) (sid : Nat) :
    (s.unpin sid).sqs = s.sqs ∧ ((s.unpin sid).strmAt sid).hen = (s.strmAt sid).hen ∧
      ((s.unpin sid).strmAt sid).hmv = (s.strmAt sid).hmv ∧ ((s.unpin sid).strmAt sid).hch = (s.strmAt sid).hch := by
  unfold State.unpin
  dsimp only
  split
  · exact ⟨rfl, rfl, rfl, rfl⟩
  · obtain ⟨ps, hps⟩ := (s.modStrmAt sid fun y => { y with fgenp := 0 }).modGen_rest (s.strmAt sid).part.toNat
      (s.strmAt sid).fgenp fun f => { f with pins := f.pins - 1 }.tidy
    rw [hps]
    generalize hu : ({ (s.modStrmAt sid fun y => { y with fgenp := 0 }) with parts := ps } : State) = u
    have hsq : u.sqs = s.sqs := by rw [← hu]; rfl
    have hst : u.strmAt sid = { s.strmAt sid with fgenp := 0 } := by
      rw [← hu]
      exact (State.setStrmAt_strmAt _ _ _ _).trans (if_pos rfl)
    obtain ⟨_, _, _, _, _, hw⟩ := u.wakeUp_woken.strm sid
    rw [hw, hst, u.wakeUp_woken.rest]
    exact ⟨hsq, rfl, rfl, rfl⟩

end Sys2Proof.Machine

namespace Sys2Proof
open Machine

/-- Settles O19: each write is one branch of `sqCfgOp`, on the state that it finds. -/
theorem submissionQueues : Obligations.submission_queues := by
  unfold Obligations.submission_queues
  intro s q v hs x ten p y ok others
  have hcfg : (s.reached.sq q).cfg (v ||| 1) = y := Sq.cfg_eq _ v
  have hok : s.reached.sqOk q y = true ↔ ok := s.reached.sqOk_iff q y
  have hset : ∀ z, (s.reached.setSq q z).sq q = z ∧ others (s.reached.setSq q z) := fun z =>
    ⟨(State.setSq_sq _ _ _ _).trans (if_pos rfl), fun j hj => (State.setSq_sq _ _ _ _).trans (if_neg hj), fun _ _ => rfl⟩
  have hon := State.hostWrite_eq hs (.sqEnable q v) fun u => u.sqCfgOp q (v ||| 1)
  have hoff := State.hostWrite_eq hs (.sqDisable q v) fun u => u.sqCfgOp q (v &&& ~~~1)
  refine ⟨fun he ho => ?_, fun he ho => ?_, ?_⟩
  · have hop := hon.trans (State.sqCfgOp_enable v (s := s.reached) he)
    rw [hcfg, if_pos (hok.mpr ho)] at hop
    obtain ⟨hsq, hoth, -⟩ := hset { y with en := true, head := 0, tail := 0 }
    refine ⟨_, congrArg Host.Outcome.next hop, hsq, ⟨hoth, fun j hj => ?_⟩, ?_, rfl⟩
    · exact (State.setStrmAt_strmAt _ _ _ _).trans (if_neg hj)
    · exact (State.setStrmAt_strmAt _ _ _ _).trans (if_pos rfl)
  · have hop := hon.trans (State.sqCfgOp_enable v (s := s.reached) he)
    rw [hcfg, if_neg (mt hok.mp ho)] at hop
    exact ⟨_, congrArg Host.Outcome.next hop, (hset _).1, (hset _).2, rfl⟩
  · intro idle
    have hidle : s.reached.sqIdle q = true ↔ idle := s.reached.sqIdle_iff q
    refine ⟨fun he hi => ?_, fun he c hc => ?_⟩
    · have hop := hoff.trans ((State.sqCfgOp_disable v (s := s.reached) he).trans (if_pos (hidle.mpr hi)))
      generalize hw : s.reached.setSq q { s.reached.sq q with qout := v.extractLsb' 22 8 } = w at hop
      have hwq : w.sq q = { x with qout := y.qout } ∧ others w ∧ w = { s.reached with sqs := w.sqs } := by
        rw [← hw]
        exact ⟨(hset _).1, (hset _).2, rfl⟩
      obtain ⟨hwq, hwo, hwr⟩ := hwq
      generalize hu : (w.modSq q fun y => { y with en := false }) = u at hop
      have hsq : u.sq q = { x with en := false, qout := y.qout } := by
        rw [← hu, State.modSq_eq, State.setSq_sq, if_pos rfl, hwq]
      have hoth : ∀ j, j ≠ q.val → u.sq j = s.sq j := fun j hj => by
        rw [← hu, State.modSq_eq, State.setSq_sq, if_neg hj]
        exact hwo.1 j hj
      have hrest : u = { s.reached with sqs := u.sqs } :=
        (by rw [← hu]; rfl : u = { w with sqs := u.sqs }).trans (congrArg (fun t : State => { t with sqs := u.sqs }) hwr)
      have hstrm : ∀ j, u.strmAt j = s.strmAt j := fun j => (congrArg (fun t : State => t.strmAt j) hrest).trans rfl
      obtain ⟨hsqs, hhen, hhmv, hhch⟩ := u.unpin_rest q
      have hun : ∀ j, (u.unpin q).sq j = u.sq j := fun j => congrArg (fun l : SMap Sq => l.get Sq.reset j) hsqs
      refine ⟨_, congrArg Host.Outcome.next hop, (hun q).trans hsq, fun j hj => (hun j).trans (hoth j hj), ?_,
        fun hp => ?_⟩
      · rw [State.modStrmAt_eq, State.setStrmAt_strmAt, if_pos rfl, ← hstrm q, ← hhen, ← hhmv, ← hhch]
        rfl
      · have hnone : u.unpin q = u := u.unpin_none q ((congrArg Strm.fgenp (hstrm q)).trans hp)
        rw [hnone]
        refine ⟨⟨hoth, fun j hj => ?_⟩, ?_⟩
        · rw [State.modStrmAt_eq, State.setStrmAt_strmAt, if_neg hj, hstrm j]
        · exact congrArg (fun t : State => { t with strms := (u.modStrmAt q Strm.emptied).strms }) hrest
    · generalize hu : s.reached.setSq q { x with qout := y.qout } = u
      have hop : exec c s = .next (u.queueReady q) := by
        rcases hc with rfl | ⟨rfl, hn⟩
        · exact congrArg Host.Outcome.next (hu ▸ hon.trans (State.sqCfgOp_again v (s := s.reached) he))
        · exact congrArg Host.Outcome.next
            (hu ▸ hoff.trans ((State.sqCfgOp_disable v (s := s.reached) he).trans (if_neg (mt hidle.mp hn))))
      have hwoken := (u.queueReady_woken q).rest
      have huq : u.sq q = { x with qout := y.qout } ∧ others u ∧ u = { s.reached with sqs := u.sqs } := by
        rw [← hu]
        exact ⟨(hset _).1, (hset _).2, rfl⟩
      obtain ⟨huq, huo, hur⟩ := huq
      have hsqs : ∀ j, (u.queueReady q).sq j = u.sq j := fun j =>
        (congrArg (fun t : State => t.sq j) hwoken).trans rfl
      refine ⟨_, hop, (hsqs q).trans huq, ⟨fun j hj => (hsqs j).trans (huo.1 j hj), fun j hj => ?_⟩, ?_⟩
      · exact (u.queueReady_other hj).trans (huo.2 j hj)
      · have hs' : (u.queueReady q).sqs = u.sqs := by rw [hwoken]
        rw [hs']
        exact hwoken.trans (congrArg (fun t : State => { t with
          sqs := u.sqs
          strms := (u.queueReady q).strms
          tens := (u.queueReady q).tens
          seq := (u.queueReady q).seq }) hur)
end Sys2Proof
end

section
/-! O20: enabling and disabling completion and fault queues. -/

namespace Sys2Proof.Machine

theorem Cq.cfg_eq (x : Cq) (v : BitVec 64) : x.cfg (v ||| 1) = { x with
    log2sz := v.extractLsb' 1 5, ten := v.extractLsb' 6 8, irq := v.extractLsb' 14 4, msi := v.getLsbD 18
    dbslot := v.extractLsb' 19 4 } := by
  unfold Cq.cfg
  simp only [or_one_field v _ (by decide : 1 ≠ 0), or_one_field v _ (by decide : 6 ≠ 0),
    or_one_field v _ (by decide : 14 ≠ 0), or_one_field v _ (by decide : 19 ≠ 0), or_one_bit v (by decide : 18 ≠ 0),
    ofNat_toNat_self]

/-- EN=1 on a disabled completion queue (R160). -/
theorem State.cqCfgOp_enable {s : State} {c : Nat} (v : BitVec 64) (h : (s.cq c).en = false) :
    s.cqCfgOp c (v ||| 1) = s.setCq c
      (if (4 ≤ ((s.cq c).cfg (v ||| 1)).log2sz.toNat ∧ ((s.cq c).cfg (v ||| 1)).log2sz.toNat ≤ 16) ∧
          ∀ e ∈ s.cqs, e.1 ≠ c → e.2.en = true → e.2.ten = ((s.cq c).cfg (v ||| 1)).ten →
            e.2.dbslot ≠ ((s.cq c).cfg (v ||| 1)).dbslot
       then { (s.cq c).cfg (v ||| 1) with en := true, tail := 0, head := 0, ph := true, given := [], held := [] }
       else (s.cq c).cfg (v ||| 1)) := by
  unfold State.cqCfgOp
  simp only [h, or_one_bit_zero, Bool.true_and, Bool.false_eq_true, if_false]
  refine congrArg (s.setCq c) (if_congr ?_ rfl rfl)
  simp [ringOk, and_assoc]

theorem State.cqCfgOp_again {s : State} {c : Nat} (v : BitVec 64) (h : (s.cq c).en = true) :
    s.cqCfgOp c (v ||| 1) = s := by
  unfold State.cqCfgOp
  simp only [h, or_one_bit_zero, Bool.not_true, Bool.false_and, Bool.false_eq_true, if_false, if_true]

/-- EN=0 on an enabled completion queue. -/
theorem State.cqCfgOp_disable {s : State} {c : Nat} (v : BitVec 64) (h : (s.cq c).en = true) :
    s.cqCfgOp c (v &&& ~~~1) = if ∃ e ∈ s.sqs, e.2.en = true ∧ e.2.cq.toNat = c then s else s.cqQuit c := by
  unfold State.cqCfgOp
  simp only [h, and_bit_zero, Bool.not_false, Bool.true_and, if_true]
  by_cases hu : ∃ e ∈ s.sqs, e.2.en = true ∧ e.2.cq.toNat = c
  · rw [if_pos hu, if_neg]
    simpa using hu
  · rw [if_neg hu, if_pos]
    simpa using hu

/-- Accounts given back touch the submission queues alone. -/
theorem State.outstDecs_rest (s : State) (l : List CqSlot) :
    ∃ q, l.foldl (fun st g => st.outstDec g.item) s = { s with sqs := q } :=
  List.foldlRecOn (motive := fun t : State => ∃ q, t = { s with sqs := q }) _ _ ⟨s.sqs, rfl⟩ fun t ⟨q, h⟩ r _ => by
    unfold State.outstDec
    split
    · rw [h]
      exact ⟨_, rfl⟩
    · exact ⟨q, h⟩

theorem map_filter_none {α : Type} {l : List α} {p : α → Bool} {f : α → α} (g : α → Bool) (h : ∀ a ∈ l, p a = false) :
    ((l.filter fun a => !(p a && g a)).map fun a => if p a then f a else a) = l := by
  rw [List.filter_eq_self.mpr fun a ha => by rw [h a ha]; rfl]
  refine (List.map_congr_left fun a ha => ?_).trans l.map_id
  rw [h a ha]
  rfl

/-- The write of a record of completion queue `c`. -/
def Access.writesRecord (c : Nat) (a : Access) : Bool :=
  match a.kind with
  | .cqRec k _ => k == c
  | _ => false

theorem Access.writesRecord_none {c : Nat} {a : Access} (h : ∀ k, a.kind ≠ .cqRec c k) : a.writesRecord c = false := by
  unfold Access.writesRecord
  split
  · next k i hk => exact beq_eq_false_iff_ne.mpr fun hc => h i (hc ▸ hk)
  · rfl

/-- A completion queue that is disabled loses the slots given out, and their accounts end (R159). -/
theorem State.cqQuit_eq (s : State) (c : Nat) : ∃ q, ((s.cq c).given = [] → q = s.sqs) ∧
    s.cqQuit c = { s.setCq c { s.cq c with en := false, given := [] } with
      sqs := q
      acc := (s.acc.filter fun (a : Access) => !(a.writesRecord c && !inFlight a)).map fun (a : Access) =>
        if a.writesRecord c then { a with drain := true } else a } := by
  obtain ⟨q, hq⟩ := s.outstDecs_rest (s.cq c).given
  refine ⟨q, fun hg => ?_, ?_⟩
  · rw [hg] at hq
    exact (congrArg State.sqs hq).symm
  · exact congrArg (fun s1 : State => { s1.modCq c (fun x => { x with en := false, given := [] }) with
      acc := (s1.acc.filter fun (a : Access) => !(a.writesRecord c && !inFlight a)).map fun (a : Access) =>
        if a.writesRecord c then { a with drain := true } else a }) hq

/-- EN=1 on a disabled fault queue (R187). -/
theorem State.fqCfgOp_enable {s : State} {p : Nat} (v : BitVec 64) (h : (s.part p).fq.en = false) :
    let y := { (s.part p).fq with
      log2sz := v.extractLsb' 1 5, irq := v.extractLsb' 6 4, msi := v.getLsbD 10, base := v.extractLsb' 12 36 }
    s.fqCfgOp p (v ||| 1) = s.setPart p { s.part p with fq :=
      if 4 ≤ y.log2sz.toNat ∧ y.log2sz.toNat ≤ 16 then { y with en := true, tail := 0, head := 0, ph := true, buf := [] }
      else y } := by
  intro y
  unfold State.fqCfgOp
  simp only [h, or_one_bit_zero, or_one_field v _ (by decide : 1 ≠ 0), or_one_field v _ (by decide : 6 ≠ 0),
    or_one_field v _ (by decide : 12 ≠ 0), or_one_bit v (by decide : 10 ≠ 0), ofNat_toNat_self, Bool.true_and,
    Bool.false_eq_true, if_false, State.modPart_eq]
  refine congrArg (fun z => s.setPart p { s.part p with fq := z }) ?_
  exact if_congr decide_eq_true_iff rfl (by simp only [y, h])

theorem State.fqCfgOp_again {s : State} {p : Nat} (v : BitVec 64) (h : (s.part p).fq.en = true) :
    s.fqCfgOp p (v ||| 1) = s := by
  unfold State.fqCfgOp
  simp only [h, or_one_bit_zero, if_true]

/-- EN=0 on an enabled fault queue. -/
theorem State.fqCfgOp_disable {s : State} {p : Nat} (v : BitVec 64) (h : (s.part p).fq.en = true) :
    s.fqCfgOp p (v &&& ~~~1) = { s.setPart p { s.part p with fq := { (s.part p).fq with
        en := false, buf := [], busy := false
        lost := BitVec.ofNat 16 (min ((s.part p).fq.lost.toNat + (s.part p).fq.buf.length) 0xFFFF) } } with
      acc := s.acc.map fun a => if a.kind = .fqRec p then { a with drain := true } else a } := by
  unfold State.fqCfgOp
  simp only [h, and_bit_zero, if_true, Bool.false_eq_true, if_false]
  rfl

/-- With no record waiting a new HEAD is all that changes. -/
theorem State.fqHeadOp_idle {s : State} {p : Nat} (h : (s.part p).fq.buf = []) (v : BitVec 16) :
    s.fqHeadOp p v = s.setPart p { s.part p with fq := { (s.part p).fq with head := v } } := by
  unfold State.fqHeadOp
  generalize hu : State.modPart _ _ _ = u
  have hb : (u.part p).fq.buf = [] := by
    rw [← hu, State.modPart_eq, State.setPart_part, if_pos rfl]
    exact h
  unfold State.pumpFq
  dsimp only
  rw [hb]
  exact hu.symm

end Sys2Proof.Machine

namespace Sys2Proof
open Machine

/-- Settles O20: each write is one branch of its operation, on the state that it finds. -/
theorem completionAndFaultQueues : Obligations.completion_and_fault_queues := by
  unfold Obligations.completion_and_fault_queues
  refine ⟨fun s c v hs => ?_, fun s p v hs => ?_⟩
  · intro x y ok others
    have hcfg : (s.reached.cq c).cfg (v ||| 1) = y := Cq.cfg_eq _ v
    have hset : ∀ y' z, y' = z → others (s.reached.setCq c y') ∧ (s.reached.setCq c y').cq c = z := fun y' z hz =>
      ⟨fun j hj => (State.setCq_cq _ _ _ _).trans (if_neg hj), (State.setCq_cq _ _ _ _).trans ((if_pos rfl).trans hz)⟩
    have hon := State.hostWrite_eq hs (.cqEnable c v) fun u => u.cqCfgOp c (v ||| 1)
    have hoff := State.hostWrite_eq hs (.cqDisable c v) fun u => u.cqCfgOp c (v &&& ~~~1)
    refine ⟨fun he ho => ?_, fun he ho => ?_, fun he => ?_, fun he hu => ?_, fun he hu => ?_⟩
    · have hop := hon.trans (State.cqCfgOp_enable v (s := s.reached) he)
      rw [hcfg] at hop
      obtain ⟨hoth, hcq⟩ := hset _ _ (if_pos ho)
      exact ⟨_, congrArg Host.Outcome.next hop, hoth, rfl, hcq⟩
    · have hop := hon.trans (State.cqCfgOp_enable v (s := s.reached) he)
      rw [hcfg] at hop
      obtain ⟨hoth, hcq⟩ := hset _ _ (if_neg ho)
      exact ⟨_, congrArg Host.Outcome.next hop, hoth, rfl, hcq⟩
    · exact congrArg Host.Outcome.next (hon.trans (State.cqCfgOp_again v (s := s.reached) he))
    · exact congrArg Host.Outcome.next (hoff.trans ((State.cqCfgOp_disable v (s := s.reached) he).trans (if_pos hu)))
    · have hno : ¬ ∃ e ∈ s.sqs, e.2.en = true ∧ e.2.cq.toNat = c.val := fun ⟨e, hm, hen, hc⟩ => hu e hm hen hc
      obtain ⟨q, hq, hquit⟩ := s.reached.cqQuit_eq c
      have hop := hoff.trans (((State.cqCfgOp_disable v (s := s.reached) he).trans (if_neg hno)).trans hquit)
      obtain ⟨hoth, hcq⟩ := hset { x with en := false, given := [] } _ rfl
      refine ⟨_, congrArg Host.Outcome.next hop, hoth, hcq, rfl, hq, fun ha => ?_⟩
      exact map_filter_none _ fun a h => Access.writesRecord_none (ha a h)
  · intro x y is
    have hset : ∀ z, is (s.reached.setPart p { s.part p with fq := z }) z := fun z =>
      ⟨(State.setPart_part _ _ _ _).trans (if_pos rfl), fun j hj => (State.setPart_part _ _ _ _).trans (if_neg hj)⟩
    have hon := State.hostWrite_eq hs (.fqEnable p v) fun u => u.fqCfgOp p (v ||| 1)
    have hoff := State.hostWrite_eq hs (.fqDisable p v) fun u => u.fqCfgOp p (v &&& ~~~1)
    refine ⟨fun he => ?_, fun he => ?_, fun he => ?_, fun hb h => ?_⟩
    · exact ⟨_, congrArg Host.Outcome.next (hon.trans (State.fqCfgOp_enable v (s := s.reached) he)), rfl, hset _⟩
    · exact congrArg Host.Outcome.next (hon.trans (State.fqCfgOp_again v (s := s.reached) he))
    · exact ⟨_, congrArg Host.Outcome.next (hoff.trans (State.fqCfgOp_disable v (s := s.reached) he)), rfl, hset _⟩
    · have hop := (State.hostWrite_eq hs (.fqHead p h) fun u => u.fqHeadOp p h).trans
        (State.fqHeadOp_idle (s := s.reached) hb h)
      exact ⟨_, congrArg Host.Outcome.next hop, hset _, rfl⟩

end Sys2Proof
end

section
/-! O23: CLR of counters and suspect lists, SOLO mode, and the binding of STRM. -/

namespace Sys2Proof.Machine

theorem SMap.wf_map_filter {α : Type} [DecidableEq α] {m : SMap α} (d : α) (f : α → α)
    (h : m.Pairwise fun a b => a.1 < b.1) : SMap.wf ((m.map fun e => (e.1, f e.2)).filter fun e => e.2 ≠ d) d :=
  ⟨List.Pairwise.filter _ (List.pairwise_map (f := fun e : Nat × α => (e.1, f e.2)) (R := fun a b => a.1 < b.1) |>.mpr h), fun _ he => of_decide_eq_true (List.mem_filter.mp he).2⟩

/-- No stream at `j` is homed on Mover `m`. -/
def State.Unhomed (s : State) (m j : Nat) : Prop := ∀ e ∈ s.strms, e.1 = j → e.2.hmv.toNat ≠ m

theorem State.Unhomed.setStrmAt {s : State} {m j k : Nat} (h : s.Unhomed m j) (hk : j ≠ k) (x : Strm) :
    (s.setStrmAt k x).Unhomed m j := fun e he hj => by
  rcases SMap.mem_put he with rfl | he
  · exact absurd hj.symm hk
  · exact h e he hj

theorem State.Unhomed.setSt {s : State} {m j k : Nat} (h : s.Unhomed m j) (hk : j ≠ k) (st : StState) (w : Wait) :
    (s.setSt k st w).Unhomed m j := by
  unfold State.Unhomed State.setSt
  rw [State.refreshActive_strms]
  exact h.setStrmAt hk _

theorem State.Unhomed.makeReady {s : State} {m j k : Nat} (h : s.Unhomed m j) (hk : j ≠ k) :
    (s.makeReady k).Unhomed m j := by
  unfold State.makeReady
  split
  · exact h.setSt hk _ _
  · split
    · exact State.Unhomed.setSt (s := s.modStrmAt k _) (h.setStrmAt hk _) hk _ _
    · split
      · exact h.setSt hk _ _
      · exact State.Unhomed.setSt (s := s.modStrmAt k _) (h.setStrmAt hk _) hk _ _

/-- What the placing of a Mover's streams changes: streams homed on it, and what their channels hold in waiting. -/
structure State.Rehomed (m : Nat) (s t : State) : Prop where
  strm : ∀ j, ∃ st w r a n, t.strmAt j = { s.strmAt j with st := st, wait := w, readySeq := r, stopAt := a, ntile := n }
  other : ∀ j, s.Unhomed m j → t.strmAt j = s.strmAt j ∧ t.Unhomed m j
  chan : s.chans.wf Chan.reset → t.chans.wf Chan.reset ∧
    ∀ j, ((s.chan j).shadow = none → (s.chan j).loading = none → t.chan j = s.chan j)
      ∧ ∃ h l, t.chan j = { s.chan j with shadow := h, loading := l }

theorem State.Rehomed.refl (m : Nat) (s : State) : s.Rehomed m s :=
  ⟨fun _ => ⟨_, _, _, _, _, rfl⟩, fun _ h => ⟨rfl, h⟩, fun h => ⟨h, fun _ => ⟨fun _ _ => rfl, _, _, rfl⟩⟩⟩

theorem State.Rehomed.woken {m k : Nat} {s t u : State} (h : s.Rehomed m t) (hk : ¬ s.Unhomed m k) (hw : t.Woken u)
    (ho : ∀ j, j ≠ k → u.strmAt j = t.strmAt j) (hu : ∀ j, j ≠ k → t.Unhomed m j → u.Unhomed m j) : s.Rehomed m u := by
  refine ⟨fun j => ?_, fun j hj => ?_, fun hwf => ?_⟩
  · obtain ⟨a, b, c, d, n, e⟩ := h.strm j
    obtain ⟨a', b', c', d', n', e'⟩ := hw.strm j
    exact ⟨a', b', c', d', n', by rw [e', e]⟩
  · have hjk : j ≠ k := fun he => hk (he ▸ hj)
    obtain ⟨hst, hun⟩ := h.other j hj
    exact ⟨(ho j hjk).trans hst, hu j hjk hun⟩
  · obtain ⟨hc, hch⟩ := h.chan hwf
    refine ⟨hw.chans ▸ hc, fun j => ?_⟩
    rw [hw.chan j]
    exact hch j

theorem State.Rehomed.makeReady {m k : Nat} {s t : State} (h : s.Rehomed m t) (hk : ¬ s.Unhomed m k) :
    s.Rehomed m (t.makeReady k) :=
  h.woken hk (t.makeReady_woken k) (t.makeReady_other k) fun _ hj hu => hu.makeReady hj

theorem State.Rehomed.setWait {m k : Nat} {s t : State} (h : s.Rehomed m t) (hk : ¬ s.Unhomed m k) (w : Wait) :
    s.Rehomed m (t.setWait k w) :=
  h.woken hk (t.setSt_woken k _ w) (fun _ hj => (State.setSt_strmAt _ _ _ _ _).trans (if_neg hj))
    fun _ hj hu => hu.setSt hj _ _

theorem State.dropShadow_chan (s : State) (k : Nat) (h : s.chans.Pairwise fun a b => a.1 < b.1) (j : Nat) :
    (s.dropShadow k).chan j = { s.chan j with
      shadow := if (s.chan j).shadow = some k then none else (s.chan j).shadow
      loading := if (s.chan j).loading = some k then none else (s.chan j).loading } :=
  SMap.get_map_filter (f := fun v : Chan => { v with
    shadow := if v.shadow = some k then none else v.shadow
    loading := if v.loading = some k then none else v.loading }) s.chans rfl h j

/-- A stream leaves the shadow set, or the load, of its channel. -/
theorem State.Rehomed.dropShadow {m : Nat} {s t : State} (h : s.Rehomed m t) (k : Nat) : s.Rehomed m (t.dropShadow k) := by
  refine ⟨h.strm, h.other, fun hwf => ?_⟩
  obtain ⟨hw, hch⟩ := h.chan hwf
  have hget := t.dropShadow_chan k hw.1
  refine ⟨SMap.wf_map_filter Chan.reset (fun v : Chan => { v with
      shadow := if v.shadow = some k then none else v.shadow
      loading := if v.loading = some k then none else v.loading }) hw.1, fun j => ⟨fun hs hl => ?_, ?_⟩⟩
  · have he := (hch j).1 hs hl
    rw [hget j, he, hs, hl, if_neg nofun]
    exact congrArg₂ (fun a b => { s.chan j with shadow := a, loading := b }) hs.symm hl.symm
  · obtain ⟨a, b, he⟩ := (hch j).2
    exact ⟨_, _, by rw [hget j, he]⟩

theorem State.Rehomed.wakeHome {m : Nat} {s t : State} (h : s.Rehomed m t) (c : Nat) : s.Rehomed m (t.wakeHome m c) := by
  refine List.foldlRecOn (motive := s.Rehomed m) _ _ h fun u hu k hk => hu.makeReady fun hn => ?_
  obtain ⟨e, he, rfl⟩ := List.mem_map.mp hk
  obtain ⟨hm, hp⟩ := List.mem_filter.mp he
  simp only [Bool.and_eq_true, beq_iff_eq] at hp
  exact (h.other _ hn).2 e hm rfl hp.1.2

theorem State.Rehomed.rehome {m : Nat} {s t : State} (h : s.Rehomed m t) : s.Rehomed m (t.rehome m) := by
  refine List.foldlRecOn (motive := s.Rehomed m) _ _ (List.foldlRecOn (motive := s.Rehomed m) _ _ h fun u hu k hk => ?_)
    fun u hu c _ => hu.wakeHome c
  refine (hu.dropShadow k).setWait (fun hn => ?_) _
  obtain ⟨e, he, rfl⟩ := List.mem_map.mp hk
  obtain ⟨hm, hp⟩ := List.mem_filter.mp he
  simp only [Bool.and_eq_true, beq_iff_eq] at hp
  exact (h.other _ hn).2 e hm rfl hp.1.1.2

/-- SOLO mode: the Mover takes it, and its streams are placed again (R356). -/
theorem State.soloOp_rehomed (s : State) (m : Nat) (v : BitVec 32) :
    (s.setMover m { s.mover m with solo := v.getLsbD 0, solot := v.extractLsb' 1 8 }).Placed (s.soloOp m v) ∧
      s.Rehomed m (s.soloOp m v) := by
  unfold State.soloOp
  simp only [bit_toNat, ofNat_fld, State.modMover_eq]
  generalize hu : s.setMover m _ = u
  refine ⟨(State.Placed.foldl (fun t k => t.dropShadow_placed k) _ u).trans (State.rehome_placed _ m), ?_⟩
  have h0 : s.Rehomed m u := hu ▸ ⟨(State.Rehomed.refl m s).strm, (State.Rehomed.refl m s).other, (State.Rehomed.refl m s).chan⟩
  exact State.Rehomed.rehome (List.foldlRecOn (motive := s.Rehomed m) _ _ h0 fun t ht k _ => ht.dropShadow k)

/-- A write of GL_STRM to an unbound TDEST (R432). -/
theorem State.strmBindOp_unbound {s : State} {d : Nat} (v : BitVec 64) (h : (s.strmP d).en = false) :
    let y := { s.strmP d with pack := v.extractLsb' 1 2, sid := v.extractLsb' 3 21, ten := v.extractLsb' 24 8 }
    let x := s.strmAt y.sid.toNat
    s.strmBindOp d v = if v.getLsbD 0 = true ∧
        ¬ ((s.ten y.ten.toNat).en = true ∧ (x.st ≠ .empty ∧ x.pers = true ∧ x.rcv = false ∧ x.hen = true)
          ∧ (x.ten = y.ten ∧ x.tgen = (s.ten y.ten.toNat).gen)
          ∧ ∀ e : Fin 4, e.val ≠ d → (s.strmP e).en = true → (s.strmP e).sid ≠ y.sid)
      then s else s.setStrmP d { y with en := v.getLsbD 0 } := by
  intro y x
  unfold State.strmBindOp
  simp only [h, bit_toNat, ofNat_fld, Bool.false_eq_true, if_false]
  refine if_congr ?_ rfl rfl
  rw [Bool.and_eq_true]
  refine and_congr_right fun _ => ?_
  rw [Bool.not_eq_true', ← Bool.not_eq_true]
  refine not_congr ?_
  have hall : (!((List.range 4).any fun e => e != d && (s.strmP e).en && (s.strmP e).sid == y.sid)) = true ↔
      ∀ e : Fin 4, e.val ≠ d → (s.strmP e).en = true → (s.strmP e).sid ≠ y.sid := by
    simp [Fin.forall_iff]
  rw [← hall]
  simp [State.genOf, x, y]
  tauto

/-- A write of GL_STRM to a bound TDEST (R433). -/
theorem State.strmBindOp_bound {s : State} {d : Nat} (v : BitVec 64) (h : (s.strmP d).en = true) :
    s.strmBindOp d v = if v.getLsbD 0 = true ∨ ((s.strmAt (s.strmP d).sid.toNat).st = .running ∧
        ∃ k, (s.strmAt (s.strmP d).sid.toNat).cmd = some k ∧ cOpc k.raw = 1)
      then s else s.setStrmP d { s.strmP d with
        en := false, buf := [], inFrame := false, skip := false, rows := [], cur := [], curBad := false } := by
  unfold State.strmBindOp
  simp only [h, bit_toNat, if_true]
  refine if_congr ?_ rfl rfl
  rw [Bool.or_eq_true, Bool.and_eq_true, beq_iff_eq, Option.any_eq_true]
  simp

end Sys2Proof.Machine

namespace Sys2Proof
open Machine

/-- Settles O23: each write is one branch of its operation; SOLO mode places the Mover's streams again. -/
theorem countersSoloAndStrm : Obligations.counters_solo_and_strm := by
  unfold Obligations.counters_solo_and_strm
  refine ⟨fun s m hs => ⟨fun k => ?_, ?_, fun v => ?_⟩, fun s d v hs => ?_⟩
  · have hop := State.hostWrite_eq hs (.counterClear m k) fun u => u.cntClearOp m k
    exact ⟨_, congrArg Host.Outcome.next hop, (State.setCnt_cnt _ _ _ _).trans (if_pos rfl),
      fun j hj => (State.setCnt_cnt _ _ _ _).trans (if_neg hj), rfl⟩
  · have hop := State.hostWrite_eq hs (.suspectClear m) fun u => u.suspClearOp m
    exact ⟨_, congrArg Host.Outcome.next hop, (State.setMover_mover _ _ _ _).trans (if_pos rfl),
      fun j hj => (State.setMover_mover _ _ _ _).trans (if_neg hj), rfl⟩
  · have hop := State.hostWrite_eq hs (.soloMode m v) fun u => u.soloOp m v
    obtain ⟨hpl, hre⟩ := s.reached.soloOp_rehomed m v
    have hmv := fun j => hpl.mover j
    refine ⟨_, congrArg Host.Outcome.next hop, ?_, fun j hj => ?_, ?_, fun j hj => ?_, hre.strm, fun hwf => (hre.chan hwf).2⟩
    · exact (hmv m).trans ((State.setMover_mover _ _ _ _).trans (if_pos rfl))
    · exact (hmv j).trans ((State.setMover_mover _ _ _ _).trans (if_neg hj))
    · rw [hpl.movers]
      exact hpl
    · refine (hre.other j fun e he hej hm => hj e he hej ?_).1
      rw [← hm, BitVec.ofNat_toNat, BitVec.setWidth_eq]
  · intro q y x ok z moves is
    have hset : ∀ y' z, y' = z → is (s.reached.setStrmP d y') z := fun y' z hz =>
      ⟨(State.setStrmP_strmP _ _ _ _).trans ((if_pos rfl).trans hz),
        fun j hj => (State.setStrmP_strmP _ _ _ _).trans (if_neg hj), rfl⟩
    have hop := State.hostWrite_eq hs (.strmBind d v) fun u => u.strmBindOp d v
    have hun := fun he => hop.trans (State.strmBindOp_unbound v (s := s.reached) he)
    have hbd := fun he => hop.trans (State.strmBindOp_bound v (s := s.reached) he)
    have hok : ok ↔ (s.ten y.ten.toNat).en = true ∧ (x.st ≠ .empty ∧ x.pers = true ∧ x.rcv = false ∧ x.hen = true)
        ∧ (x.ten = y.ten ∧ x.tgen = (s.ten y.ten.toNat).gen)
        ∧ ∀ e : Fin 4, e.val ≠ d → (s.strmP e).en = true → (s.strmP e).sid ≠ y.sid := by
      simp only [ok, ne_eq, Fin.ext_iff]
    have hen : ∀ b, v.getLsbD 0 = b → { y with en := v.getLsbD 0 } = { y with en := b } := fun b hb => by rw [hb]
    have hoff : q.en = false → { y with en := false } = y := fun he => by rw [← he]
    refine ⟨fun he hv ho => ?_, fun he hv ho => ?_, fun he hv => ?_, fun he hv => ?_, fun he hv hm => ?_, fun he hv hm => ?_⟩
    · exact ⟨_, congrArg Host.Outcome.next ((hun he).trans (if_neg fun h => h.2 (hok.mp ho))), hset _ _ (hen _ hv)⟩
    · exact congrArg Host.Outcome.next ((hun he).trans (if_pos ⟨hv, mt hok.mpr ho⟩))
    · exact ⟨_, congrArg Host.Outcome.next ((hun he).trans (if_neg fun h => Bool.eq_false_iff.mp hv h.1)),
        hset _ _ ((hen _ hv).trans (hoff he))⟩
    · exact congrArg Host.Outcome.next ((hbd he).trans (if_pos (.inl hv)))
    · exact congrArg Host.Outcome.next ((hbd he).trans (if_pos (.inr hm)))
    · exact ⟨_, congrArg Host.Outcome.next ((hbd he).trans (if_neg (not_or.mpr ⟨Bool.eq_false_iff.mp hv, hm⟩))), hset _ _ rfl⟩

end Sys2Proof
end

section
/-! O24 and O25: words written and read at the HOST port. -/

namespace Sys2Proof.Machine

/-- A word write that the block serves acts on the state it finds, with the held low half still there. -/
theorem State.hostDo_eq {s : State} (h : s.Serves) (c : Instr) (f : State → State) :
    s.hostDo c f = f { s.reached with host := s.host } := by
  have hrun : s.inRun = true := by simp [State.inRun, h.run]
  have hheld : s.hostHeld = false := by
    simp [State.hostHeld, h.wait]
    exact ⟨h.retain, h.wake⟩
  unfold State.hostDo
  rw [hrun, h.host, if_neg (by decide), hheld, if_neg (by decide), State.awake_drainCancel]
  rfl

/-- REGISTER_WRITE where the block serves. -/
theorem State.Serves.hostWordWrite {s : State} (h : s.Serves) (off : BitVec 21) (v : BitVec 32) (strb : BitVec 4)
    (priv : Bool) {u : State} (hu : u = { s.reached with host := s.host }) : s.hostWordWrite off v strb priv =
      if u.privBars (off.toNat / 4 * 4) priv = true then u.violate
      else if strb ≠ 0xF then u
      else (regAt (off.toNat / 4 * 4)).elim u fun e => u.wordWrite (off.toNat / 4 * 4) e.1 e.2 v := by
  unfold State.hostWordWrite
  rw [State.hostDo_eq h, ← hu]
  simp only [bne_iff_ne]
  cases regAt (off.toNat / 4 * 4) <;> rfl

theorem State.privBars_priv (s : State) (o : Nat) : ¬ s.privBars o true = true := by
  unfold State.privBars
  simp

theorem State.privBars_unpriv {s : State} {o : Nat} (hp : s.hsec.priven = true) (h : o < 0x100000) :
    s.privBars o false = true := by
  unfold State.privBars
  simp [hp, h]

/-- A privileged word write with every byte strobe, at a register's word. -/
theorem State.Serves.wordWrite {s : State} (h : s.Serves) {off : BitVec 21} {r : Reg} {hi : Bool} (v : BitVec 32)
    (hr : regAt (off.toNat / 4 * 4) = some (r, hi)) : exec (.registerWrite off v 0xF true) s
      = .next (({ s.reached with host := s.host } : State).wordWrite (off.toNat / 4 * 4) r hi v) := by
  refine congrArg Host.Outcome.next ((h.hostWordWrite off v 0xF true rfl).trans ?_)
  rw [if_neg (State.privBars_priv _ _), if_neg (fun h => h rfl), hr]
  rfl

theorem State.wordWrite_low (s : State) (o : Nat) {r : Reg} (h : r.wide = true) (v : BitVec 32) :
    s.wordWrite o r false v = { s with host := { s.host with held := some (o, v) } } := by
  unfold State.wordWrite
  rw [if_neg Bool.false_ne_true, if_pos h]

theorem append_toNat (hi lo : BitVec 32) : lo.toNat + 2 ^ 32 * hi.toNat = (hi ++ lo).toNat := by
  rw [BitVec.toNat_append, ← Nat.shiftLeft_add_eq_or_of_lt lo.isLt, Nat.shiftLeft_eq]
  ring

/-- A read that the port performs at an offset: 0 where there is no register. -/
def State.wordAnswer (s : State) (o : Nat) : State := (regAt o).elim s.readZero fun e => s.wordRead o e.1 e.2

theorem State.wordAnswer_some {s : State} {o : Nat} {r : Reg} {hi : Bool} (h : regAt o = some (r, hi)) :
    s.wordAnswer o = s.wordRead o r hi := by
  unfold State.wordAnswer
  rw [h]
  rfl

/-- A read in RUN, outside DRAIN, RETAIN and WAKE, behind no access that waits. -/
theorem State.hostWordRead_run {s : State} (hhost : s.pins.host = false) (haon : s.pins.aon = false) (hoff : s.pwr.off = false)
    (hst : s.pwr.state.toNat < 3) (hwait : s.host.wait = []) (hrun : s.boot.state = 13) (off : BitVec 21) (priv : Bool) :
    s.hostWordRead off priv = if s.privBars (off.toNat / 4 * 4) priv = true then s.violate.readZero
      else s.wordAnswer (off.toNat / 4 * 4) := by
  have hin : s.inRun = true := by simp [State.inRun, hrun]
  have h3 : s.pwr.state ≠ 3 := fun h => by rw [h] at hst; exact absurd hst (by decide)
  have h4 : s.pwr.state ≠ 4 := fun h => by rw [h] at hst; exact absurd hst (by decide)
  have h5 : s.pwr.state ≠ 5 := fun h => by rw [h] at hst; exact absurd hst (by decide)
  have hheld : s.hostHeld = false := by
    simp [State.hostHeld, hwait]
    exact ⟨h4, h5⟩
  have hcan : s.drainCancel = s := if_neg h3
  unfold State.hostWordRead
  rw [hoff, hhost, haon, hin, hheld, hcan]
  dsimp only
  rw [if_neg (by decide), if_neg (by decide), if_neg fun h => absurd h.1 (not_le.mpr hst), if_neg (by decide)]
  refine if_congr Iff.rfl rfl ?_
  unfold State.wordAnswer
  cases regAt (off.toNat / 4 * 4) <;> rfl

/-- A read before RUN. -/
theorem State.hostWordRead_start {s : State} (hhost : s.pins.host = false) (haon : s.pins.aon = false)
    (hoff : s.pwr.off = false) (hrun : s.boot.state ≠ 13) (off : BitVec 21) (priv : Bool) :
    s.hostWordRead off priv = if ((regAt (off.toNat / 4 * 4)).any fun e => e.1.early) = true
      then s.wordAnswer (off.toNat / 4 * 4) else s.readZero := by
  have hin : s.inRun = false := beq_eq_false_iff_ne.mpr hrun
  unfold State.hostWordRead
  rw [hoff, hhost, haon, hin]
  dsimp only
  rw [if_neg (by decide), if_pos rfl]
  refine if_congr Iff.rfl ?_ rfl
  unfold State.wordAnswer
  cases regAt (off.toNat / 4 * 4) <;> rfl

theorem State.wordRead_low (s : State) (o : Nat) {r : Reg} (h : r.wide = true) : s.wordRead o r false = { s with
    host := { s.host with rdata := BitVec.ofNat 32 (s.regVal r), latch := some (o, BitVec.ofNat 32 (s.regVal r / 2 ^ 32)) } } := by
  unfold State.wordRead
  simp only [h, Bool.false_eq_true, if_false, if_true]

/-- The low word of SF_CNT is VALUE. -/
theorem Cnt.word_low (x : Cnt) (waited : Bool) : BitVec.ofNat 32 (x.word waited) = x.value := by
  refine BitVec.eq_of_toNat_eq ?_
  unfold Cnt.word
  rw [BitVec.toNat_ofNat, pack, Nat.add_mul_mod_self_left, Nat.mod_mod, Nat.mod_eq_of_lt x.value.isLt]

/-- SF_CNT of counter k of Mover m stands at 0x8_0000 + 8 (64 m + k). -/
theorem regAt_sfCnt {key : Nat} (h : key < 4096) : regAt (0x80000 + 8 * key) = some (.sfCnt key, false) := by
  have harr : arr (0x80000 + 8 * key) 0x80000 8 4096 = some key := by
    unfold arr
    rw [if_pos (by omega)]
    congr 1
    omega
  have hlo : regLo (0x80000 + 8 * key) = some (.sfCnt key) := by
    unfold regLo
    rw [if_neg (by omega), if_neg (by omega), if_neg (by omega), if_neg (by omega), if_neg (by omega), if_neg (by omega),
      if_neg (by omega), if_neg (by omega), if_neg (by omega), if_neg (by omega), if_pos (by omega), harr]
    rfl
  unfold regAt
  rw [hlo]

end Sys2Proof.Machine

namespace Sys2Proof
open Machine

/-- Settles O24: each write is one branch of `hostWordWrite`, at the register of its offset. -/
theorem registerWrites : Obligations.register_writes := by
  unfold Obligations.register_writes
  intro s hs u
  refine ⟨fun off v strb hp hoff => ?_, fun off v strb hno => ?_, fun off v r hr hw => ?_, fun lo hi hh => ?_, fun v => ⟨?_, ?_⟩⟩
  · refine congrArg Host.Outcome.next ((hs.hostWordWrite off v strb false rfl).trans ((if_pos ?_).trans ?_))
    · exact State.privBars_unpriv (s := { s.reached with host := s.host }) hp (by omega)
    · unfold State.violate
      rw [satInc_eq]
      rfl
  · refine congrArg Host.Outcome.next ((hs.hostWordWrite off v strb true rfl).trans ((if_neg (State.privBars_priv _ _)).trans ?_))
    by_cases hstrb : strb ≠ 0xF
    · exact if_pos hstrb
    · rw [if_neg hstrb, hno.resolve_left hstrb]
      rfl
  · refine (hs.wordWrite v hr).trans (congrArg Host.Outcome.next ?_)
    exact State.wordWrite_low _ _ hw v
  · refine (hs.wordWrite (r := .msiaddr) (hi := true) hi (by decide)).trans (congrArg Host.Outcome.next ?_)
    unfold State.wordWrite
    simp only [hh]
    rw [append_toNat]
    refine congrArg (fun x => { s.reached with irq := { s.irq with msiaddr := x } }) (ofNat_fld (hi ++ lo) 2 46)
  · exact (hs.wordWrite (r := .irqen) (hi := false) v (by decide)).trans (congrArg Host.Outcome.next rfl)
  · exact (hs.wordWrite (r := .hostsec) (hi := false) v (by decide)).trans (congrArg Host.Outcome.next rfl)
/-- Settles O25: each read is one branch of `hostWordRead`, at the register of its offset. -/
theorem registerReads : Obligations.register_reads := by
  unfold Obligations.register_reads
  intro s hhost haon hoff hst hwait answer
  have hread := fun hrun off => State.hostWordRead_run hhost haon hoff hst hwait hrun off true
  refine ⟨fun hrun => ⟨fun off r hr hw => ?_, fun off r a x hr hl ha => ?_, fun off hr => ?_, fun m k => ?_, fun off hp ho => ?_⟩,
    fun hrun => ⟨?_, fun off hno => ?_⟩⟩
  · refine congrArg Host.Outcome.next ((hread hrun off).trans (((if_neg (State.privBars_priv _ _)).trans ?_)))
    rw [State.wordAnswer_some hr]
    exact State.wordRead_low _ _ hw
  · refine congrArg Host.Outcome.next ((hread hrun off).trans (((if_neg (State.privBars_priv _ _)).trans ?_)))
    rw [State.wordAnswer_some hr]
    unfold State.wordRead
    simp only [hl, ha, if_true]
  · refine congrArg Host.Outcome.next ((hread hrun off).trans (((if_neg (State.privBars_priv _ _)).trans ?_)))
    unfold State.wordAnswer
    rw [hr]
    rfl
  · have hkey : 64 * m.val + k.val < 4096 := by omega
    have ho : (BitVec.ofNat 21 (0x80000 + 8 * (64 * m.val + k))).toNat / 4 * 4 = 0x80000 + 8 * (64 * m.val + k) := by
      rw [BitVec.toNat_ofNat]
      omega
    have hv : BitVec.ofNat 32 (s.regVal (.sfCnt (64 * m.val + k))) = (s.cnt (64 * m + k)).value := Cnt.word_low _ _
    refine ⟨some (0x80000 + 8 * (64 * m.val + k), BitVec.ofNat 32 (s.regVal (.sfCnt (64 * m.val + k)) / 2 ^ 32)),
      congrArg Host.Outcome.next ((hread hrun _).trans (((if_neg (State.privBars_priv _ _)).trans ?_)))⟩
    rw [ho, State.wordAnswer_some (regAt_sfCnt hkey), State.wordRead_low _ _ rfl, hv]
  · refine congrArg Host.Outcome.next ((State.hostWordRead_run hhost haon hoff hst hwait hrun off false).trans
      ((if_pos (State.privBars_unpriv hp (by omega))).trans ?_))
    unfold State.violate
    rw [satInc_eq]
    rfl
  · refine congrArg Host.Outcome.next ((State.hostWordRead_start hhost haon hoff hrun 0 true).trans ((if_pos (by decide)).trans ?_))
    rw [State.wordAnswer_some (r := .glId) (hi := false) (by decide)]
    rfl
  · refine congrArg Host.Outcome.next ((State.hostWordRead_start hhost haon hoff hrun off true).trans ((if_neg ?_).trans rfl))
    cases hr : regAt (off.toNat / 4 * 4) with
    | none => exact Bool.false_ne_true
    | some e => exact Bool.eq_false_iff.mp (hno e.1 e.2 hr)

end Sys2Proof
end

section
/-! O18: doorbells. -/

namespace Sys2Proof

theorem SMap.get_of_mem {α : Type} {m : SMap α} (d : α) (h : m.Pairwise fun a b => a.1 < b.1) {e : Nat × α} (he : e ∈ m) :
    m.get d e.1 = e.2 := by
  induction m with
  | nil => exact absurd he List.not_mem_nil
  | cons x m ih =>
    obtain ⟨hlt, hm⟩ := List.pairwise_cons.mp h
    rcases List.mem_cons.mp he with rfl | he
    · exact if_pos rfl
    · have := hlt e he
      exact (if_neg (by omega)).trans (ih hm he)

/-- The entry that a search finds, where the default does not qualify and only one does. -/
theorem SMap.find_unique {α : Type} [DecidableEq α] {m : SMap α} {d : α} (hwf : m.wf d) {p : α → Bool} {k : Nat}
    (hd : p d = false) (hk : p (m.get d k) = true) (hu : ∀ j, p (m.get d j) = true → j = k) :
    m.find? (fun e => p e.2) = some (k, m.get d k) := by
  cases hf : m.find? (fun e => p e.2) with
  | none =>
    rcases SMap.get_mem m d k with h | h
    · rw [h, hd] at hk
      exact absurd hk Bool.false_ne_true
    · exact absurd hk (List.find?_eq_none.mp hf _ h)
  | some e =>
    have he := SMap.get_of_mem d hwf.1 (List.mem_of_find?_eq_some hf)
    have hp : p (m.get d e.1) = true := he ▸ List.find?_some (p := fun e : Nat × α => p e.2) hf
    rw [← hu e.1 hp, he]

namespace Machine

/-- Nothing keeps stream `n` from becoming READY: no record of it is held, and its home can take it. -/
structure State.CanRun (s : State) (n : Nat) : Prop where
  held : s.hasHeld n = false
  home : s.homeOut n = false
  busy : s.homeBusy n = false

theorem State.CanRun.woken {s t : State} {n : Nat} (h : s.CanRun n) (hw : s.Woken t) : t.CanRun n := by
  obtain ⟨_, _, _, _, _, hn⟩ := hw.strm n
  have hcq : t.cqs = s.cqs := by rw [hw.rest]
  have hmv : ∀ m, t.mover m = s.mover m := fun m => hw.placed.mover m
  have hch : ∀ m c, t.ch m c = s.ch m c := fun m c => hw.chan _
  refine ⟨?_, ?_, ?_⟩
  · unfold State.hasHeld
    rw [hcq]
    exact h.held
  · unfold State.homeOut
    rw [hn, hmv]
    exact h.home
  · unfold State.homeBusy State.soloBars
    simp only [hn, hmv, hch]
    exact h.busy

theorem State.CanRun.makeReady {s : State} {n : Nat} (h : s.CanRun n) : (s.makeReady n).strmAt n = { s.strmAt n with
    st := .ready, wait := .none, readySeq := s.seq
    stopAt := if (s.strmAt n).stopAt = .recordArmed then .recordArmed else .none } :=
  s.makeReady_ready n h.held h.home h.busy

/-- What holds of a READY stream holds of it once streams were made READY, itself among them or not. -/
theorem State.CanRun.makeReadies {s : State} {n : Nat} {P : Strm → Prop} (h : s.CanRun n)
    (hP : ∀ x r, P x → P { x with
      st := .ready, wait := .none, readySeq := r, stopAt := if x.stopAt = .recordArmed then .recordArmed else .none })
    (hx : P (s.strmAt n)) (l : List Nat) : P ((s.makeReadies l).strmAt n) := by
  refine (List.foldlRecOn (motive := fun t : State => P (t.strmAt n) ∧ t.CanRun n) _ _ ⟨hx, h⟩ fun t ht k _ => ?_).1
  obtain ⟨hp, hc⟩ := ht
  refine ⟨?_, hc.woken (t.makeReady_woken k)⟩
  by_cases hk : n = k
  · subst hk
    rw [hc.makeReady]
    exact hP _ _ hp
  · rw [t.makeReady_other k n hk]
    exact hp

theorem State.inPage_disabled {s : State} {t : Nat} (h : (s.ten t).en = false) (f : State → State) : s.inPage t f = s := by
  unfold State.inPage
  rw [h]
  exact if_neg Bool.false_ne_true

theorem State.inPage_open {s : State} {t : Nat} (h : (s.ten t).en = true) (hf : s.tenFenced (BitVec.ofNat 8 t) = false)
    (f : State → State) : s.inPage t f = f s := by
  unfold State.inPage
  rw [h, hf]
  exact if_pos rfl

/-- A doorbell that names a stream of another tenant, or an EMPTY one, is ignored. -/
theorem State.inNamed_other {s : State} {t sid : Nat} (h : (s.strmAt sid).st = .empty ∨ (s.strmAt sid).ten.toNat ≠ t)
    (f : State → State) : s.inNamed t sid f = s := by
  unfold State.inNamed State.inPage
  split
  · refine if_neg ?_
    rcases h with h | h <;> simp [h]
  · rfl

theorem State.inNamed_own {s : State} {t sid : Nat} (hen : (s.ten t).en = true)
    (hfn : s.tenFenced (BitVec.ofNat 8 t) = false) (hst : (s.strmAt sid).st ≠ .empty) (ht : (s.strmAt sid).ten.toNat = t)
    (hf : s.strmFenced sid = false) (f : State → State) : s.inNamed t sid f = f s := by
  refine (State.inPage_open hen hfn _).trans (if_pos ?_)
  simp [hst, ht, hf]

/-- A stream made to go on where it stands becomes READY. -/
theorem State.goReady_eq {s : State} {n : Nat} (hw : (s.strmAt n).wait = .none) :
    s.goReady n = s.makeReady n := by
  unfold State.goReady State.waitOver
  simp only [hw]
  rw [Bool.or_true]
  exact if_pos rfl

/-- The queue that a queue tail of tenant `t` names. -/
theorem State.sqTailOp_eq {s : State} {t k q : Nat} (hwf : s.sqs.wf Sq.reset)
    (hq : (s.sq q).en = true ∧ (s.sq q).ten.toNat = t ∧ (s.sq q).dbslot.toNat = k)
    (hu : ∀ j, (s.sq j).en = true → (s.sq j).ten.toNat = t → (s.sq j).dbslot.toNat = k → j = q) (v : Nat) :
    s.sqTailOp t k v = if 2 ^ (s.sq q).log2sz.toNat ≤ v then s else
      ((s.setSq q { s.sq q with tail := BitVec.ofNat 16 v }).queueReady q).makeReadies
        ((s.setSq q { s.sq q with tail := BitVec.ofNat 16 v }).slotWaiters q) := by
  have hf := SMap.find_unique hwf (p := fun x : Sq => x.en && x.ten.toNat == t && x.dbslot.toNat == k) (k := q) rfl
    (by
      show ((s.sq q).en && (s.sq q).ten.toNat == t && (s.sq q).dbslot.toNat == k) = true
      simpa [and_assoc] using hq) fun j hj => by
      simp only [Bool.and_eq_true, beq_iff_eq] at hj
      exact hu j hj.1.1 hj.1.2 hj.2
  unfold State.sqTailOp
  rw [hf]
  rfl

/-- The queue that a completion queue head of tenant `t` names. -/
theorem State.cqHeadOp_eq {s : State} {t k c : Nat} (hwf : s.cqs.wf Cq.reset)
    (hc : (s.cq c).en = true ∧ (s.cq c).ten.toNat = t ∧ (s.cq c).dbslot.toNat = k)
    (hu : ∀ j, (s.cq j).en = true → (s.cq j).ten.toNat = t → (s.cq j).dbslot.toNat = k → j = c) (v : Nat) :
    s.cqHeadOp t k v = if 2 ^ (s.cq c).log2sz.toNat ≤ v then s else
      (s.setCq c { s.cq c with head := BitVec.ofNat 16 v }).pumpCq c := by
  have hf := SMap.find_unique hwf (p := fun x : Cq => x.en && x.ten.toNat == t && x.dbslot.toNat == k) (k := c) rfl
    (by
      show ((s.cq c).en && (s.cq c).ten.toNat == t && (s.cq c).dbslot.toNat == k) = true
      simpa [and_assoc] using hc) fun j hj => by
      simp only [Bool.and_eq_true, beq_iff_eq] at hj
      exact hu j hj.1.1 hj.1.2 hj.2
  unfold State.cqHeadOp
  rw [hf]
  rfl

theorem State.cq_held_nil {s : State} (h : ∀ e ∈ s.cqs, e.2.held = []) (c : Nat) : (s.cq c).held = [] := by
  rcases SMap.get_mem s.cqs Cq.reset c with h0 | h0
  · exact congrArg Cq.held h0
  · exact h _ h0

/-- Where no record waits for a slot, none takes one. -/
theorem State.pumpCq_idle {s : State} (h : ∀ e ∈ s.cqs, e.2.held = []) (c : Nat) : s.pumpCq c = s := by
  have hc := State.cq_held_nil h c
  have hsum : (s.cqs.map fun e => e.2.held.length).sum = 0 :=
    List.sum_eq_zero fun n hn => by
      obtain ⟨e, he, rfl⟩ := List.mem_map.mp hn
      rw [h e he]
      rfl
  unfold State.pumpCq
  rw [hc]
  exact congrArg s.pumpAll hsum

/-- From `s` to `w` only stream `n` changes, to `y`. -/
structure State.Restrm (s : State) (n : Nat) (y : Strm) (w : State) : Prop where
  rest : w = { s with strms := w.strms }
  strm : w.strmAt n = y
  other : ∀ j, j ≠ n → w.strmAt j = s.strmAt j

theorem State.Restrm.refl (s : State) (n : Nat) : s.Restrm n (s.strmAt n) s := ⟨rfl, rfl, fun _ _ => rfl⟩

theorem State.Restrm.modStrmAt {s w : State} {n : Nat} {y : Strm} (h : s.Restrm n y w) (f : Strm → Strm) :
    s.Restrm n (f y) (w.modStrmAt n f) := by
  have hat := State.setStrmAt_strmAt w n n (f (w.strmAt n))
  refine ⟨?_, hat.trans ((if_pos rfl).trans (congrArg f h.strm)), fun j hj => ?_⟩
  · exact congrArg (fun v : State => { v with strms := (w.modStrmAt n f).strms }) h.rest
  · exact (State.setStrmAt_strmAt w n j _).trans ((if_neg hj).trans (h.other j hj))

theorem State.Restrm.canRun {s w : State} {n : Nat} {y : Strm} (h : s.Restrm n y w) (hc : s.CanRun n)
    (hhen : y.hen = (s.strmAt n).hen) (hhmv : y.hmv = (s.strmAt n).hmv) (hhch : y.hch = (s.strmAt n).hch)
    (hten : y.ten = (s.strmAt n).ten) : w.CanRun n := by
  obtain ⟨hheld, hhome, hbusy⟩ := hc
  refine ⟨?_, ?_, ?_⟩
  · rw [h.rest]
    exact hheld
  · unfold State.homeOut State.mover at hhome ⊢
    rw [h.strm, hhen, hhmv, h.rest]
    exact hhome
  · unfold State.homeBusy State.soloBars State.ch State.chan State.mover at hbusy ⊢
    simp only [h.strm, hhen, hhmv, hhch, hten]
    rw [h.rest]
    exact hbusy

/-- A stream that nothing keeps from running goes on where it stands. -/
theorem State.Restrm.goReady {s w : State} {n : Nat} {y : Strm} (h : s.Restrm n y w) (hc : s.CanRun n)
    (hhen : y.hen = (s.strmAt n).hen) (hhmv : y.hmv = (s.strmAt n).hmv) (hhch : y.hch = (s.strmAt n).hch)
    (hten : y.ten = (s.strmAt n).ten) (hwait : y.wait = .none) (hat : y.stopAt ≠ .recordArmed) :
    (w.goReady n).strmAt n = { y with st := .ready, stopAt := .none, readySeq := s.seq } ∧
      (∀ j, j ≠ n → (w.goReady n).strmAt j = s.strmAt j) ∧
      w.goReady n = { s with strms := (w.goReady n).strms, tens := (w.goReady n).tens, seq := (w.goReady n).seq } := by
  have hcan := h.canRun hc hhen hhmv hhch hten
  have hseq : w.seq = s.seq := by rw [h.rest]
  rw [State.goReady_eq (by rw [h.strm, hwait])]
  refine ⟨?_, fun j hj => (w.makeReady_other n j hj).trans (h.other j hj), ?_⟩
  · rw [hcan.makeReady, h.strm, hseq, if_neg hat, ← hwait]
  · exact (w.makeReady_woken n).rest.trans (congrArg (fun v : State => { v with
      strms := (w.makeReady n).strms, tens := (w.makeReady n).tens, seq := (w.makeReady n).seq }) h.rest)

theorem State.discardPending_none {s : State} {sid : Nat} (h : (s.strmAt sid).rpend = none) : s.discardPending sid = s := by
  unfold State.discardPending
  rw [h]

theorem State.abortOp_frozen {s : State} {n : Nat} (hr : (s.strmAt n).rpend = none) (hst : (s.strmAt n).st = .frozen) :
    s.abortOp n = (s.modStrmAt n fun x => { x with abortHeld := true }).modStrmAt n fun x =>
      { x with cmd := x.cmd.map fun k => { k with spared := false } } := by
  unfold State.abortOp
  rw [hst, State.discardPending_none hr]
  rfl

theorem State.abortOp_ready {s : State} {n : Nat} (hr : (s.strmAt n).rpend = none) (hst : (s.strmAt n).st = .ready)
    (he : isEcn n = false) : s.abortOp n = (s.modStrmAt n fun x => { x with abortHeld := true }).dropShadow n := by
  unfold State.abortOp
  rw [hst, State.discardPending_none hr]
  exact if_neg (Bool.eq_false_iff.mp he)

/-- ABORT of a HALTED stream that stands at a tile ends its command. -/
theorem State.abortOp_halted {s : State} {n : Nat} {k : CmdCtx} (hr : (s.strmAt n).rpend = none)
    (hst : (s.strmAt n).st = .halted) (hat : (s.strmAt n).stopAt = .tile) (hk : (s.strmAt n).cmd = some k)
    (hw : (s.strmAt n).wait = .none) (hg : (s.strmAt n).fgenp = 0) :
    s.abortOp n = ((s.modStrmAt n fun x => { x with arrd := false, cmd := some { k with
      aborted := true, stage := .done, unknown := k.unknown || k.undecoded } }).makeReady n).wakeUp := by
  generalize hu : s.modStrmAt n _ = u
  have hun : u.unpin n = u := u.unpin_none n (by
    rw [← hu, State.modStrmAt_eq, State.setStrmAt_strmAt, if_pos rfl]
    exact hg)
  unfold State.abortOp
  rw [hst, State.discardPending_none hr]
  unfold State.abortHalted
  dsimp only
  rw [hat, hk]
  unfold State.abortWaiting
  dsimp only
  rw [hw, hat, show (StopAt.tile == StopAt.refusal) = false from rfl, Bool.or_false]
  exact congrArg (fun v : State => (v.makeReady n).wakeUp) ((congrArg (State.unpin · n) hu).trans hun)

theorem State.againOp_tile {s : State} {n : Nat} (h : (s.strmAt n).stopAt = .tile) : s.againOp n = s.goReady n := by
  unfold State.againOp
  simp only [h]

/-- SKIP of a data command that stands at a tile passes the tile over. -/
theorem State.skipOp_tile {s : State} {n : Nat} {k : CmdCtx} (h : (s.strmAt n).stopAt = .tile)
    (hk : (s.strmAt n).cmd = some k) (hd : isData k.raw = true) (hs : k.stage ≠ .done) : s.skipOp n =
      ((s.modStrmAt n fun x => { x with cmd := x.cmd.map fun y => { y with skipped := true } }).modStrmAt n
        fun x => { x with ntile := x.ntile + 1 }).goReady n := by
  unfold State.skipOp State.skipTile
  simp only [h, hk]
  exact if_pos (by simp [hd, hs])

end Machine

open Machine

/-- Settles O18: each doorbell is one branch of its operation, on the state that it finds. -/
theorem doorbells : Obligations.doorbells := by
  unfold Obligations.doorbells
  refine ⟨fun s t hs => ⟨fun hen k h v => ⟨?_, ?_⟩, fun hen hf => ⟨fun hwf q k v hq hu => ⟨fun hv => ?_, fun hv => ?_⟩,
    fun hwf c k v hc hu => ⟨fun hv => ?_, fun hv hheld => ?_⟩⟩⟩, fun s t sid hs hen hf => ?_⟩
  · exact congrArg Host.Outcome.next ((State.hostWrite_eq hs _ _).trans (State.inPage_disabled (s := s.reached) hen _))
  · exact congrArg Host.Outcome.next ((State.hostWrite_eq hs _ _).trans (State.inPage_disabled (s := s.reached) hen _))
  · have hop := (State.hostWrite_eq hs (.dbSqTail t k v) fun u => u.inPage t fun w => w.sqTailOp t k v.toNat).trans
      ((State.inPage_open (s := s.reached) hen hf _).trans (State.sqTailOp_eq (s := s.reached) hwf hq hu _))
    exact congrArg Host.Outcome.next (hop.trans (if_pos hv))
  · have hop := (State.hostWrite_eq hs (.dbSqTail t k v) fun u => u.inPage t fun w => w.sqTailOp t k v.toNat).trans
      ((State.inPage_open (s := s.reached) hen hf _).trans (State.sqTailOp_eq (s := s.reached) hwf hq hu _))
    replace hop := hop.trans (if_neg (not_le.mpr hv))
    rw [ofNat_toNat_self] at hop
    generalize hw : s.reached.setSq q { s.reached.sq q with tail := v } = w at hop
    have hww : w.Woken ((w.queueReady q).makeReadies (w.slotWaiters q)) :=
      (w.queueReady_woken q).trans (State.makeReadies_woken _ _)
    have hsq : ∀ j, ((w.queueReady q).makeReadies (w.slotWaiters q)).sq j = w.sq j := fun j => by
      have h := hww.rest
      unfold State.sq
      rw [h]
    have hwr : w = { s.reached with sqs := w.sqs } := by rw [← hw]; rfl
    refine ⟨_, congrArg Host.Outcome.next hop, ?_, fun j hj => ?_, fun harm hpers hhead hout hheld hho hhb => ?_, ?_⟩
    · rw [hsq, ← hw]
      exact (State.setSq_sq _ _ _ _).trans (if_pos rfl)
    · rw [hsq, ← hw]
      exact (State.setSq_sq _ _ _ _).trans (if_neg hj)
    · have hcan : w.CanRun q := by rw [← hw]; exact ⟨hheld, hho, hhb⟩
      have hst : w.strmAt q = s.strmAt q := by rw [← hw]; rfl
      have hread : w.readable q = true := by
        unfold State.readable
        have hsq : w.sq q = { s.sq q with tail := v } := by
          rw [← hw]
          exact (State.setSq_sq _ _ _ _).trans (if_pos rfl)
        rw [hsq]
        simp [hq.1, hhead, hout]
      have hready : w.queueReady q = w.makeReady q := if_pos ⟨by rw [hst]; exact harm, by rw [hst]; exact hpers, hread⟩
      rw [hready]
      refine (hcan.woken (w.makeReady_woken q)).makeReadies (P := fun x => x.st = .ready) (fun x r h => rfl) ?_ _
      rw [hcan.makeReady]
    · have hsqs : ((w.queueReady q).makeReadies (w.slotWaiters q)).sqs = w.sqs := by rw [hww.rest]
      rw [hsqs]
      exact hww.rest.trans (congrArg (fun t : State => { t with
        sqs := w.sqs
        strms := ((w.queueReady q).makeReadies (w.slotWaiters q)).strms
        tens := ((w.queueReady q).makeReadies (w.slotWaiters q)).tens
        seq := ((w.queueReady q).makeReadies (w.slotWaiters q)).seq }) hwr)
  · have hop := (State.hostWrite_eq hs (.dbCqHead t k v) fun u => u.inPage t fun w => w.cqHeadOp t k v.toNat).trans
      ((State.inPage_open (s := s.reached) hen hf _).trans (State.cqHeadOp_eq (s := s.reached) hwf hc hu _))
    exact congrArg Host.Outcome.next (hop.trans (if_pos hv))
  · have hop := (State.hostWrite_eq hs (.dbCqHead t k v) fun u => u.inPage t fun w => w.cqHeadOp t k v.toNat).trans
      ((State.inPage_open (s := s.reached) hen hf _).trans (State.cqHeadOp_eq (s := s.reached) hwf hc hu _))
    replace hop := hop.trans (if_neg (not_le.mpr hv))
    rw [ofNat_toNat_self, State.pumpCq_idle] at hop
    · exact ⟨_, congrArg Host.Outcome.next hop, (State.setCq_cq _ _ _ _).trans (if_pos rfl),
        fun j hj => (State.setCq_cq _ _ _ _).trans (if_neg hj), rfl⟩
    · intro e he
      rcases SMap.mem_put he with rfl | he
      · exact State.cq_held_nil hheld c
      · exact hheld e he
  · intro n x
    refine ⟨fun hno => ⟨?_, ?_, ?_, ?_⟩, fun hten hfence => ?_⟩
    · exact congrArg Host.Outcome.next ((State.hostWrite_eq hs _ _).trans (State.inNamed_other (s := s.reached) hno _))
    · exact congrArg Host.Outcome.next ((State.hostWrite_eq hs _ _).trans (State.inNamed_other (s := s.reached) hno _))
    · exact congrArg Host.Outcome.next ((State.hostWrite_eq hs _ _).trans (State.inNamed_other (s := s.reached) hno _))
    · exact congrArg Host.Outcome.next ((State.hostWrite_eq hs _ _).trans (State.inNamed_other (s := s.reached) hno _))
    · intro others quiet free
      have hown := fun hst c f => (State.hostWrite_eq hs c fun u => u.inNamed t n f).trans
        (State.inNamed_own (s := s.reached) hen hf hst hten hfence f)
      have hgo : ∀ w y, s.reached.Restrm n y w → y.hen = x.hen → y.hmv = x.hmv → y.hch = x.hch → y.ten = x.ten →
          y.wait = x.wait → y.stopAt = .tile → free → quiet (w.goReady n) ∧ (w.goReady n).strmAt n =
            { y with st := .ready, stopAt := .none, readySeq := s.seq } := fun w y hr h1 h2 h3 h4 h5 h6 ⟨f1, f2, f3, f4⟩ => by
        obtain ⟨hat, hoth, hrest⟩ := hr.goReady ⟨f1, f2, f3⟩ h1 h2 h3 h4 (h5.trans f4) (by rw [h6]; decide)
        exact ⟨⟨hoth, hrest⟩, hat⟩
      have hself := State.Restrm.refl s.reached n
      refine ⟨fun hst hat hfree => ?_, fun hst hat hfree => ?_, fun k hst hat hk hd hstage hfree => ?_, fun hr hst => ?_,
        fun hr hst hecn => ?_, fun k hr hst hat hk hfree hg => ?_⟩
      · have hop : s.reached.thawOp n = s.reached.goReady n := (if_pos hst).trans (State.againOp_tile hat)
        obtain ⟨hq, hx⟩ := hgo _ _ hself rfl rfl rfl rfl rfl hat hfree
        exact ⟨_, congrArg Host.Outcome.next ((hown (hst.trans_ne (by decide)) (.dbThaw t sid) _).trans hop), hq, hx⟩
      · have hop : s.reached.resumeOp n = s.reached.goReady n := (if_pos hst).trans (State.againOp_tile hat)
        obtain ⟨hq, hx⟩ := hgo _ _ hself rfl rfl rfl rfl rfl hat hfree
        exact ⟨_, congrArg Host.Outcome.next ((hown (hst.trans_ne (by decide)) (.dbResume t sid) _).trans hop), hq, hx⟩
      · have hop : s.reached.skipHalted n = _ := (if_pos hst).trans (State.skipOp_tile hat hk hd hstage)
        have hskip := (hself.modStrmAt fun x => { x with cmd := x.cmd.map fun y => { y with skipped := true } }).modStrmAt
          fun x => { x with ntile := x.ntile + 1 }
        obtain ⟨hq, hx⟩ := hgo _ _ hskip rfl rfl rfl rfl rfl hat hfree
        refine ⟨_, congrArg Host.Outcome.next ((hown (hst.trans_ne (by decide)) (.dbSkip t sid) _).trans hop), hq, hx.trans ?_⟩
        have hcmd : (s.reached.strmAt n).cmd = some k := hk
        dsimp only
        rw [hcmd]
        rfl
      · have hop := State.abortOp_frozen (s := s.reached) hr hst
        obtain ⟨hrest, hat, hoth⟩ := (hself.modStrmAt _).modStrmAt _
        exact ⟨_, congrArg Host.Outcome.next ((hown (hst.trans_ne (by decide)) (.dbAbort t sid) _).trans hop), hoth, hrest, hat⟩
      · have hop := State.abortOp_ready (s := s.reached) hr hst hecn
        obtain ⟨hrest, hat, hoth⟩ := hself.modStrmAt fun x => { x with abortHeld := true }
        refine ⟨_, congrArg Host.Outcome.next ((hown (hst.trans_ne (by decide)) (.dbAbort t sid) _).trans hop), hoth, hat, rfl,
          fun hwf => State.dropShadow_chan _ n hwf.1⟩
      · have hop := State.abortOp_halted (s := s.reached) hr hst hat hk hfree.2.2.2 hg
        refine ⟨_, congrArg Host.Outcome.next ((hown (hst.trans_ne (by decide)) (.dbAbort t sid) _).trans hop), ?_⟩
        have hself' := hself.modStrmAt fun y => { y with arrd := false, cmd := some { k with
          aborted := true, stage := .done, unknown := k.unknown || k.undecoded } }
        generalize State.modStrmAt _ _ _ = u at hself' ⊢
        have hrun : u.CanRun n := hself'.canRun ⟨hfree.1, hfree.2.1, hfree.2.2.1⟩ rfl rfl rfl rfl
        refine (hrun.woken (u.makeReady_woken n)).makeReadies (P := fun z => ∃ r, z = { x with
          st := .ready, stopAt := .none, readySeq := r, arrd := false
          cmd := some { k with aborted := true, stage := .done, unknown := k.unknown || k.undecoded } }) ?_ ?_ _
        · rintro _ r ⟨_, rfl⟩
          exact ⟨r, by rw [← hfree.2.2.2]; rfl⟩
        · rw [hrun.makeReady, hself'.strm]
          have hat' : (s.reached.strmAt n).stopAt = .tile := hat
          have hwait : (s.reached.strmAt n).wait = .none := hfree.2.2.2
          refine ⟨u.seq, ?_⟩
          dsimp only
          rw [hat', ← hwait]
          rfl

end Sys2Proof
end

section
/-! O51: mailbox requests that end at once, and those with far accesses. -/

namespace Sys2Proof.Machine

/-- From `s` to `t` nothing changes but accesses under way, and the power state of a management core that wakes. -/
def State.Asks (s t : State) : Prop := t = { s with acc := t.acc, nextAid := t.nextAid, pwr := t.pwr }

theorem State.Asks.refl (s : State) : s.Asks s := rfl

theorem State.Asks.trans {s t u : State} (h : s.Asks t) (g : t.Asks u) : s.Asks u :=
  Eq.trans g (congrArg (fun v : State => { v with acc := u.acc, nextAid := u.nextAid, pwr := u.pwr }) h)

theorem State.mgmtWake_asks (s : State) : s.Asks s.mgmtWake := by
  unfold State.mgmtWake
  split
  · rfl
  · exact .refl s

theorem State.mgmtWrite_asks (s : State) (kind : AKind) (addr : Nat) (l : List Byte) : s.Asks (s.mgmtWrite kind addr l) :=
  List.foldlRecOn (motive := s.Asks) _ _ s.mgmtWake_asks fun _ h _ _ => h.trans rfl

theorem State.mgmtReads_asks (s : State) (addr n : Nat) : s.Asks (s.mgmtReads addr n) :=
  List.foldlRecOn (motive := s.Asks) _ _ s.mgmtWake_asks fun _ h _ _ => h.trans rfl

/-- A contact sheet is no longer than it may be (R416). -/
theorem State.sheet_length_le (s : State) (cause : Nat) (full : Bool) (len seq : Nat) :
    (s.sheet cause full len seq).length ≤ len := by
  unfold State.sheet
  refine (List.length_take_le _ _).trans ?_
  split
  · exact Nat.zero_le _
  · split
    · omega
    · exact le_refl _

/-- Without a record that fails its parity the capture of a sheet changes nothing. -/
theorem State.sheetReads_good {s : State} (h : ∀ e ∈ s.strms, e.2.bad = 0) (len : Nat) : s.sheetReads len = s := by
  have hall : ∀ k, (s.strmAt k).bad = 0 := fun k => by
    rcases SMap.get_mem s.strms Strm.reset k with h0 | h0
    · exact congrArg Strm.bad h0
    · exact h _ h0
  unfold State.sheetReads
  rw [List.filter_eq_nil_iff.mpr fun k _ => by simp [hall k]]
  rfl

/-- A request with the words it is given, while none is in progress. -/
def State.mbGiven (s : State) (l : List (BitVec 64)) : State :=
  { s with mg := { s.mg with mbreq := putWords s.mg.mbreq l, busy := true } }

theorem State.mbRequest_idle {s : State} (h : s.mg.busy = false) (l : List (BitVec 64)) :
    s.mbRequest l = (s.mbGiven l).mbPerform := by
  unfold State.mbRequest State.mbGo
  exact (if_neg (Bool.eq_false_iff.mp h)).trans (if_neg (Bool.eq_false_iff.mp h))

theorem zipIdx_put_get (l : List (BitVec 64)) (n : Nat) (m : SMap (BitVec 64)) (k : Nat) :
    SMap.get ((l.zipIdx n).foldl (fun q e => SMap.put q 0 e.2 e.1) m) 0 k =
      if n ≤ k then (l[k - n]?).getD (SMap.get m 0 k) else SMap.get m 0 k := by
  induction l generalizing n m with
  | nil => simp
  | cons a l ih =>
    rw [List.zipIdx_cons, List.foldl_cons, ih, SMap.get_put]
    by_cases hn : n + 1 ≤ k
    · have hk : k - n = (k - (n + 1)) + 1 := by omega
      rw [if_pos hn, if_neg (show ¬ k = n by omega), if_pos (show n ≤ k by omega), hk, List.getElem?_cons_succ]
    · rw [if_neg hn]
      by_cases hk : k = n
      · subst hk
        simp
      · rw [if_neg hk, if_neg (by omega)]

theorem putWords_get (m : SMap (BitVec 64)) (l : List (BitVec 64)) (k : Nat) :
    SMap.get (putWords m l) 0 k = (l[k]?).getD (SMap.get m 0 k) := by
  refine (zipIdx_put_get l 0 m k).trans ?_
  rw [if_pos (Nat.zero_le k), Nat.sub_zero]

/-- The words of a request as its performance finds them. -/
theorem State.mbGiven_word (s : State) {l : List (BitVec 64)} {k : Nat} {a : BitVec 64} (h : l[k]? = some a) :
    (s.mbGiven l).mbWord k = a := by
  refine (putWords_get s.mg.mbreq l k).trans ?_
  rw [h]
  rfl

theorem State.mbPerform_contact {s : State} (h : s.mbWord 0 = 2) : s.mbPerform = s.mbContactGo (s.mbWord 1) (s.mbWord 2) := by
  unfold State.mbPerform
  rw [h]
  rfl

theorem State.mbPerform_logcopy {s : State} (h : s.mbWord 0 = 3) : s.mbPerform = s.mbLogGo (s.mbWord 1) (s.mbWord 2) := by
  unfold State.mbPerform
  rw [h]
  rfl

theorem State.mbPerform_sensors {s : State} (h : s.mbWord 0 = 4) : s.mbPerform = (s.mbResp s.mg.sensorWords).mbEnd 4 .ok 0 := by
  unfold State.mbPerform
  rw [h]
  rfl

theorem State.mbPerform_thresh {s : State} (h : s.mbWord 0 = 5) : s.mbPerform = s.mbThreshGo (s.mbWord 1) (s.mbWord 2) := by
  unfold State.mbPerform
  rw [h]
  rfl

theorem State.mbPerform_retain {s : State} (h : s.mbWord 0 = 6) : s.mbPerform = s.mbRetainGo := by
  unfold State.mbPerform
  rw [h]
  rfl

theorem farAddr_of {a : BitVec 64} {n : Nat} (h : a.toNat < 2 ^ 48) (hn : a.toNat % n = 0) : farAddr a n = true := by
  unfold farAddr
  rw [decide_eq_true h, hn]
  rfl

/-- CONTACT with an address that fits, where every record is good (R416). -/
theorem State.mbContactGo_fits {s : State} {addr : BitVec 64} (h : farAddr addr 64 = true) (hb : ∀ e ∈ s.strms, e.2.bad = 0)
    (w : BitVec 64) :
    let l := s.sheet 1 (w.getLsbD 32) (w.toNat % 2 ^ 32) s.mg.nseq.toNat
    s.mbContactGo addr w = ((s.mbResp [BitVec.ofNat 64 l.length]).mbWorks
      { op := 2, update := none, head := false, bus := false }).mgmtWrite .mgmt addr.toNat l := by
  have hfld : fld w.toNat 0 32 = w.toNat % 2 ^ 32 := by
    unfold fld
    rw [Nat.pow_zero, Nat.div_one]
  unfold State.mbContactGo
  rw [if_neg (by rw [h]; decide), State.sheetReads_good hb, hfld]
  dsimp only
  rw [ite_self]
  rfl

/-- LOGCOPY with an address and a count that fit (R414). -/
theorem State.mbLogGo_fits {s : State} {addr n : BitVec 64} (h : farAddr addr 16 = true) (h0 : 0 < (n.extractLsb' 0 13).toNat)
    (h1 : (n.extractLsb' 0 13).toNat ≤ 4096) : s.mbLogGo addr n =
      ((s.mbResp [BitVec.ofNat 64 (s.mg.newest (n.extractLsb' 0 13).toNat).2]).mbWorks
        { op := 3, update := none, head := false, bus := false }).mgmtWrite .mgmt addr.toNat
          (s.mg.newest (n.extractLsb' 0 13).toNat).1 := by
  unfold State.mbLogGo
  simp only [fld_toNat]
  refine if_neg ?_
  rintro (h' | h' | h')
  · exact absurd (h.symm.trans h') (by decide)
  · omega
  · omega

/-- The SEQ that LOGCOPY answers is that of the oldest entry copied. -/
theorem Mg.newest_seq {g : Mg} {n : Nat} (h0 : 0 < n) (h : n ≤ g.log.length) :
    ∃ e, g.log[n - 1]? = some e ∧ (g.newest n).2 = e.seq.toNat := by
  have hlt : n - 1 < g.log.length := by omega
  refine ⟨g.log[n - 1], List.getElem?_eq_getElem hlt, ?_⟩
  unfold Mg.newest
  have hh : (g.log.take n).reverse.head? = some g.log[n - 1] := by
    rw [List.head?_reverse, List.getLast?_eq_getElem?, List.length_take, Nat.min_eq_left h, List.getElem?_take_of_lt (by omega),
      List.getElem?_eq_getElem hlt]
  simp only [hh]
  rfl

/-- THRESH (R414). -/
theorem State.mbThreshGo_eq (s : State) (w1 w2 : BitVec 64) : s.mbThreshGo w1 w2 =
    if (w1.extractLsb' 0 16).toInt < (w1.extractLsb' 16 16).toInt
      ∧ (w1.extractLsb' 32 16).toNat < (w1.extractLsb' 48 16).toNat ∧ w2.extractLsb' 0 2 ≠ 3 ∧ w2.extractLsb' 2 2 ≠ 3
    then { s with mg := { s.mg with
      twarn := w1.extractLsb' 0 16, tcrit := w1.extractLsb' 16 16, vwarn := w1.extractLsb' 32 16
      vcrit := w1.extractLsb' 48 16, tact := w2.extractLsb' 0 2, vact := w2.extractLsb' 2 2
      amask := w2.extractLsb' 8 8 } }.mbEnd 5 .ok 0
    else s.mbEnd 5 .refused 0 := by
  have h3 : ∀ v : BitVec 2, v.toNat = 3 ↔ v = 3 := fun v => (BitVec.toNat_eq (y := 3)).symm
  unfold State.mbThreshGo
  simp only [Nat.mul_zero, Nat.mul_one, Nat.reduceMul, fld_toNat, ofNat_toNat_self, h3]
  by_cases hf : (w1.extractLsb' 0 16).toInt < (w1.extractLsb' 16 16).toInt
      ∧ (w1.extractLsb' 32 16).toNat < (w1.extractLsb' 48 16).toNat ∧ w2.extractLsb' 0 2 ≠ 3 ∧ w2.extractLsb' 2 2 ≠ 3
  · rw [if_pos hf, if_neg]
    rintro (h | h | h | h)
    · exact absurd hf.1 (not_lt.mpr h)
    · exact absurd hf.2.1 (not_lt.mpr h)
    · exact hf.2.2.1 h
    · exact hf.2.2.2 h
  · rw [if_neg hf, if_pos]
    by_contra hno
    simp only [not_or, not_le] at hno
    exact hf ⟨hno.1, hno.2.1, hno.2.2.1, hno.2.2.2⟩

/-- A request's end: DONE and STATUS, and event 0x40 (R413). -/
theorem State.mbEnd_ended (s : State) (op : Nat) (st : MbEnd) (fail : Nat) :
    (s.mbEnd op st fail).mg.busy = false ∧ (s.mbEnd op st fail).mg.done = true ∧
      (s.mbEnd op st fail).mg.status = BitVec.ofNat 4 st.code ∧ (s.mbEnd op st fail).mg.work = none ∧
      (s.mbEnd op st fail).mg.nseq = s.mg.nseq + 1 ∧
      ∃ e, (s.mbEnd op st fail).mg.log = (e :: s.mg.log).take 4096 ∧ e.code = 0x40 ∧ e.src = 0xFF ∧
        e.arg = BitVec.ofNat 40 (op % 256 + 256 * st.code + 4096 * fail) :=
  ⟨rfl, rfl, rfl, rfl, rfl, _, rfl, rfl, rfl, rfl⟩

theorem State.mbEnd_mbrsp (s : State) (op : Nat) (st : MbEnd) (fail : Nat) :
    (s.mbEnd op st fail).mg.mbrsp = s.mg.mbrsp := rfl

theorem State.mbResp_mbrsp (s : State) (l : List (BitVec 64)) : (s.mbResp l).mg.mbrsp = putWords s.mg.mbrsp l := rfl

/-- MAILBOX_REQUEST_END of a request without an update, with none of its far accesses left. -/
theorem State.mbEndOp_far {s : State} {w : MbWork} (hb : s.mg.busy = true) (hw : s.mg.work = some w) (hu : w.update = none)
    (hop : w.op ≠ 1) (hacc : ∀ a ∈ s.acc, a.kind ≠ .mgmt ∧ a.kind ≠ .mbRead) (r : Resp) (ok : Bool) :
    s.mbEndOp r ok = if w.bus = true then s.mbEnd w.op.toNat .bus 0
      else if w.op = 2 then (s.logEvent 0x41 0xFF (SMap.get s.mg.mbrsp 0 0).toNat).mbEnd 2 .ok 0
      else s.mbEnd w.op.toNat .ok 0 := by
  have hno : (s.acc.any fun a => (a.kind == .mgmt || (a.kind == .mbRead && a.stage != .out)) && !a.drain) = false := by
    refine List.any_eq_false.mpr fun a ha => ?_
    obtain ⟨h1, h2⟩ := hacc a ha
    simp [h1, h2]
  have h1 : ¬ w.op.toNat = 1 := fun h => hop (BitVec.eq_of_toNat_eq h)
  have h2 : w.op.toNat = 2 ↔ w.op = 2 := (BitVec.toNat_eq (y := 2)).symm
  unfold State.mbEndOp
  rw [hw]
  dsimp only
  rw [hb, hno, if_neg (by decide), hu]
  dsimp only
  rw [if_neg h1]
  refine if_congr Iff.rfl rfl ?_
  by_cases hc : w.op = 2
  · rw [if_pos hc, if_pos (h2.mpr hc), h2.mpr hc]
  · rw [if_neg hc, if_neg (mt h2.mp hc)]

/-- SENSORS (R414). -/
theorem State.Serves.mbSensors {s : State} (hs : s.Serves) (hb : s.mg.busy = false) :
    exec .mbSensors s = .next (((s.reached.mbGiven [4]).mbResp s.mg.sensorWords).mbEnd 4 .ok 0) :=
  congrArg Host.Outcome.next ((State.hostWrite_eq hs .mbSensors fun u => u.mbRequest [4]).trans
    ((State.mbRequest_idle (s := s.reached) hb [4]).trans (State.mbPerform_sensors (State.mbGiven_word _ rfl))))

/-- THRESH (R414). -/
theorem State.Serves.mbThresh {s : State} (hs : s.Serves) (hb : s.mg.busy = false) (w1 w2 : BitVec 64) :
    exec (.mbThresh w1 w2) s = .next ((s.reached.mbGiven [5, w1, w2]).mbThreshGo w1 w2) := by
  have h := State.mbPerform_thresh (State.mbGiven_word s.reached (l := [5, w1, w2]) rfl)
  rw [State.mbGiven_word _ (k := 1) rfl, State.mbGiven_word _ (k := 2) rfl] at h
  exact congrArg Host.Outcome.next ((State.hostWrite_eq hs (.mbThresh w1 w2) fun u => u.mbRequest [5, w1, w2]).trans
    ((State.mbRequest_idle (s := s.reached) hb _).trans h))

/-- What THRESH asks of its words (R414). -/
def threshFits (w1 w2 : BitVec 64) : Prop :=
  (w1.extractLsb' 0 16).toInt < (w1.extractLsb' 16 16).toInt
    ∧ (w1.extractLsb' 32 16).toNat < (w1.extractLsb' 48 16).toNat ∧ w2.extractLsb' 0 2 ≠ 3 ∧ w2.extractLsb' 2 2 ≠ 3

theorem State.Serves.mbThresh_fits {s : State} (hs : s.Serves) (hb : s.mg.busy = false) {w1 w2 : BitVec 64}
    (hf : threshFits w1 w2) : exec (.mbThresh w1 w2) s = .next (({ s.reached.mbGiven [5, w1, w2] with
      mg := { (s.reached.mbGiven [5, w1, w2]).mg with
        twarn := w1.extractLsb' 0 16, tcrit := w1.extractLsb' 16 16, vwarn := w1.extractLsb' 32 16
        vcrit := w1.extractLsb' 48 16, tact := w2.extractLsb' 0 2, vact := w2.extractLsb' 2 2
        amask := w2.extractLsb' 8 8 } } : State).mbEnd 5 .ok 0) := by
  rw [hs.mbThresh hb]
  exact congrArg Host.Outcome.next ((State.mbThreshGo_eq _ w1 w2).trans (if_pos hf))

theorem State.Serves.mbThresh_refused {s : State} (hs : s.Serves) (hb : s.mg.busy = false) {w1 w2 : BitVec 64}
    (hf : ¬ threshFits w1 w2) : exec (.mbThresh w1 w2) s = .next ((s.reached.mbGiven [5, w1, w2]).mbEnd 5 .refused 0) := by
  rw [hs.mbThresh hb]
  exact congrArg Host.Outcome.next ((State.mbThreshGo_eq _ w1 w2).trans (if_neg hf))

/-- RETAIN (R414). -/
theorem State.Serves.mbRetain {s : State} (hs : s.Serves) (hb : s.mg.busy = false) :
    exec .mbRetain s = .next (s.reached.mbGiven [6]).mbRetainGo :=
  congrArg Host.Outcome.next ((State.hostWrite_eq hs .mbRetain fun u => u.mbRequest [6]).trans
    ((State.mbRequest_idle (s := s.reached) hb [6]).trans (State.mbPerform_retain (State.mbGiven_word _ rfl))))

/-- CONTACT (R414). -/
theorem State.Serves.mbContact {s : State} (hs : s.Serves) (hb : s.mg.busy = false) (addr w : BitVec 64) :
    exec (.mbContact addr w) s = .next ((s.reached.mbGiven [2, addr, w]).mbContactGo addr w) := by
  have h := State.mbPerform_contact (State.mbGiven_word s.reached (l := [2, addr, w]) rfl)
  rw [State.mbGiven_word _ (k := 1) rfl, State.mbGiven_word _ (k := 2) rfl] at h
  exact congrArg Host.Outcome.next ((State.hostWrite_eq hs (.mbContact addr w) fun u => u.mbRequest [2, addr, w]).trans
    ((State.mbRequest_idle (s := s.reached) hb _).trans h))

/-- LOGCOPY (R414). -/
theorem State.Serves.mbLogcopy {s : State} (hs : s.Serves) (hb : s.mg.busy = false) (addr n : BitVec 64) :
    exec (.mbLogcopy addr n) s = .next ((s.reached.mbGiven [3, addr, n]).mbLogGo addr n) := by
  have h := State.mbPerform_logcopy (State.mbGiven_word s.reached (l := [3, addr, n]) rfl)
  rw [State.mbGiven_word _ (k := 1) rfl, State.mbGiven_word _ (k := 2) rfl] at h
  exact congrArg Host.Outcome.next ((State.hostWrite_eq hs (.mbLogcopy addr n) fun u => u.mbRequest [3, addr, n]).trans
    ((State.mbRequest_idle (s := s.reached) hb _).trans h))

/-- The response words of SENSORS (log 13). -/
theorem Mg.sensorWords_get (g : Mg) (m : SMap (BitVec 64)) (k : Fin 4) : SMap.get (putWords m g.sensorWords) 0 k =
    BitVec.ofNat 64 (leNat (((readBytes 8 g.temps ++ readBytes 4 g.volts ++ g.droopBytes).drop (8 * k)).take 8)) := by
  have hk : g.sensorWords[k.val]? = some (BitVec.ofNat 64 (leNat (((readBytes 8 g.temps ++ readBytes 4 g.volts
      ++ g.droopBytes).drop (8 * k)).take 8))) := by
    unfold Mg.sensorWords
    rw [List.getElem?_map, List.getElem?_range k.isLt]
    rfl
  rw [putWords_get, hk]
  rfl

/-- A request of operation `op` goes on with far writes, and `word` as the response's first word. -/
theorem State.mbWorks_asks {s : State} (word : BitVec 64) (op : BitVec 8) (addr : Nat) (l : List Byte) {t : State}
    (ht : t = ((s.mbResp [word]).mbWorks { op := op, update := none, head := false, bus := false }).mgmtWrite .mgmt addr l) :
    t.mg.busy = s.mg.busy ∧ t.mg.log = s.mg.log ∧ SMap.get t.mg.mbrsp 0 0 = word ∧
      (t.mg.work.map fun k => (k.op, k.bus)) = some (op, false) ∧ t.nvm = s.nvm ∧ t.strms = s.strms ∧ t.chans = s.chans := by
  have hasks := State.mgmtWrite_asks ((s.mbResp [word]).mbWorks { op := op, update := none, head := false, bus := false })
    .mgmt addr l
  rw [← ht] at hasks
  have hw : SMap.get (putWords s.mg.mbrsp [word]) 0 0 = word := (putWords_get _ _ 0).trans rfl
  rw [hasks]
  exact ⟨rfl, rfl, hw, rfl, rfl, rfl, rfl⟩

end Sys2Proof.Machine

namespace Sys2Proof
open Machine

/-- Settles O51: each request is one branch of `mbPerform`; one with far accesses then only asks for them. -/
theorem mailboxRequests : Obligations.mailbox_requests := by
  unfold Obligations.mailbox_requests
  refine ⟨fun s hs hb => ?_, fun s => ⟨fun hs hb addr w haddr => ⟨fun hal hbad => ?_, fun hal h0 h1 h2 => ?_⟩,
    fun w r ok hb hw hup hop hacc => ?_⟩⟩
  · intro u ended
    refine ⟨?_, fun w1 w2 => ?_, fun hbar => ?_, fun hbar hch => ?_⟩
    · refine ⟨_, hs.mbSensors hb, State.mbEnd_ended _ 4 .ok 0, rfl, fun k => ?_⟩
      rw [State.mbEnd_mbrsp, State.mbResp_mbrsp]
      exact Mg.sensorWords_get s.mg s.mg.mbrsp k
    · intro fits
      exact ⟨fun hf => ⟨_, hs.mbThresh_fits hb hf, State.mbEnd_ended _ 5 .ok 0, rfl, rfl, rfl, rfl, rfl, rfl, rfl, rfl⟩,
        fun hf => ⟨_, hs.mbThresh_refused hb hf, State.mbEnd_ended _ 5 .refused 0, rfl, rfl, rfl, rfl, rfl, rfl, rfl, rfl⟩⟩
    · have hret : (s.reached.mbGiven [6]).retainReq = _ := if_pos hbar
      have hgo : (s.reached.mbGiven [6]).mbRetainGo = _ := (if_pos hbar).trans (congrArg (State.mbEnd · 6 .refused 0) hret)
      exact ⟨_, (hs.mbRetain hb).trans (congrArg Host.Outcome.next hgo), State.mbEnd_ended _ 6 .refused 0, rfl⟩
    · have hret := State.retainReq_begin (s := s.reached.mbGiven [6]) hbar hch
      have hgo : (s.reached.mbGiven [6]).mbRetainGo = _ :=
        (if_neg (Bool.eq_false_iff.mp hbar)).trans (congrArg (State.mbEnd · 6 .ok 0) hret)
      exact ⟨_, (hs.mbRetain hb).trans (congrArg Host.Outcome.next hgo), State.mbEnd_ended _ 6 .ok 0, rfl⟩
  · have hop := (hs.mbContact hb addr w).trans
      (congrArg Host.Outcome.next (State.mbContactGo_fits (s := s.reached.mbGiven [2, addr, w]) (farAddr_of haddr hal) hbad w))
    obtain ⟨hbusy, hlog, hword, hwork, hnvm, hstrms, hchans⟩ := State.mbWorks_asks _ _ _ _ rfl
    have hlen := s.sheet_length_le 1 (w.getLsbD 32) (w.toNat % 2 ^ 32) s.mg.nseq.toNat
    refine ⟨_, hop, hbusy, hlog, hword, ?_, hwork, hnvm, hstrms, hchans⟩
    rw [hword, BitVec.toNat_ofNat]
    exact (Nat.mod_le _ _).trans hlen
  · have hop := (hs.mbLogcopy hb addr w).trans
      (congrArg Host.Outcome.next (State.mbLogGo_fits (s := s.reached.mbGiven [3, addr, w]) (farAddr_of haddr hal) h0 h1))
    obtain ⟨hbusy, hlog, hword, hwork, hnvm, hstrms, hchans⟩ := State.mbWorks_asks _ _ _ _ rfl
    obtain ⟨e, he, hseq⟩ := Mg.newest_seq (g := s.mg) h0 h2
    refine ⟨_, hop, hbusy, hlog, ⟨e, he, hword.trans ?_⟩, hwork, hnvm, hstrms, hchans⟩
    have hseq' : ((s.reached.mbGiven [3, addr, w]).mg.newest (w.extractLsb' 0 13).toNat).2 = e.seq.toNat := hseq
    rw [hseq', BitVec.ofNat_toNat]
  · have hend := State.mbEndOp_far hb hw hup hop (fun a ha => hacc a ha) r ok
    cases hbus : w.bus with
    | true =>
      rw [hbus, if_pos rfl] at hend
      obtain ⟨-, -, -, -, -, f, hlog, hcode, -⟩ := s.mbEnd_ended w.op.toNat .bus 0
      exact ⟨_, congrArg Host.Outcome.next hend, rfl, rfl, rfl, rfl,
        ⟨f, f, hcode, (if_neg fun h => absurd h.2 (by decide)).mpr hlog⟩, rfl⟩
    | false =>
      rw [hbus, if_neg Bool.false_ne_true] at hend
      by_cases h2 : w.op = 2
      · rw [if_pos h2] at hend
        generalize hv : s.logEvent 0x41 0xFF (SMap.get s.mg.mbrsp 0 0).toNat = v at hend
        obtain ⟨e, helog, hecode, -, hearg, -⟩ := s.logEvent_log 0x41 0xFF (SMap.get s.mg.mbrsp 0 0).toNat
        rw [hv] at helog
        obtain ⟨-, -, -, -, -, f, hflog, hfcode, -⟩ := v.mbEnd_ended 2 .ok 0
        refine ⟨_, congrArg Host.Outcome.next hend, rfl, rfl, rfl, rfl,
          ⟨e, f, hfcode, (if_pos ⟨h2, rfl⟩).mpr ⟨hflog.trans ?_, hecode, hearg⟩⟩, ?_⟩
        · rw [helog]
          simp [List.take_take]
        · have hrest : v = { s with mg := v.mg } := by rw [← hv]; rfl
          exact (rfl : v.mbEnd 2 .ok 0 = { v with mg := (v.mbEnd 2 .ok 0).mg }).trans
            (congrArg (fun x : State => { x with mg := (v.mbEnd 2 .ok 0).mg }) hrest)
      · rw [if_neg h2] at hend
        obtain ⟨-, -, -, -, -, f, hlog, hcode, -⟩ := s.mbEnd_ended w.op.toNat .ok 0
        exact ⟨_, congrArg Host.Outcome.next hend, rfl, rfl, rfl, rfl,
          ⟨f, f, hcode, (if_neg fun h => h2 h.1).mpr hlog⟩, rfl⟩

end Sys2Proof
end

section
/-! O52: the image update. -/

namespace Sys2Proof.Machine

/-- An UPDATE whose image is read, none of whose reads waits for its grant, takes what they return. -/
theorem State.mbUpdateOp_taken {s : State} {w : MbWork} {addr size : BitVec 64} (hb : s.mg.busy = true)
    (hw : s.mg.work = some w) (hop : w.op = 1) (hu : w.update = none) (h1 : SMap.get s.mg.mbreq 0 1 = addr)
    (h2 : SMap.get s.mg.mbreq 0 2 = size)
    (hacc : ∀ a ∈ s.acc, a.kind = .mbRead → a.drain = false → a.stage = .out) (l : List Byte) (r : Resp) :
    exec (.mbUpdate addr size l r) s = .next (s.updateData addr size l r) := by
  have hno : (s.acc.any fun a => a.kind == .mbRead && !a.drain && a.stage != .out) = false := by
    refine List.any_eq_false.mpr fun a ha => ?_
    simp only [Bool.and_eq_true, beq_iff_eq, bne_iff_ne, Bool.not_eq_true', not_and, not_not]
    exact fun h => hacc a ha h.1 h.2
  have haw : s.mbAwaits = true := by
    unfold State.mbAwaits
    rw [hb, hw, hno]
    simp [hop, hu]
  have hop' : s.mbUpdateOp addr size l r = s.updateData addr size l r := by
    refine if_pos ?_
    rw [haw, show s.mbWord 1 = addr from h1, show s.mbWord 2 = size from h2]
    simp
  exact congrArg Host.Outcome.next hop'

theorem headerFail_le (l : List Byte) : headerFail l ≤ 6 := by
  unfold headerFail
  extract_lets
  split
  · decide
  · split
    · decide
    · split <;> decide

/-- The response word of an UPDATE. -/
theorem updateWord {code : Nat} (h : code < 16) (slot : Bool) (q : BitVec 32) :
    BitVec.ofNat 64 (pack [(4, code), (1, b2n slot), (27, 0), (32, q.toNat)]) =
      q.setWidth 64 <<< 32 ||| BitVec.ofNat 64 (code + 16 * b2n slot) := by
  have hs : b2n slot ≤ 1 := by cases slot <;> decide
  have hq := q.isLt
  refine BitVec.eq_of_toNat_eq ?_
  have hp : pack [(4, code), (1, b2n slot), (27, 0), (32, q.toNat)] = q.toNat <<< 32 + (code + 16 * b2n slot) := by
    simp only [pack, Nat.shiftLeft_eq]
    omega
  have hlt : q.toNat <<< 32 + (code + 16 * b2n slot) < 2 ^ 64 := by
    rw [Nat.shiftLeft_eq]
    omega
  have hsh : (q.setWidth 64 <<< 32).toNat = q.toNat <<< 32 := by
    rw [BitVec.toNat_shiftLeft, BitVec.toNat_setWidth, Nat.mod_eq_of_lt (by omega : q.toNat < 2 ^ 64), Nat.mod_eq_of_lt]
    omega
  rw [BitVec.toNat_or, hsh, BitVec.toNat_ofNat, BitVec.toNat_ofNat, hp, Nat.mod_eq_of_lt hlt,
    Nat.mod_eq_of_lt (by omega : code + 16 * b2n slot < 2 ^ 64)]
  exact Nat.shiftLeft_add_eq_or_of_lt (by omega) _

theorem State.mbReadBad_bus {s : State} {w : MbWork} (hw : s.mg.work = some w) (hb : w.bus = true) (r : Resp) :
    s.mbReadBad r = true := by
  unfold State.mbReadBad
  rw [hw]
  simp [hb]

theorem State.mbReadBad_error {s : State} {r : Resp} (hr : r ≠ .okay) (h : ∃ a ∈ s.acc, a.kind = .mbRead ∧ a.drain = false) :
    s.mbReadBad r = true := by
  obtain ⟨a, ha, hk, hd⟩ := h
  unfold State.mbReadBad respOk
  have hany : (s.acc.any fun a => a.kind == .mbRead && !a.drain) = true :=
    List.any_eq_true.mpr ⟨a, ha, by simp [hk, hd]⟩
  rw [hany, beq_eq_false_iff_ne.mpr hr]
  simp

theorem State.mbReadBad_okay {s : State} {w : MbWork} (hw : s.mg.work = some w) (hb : w.bus = false) :
    s.mbReadBad .okay = false := by
  unfold State.mbReadBad
  rw [hw]
  simp [hb, respOk]

/-- The reads of an image were answered with an error. -/
theorem State.updateData_bus {s : State} {r : Resp} (h : s.mbReadBad r = true) (addr size : BitVec 64) (l : List Byte) :
    s.updateData addr size l r = s.mbReadsDone.mbEnd 1 .bus 0 := if_pos h

/-- The response of an UPDATE that ends, or that goes on. -/
def State.updateResp (s : State) (code : Nat) (l : List Byte) : State :=
  s.mbReadsDone.mbResp [BitVec.ofNat 64 (pack [(4, code), (1, b2n (!s.boot.slot)), (27, 0), (32, (imgSeq l).toNat)])]

/-- An image whose header fails, or that is not the one announced (log 14). -/
theorem State.updateData_bad {s : State} {size : BitVec 64} {l : List Byte} (h : s.mbReadBad .okay = false)
    (hc : (if headerFail l ≠ 0 then headerFail l else if imgSize l ≠ size.toNat then 2 else 0) ≠ 0) (addr : BitVec 64) :
    s.updateData addr size l .okay = (s.updateResp (if headerFail l ≠ 0 then headerFail l
      else if imgSize l ≠ size.toNat then 2 else 0) l).mbEnd 1 .image
        (if headerFail l ≠ 0 then headerFail l else if imgSize l ≠ size.toNat then 2 else 0) := by
  refine (if_neg (Bool.eq_false_iff.mp h)).trans ?_
  by_cases hf : headerFail l ≠ 0
  · rw [if_pos hf, if_pos hf]
    rfl
  · rw [if_neg hf] at hc ⊢
    rw [if_neg hf]
    by_cases hs : imgSize l ≠ size.toNat
    · rw [if_pos hs, if_pos hs]
      rfl
    · rw [if_neg hs] at hc
      exact absurd rfl hc

/-- An image no newer than the running one. -/
theorem State.updateData_stale {s : State} {size : BitVec 64} {l : List Byte} (h : s.mbReadBad .okay = false)
    (hf : headerFail l = 0) (hs : imgSize l = size.toNat) (ht : (imgSeq l - s.boot.seq).toInt ≤ 0) (addr : BitVec 64) :
    s.updateData addr size l .okay = (s.updateResp 0 l).mbEnd 1 .stale 0 :=
  (if_neg (Bool.eq_false_iff.mp h)).trans
    ((if_neg (not_not.mpr hf)).trans ((if_neg (not_not.mpr hs)).trans (if_pos ht)))

/-- The header passes and is newer: SIZE bytes are read (R415, step 1). -/
theorem State.updateData_header {s : State} {size : BitVec 64} {l : List Byte} {w : MbWork} (h : s.mbReadBad .okay = false)
    (hf : headerFail l = 0) (hs : imgSize l = size.toNat) (ht : 0 < (imgSeq l - s.boot.seq).toInt)
    (hw : s.mg.work = some w) (hh : w.head = false) (addr : BitVec 64) :
    s.updateData addr size l .okay = (s.mbReadsDone.mbWorks { op := 1, update := none, head := true, bus := false }).mgmtReads
      addr.toNat size.toNat := by
  have hany : (s.mg.work.any fun w => w.head) = false := by
    rw [hw]
    exact hh
  exact (if_neg (Bool.eq_false_iff.mp h)).trans ((if_neg (not_not.mpr hf)).trans
    ((if_neg (not_not.mpr hs)).trans ((if_neg (not_le.mpr ht)).trans (if_pos hany))))

/-- The whole image is read: its signature decides (R415, steps 2 and 3). -/
theorem State.updateData_image {s : State} {size : BitVec 64} {l : List Byte} {w : MbWork} (h : s.mbReadBad .okay = false)
    (hf : headerFail l = 0) (hs : imgSize l = size.toNat) (ht : 0 < (imgSeq l - s.boot.seq).toInt)
    (hw : s.mg.work = some w) (hh : w.head = true) (addr : BitVec 64) :
    s.updateData addr size l .okay = if signFail l ≠ 0 then (s.updateResp (signFail l) l).mbEnd 1 .image (signFail l)
      else (({ s.mbReadsDone with
          nvm := nvmErase s.nvm (slotBase (!s.boot.slot)) (ceilDiv size.toNat 65536 * 65536) }.mbResp
            [BitVec.ofNat 64 (pack [(4, 0), (1, b2n (!s.boot.slot)), (27, 0), (32, (imgSeq l).toNat)])]).mbWorks
          { op := 1, update := some (!s.boot.slot, l.take size.toNat), head := true, bus := false }).mgmtReads addr.toNat
            size.toNat := by
  have hany : ¬ (s.mg.work.any fun w => w.head) = false := by
    rw [hw]
    exact fun h => absurd (hh.symm.trans h) (by decide)
  exact (if_neg (Bool.eq_false_iff.mp h)).trans ((if_neg (not_not.mpr hf)).trans
    ((if_neg (not_not.mpr hs)).trans ((if_neg (not_le.mpr ht)).trans (if_neg hany))))

/-- A read of the management core as it is granted by nobody yet. -/
def mgmtRead (addr len aid : Nat) : Access :=
  { blankAcc 8 .mgmt 0 .mbRead false addr len with
    pa := addr, port := 0, phys := true, prot := 0b011, qos := 0, stage := .arb, aid := aid }

theorem State.pushFar0_read (s : State) (addr len : Nat) :
    (s.pushFar0 (blankAcc 8 .mgmt 0 .mbRead false addr len)).acc = s.acc ++ [mgmtRead addr len s.nextAid] := rfl

/-- The accesses that the reads of pieces of far memory add. -/
theorem pushFar0_reads (l : List (Nat × Nat)) (s : State) :
    ∃ q, (l.foldl (fun st b => st.pushFar0 (blankAcc 8 .mgmt 0 .mbRead false b.1 b.2)) s).acc = s.acc ++ q ∧
      q.map (·.len) = l.map (·.2) ∧ ∀ a ∈ q, ∃ b ∈ l, a.kind = .mbRead ∧ a.wr = false ∧ a.drain = false ∧ a.port = 0 ∧
        a.cache = 0 ∧ a.stage = .arb ∧ a.pa = b.1 ∧ a.len = b.2 := by
  induction l generalizing s with
  | nil => exact ⟨[], (List.append_nil _).symm, rfl, fun _ h => absurd h List.not_mem_nil⟩
  | cons b l ih =>
    obtain ⟨q, hacc, hlen, hq⟩ := ih (s.pushFar0 (blankAcc 8 .mgmt 0 .mbRead false b.1 b.2))
    rw [State.pushFar0_read, List.append_assoc, List.singleton_append] at hacc
    rw [List.foldl_cons]
    refine ⟨mgmtRead b.1 b.2 s.nextAid :: q, hacc, congrArg (b.2 :: ·) hlen, fun a ha => ?_⟩
    rcases List.mem_cons.mp ha with rfl | ha
    · exact ⟨b, List.mem_cons_self, rfl, rfl, rfl, rfl, rfl, rfl, rfl, rfl⟩
    · obtain ⟨b', hb', h⟩ := hq a ha
      exact ⟨b', List.mem_cons_of_mem _ hb', h⟩

theorem sum_pieces (n k : Nat) : ((List.range k).map fun i => min 2048 (n - 2048 * i)).sum = min n (2048 * k) := by
  induction k with
  | zero => simp
  | succ k ih =>
    rw [List.range_succ, List.map_append, List.sum_append, ih]
    simp only [List.map_cons, List.map_nil, List.sum_cons, List.sum_nil]
    omega

/-- The reads of `n` bytes of far memory from `addr` on. -/
theorem State.mgmtReads_acc (s : State) (addr n : Nat) : ∃ q, (s.mgmtReads addr n).acc = s.acc ++ q ∧
    (q.map (·.len)).sum = n ∧ ∀ a ∈ q, a.kind = .mbRead ∧ a.wr = false ∧ a.drain = false ∧ a.port = 0 ∧ a.cache = 0 ∧
      a.stage = .arb ∧ addr ≤ a.pa ∧ a.pa + a.len ≤ addr + n := by
  obtain ⟨q, hacc, hlen, hq⟩ := pushFar0_reads
    ((List.range ((n + 2047) / 2048)).map fun i => (addr + 2048 * i, min 2048 (n - 2048 * i))) s.mgmtWake
  have hw : s.mgmtWake.acc = s.acc := by
    unfold State.mgmtWake
    split <;> rfl
  refine ⟨q, hacc.trans (congrArg (· ++ q) hw), ?_, fun a ha => ?_⟩
  · rw [hlen, List.map_map]
    refine (sum_pieces n _).trans ?_
    omega
  · obtain ⟨b, hb, h1, h2, h3, h4, h5, h6, h7, h8⟩ := hq a ha
    obtain ⟨i, hi, rfl⟩ := List.mem_map.mp hb
    have hi := List.mem_range.mp hi
    refine ⟨h1, h2, h3, h4, h5, h6, ?_, ?_⟩
    · rw [h7]
      dsimp only
      omega
    · rw [h7, h8]
      dsimp only
      omega

theorem State.Asks.keeps {s t : State} (h : s.Asks t) :
    t.mg = s.mg ∧ t.nvm = s.nvm ∧ t.strms = s.strms ∧ t.chans = s.chans := by
  rw [h]
  exact ⟨rfl, rfl, rfl, rfl⟩

theorem State.updateResp_word {s : State} {code : Nat} (h : code < 16) (l : List Byte) :
    SMap.get (s.updateResp code l).mg.mbrsp 0 0 =
      (imgSeq l).setWidth 64 <<< 32 ||| BitVec.ofNat 64 (code + 16 * b2n (!s.boot.slot)) := by
  unfold State.updateResp
  rw [State.mbResp_mbrsp, putWords_get]
  exact updateWord h _ _

theorem updateWord_code {code : Nat} (slot : Bool) (q : BitVec 32) :
    (BitVec.ofNat 64 (pack [(4, code), (1, b2n slot), (27, 0), (32, q.toNat)])).toNat % 16 = code % 16 := by
  rw [BitVec.toNat_ofNat]
  simp only [pack]
  omega

/-- A GO of UPDATE with none in progress (R415). -/
theorem State.Serves.mbUpdate {s : State} (hs : s.Serves) (hb : s.mg.busy = false) (addr size : BitVec 64) (l : List Byte)
    (r : Resp) : exec (.mbUpdate addr size l r) s = .next ((s.reached.mbGiven [1, addr, size]).mbUpdateGo addr) := by
  have hno : s.mbAwaits = false := by
    unfold State.mbAwaits
    rw [hb]
    rfl
  have hidle : s.mbUpdateOp addr size l r = s.hostWrite (.mbUpdate addr size l r) fun u => u.mbRequest [1, addr, size] := by
    refine if_neg ?_
    rw [hno]
    exact Bool.false_ne_true
  have hgo : (s.reached.mbGiven [1, addr, size]).mbPerform = (s.reached.mbGiven [1, addr, size]).mbUpdateGo addr := by
    unfold State.mbPerform
    rw [State.mbGiven_word _ (k := 0) rfl, State.mbGiven_word _ (k := 1) rfl]
    rfl
  exact congrArg Host.Outcome.next (hidle.trans ((State.hostWrite_eq hs _ _).trans
    ((State.mbRequest_idle (s := s.reached) hb _).trans hgo)))

/-- MAILBOX_REQUEST_END of an UPDATE whose image was read again. -/
theorem State.mbEndOp_update {s : State} {w : MbWork} {slot : Bool} {img : List Byte} (hb : s.mg.busy = true)
    (hw : s.mg.work = some w) (hu : w.update = some (slot, img)) (hbus : w.bus = false)
    (hacc : ∀ a ∈ s.acc, a.kind ≠ .mgmt ∧ ((a.kind == .mbRead && !a.drain) = true → a.stage = .out)) (ok : Bool) :
    s.mbEndOp .okay ok = if ok = true then (s.mbReadsDone.nvmPut (slotBase slot) img).mbEnd 1 .ok 0
      else (s.mbReadsDone.tornSlot true).mbEnd 1 .nvm 0 := by
  have hno : (s.acc.any fun a => (a.kind == .mgmt || (a.kind == .mbRead && a.stage != .out)) && !a.drain) = false := by
    refine List.any_eq_false.mpr fun a ha => ?_
    obtain ⟨h1, h2⟩ := hacc a ha
    simp only [Bool.and_eq_true, beq_iff_eq, Bool.not_eq_true', and_imp] at h2
    simp only [Bool.and_eq_true, Bool.or_eq_true, beq_iff_eq, bne_iff_ne, Bool.not_eq_true', not_and]
    rintro (h | h)
    · exact absurd h h1
    · exact fun hd => h.2 (h2 h.1 hd)
  unfold State.mbEndOp
  rw [hw]
  dsimp only
  rw [hb, hno, if_neg (by decide), hu]
  exact if_neg (Bool.eq_false_iff.mp (State.mbReadBad_okay hw hbus))

theorem nvmRead_one (m : SMap Byte) (i : Nat) : nvmRead m i 1 = [SMap.get m 0xFF i] := rfl

theorem State.nvmPut_get (s : State) (a : Nat) (l : List Byte) (i : Nat) : SMap.get (s.nvmPut a l).nvm 0xFF i =
    if a ≤ i ∧ i < a + l.length then l.getD (i - a) 0 else SMap.get s.nvm 0xFF i :=
  nvm_writes_get l a 0 i s.nvm

/-- What an UPDATE that meets an NVM error leaves in its slot: the header erased, the rest unknown. -/
def tornBytes (n free : Nat) : List Byte := (List.range n).map fun i => if i < 1024 then 0xFF else Config.freeByte (free + 1 + i)

theorem State.tornSlot_wild {s : State} {b : Bool} {img : List Byte} (h : s.mg.work.bind (·.update) = some (b, img)) :
    (s.tornSlot true).nvm = (s.nvmPut (slotBase b) (tornBytes img.length s.free)).nvm := by
  unfold State.tornSlot
  rw [h]
  rfl

theorem tornBytes_length (n free : Nat) : (tornBytes n free).length = n := by
  unfold tornBytes
  rw [List.length_map, List.length_range]

theorem tornBytes_header {n free i : Nat} (h : i < 1024) (hn : i < n) : (tornBytes n free).getD i 0 = 0xFF := by
  unfold tornBytes
  rw [List.getD_eq_getElem?_getD, List.getElem?_map, List.getElem?_range hn]
  exact if_pos h

end Sys2Proof.Machine

namespace Sys2Proof
open Machine

/-- Settles O52: an UPDATE's image is one branch of `updateData`, its end one of `mbEndOp`. -/
theorem mailboxUpdate : Obligations.mailbox_update := by
  unfold Obligations.mailbox_update
  refine ⟨fun s addr size l w hb hw hop hu h1 h2 hacc => ?_, fun s addr size l => ?_⟩
  · intro stale code ended
    have htaken := State.mbUpdateOp_taken hb hw hop hu h1 h2 hacc l
    refine ⟨fun hbus hc => ?_, fun hbus r => ?_, fun hex => ⟨?_, ?_⟩⟩
    · have hgood := State.mbReadBad_okay hw hbus
      have hbad : code ≠ 0 → s.updateData addr size l .okay = (s.updateResp code l).mbEnd 1 .image code :=
        fun h => State.updateData_bad hgood h addr
      have hpass : code = 0 → headerFail l = 0 ∧ imgSize l = size.toNat := fun h => by
        by_cases hf : headerFail l = 0
        · refine ⟨hf, ?_⟩
          by_contra hs
          simp [code, hf, hs] at h
        · simp [code, hf] at h
      have hlt : code < 16 := by
        have := headerFail_le l
        simp only [code]
        split
        · omega
        · split <;> decide
      clear_value code
      by_cases hcode : code ≠ 0
      · refine ⟨_, (htaken _).trans (congrArg Host.Outcome.next (hbad hcode)), ⟨rfl, rfl, (if_pos hcode).symm, rfl⟩, ?_⟩
        rw [State.mbEnd_mbrsp]
        exact State.updateResp_word hlt l
      · obtain ⟨hf, hs⟩ := hpass (not_not.mp hcode)
        refine ⟨_, (htaken _).trans (congrArg Host.Outcome.next
          (State.updateData_stale hgood hf hs (hc.resolve_left hcode) addr)), ⟨rfl, rfl, (if_neg hcode).symm, rfl⟩, ?_⟩
        rw [State.mbEnd_mbrsp, not_not.mp hcode]
        exact State.updateResp_word (by decide) l
    · exact ⟨_, (htaken r).trans (congrArg Host.Outcome.next (State.updateData_bus (State.mbReadBad_bus hw hbus r) _ _ _)),
        rfl, rfl, rfl, rfl⟩
    · exact ⟨_, (htaken _).trans (congrArg Host.Outcome.next
        (State.updateData_bus (State.mbReadBad_error (by decide) hex) _ _ _)), rfl, rfl, rfl, rfl⟩
    · exact ⟨_, (htaken _).trans (congrArg Host.Outcome.next
        (State.updateData_bus (State.mbReadBad_error (by decide) hex) _ _ _)), rfl, rfl, rfl, rfl⟩
  · intro mine reads at'
    refine ⟨fun hs hb => ⟨fun haddr r => ?_, fun haddr r => ?_⟩, fun w hb hw hop hu hbus h1 h2 hpwr hacc hf hsz ht => ?_,
      fun w slot img hb hw hu hbus hacc => ?_⟩
    · have hfar : farAddr addr 4096 = true := farAddr_of haddr.1 haddr.2
      have hgo : (s.reached.mbGiven [1, addr, size]).mbUpdateGo addr =
          ((s.reached.mbGiven [1, addr, size]).mbWorks { op := 1, update := none, head := false, bus := false }).mgmtReads
            addr.toNat 1024 := if_neg (by rw [hfar]; decide)
      generalize hv : (s.reached.mbGiven [1, addr, size]).mbWorks _ = v at hgo
      obtain ⟨hmg, hnvm, hstrms, hchans⟩ := (v.mgmtReads_asks addr.toNat 1024).keeps
      have hread := v.mgmtReads_acc addr.toNat 1024
      refine ⟨_, (hs.mbUpdate hb addr size l r).trans (congrArg Host.Outcome.next hgo), ⟨?_, ?_⟩, ?_, ?_, ?_, ?_⟩
      · rw [hmg, ← hv]; rfl
      · rw [hmg, ← hv]; rfl
      · rw [← hv] at hread ⊢; exact hread
      · rw [hnvm, ← hv]; rfl
      · rw [hstrms, ← hv]; rfl
      · rw [hchans, ← hv]; rfl
    · have hfar : farAddr addr 4096 = false := by
        by_contra h
        unfold farAddr at h
        simp only [Bool.not_eq_false, Bool.and_eq_true, decide_eq_true_eq, beq_iff_eq] at h
        exact haddr h
      have hgo : (s.reached.mbGiven [1, addr, size]).mbUpdateGo addr = _ := if_pos hfar
      exact ⟨_, (hs.mbUpdate hb addr size l r).trans (congrArg Host.Outcome.next hgo), rfl, rfl, rfl, rfl⟩
    · intro u
      have hgood := State.mbReadBad_okay hw hbus
      have htaken := State.mbUpdateOp_taken hb hw hop hu h1 h2 (fun a ha hk hd => hacc a ha (by simp [mine, hk, hd])) l .okay
      cases hh : w.head with
      | false =>
        have hgo := State.updateData_header hgood hf hsz ht hw hh addr
        generalize hv : s.mbReadsDone.mbWorks _ = v at hgo
        obtain ⟨hmg, hnvm, hstrms, hchans⟩ := (v.mgmtReads_asks addr.toNat size.toNat).keeps
        have hread := v.mgmtReads_acc addr.toNat size.toNat
        refine ⟨_, htaken.trans (congrArg Host.Outcome.next hgo), ?_, ?_, (if_pos rfl).mpr ⟨⟨?_, ?_⟩, ?_, ?_⟩⟩
        · rw [hstrms, ← hv]; rfl
        · rw [hchans, ← hv]; rfl
        · rw [hmg, ← hv]; exact hb
        · rw [hmg, ← hv]; rfl
        · rw [← hv] at hread ⊢; exact hread
        · rw [hnvm, ← hv]; rfl
      | true =>
        have hgo := State.updateData_image hgood hf hsz ht hw hh addr
        by_cases hsig : signFail l ≠ 0
        · rw [if_pos hsig] at hgo
          refine ⟨_, htaken.trans (congrArg Host.Outcome.next hgo), rfl, rfl,
            (if_neg nofun).mpr ((if_pos hsig).mpr ⟨rfl, rfl, rfl, rfl, ?_, rfl⟩)⟩
          rw [State.mbEnd_mbrsp]
          unfold State.updateResp
          rw [State.mbResp_mbrsp, putWords_get]
          exact updateWord_code _ _
        · rw [if_neg hsig] at hgo
          generalize hv : State.mbWorks _ _ = v at hgo
          obtain ⟨hmg, hnvm, hstrms, hchans⟩ := (v.mgmtReads_asks addr.toNat size.toNat).keeps
          have hread := v.mgmtReads_acc addr.toNat size.toNat
          refine ⟨_, htaken.trans (congrArg Host.Outcome.next hgo), ?_, ?_, (if_neg nofun).mpr ((if_neg hsig).mpr ⟨?_, ?_, ?_, ?_⟩)⟩
          · rw [hstrms, ← hv]; rfl
          · rw [hchans, ← hv]; rfl
          · rw [hmg, ← hv]; exact hb
          · rw [hmg, ← hv]; rfl
          · rw [← hv] at hread ⊢; exact hread
          · have hslot : slotBase (!s.boot.slot) = if s.boot.slot then 0 else 0x800000 := by cases s.boot.slot <;> rfl
            rw [hnvm, ← hv, ← hslot]
            rfl
    · intro base
      have hend := State.mbEndOp_update hb hw hu hbus hacc
      have hbase : slotBase slot = base := rfl
      have hwork : s.mbReadsDone.mg.work.bind (·.update) = some (slot, img) := by
        change s.mg.work.bind _ = _
        rw [hw]
        exact hu
      refine ⟨⟨_, congrArg Host.Outcome.next ((hend true).trans (if_pos rfl)), rfl, rfl, rfl, fun i => ?_, rfl⟩,
        ⟨_, congrArg Host.Outcome.next ((hend false).trans (if_neg Bool.false_ne_true)), rfl, rfl, rfl, fun i hi hl => ?_,
          fun i hi => ?_⟩⟩
      · change nvmRead (s.mbReadsDone.nvmPut (slotBase slot) img).nvm i 1 = _
        rw [nvmRead_one, State.nvmPut_get, hbase]
        by_cases hin : base ≤ i ∧ i < base + img.length
        · rw [if_pos hin, if_pos hin]
        · rw [if_neg hin, if_neg hin]
          rfl
      · change nvmRead (s.mbReadsDone.tornSlot true).nvm (base + i) 1 = _
        rw [State.tornSlot_wild hwork, nvmRead_one, State.nvmPut_get, hbase, tornBytes_length, if_pos (by omega),
          Nat.add_sub_cancel_left, tornBytes_header hi hl]
      · change nvmRead (s.mbReadsDone.tornSlot true).nvm i 1 = _
        rw [State.tornSlot_wild hwork, nvmRead_one, State.nvmPut_get, hbase, tornBytes_length, if_neg (by omega)]
        rfl

end Sys2Proof
end

section
/-! Attempts of start (R333, R334), and O48: what ends one. -/

namespace Sys2Proof.Machine

/-- The failure code of a slot. -/
def State.slotFail (s : State) (b : Bool) : BitVec 4 := if b then s.boot.failb else s.boot.faila

/-- From `s` to `t` only failure codes and the event log change. -/
def State.Coded (s t : State) : Prop :=
  t = { s with boot := { s.boot with faila := t.boot.faila, failb := t.boot.failb }, mg := t.mg }

theorem State.Coded.refl (s : State) : s.Coded s := rfl

theorem State.Coded.trans {s t u : State} (h : s.Coded t) (g : t.Coded u) : s.Coded u :=
  Eq.trans g (congrArg (fun v : State =>
    { v with boot := { v.boot with faila := u.boot.faila, failb := u.boot.failb }, mg := u.mg }) h)

theorem State.failCode_coded (s : State) (b : Bool) (code : Nat) : s.Coded (s.failCode b code) := by cases b <;> rfl

theorem State.failCode_same (s : State) (b : Bool) (code : Nat) : (s.failCode b code).slotFail b = BitVec.ofNat 4 code := by
  cases b <;> rfl

theorem State.failCode_other (s : State) (b : Bool) (code : Nat) : (s.failCode b code).slotFail (!b) = s.slotFail (!b) := by
  cases b <;> rfl

/-- The state in which an attempt's failure leaves the block, before the fallback is tried. -/
def State.bootFailed (s : State) (code : Nat) : State :=
  { (s.failCode s.boot.slot code).bootClear with
    boot := { (s.failCode s.boot.slot code).bootClear.boot with tried := s.boot.slot :: s.boot.tried } }

theorem State.bootFailed_rest (s : State) (code : Nat) :
    (s.bootFailed code).slotFail s.boot.slot = BitVec.ofNat 4 code ∧
      (s.bootFailed code).slotFail (!s.boot.slot) = s.slotFail (!s.boot.slot) ∧ (s.bootFailed code).parts = [] ∧
      (s.bootFailed code).tens = [] ∧ (s.bootFailed code).strms = [] ∧ (s.bootFailed code).nvm = s.nvm ∧
      (s.bootFailed code).boot.cands = s.boot.cands ∧ (s.bootFailed code).boot.scridx = s.boot.scridx := by
  have hc := s.failCode_coded s.boot.slot code
  refine ⟨s.failCode_same _ code, s.failCode_other _ code, rfl, rfl, rfl, ?_, ?_, ?_⟩
  · exact (congrArg State.nvm hc).trans rfl
  · exact (congrArg (fun t : State => t.boot.cands) hc).trans rfl
  · exact (congrArg (fun t : State => t.boot.scridx) hc).trans rfl

/-- The fallback: a candidate that has not been tried. -/
theorem State.bootFail_next {s : State} {code : Nat} {c : Bool}
    (h : s.boot.cands.find? (fun c => !(s.boot.slot :: s.boot.tried).contains c) = some c) :
    s.bootFail code = (s.bootFailed code).trySlot c := by
  have h' := (congrArg (List.find? fun c => !(s.boot.slot :: s.boot.tried).contains c)
    (s.bootFailed_rest code).2.2.2.2.2.2.1).trans h
  unfold State.bootFail
  extract_lets b s1 tried src s2
  have h2 : (s2.boot.cands.find? fun c => !tried.contains c) = some c := h'
  rw [h2]
  rfl

theorem State.bootFail_last {s : State} {code : Nat}
    (h : s.boot.cands.find? (fun c => !(s.boot.slot :: s.boot.tried).contains c) = none) :
    s.bootFail code = (s.bootFailed code).bootStuck := by
  have h' := (congrArg (List.find? fun c => !(s.boot.slot :: s.boot.tried).contains c)
    (s.bootFailed_rest code).2.2.2.2.2.2.1).trans h
  unfold State.bootFail
  extract_lets b s1 tried src s2
  have h2 : (s2.boot.cands.find? fun c => !tried.contains c) = none := h'
  rw [h2]
  rfl

/-- What the failure of an attempt leaves (R333, R334). -/
structure State.AttemptFailed (s : State) (code : Nat) (t : State) : Prop where
  same : t.slotFail s.boot.slot = BitVec.ofNat 4 code
  other : t.slotFail (!s.boot.slot) = s.slotFail (!s.boot.slot)
  parts : t.parts = []
  tens : t.tens = []
  strms : t.strms = []
  nvm : t.nvm = s.nvm
  scridx : t.boot.scridx = s.boot.scridx
  last : s.boot.cands = [s.boot.slot] → t.boot.state = 14
  next : s.boot.cands = [s.boot.slot, !s.boot.slot] → s.boot.tried = [] → t.boot.state = 4 ∧ t.boot.slot = !s.boot.slot

theorem State.bootFail_failed (s : State) (code : Nat) : s.AttemptFailed code (s.bootFail code) := by
  obtain ⟨hsame, hother, hparts, htens, hstrms, hnvm, -, hscr⟩ := s.bootFailed_rest code
  cases hf : s.boot.cands.find? (fun c => !(s.boot.slot :: s.boot.tried).contains c) with
  | none =>
    rw [State.bootFail_last hf]
    refine ⟨hsame, hother, hparts, htens, hstrms, hnvm, hscr, fun _ => rfl, fun hc ht => ?_⟩
    rw [hc, ht] at hf
    cases hb : s.boot.slot <;> simp [hb] at hf
  | some c =>
    rw [State.bootFail_next hf]
    refine ⟨hsame, hother, hparts, htens, hstrms, hnvm, hscr, fun hc => ?_, fun hc ht => ⟨rfl, ?_⟩⟩
    · rw [hc] at hf
      cases hb : s.boot.slot <;> simp [hb] at hf
    · rw [hc, ht] at hf
      change c = _
      cases hb : s.boot.slot <;> simp [hb] at hf ⊢ <;> exact hf

/-- The code of a slot's header; that of slot `lost` could not be read (R319). -/
def State.slotCode (s : State) (lost : Option Bool) (b : Bool) : Nat :=
  if lost = some b then 1 else headerFail (s.slotHead b)

/-- The state once both headers are read. -/
def State.slotsRead (s : State) (lost : Option Bool) : State :=
  [false, true].foldl (fun (st : State) b => if s.slotCode lost b = 0 then st else st.failCode b (s.slotCode lost b)) s

theorem State.slotsRead_coded (s : State) (lost : Option Bool) : s.Coded (s.slotsRead lost) :=
  List.foldlRecOn (motive := s.Coded) _ _ (.refl s) fun t h b _ => by
    split
    · exact h
    · exact h.trans (t.failCode_coded b _)

theorem State.slotsRead_fail (s : State) (lost : Option Bool) {b : Bool} (h : s.slotCode lost b ≠ 0) :
    (s.slotsRead lost).slotFail b = BitVec.ofNat 4 (s.slotCode lost b) := by
  unfold State.slotsRead
  cases b with
  | false =>
    simp only [List.foldl_cons, List.foldl_nil, if_neg h]
    split
    · exact s.failCode_same false _
    · exact (State.failCode_other _ true _).trans (s.failCode_same false _)
  | true =>
    simp only [List.foldl_cons, List.foldl_nil, if_neg h]
    exact State.failCode_same _ true _

/-- The state in which step 4 begins, with its candidates. -/
def State.slotsFound (s : State) (lost : Option Bool) (c : List Bool) : State :=
  { s.slotsRead lost with boot := { (s.slotsRead lost).boot with cands := c, tried := [] } }

theorem State.selectSlot_none {s : State} {lost : Option Bool} (h : ∀ b, s.slotCode lost b ≠ 0) :
    s.selectSlot lost = (s.slotsFound lost []).bootStuck := by
  have hc : ∀ l : List Bool, (l.filter fun b => decide (s.slotCode lost b = 0)) = [] := fun l =>
    List.filter_eq_nil_iff.mpr fun b _ => by simp [h b]
  unfold State.selectSlot
  extract_lets code s1 later c src s2
  have hcn : c = [] := hc _
  have hs2 : s2 = s.slotsFound lost c := rfl
  rw [hs2, hcn]

/-- The slot tried first (R322). -/
theorem State.selectSlot_first {s : State} {lost : Option Bool} {b : Bool} (h : s.slotCode lost b = 0)
    (hb : s.slotCode lost (!b) = 0 → b = decide ((imgSeq (s.slotHead false) - imgSeq (s.slotHead true)).toInt < 0)) :
    s.selectSlot lost = (s.slotsFound lost (b :: if s.slotCode lost (!b) = 0 then [!b] else [])).trySlot b := by
  unfold State.selectSlot
  extract_lets code s1 later c src s2
  have hlater : s.slotCode lost (!b) = 0 → later = b := fun h' =>
    BitVec.msb_eq_toInt.trans (hb h').symm
  have hcn : c = b :: if s.slotCode lost (!b) = 0 then [!b] else [] := by
    have hcode : ∀ x, code x = s.slotCode lost x := fun _ => rfl
    simp only [c, hcode]
    clear_value later
    by_cases h' : s.slotCode lost (!b) = 0
    · rw [hlater h', if_pos h']
      cases b <;> simp_all
    · rw [if_neg h']
      cases b <;> cases later <;> simp_all
  have hs2 : s2 = s.slotsFound lost c := rfl
  rw [hs2, hcn]

/-- What an entry of the script that ends the attempt leaves. -/
theorem State.scriptFails_failed (s : State) : ({ s with boot := { s.boot with scridx := BitVec.ofNat 16 s.boot.sidx } } :
    State).AttemptFailed 9 (s.scriptFails true) := by
  obtain ⟨h1, h2, h3, h4, h5, h6, h7, h8, h9⟩ := State.bootFail_failed
    { s.scriptDrop.logEvent 0x03 0xFF (s.boot.sidx % 65536 + 65536 * b2n true) with
      boot := { s.boot with scridx := BitVec.ofNat 16 s.boot.sidx } } 9
  exact ⟨h1, h2, h3, h4, h5, h6, h7, h8, h9⟩

/-- The entry of a script that runs. -/
theorem State.scriptNow_some {s : State} {e : ScrEnt} (h : s.scriptNow = some e) :
    s.startable = true ∧ s.boot.running = true ∧ s.boot.state = 8 := by
  unfold State.scriptNow at h
  split at h
  · next hc =>
    simp only [Bool.and_eq_true, beq_iff_eq] at hc
    exact ⟨hc.1.1, hc.1.2, hc.2⟩
  · exact absurd h (by simp)

theorem State.onEntry_some {s : State} {e : ScrEnt} (h : s.scriptNow = some e) {op : Nat} (ho : e.op = op)
    (f : ScrEnt → State) : s.onEntry op f = f e := by
  unfold State.onEntry
  rw [h]
  exact if_pos ho

/-- A lost access of the script fails its entry. -/
theorem State.bootCheck_script {s : State} {e : ScrEnt} (h : s.scriptNow = some e) (hl : s.boot.lost = true) :
    s.bootCheck = ({ s with boot := { s.boot with lost := false } } : State).scriptFails e.fatal := by
  obtain ⟨hs, hr, h8⟩ := State.scriptNow_some h
  unfold State.bootCheck
  rw [if_neg (by rw [hs, h8]; decide), if_pos hl]
  dsimp only
  rw [if_neg (by rw [h8]; decide)]
  have h' : ({ s with boot := { s.boot with lost := false } } : State).scriptNow = some e := h
  rw [h']

theorem State.find_isSome {s : State} (h : ∃ a ∈ s.acc, a.kind = .script ∧ a.stage = .out ∧ a.drain = false) :
    ∃ a, (s.acc.find? fun a => a.kind == .script && a.stage == .out && !a.drain) = some a := by
  obtain ⟨a, ha, hk, hst, hd⟩ := h
  exact Option.isSome_iff_exists.mp (List.find?_isSome.mpr ⟨a, ha, by simp [hk, hst, hd]⟩)

/-- An error response of the running entry's access. -/
theorem State.scriptAnswer_error {s : State} {e : ScrEnt} {op : Nat} (h : s.scriptNow = some e) (ho : e.op = op)
    (hl : s.boot.lost = false) {r : Resp} (hr : r ≠ .okay)
    {a : Access} (ha : (s.acc.find? fun a => a.kind == .script && a.stage == .out && !a.drain) = some a)
    (f : State → ScrEnt → State) : s.scriptAnswer op r f = (s.delAcc a.aid).scriptFails e.fatal := by
  unfold State.scriptAnswer
  rw [hl, if_neg Bool.false_ne_true, State.onEntry_some h ho, ha]
  refine if_neg ?_
  unfold respOk
  rw [beq_eq_false_iff_ne.mpr hr]
  decide

end Sys2Proof.Machine

namespace Sys2Proof
open Machine

/-- Settles O48: the slot is tried again, or not, as its candidates say; an entry that ends the attempt is one that fails
as FATAL. -/
theorem attemptsEnd : Obligations.attempts_end := by
  unfold Obligations.attempts_end
  refine ⟨fun s hs => ⟨fun hst b => ?_, fun hst => ?_, fun hst => ?_⟩, fun s e he => ?_⟩
  · have hop : s.nvmTimeoutOp b = s.selectSlot (some b) :=
      (if_neg (by rw [hs]; decide)).trans (if_pos (.inr hst))
    have hb : s.slotCode (some b) b = 1 := if_pos rfl
    have hnb : s.slotCode (some b) (!b) = headerFail (nvmRead s.nvm (if b then 0 else 0x800000) 1024) := by
      refine (if_neg ?_).trans ?_
      · cases b <;> decide
      · cases b <;> rfl
    have hfail := s.slotsRead_fail (some b) (b := b) (by rw [hb]; decide)
    have hnvm : (s.slotsRead (some b)).nvm = s.nvm := (congrArg State.nvm (s.slotsRead_coded (some b))).trans rfl
    rw [hb] at hfail
    by_cases hc : headerFail (nvmRead s.nvm (if b then 0 else 0x800000) 1024) = 0
    · have hsel := State.selectSlot_first (s := s) (lost := some b) (b := !b) (hnb.trans hc) fun h => by
        rw [Bool.not_not, hb] at h
        exact absurd h (by decide)
      exact ⟨_, congrArg Host.Outcome.next (hop.trans hsel), hfail, hnvm, (if_pos hc).mpr ⟨rfl, rfl⟩⟩
    · have hsel := State.selectSlot_none (s := s) (lost := some b) fun x => by
        by_cases hx : x = b
        · rw [hx, hb]
          decide
        · rw [Bool.eq_not.mpr hx, hnb]
          exact hc
      exact ⟨_, congrArg Host.Outcome.next (hop.trans hsel), hfail, hnvm, (if_neg hc).mpr rfl⟩
  · have hop : s.nvmTimeoutOp (!s.boot.slot) = s := (if_neg (by rw [hs]; decide)).trans
      ((if_neg (by rw [hst]; decide)).trans (if_neg fun h => by
        have h2 := h.2
        cases hb : s.boot.slot <;> simp [hb] at h2))
    exact congrArg Host.Outcome.next hop
  · have hop : s.nvmTimeoutOp s.boot.slot = s.bootFail 1 := (if_neg (by rw [hs]; decide)).trans
      ((if_neg (by rw [hst]; decide)).trans (if_pos ⟨hst, rfl⟩))
    obtain ⟨hsame, hother, hparts, htens, hstrms, hnvm, -, hlast, hnext⟩ := s.bootFail_failed 1
    refine ⟨_, congrArg Host.Outcome.next hop, ?_, hlast, hnext, hparts, htens, hstrms, hnvm⟩
    generalize s.bootFail 1 = t at hsame hother
    cases hb : s.boot.slot with
    | false =>
      rw [hb] at hsame hother
      exact (if_neg Bool.false_ne_true).mpr ⟨hsame, hother⟩
    | true =>
      rw [hb] at hsame hother
      exact (if_pos rfl).mpr ⟨hsame, hother⟩
  · intro failed
    have hfailed : ∀ u : State, u.boot.sidx = s.boot.sidx → u.boot.slot = s.boot.slot → u.boot.cands = s.boot.cands →
        u.boot.tried = s.boot.tried → u.nvm = s.nvm → failed (u.scriptFails true) := fun u h1 h2 h3 h4 h5 => by
      obtain ⟨hsame, -, hparts, htens, hstrms, hnvm, hscr, hlast, hnext⟩ := u.scriptFails_failed
      refine ⟨?_, ?_, hparts, htens, hstrms, hnvm.trans h5, ?_, ?_⟩
      · rw [← h1]; exact hscr
      · rw [← h2]; exact hsame
      · rw [← h2, ← h3]; exact hlast
      · rw [← h2, ← h3, ← h4]; exact hnext
    refine ⟨?_, fun hf ho => ?_, fun hf ho hex => ?_⟩
    · have hop : s.scriptLimitOp = s.scriptFails true := if_pos (by rw [he]; rfl)
      exact ⟨_, congrArg Host.Outcome.next hop, hfailed s rfl rfl rfl rfl rfl⟩
    · have hop : (s.onEntry 2 fun e => s.scriptFails e.fatal) = s.scriptFails true := by
        rw [State.onEntry_some he ho, hf]
      exact ⟨_, congrArg Host.Outcome.next hop, hfailed s rfl rfl rfl rfl rfl⟩
    · cases hl : s.boot.lost with
      | true =>
        have hop : s.scriptWriteOp .decerr = _ := (if_pos hl).trans (State.bootCheck_script he hl)
        rw [hf] at hop
        exact ⟨_, congrArg Host.Outcome.next hop, hfailed _ rfl rfl rfl rfl rfl⟩
      | false =>
        obtain ⟨a, ha⟩ := State.find_isSome (hex.resolve_left (Bool.eq_false_iff.mp hl))
        have hop : s.scriptWriteOp .decerr = _ := State.scriptAnswer_error he ho hl (by decide) ha _
        rw [hf] at hop
        exact ⟨_, congrArg Host.Outcome.next hop, hfailed _ rfl rfl rfl rfl rfl⟩

end Sys2Proof
end

section
/-! O47: the load of a boot image. -/

namespace Sys2Proof.Machine

theorem State.imgPut_boot (s : State) (r : Reg) (v : Nat) :
    (s.imgPut r v).boot = { s.boot with imgcfg := (s.imgPut r v).boot.imgcfg } := by
  cases r <;> rfl

/-- The registers that an image loads leave the attempt. -/
theorem State.loadRegs_boot (s : State) (l : List (Reg × Nat)) :
    (s.loadRegs l).boot = { s.boot with imgcfg := (s.loadRegs l).boot.imgcfg } :=
  List.foldlRecOn (motive := fun t : State => t.boot = { s.boot with imgcfg := t.boot.imgcfg }) _ _ rfl fun t h e _ => by
    rw [t.imgPut_boot e.1 e.2, h]

theorem State.loadRegs_nvm (s : State) (l : List (Reg × Nat)) : (s.loadRegs l).nvm = s.nvm :=
  congrArg Prod.snd (s.loadRegs_stored l)

/-- What the checks of an image find (R328): 0, or a code. -/
def State.imageFails (s : State) : Nat :=
  let img := s.bootImage
  let regs := bootRegs img
  if signFail img ≠ 0 then signFail img else if headerFail img ≠ 0 then headerFail img
  else if formatFail img then 6 else if regsBad (regEnts ((secBytes img 1).getD [])) then 7
  else if (s.loadRegs regs).configBad regs (sections img) then 8 else 0

/-- Steps 4 to 7: the attempt fails with the code that the checks find, or the image is loaded. -/
theorem State.loadSlot_cases (s : State) :
    (s.readImage.imageFails ≠ 0 ∧ ∃ v : State, s.loadSlot = v.bootFail s.readImage.imageFails ∧ v.nvm = s.nvm ∧
      v.boot.slot = s.boot.slot ∧ v.boot.cands = s.boot.cands ∧ v.boot.tried = s.boot.tried) ∨
    (s.readImage.imageFails = 0 ∧ s.loadSlot.boot.state = 8 ∧ s.loadSlot.boot.slot = s.boot.slot ∧
      s.loadSlot.boot.seq = s.boot.seq ∧
      s.loadSlot.parts = (s.readImage.loadRegs (bootRegs s.readImage.bootImage)).parts ∧
      s.loadSlot.tens = (s.readImage.loadRegs (bootRegs s.readImage.bootImage)).tens) := by
  generalize hv : s.readImage = v
  have hboot : v.nvm = s.nvm ∧ v.boot.slot = s.boot.slot ∧ v.boot.cands = s.boot.cands ∧ v.boot.tried = s.boot.tried ∧
      v.boot.seq = s.boot.seq := by
    rw [← hv]
    exact ⟨rfl, rfl, rfl, rfl, rfl⟩
  obtain ⟨hnvm, hslot, hcands, htried, hseq⟩ := hboot
  unfold State.imageFails State.loadSlot
  rw [hv]
  dsimp only
  by_cases h1 : signFail v.bootImage ≠ 0
  · rw [if_pos h1, if_pos h1]
    exact .inl ⟨h1, v, rfl, hnvm, hslot, hcands, htried⟩
  rw [if_neg h1, if_neg h1]
  by_cases h2 : headerFail v.bootImage ≠ 0
  · rw [if_pos h2, if_pos h2]
    exact .inl ⟨h2, v, rfl, hnvm, hslot, hcands, htried⟩
  rw [if_neg h2, if_neg h2]
  by_cases h3 : formatFail v.bootImage = true
  · rw [if_pos h3, if_pos h3]
    exact .inl ⟨by decide, v, rfl, hnvm, hslot, hcands, htried⟩
  rw [if_neg h3, if_neg h3]
  by_cases h4 : regsBad (regEnts ((secBytes v.bootImage 1).getD [])) = true
  · rw [if_pos h4, if_pos h4]
    exact .inl ⟨by decide, v, rfl, hnvm, hslot, hcands, htried⟩
  rw [if_neg h4, if_neg h4]
  have hregs := v.loadRegs_boot (bootRegs v.bootImage)
  have hregn := v.loadRegs_nvm (bootRegs v.bootImage)
  generalize v.loadRegs (bootRegs v.bootImage) = u at hregs hregn
  by_cases h5 : u.configBad (bootRegs v.bootImage) (sections v.bootImage) = true
  · rw [if_pos h5, if_pos h5]
    refine .inl ⟨by decide, u, rfl, hregn.trans hnvm, ?_, ?_, ?_⟩
    · rw [hregs]; exact hslot
    · rw [hregs]; exact hcands
    · rw [hregs]; exact htried
  · rw [if_neg h5, if_neg h5]
    have hfw : (u.loadFirmware v.bootImage).boot = u.boot ∧ (u.loadFirmware v.bootImage).parts = u.parts ∧
        (u.loadFirmware v.bootImage).tens = u.tens := by
      unfold State.loadFirmware
      split <;> exact ⟨rfl, rfl, rfl⟩
    obtain ⟨hb, hp, ht⟩ := hfw
    refine .inr ⟨rfl, rfl, ?_, ?_, hp, ht⟩
    · dsimp only
      rw [hb, hregs]; exact hslot
    · dsimp only
      rw [hb, hregs]; exact hseq

theorem State.imageLoadOp_start {s : State} (hs : s.startable = true) (h3 : s.boot.state = 3) :
    s.imageLoadOp = if (s.selectSlot none).boot.state = 4 then (s.selectSlot none).loadSlot else s.selectSlot none := by
  have hat : s.atSlots = s.selectSlot none := if_pos (.inr h3)
  unfold State.imageLoadOp
  rw [if_neg (by rw [hs]; decide), hat]

/-- The image that the attempt on a candidate reads. -/
theorem State.trySlot_image (s : State) (c : List Bool) (b : Bool) :
    ((s.slotsFound none c).trySlot b).readImage.bootImage =
        nvmRead s.nvm (slotBase b) (imgSize (s.slotHead b)) ∧
      ((s.slotsFound none c).trySlot b).boot.seq = imgSeq (s.slotHead b) := by
  have hn : (s.slotsRead none).nvm = s.nvm :=
    (congrArg State.nvm (s.slotsRead_coded none)).trans rfl
  have hh : (s.slotsFound none c).slotHead b = s.slotHead b := congrArg (fun v => nvmRead v (slotBase b) 1024) hn
  exact ⟨(congrArg (fun v => nvmRead v (slotBase b) (imgSize ((s.slotsFound none c).slotHead b))) hn).trans
    (congrArg (fun l => nvmRead s.nvm (slotBase b) (imgSize l)) hh), congrArg imgSeq hh⟩

end Sys2Proof.Machine

namespace Sys2Proof
open Machine

/-- Settles O47: the candidate of the later SEQ is tried, and the checks of its image decide (`loadSlot_cases`). -/
theorem bootImageLoad : Obligations.boot_image_load := by
  unfold Obligations.boot_image_load
  intro s hs h3 head code loaded
  have hcode : ∀ b, s.slotCode none b = code b := fun b => by cases b <;> rfl
  have hhead : ∀ b, s.slotHead b = head b := fun b => by cases b <;> rfl
  have hop := State.imageLoadOp_start hs h3
  have hnvm : s.imageLoadOp.nvm = s.nvm := congrArg Prod.snd s.imageLoadOp_stored
  refine ⟨_, rfl, hnvm, fun hf ht => ?_, fun b hb hother => ?_⟩
  · have hsel := State.selectSlot_none (s := s) (lost := none) fun b => by
      rw [hcode]
      cases b with
      | false => exact hf
      | true => exact ht
    have h1 := s.slotsRead_fail none (b := false) (by rw [hcode]; exact hf)
    have h2 := s.slotsRead_fail none (b := true) (by rw [hcode]; exact ht)
    have h14 : (s.slotsFound none []).bootStuck.boot.state = 14 := rfl
    have hop' := hop.trans (if_neg (by rw [hsel, h14]; decide))
    rw [hop', hsel]
    rw [hcode] at h1 h2
    exact ⟨rfl, h1, h2⟩
  · have hsel := State.selectSlot_first (s := s) (lost := none) (b := b) ((hcode b).trans hb) fun h => by
      rw [hcode] at h
      rw [hhead, hhead]
      exact hother h
    intro img regs fails
    obtain ⟨himg, hseq⟩ := s.trySlot_image (b :: if s.slotCode none (!b) = 0 then [!b] else []) b
    have hbase : slotBase b = if b then 0x800000 else 0 := by cases b <;> rfl
    rw [hhead] at himg hseq
    rw [hbase] at himg
    have h4 : (s.selectSlot none).boot.state = 4 := by rw [hsel]; rfl
    have hop' := hop.trans (if_pos h4)
    have himg' : (s.selectSlot none).readImage.bootImage = img := by rw [hsel]; exact himg
    have hfails : (s.selectSlot none).readImage.imageFails = fails := by
      unfold State.imageFails
      rw [himg']
    have hslot : (s.selectSlot none).boot.slot = b := by rw [hsel]; rfl
    have hcands : (s.selectSlot none).boot.cands = b :: if code (!b) = 0 then [!b] else [] := by
      rw [hsel, hcode]; rfl
    have htried : (s.selectSlot none).boot.tried = [] := by rw [hsel]; rfl
    have hseq' : (s.selectSlot none).boot.seq = imgSeq (head b) := by rw [hsel]; exact hseq
    rw [hop']
    clear hop' hop hsel hnvm
    have hcases := (s.selectSlot none).loadSlot_cases
    rw [hfails, himg', hslot, hcands, htried, hseq'] at hcases
    generalize (s.selectSlot none).loadSlot = t at hcases
    obtain ⟨hne, v, hv, -, hvslot, hvcands, hvtried⟩ | ⟨h0, h8, hs', hq, hp, ht⟩ := hcases
    · rw [if_neg hne]
      obtain ⟨hsame, -, hparts, htens, -, -, -, hlast, hnext⟩ := v.bootFail_failed fails
      rw [← hv] at hsame hparts htens hlast hnext
      rw [hvslot] at hsame hlast hnext
      rw [hvcands] at hlast hnext
      refine ⟨hsame, hparts, htens, ?_⟩
      by_cases hc : code (!b) = 0
      · rw [if_pos hc]
        exact hnext (by rw [if_pos hc]) hvtried
      · rw [if_neg hc]
        exact hlast (by rw [if_neg hc])
    · rw [if_pos h0]
      exact ⟨h8, hs', hq, hp, ht⟩

end Sys2Proof
end

section
/-! O49: the script of start, and its last steps. -/

namespace Sys2Proof.Machine

/-- The access that the entry's begin presents on FAR0 (R330). -/
def State.Presents (wr : Bool) (e : ScrEnt) (n : Nat) (u t : State) : Prop :=
  ∃ a : Access, t = { u with acc := u.acc ++ [a], nextAid := u.nextAid + 1 }
    ∧ (a.kind = .script ∧ a.wr = wr ∧ a.port = 0 ∧ a.stage = .arb ∧ a.drain = false ∧ a.cache = 0 ∧ a.qos = 0)
    ∧ a.pa = e.addr ∧ a.len = n ∧ (wr = true → a.data = toLE n e.val ∧ a.en = List.replicate n true)

/-- `t` is `u` with the running entry begun. -/
def State.Opens (u t : State) : Prop := ∀ e, u.scriptNow = some e →
  (e.op = 1 → State.Presents true e (if e.w64 then 8 else 4) u t) ∧ (e.op = 2 → State.Presents false e 4 u t)
    ∧ (e.op ≠ 1 → e.op ≠ 2 → t = u)

theorem State.scriptIssue_opens (u : State) : u.Opens u.scriptIssue := by
  intro e he
  unfold State.scriptIssue
  rw [he]
  dsimp only
  refine ⟨fun h => ?_, fun h => ?_, fun h1 h2 => ?_⟩
  · rw [if_pos h]
    exact ⟨_, rfl, ⟨rfl, rfl, rfl, rfl, rfl, rfl, rfl⟩, rfl, rfl, fun _ => ⟨rfl, rfl⟩⟩
  · rw [if_neg (by rw [h]; decide), if_pos h]
    exact ⟨_, rfl, ⟨rfl, rfl, rfl, rfl, rfl, rfl, rfl⟩, rfl, rfl, fun h' => absurd h' (by decide)⟩
  · rw [if_neg h1, if_neg h2]

theorem State.scriptIssue_rest (u : State) :
    u.scriptIssue = { u with acc := u.scriptIssue.acc, nextAid := u.scriptIssue.nextAid } := by
  unfold State.scriptIssue
  cases u.scriptNow with
  | none => rfl
  | some e =>
    dsimp only
    split
    · rfl
    · split <;> rfl

/-- `t` is `u` with writes of the DATA copy presented on FAR0 (R331). -/
def State.Copies (u t : State) : Prop :=
  ∃ l : List Access, t = { u with acc := u.acc ++ l, nextAid := u.nextAid + l.length } ∧
    ∀ a ∈ l, a.kind = .bootData ∧ a.wr = true ∧ a.port = 0 ∧ a.stage = .arb ∧ a.drain = false ∧ a.qos = 0

theorem State.Copies.refl (u : State) : u.Copies u :=
  ⟨[], by rw [List.append_nil]; rfl, fun _ h => absurd h List.not_mem_nil⟩

theorem State.Copies.trans {u v w : State} (h : u.Copies v) (g : v.Copies w) : u.Copies w := by
  obtain ⟨l, rfl, hl⟩ := h
  obtain ⟨k, rfl, hk⟩ := g
  refine ⟨l ++ k, ?_, fun a ha => (List.mem_append.mp ha).elim (hl a) (hk a)⟩
  rw [List.length_append, ← Nat.add_assoc, ← List.append_assoc]

theorem State.far0Write_copies (u : State) (attr addr : Nat) (l : List Byte) :
    u.Copies (u.far0Write .bootData attr addr l) :=
  List.foldlRecOn (motive := u.Copies) _ _ (.refl u) fun _ h _ _ =>
    h.trans ⟨[_], rfl, fun a ha => by
      rw [List.mem_singleton.mp ha]
      exact ⟨rfl, rfl, rfl, rfl, rfl, rfl⟩⟩

/-- Step 9 begins with the copies, of which there are none without a DATA section. -/
theorem State.dataStart_copies (s : State) : ∃ l, s.dataStart = { s with
      acc := s.acc ++ l, nextAid := s.nextAid + l.length, boot := { s.boot with state := 9, running := false } }
    ∧ ((∀ q ∈ sections s.bootImage, q.type ≠ 3) → l = []) ∧ ∀ a ∈ l, a.kind = .bootData ∧ a.wr = true ∧ a.port = 0
      ∧ a.stage = .arb ∧ a.drain = false ∧ a.qos = 0 := by
  by_cases h : ∀ q ∈ sections s.bootImage, q.type ≠ 3
  · have hf : (sections s.bootImage).filter (fun q => q.type == 3) = [] :=
      List.filter_eq_nil_iff.mpr fun q hq => by simp [h q hq]
    refine ⟨[], ?_, fun _ => rfl, fun _ h => absurd h List.not_mem_nil⟩
    unfold State.dataStart
    rw [hf, List.append_nil]
    rfl
  · obtain ⟨l, hl, hmem⟩ : State.Copies { s with boot := { s.boot with state := 9, running := false } } s.dataStart :=
      List.foldlRecOn (motive := State.Copies _) _ _ (.refl _) fun t h q _ => h.trans (t.far0Write_copies _ _ _)
    exact ⟨l, hl, fun h' => absurd h' h, hmem⟩

/-- An entry that is not FATAL and fails is logged and passed over. -/
theorem State.scriptFails_passed (s : State) :
    s.scriptFails false = { s with
        boot := { s.boot with sidx := s.scriptFrom (s.boot.sidx + 1) }
        mg := (s.scriptFails false).mg
        acc := (s.scriptFails false).acc
        nextAid := (s.scriptFails false).nextAid } ∧
      (s.scriptFails false).mg.nseq = s.mg.nseq + 1 ∧ ∃ v, (s.scriptFails false).mg.log = (v :: s.mg.log).take 4096 ∧
        v.code = 0x03 ∧ v.arg = BitVec.ofNat 40 (s.boot.sidx % 65536) := by
  let u := s.scriptDrop.logEvent 0x03 0xFF (s.boot.sidx % 65536 + 65536 * b2n false)
  let w : State := { u with boot := { u.boot with sidx := u.scriptFrom (u.boot.sidx + 1) } }
  have h : s.scriptFails false = w.scriptIssue := rfl
  have hr := w.scriptIssue_rest
  have hm : w.scriptIssue.mg = w.mg := (congrArg State.mg hr).trans rfl
  rw [h, hm]
  exact ⟨hr, rfl, _, rfl, rfl, rfl⟩

theorem State.scriptAnswer_okay {s : State} {e : ScrEnt} {op : Nat} (h : s.scriptNow = some e) (ho : e.op = op)
    (hl : s.boot.lost = false)
    {a : Access} (ha : (s.acc.find? fun a => a.kind == .script && a.stage == .out && !a.drain) = some a)
    (f : State → ScrEnt → State) : s.scriptAnswer op .okay f = f (s.delAcc a.aid) e := by
  unfold State.scriptAnswer
  rw [hl, if_neg Bool.false_ne_true, State.onEntry_some h ho, ha]
  rfl

/-- With no host-type entry, step 11 follows the copies. -/
theorem State.bootEnds_noHost {s : State} {l : List Byte} (hsec : (secBytes s.bootImage 4).getD [] = l)
    (h : ((bootRegs s.bootImage).filter fun e => bootClass e.1 == .host || bootClass e.1 == .tenant) = []) :
    s.bootEnds = State.bootLoad { s with boot := { s.boot with img := [], strs := l, state := 11, sidx := 0 } } := by
  unfold State.bootEnds
  dsimp only
  rw [h, hsec]
  rfl

/-- Without a contact sheet that waits, an event sends none. -/
theorem State.sheetDue_none {s : State} (h : s.mg.cs = none) (n : Nat) :
    s.sheetDue n = { s with mg := (s.sheetDue n).mg } ∧ (s.sheetDue n).mg.log = s.mg.log := by
  unfold State.sheetDue
  split
  · unfold State.sheetOut
    dsimp only
    rw [h]
    exact ⟨rfl, rfl⟩
  · exact ⟨rfl, rfl⟩

/-- Start ends in RUN (R335). -/
theorem State.handOver_run {s : State} (h : s.mg.cs = none) :
    s.handOver = { s with
        boot := { s.boot with state := 13, fallbk := s.boot.tried != [], cold := false, strs := [] }
        esc := { s.esc with mode := s.handOver.esc.mode }
        mg := s.handOver.mg } ∧
      ∃ e, s.handOver.mg.log = (e :: s.mg.log).take 4096 ∧ e.code = 0x01 := by
  let u : State := ({ s with
    boot := { s.boot with state := 13, fallbk := s.boot.tried != [], cold := false, strs := [] }
    esc := { s.esc with mode := if s.ladder then 2 else 1 } }.logEvent 0x01 0xFF
      (s.boot.seq.toNat + 2 ^ 32 * b2n (s.boot.tried != [])))
  obtain ⟨hu, hlog⟩ := u.sheetDue_none h 8
  have hs : s.handOver = u.sheetDue 8 := rfl
  have he : (u.sheetDue 8).esc = u.esc := (congrArg State.esc hu).trans rfl
  rw [hs, he]
  exact ⟨hu, _, hlog, rfl⟩

end Sys2Proof.Machine

namespace Sys2Proof
open Machine

theorem respOk_all {rest : List Resp} (h : ∀ r ∈ rest, r = .okay) : (Resp.okay :: rest).all respOk = true :=
  List.all_eq_true.mpr fun r hr => by
    obtain rfl | hr := List.mem_cons.mp hr
    · rfl
    · rw [h r hr]
      rfl

/-- The last steps of start, where every copy has been granted and none was lost. -/
theorem handoverEnds {s : State} (hs : s.startable = true) (h9 : s.boot.state = 9) (hl : s.boot.lost = false)
    (hout : ∀ a ∈ s.acc, (a.kind == .bootData && !a.drain) = true → a.stage = .out) (rs : List Resp) :
    s.dataDoneOp rs = if (s.acc.any fun a => a.kind == .bootData && !a.drain) && !rs.all respOk then s.bootFail 10
      else State.bootEnds { s with acc := s.acc.filter fun (a : Access) => !(a.kind == .bootData && !a.drain) } := by
  unfold State.dataDoneOp
  have hany : (s.acc.any fun a => (a.kind == .bootData && !a.drain) && a.stage != .out) = false :=
    List.any_eq_false.mpr fun a ha hc => by
      obtain ⟨hm, hst⟩ := Bool.and_eq_true_iff.mp hc
      rw [hout a ha hm] at hst
      exact absurd hst (by decide)
  rw [if_neg (by rw [hs, h9]; decide), hl, if_neg Bool.false_ne_true]
  dsimp only
  rw [hany, if_neg Bool.false_ne_true]

/-- Settles O49: each entry hands over to the next one (`scriptIssue_opens`), the copies begin behind END
(`dataStart_copies`), and the block is handed over behind them (`handOver_run`). -/
theorem scriptAndHandover : Obligations.script_and_handover := by
  unfold Obligations.script_and_handover
  refine ⟨fun s => ?_, fun s hs h9 => ?_⟩
  · intro next mine opens copies
    refine ⟨fun hs h8 hr hp => ?_, fun e he => ⟨fun ho => ?_, fun ho => ?_, fun a hl ha => ?_, fun hf => ?_⟩⟩
    · have hop : s.scriptStartOp = _ := if_pos (by rw [hs, h8, hr, hp]; rfl)
      refine ⟨fun hn => ⟨_, congrArg Host.Outcome.next (hop.trans (if_pos hn)), s.dataStart_copies⟩, fun hn => ?_⟩
      refine ⟨_, congrArg Host.Outcome.next (hop.trans (if_neg ?_)), State.scriptIssue_opens _⟩
      cases hsec : secBytes s.bootImage 2 with
      | none => rw [hsec] at hn; exact absurd hn (by decide)
      | some l => exact Bool.false_ne_true
    · have hop : (s.onEntry 3 fun _ => s.scriptNext) = _ := State.onEntry_some he ho _
      exact ⟨_, congrArg Host.Outcome.next hop, State.scriptIssue_opens _⟩
    · have hop : s.scriptEndOp = s.dataStart := State.onEntry_some he ho _
      exact ⟨_, congrArg Host.Outcome.next hop, s.dataStart_copies⟩
    · intro u
      refine ⟨fun ho => ?_, fun ho d => ?_⟩
      · have hop : s.scriptWriteOp .okay = _ := State.scriptAnswer_okay he ho hl ha _
        exact ⟨_, congrArg Host.Outcome.next hop, State.scriptIssue_opens _⟩
      · have hop : s.scriptPollOp d .okay = _ := State.scriptAnswer_okay he ho hl ha _
        by_cases hd : d &&& BitVec.ofNat 32 (fld e.val 0 32) = BitVec.ofNat 32 (fld e.val 32 32)
        · rw [if_pos hd] at hop
          exact ⟨_, congrArg Host.Outcome.next hop, (if_pos hd).mpr (State.scriptIssue_opens _)⟩
        · rw [if_neg hd] at hop
          exact ⟨_, congrArg Host.Outcome.next hop, (if_neg hd).mpr (State.scriptIssue_opens _)⟩
    · intro passed
      refine ⟨fun ho hl hex => ?_, fun ho => ?_⟩
      · obtain ⟨a, ha⟩ := State.find_isSome hex
        have hop : s.scriptWriteOp .slverr = _ := State.scriptAnswer_error he ho hl (by decide) ha _
        rw [hf] at hop
        obtain ⟨hsame, hn, hlog⟩ := (s.delAcc a.aid).scriptFails_passed
        exact ⟨_, congrArg Host.Outcome.next hop, hsame, hn, hlog⟩
      · have hop : (s.onEntry 2 fun e => s.scriptFails e.fatal) = s.scriptFails false := by
          rw [State.onEntry_some he ho, hf]
        exact ⟨_, congrArg Host.Outcome.next hop, s.scriptFails_passed⟩
  · intro mine img failed
    refine ⟨fun hl hout hhost => ⟨fun hb hcs rest hrest => ?_, fun l hb hne hbad rest hrest => ?_⟩,
      fun hex hout hl r rest hq => ?_, fun hl r rest => ?_⟩
    · have hop := handoverEnds hs h9 hl hout (.okay :: rest)
      rw [respOk_all hrest, if_neg (by simp)] at hop
      have hsec : (secBytes s.bootImage 4).getD [] = [] := congrArg (fun o => Option.getD o []) hb
      have hload := (hop.trans (State.bootEnds_noHost hsec hhost)).trans (if_pos (Nat.zero_le _))
      clear hop
      obtain ⟨ht, hlog⟩ := State.handOver_run (s := { s with
        acc := s.acc.filter fun (a : Access) => !(a.kind == .bootData && !a.drain)
        boot := { s.boot with img := [], strs := [], state := 11, sidx := 0 } }) hcs
      generalize hv : State.handOver _ = v at ht hlog
      have hload' := hload.trans hv
      have hboot := (congrArg State.boot ht).trans rfl
      have hesc := (congrArg State.esc ht).trans rfl
      exact ⟨v, congrArg Host.Outcome.next hload', hboot, hlog, hesc, (show v = _ from ht).trans (by rw [hboot, hesc])⟩
    · have hop := handoverEnds hs h9 hl hout (.okay :: rest)
      rw [respOk_all hrest, if_neg (by simp)] at hop
      have hsec : (secBytes s.bootImage 4).getD [] = l := congrArg (fun o => Option.getD o []) hb
      have hload := ((hop.trans (State.bootEnds_noHost hsec hhost)).trans (if_neg fun h => hne (List.length_eq_zero_iff.mp (Nat.le_zero.mp h)))).trans (if_pos hbad)
      clear hop
      obtain ⟨hsame, -, hparts, htens, hstrms, hnvm, -, hlast, -⟩ := State.bootFail_failed { s with
        acc := s.acc.filter fun (a : Access) => !(a.kind == .bootData && !a.drain)
        boot := { s.boot with img := [], strs := l, state := 11, sidx := 0 } } 11
      exact ⟨_, congrArg Host.Outcome.next hload, hsame, hparts, htens, hstrms, hnvm, hlast⟩
    · have hop := handoverEnds hs h9 hl hout (r :: rest)
      have hno : (r :: rest).all respOk = false := List.all_eq_false.mpr (by
        obtain ⟨q, hq, h⟩ := hq
        exact ⟨q, hq, by obtain rfl | rfl := h <;> decide⟩)
      have hyes : (s.acc.any fun a => a.kind == .bootData && !a.drain) = true := List.any_eq_true.mpr hex
      rw [hno, hyes] at hop
      obtain ⟨hsame, -, hparts, htens, hstrms, hnvm, -, hlast, -⟩ := s.bootFail_failed 10
      exact ⟨_, congrArg Host.Outcome.next (hop.trans (if_pos rfl)), hsame, hparts, htens, hstrms, hnvm, hlast⟩
    · have hop : s.dataDoneOp (r :: rest) = State.bootFail { s with boot := { s.boot with lost := false } } 10 := by
        unfold State.dataDoneOp State.bootCheck
        rw [if_neg (by rw [hs, h9]; decide), if_pos hl, if_neg (by rw [hs, h9]; decide), if_pos hl]
        exact if_pos h9
      obtain ⟨hsame, -, hparts, htens, hstrms, hnvm, -, hlast, -⟩ :=
        State.bootFail_failed { s with boot := { s.boot with lost := false } } 10
      exact ⟨_, congrArg Host.Outcome.next hop, hsame, hparts, htens, hstrms, hnvm, hlast⟩

end Sys2Proof
end

section
/-! O46: loss of power, the always-on reset and the core reset. -/

namespace Sys2Proof.Machine

/-- QIDS belong to the reset engines alone. -/
theorem State.countQids_rest (s : State) : s.countQids = { s with rst := s.countQids.rst } :=
  List.foldlRecOn (motive := fun t : State => t = { s with rst := t.rst }) _ _ rfl fun t h p _ =>
    (congrArg (fun v : State => { v with rst := (t.modRstE p fun e => { e with
      qids := BitVec.ofNat 8 (min 0xFF (s.sink.filter fun (a : Access) => a.part == p).length) }).rst }) h)

theorem State.tornSlot_idle {s : State} (h : s.mg.work = none) (wild : Bool) : s.tornSlot wild = s := by
  unfold State.tornSlot
  rw [h]
  rfl

/-- Without a request in progress, nothing of the mailbox ends. -/
theorem State.mbAbort_idle {s : State} (h : s.mg.busy = false) : s.mbAbort = s := if_neg (by rw [h]; decide)

/-- Without power, or behind the always-on reset, only the NVM is left (R319, R442). -/
theorem State.aonReleaseOp_eq {s : State} (h : s.pins.aon = true) (a : BitVec 7) :
    s.aonReleaseOp a = { s with
      pins := { s.pins with aon := false }, pwr := { s.pwr with off := false }
      boot := { s.boot with state := 2, cold := true }, smb := { s.smb with addr := a }
      mg := { s.mg with
        nseq := match ringNewest s.nvm with
          | none => 0
          | some q => BitVec.ofNat 24 (q + 1)
        mseq := match ringNewest s.nvm with
          | none => 0
          | some q => BitVec.ofNat 24 (q + 1)
        mpos := ringNext s.nvm } } := if_neg (by rw [h]; decide)

/-- The lines behind a core reset: every rope_out is low (R446). -/
theorem rope_low {l : SMap Rope} (h : ∀ e ∈ l, e.2.rout = false) (n : Nat) : (l.get Rope.reset n).rout = false := by
  rcases l.get_mem Rope.reset n with hn | hn
  · rw [hn]; rfl
  · exact h _ hn

/-- A sheet that waits is written in the next start (R417). -/
theorem State.sheetLater_rest (s : State) :
    s.sheetLater = { s with mg := { s.mg with csDue := s.sheetLater.mg.csDue } } := by
  unfold State.sheetLater
  split <;> rfl

/-- The state in which a core reset leaves the block, before its IDs in the sink are counted (R446). -/
def State.coreHeld (s : State) : State :=
  let t := { s with
    acc := []
    sink := []
    mg := { s.mg with csDue := s.sheetLater.mg.csDue, csOut := none }
    host := { s.host with wait := [] }
    esc := { s.esc with held := false } }.blockState
  { t with
    pins := { t.pins with core := true }
    sink := (s.sink ++ s.acc.filter fun a => a.stage == .out).map fun (a : Access) => { a with drain := true }
    ropes := (t.ropes.map fun (n, x) => (n, ({ x with rout := false, rel := false } : Rope))).filter
      fun (_, x) => x ≠ Rope.reset
    boot := { t.boot with state := if s.esc.oos then 14 else 2, cold := s.boot.cold } }

theorem State.coreAssertOp_eq {s : State} (ha : s.pins.aon = false) (ho : s.pwr.off = false) (hc : s.pins.core = false) :
    s.coreAssertOp = s.coreHeld.countQids := by
  unfold State.coreAssertOp State.coreHeld
  rw [if_neg (by rw [ha, ho, hc]; decide), s.sheetLater_rest]

theorem State.blockState_idle {s : State} (h : s.mg.busy = false) :
    s.blockState.nvm = s.nvm ∧ s.blockState.mg.log = s.mg.log ∧ s.blockState.esc = s.esc ∧ s.blockState.tap = s.tap ∧
      s.blockState.pins = s.pins ∧ s.blockState.acc = s.acc.filter fun (a : Access) => a.rq == Requester.mgmt := by
  unfold State.blockState
  rw [State.mbAbort_idle h]
  exact ⟨rfl, rfl, rfl, rfl, rfl, rfl⟩

theorem State.coreHeld_idle {s : State} (h : s.mg.busy = false) :
    s.coreHeld.pins = { s.pins with core := true } ∧ s.coreHeld.acc = [] ∧ s.coreHeld.nvm = s.nvm ∧
      s.coreHeld.mg.log = s.mg.log ∧ s.coreHeld.esc.hist = s.esc.hist ∧
      s.coreHeld.esc.oos = s.esc.oos ∧ s.coreHeld.tap = s.tap := by
  obtain ⟨hn, hl, he, ht, hp, ha⟩ := State.blockState_idle (s := { s with
    acc := []
    sink := []
    mg := { s.mg with csDue := s.sheetLater.mg.csDue, csOut := none }
    host := { s.host with wait := [] }
    esc := { s.esc with held := false } }) h
  exact ⟨congrArg (fun p : Pins => { p with core := true }) hp, ha, hn, hl,
    (congrArg (fun e : Esc => e.hist) he).trans rfl, (congrArg (fun e : Esc => e.oos) he).trans rfl, ht⟩

theorem State.coreHeld_rope (s : State) (n : Nat) : (s.coreHeld.ropes.get Rope.reset n).rout = false :=
  rope_low (fun e he => by
    obtain ⟨x, -, rfl⟩ := List.mem_map.mp (List.mem_filter.mp he).1
    rfl) n

end Sys2Proof.Machine

namespace Sys2Proof
open Machine

/-- Settles O46: the resets are the updates of `coreAssertOp_eq`, `tornSlot_idle` and `aonReleaseOp_eq`. -/
theorem powerAndCoreResets : Obligations.power_and_core_resets := by
  unfold Obligations.power_and_core_resets
  refine ⟨fun s => ⟨fun hw => ⟨?_, ?_⟩, fun hon a => ?_⟩, fun s => ⟨fun ha ho hc hb => ?_, fun ho ha hoos h2 => ?_⟩⟩
  · have hop : s.powerOffOp = _ := congrArg (fun u : State => { State.reset with
      pending := u.pending, free := u.free, nextAid := u.nextAid, nvm := u.nvm
      pwr := { Pwr.reset with off := true } }) (State.tornSlot_idle hw false)
    exact congrArg Host.Outcome.next hop
  · have hop : s.aonAssertOp = _ := congrArg (fun u : State => { State.reset with
      pending := u.pending, free := u.free, nextAid := u.nextAid, nvm := u.nvm
      pwr := { Pwr.reset with off := u.pwr.off } }) (State.tornSlot_idle hw false)
    exact congrArg Host.Outcome.next hop
  · exact ⟨_, congrArg Host.Outcome.next (State.aonReleaseOp_eq hon a), rfl, rfl, rfl, rfl, rfl, rfl, rfl, rfl, rfl⟩
  · have hop := State.coreAssertOp_eq ha ho hc
    obtain ⟨hpins, hacc, hnvm, hlog, hhist, hoos, htap⟩ := State.coreHeld_idle hb
    rw [s.coreHeld.countQids_rest] at hop
    refine ⟨_, congrArg Host.Outcome.next hop, hpins, rfl, rfl, rfl, rfl, rfl, rfl, rfl, rfl, rfl, hacc, rfl, rfl, rfl, ?_,
      hnvm, hlog, hhist, hoos, htap, s.coreHeld_rope⟩
    exact (List.map_map ..).trans (List.map_append ..)
  · have hop : ∀ bad bank, s.coreReleaseOp bad bank = _ := fun bad bank => if_neg (by rw [ho, ha, hoos, h2]; decide)
    refine ⟨?_, fun g hg => ?_, ?_⟩
    · exact congrArg Host.Outcome.next (hop [] false)
    · have hf : [g].filter (fun x => decide (x < 640)) = [g] := by simp [hg]
      have := hop [g] false
      rw [hf] at this
      refine ⟨_, congrArg Host.Outcome.next this, rfl, rfl, ?_, fun j hj => ?_, ⟨_, rfl, rfl, rfl⟩, rfl⟩
      · exact (SMap.get_put s.granRet false true g g).trans (if_pos rfl)
      · exact (SMap.get_put s.granRet false true g j).trans (if_neg hj)
    · exact ⟨_, congrArg Host.Outcome.next (hop [] true), rfl, rfl, rfl, rfl, rfl⟩

end Sys2Proof
end

section
/-! O30: credits, bad check values and losses on the peer link. -/

namespace Sys2Proof.Machine

theorem State.awake_peer (s : State) : s.awake.peer = s.peer := by
  unfold State.awake
  split <;> rfl

theorem State.creditIn_used (s : State) (port b n k : Nat) :
    (s.creditIn port b n).peer.used.get 0 k = s.peer.used.get 0 k - if k = 4 * port + b then n else 0 := by
  refine (SMap.get_put s.peer.used 0 _ (4 * port + b) k).trans ?_
  split
  · next h => rw [h]
  · rfl

theorem State.creditOwe_owed (s : State) (key k : Nat) :
    (s.creditOwe key).peer.owed.get 0 k = if k = key then min 8 (s.peer.owed.get 0 k + 1) else s.peer.owed.get 0 k := by
  refine (SMap.get_put s.peer.owed 0 _ key k).trans ?_
  split
  · next h => rw [h]
  · rfl

theorem State.modStat_stat (s : State) (port : Nat) (f : PeStat → PeStat) :
    (s.modStat port f).peer.stat.get PeStat.reset port = f (s.peer.stat.get PeStat.reset port) :=
  (SMap.get_put s.peer.stat PeStat.reset _ port port).trans (if_pos rfl)

/-- The counter that a packet without an effect adds to (R287). -/
def badCount (pkt : List Byte) (q : PeStat) : PeStat :=
  if pCrcOk pkt = false then { q with crce := satInc q.crce } else { q with drop := satInc q.drop }

/-- A packet without an effect: its credits come in, it is counted, and its slot is free. -/
def State.lose (s : State) (port : Nat) (pkt : List Byte) (f : PeStat → PeStat) : State :=
  ((s.awake.creditIn port (pCrbuf pkt) (pCrcnt pkt)).modStat port f).freeBuf port pkt

/-- A packet whose checks fail gives its credits, is counted and frees its slot (R287). -/
theorem State.intake_bad {s : State} {port type : Nat} {pkt : List Byte} (htakes : s.peerTakes port type = true)
    (ht : pType pkt = type ∨ 6 ≤ pType pkt) (hd : pDst pkt = s.peer.chip.toNat)
    (hbad : pCrcOk pkt = false ∨ pReserved pkt = true) (use : State → State) :
    s.intake port type pkt use =
      s.lose port pkt (badCount pkt) := by
  unfold State.intake State.lose badCount
  rw [if_neg (by
    rintro (h | ⟨h1, h2⟩ | ⟨-, h⟩)
    · exact absurd (htakes.symm.trans h) (by decide)
    · omega
    · exact h hd)]
  dsimp only
  by_cases hc : pCrcOk pkt = false
  · simp only [if_pos hc]
  · simp only [if_neg hc, if_pos (hbad.resolve_left hc)]
    rfl

theorem State.freeBuf_stat (s : State) (port : Nat) (pkt : List Byte) :
    (s.freeBuf port pkt).peer.stat = s.peer.stat ∧ (s.freeBuf port pkt).peer.used = s.peer.used := by
  unfold State.freeBuf
  split <;> exact ⟨rfl, rfl⟩

theorem State.freeBuf_owed {s : State} {port : Nat} {pkt : List Byte} (h : pType pkt ≤ 4) (k : Nat) :
    (s.freeBuf port pkt).peer.owed.get 0 k =
      if k = 4 * port + pBuf pkt then min 8 (s.peer.owed.get 0 k + 1) else s.peer.owed.get 0 k := by
  unfold State.freeBuf
  rw [if_neg (by omega)]
  exact s.creditOwe_owed _ k

section Lose
variable (s : State) (port : Nat) (pkt : List Byte) (f : PeStat → PeStat)

theorem State.lose_stat : (s.lose port pkt f).peer.stat.get PeStat.reset port = f (s.peer.stat.get PeStat.reset port) := by
  unfold State.lose
  rw [(State.freeBuf_stat _ port pkt).1, State.modStat_stat]
  exact (congrArg (fun q : Peer => f (q.stat.get PeStat.reset port)) s.awake_peer).trans rfl

theorem State.lose_used (k : Nat) : (s.lose port pkt f).peer.used.get 0 k =
    s.peer.used.get 0 k - if k = 4 * port + pCrbuf pkt then pCrcnt pkt else 0 := by
  unfold State.lose
  rw [(State.freeBuf_stat _ port pkt).2]
  refine (s.awake.creditIn_used port (pCrbuf pkt) (pCrcnt pkt) k).trans ?_
  rw [s.awake_peer]

theorem State.lose_owed (h : pType pkt ≤ 4) (k : Nat) : (s.lose port pkt f).peer.owed.get 0 k =
    if k = 4 * port + pBuf pkt then min 8 (s.peer.owed.get 0 k + 1) else s.peer.owed.get 0 k := by
  refine (State.freeBuf_owed h k).trans ?_
  exact (congrArg (fun q : Peer => if k = 4 * port + pBuf pkt then min 8 (q.owed.get 0 k + 1) else q.owed.get 0 k)
    s.awake_peer).trans rfl

theorem State.lose_owed_reserved (h : 5 ≤ pType pkt) : (s.lose port pkt f).peer.owed = s.peer.owed := by
  unfold State.lose State.freeBuf
  rw [if_pos h]
  exact (congrArg Peer.owed s.awake_peer).trans rfl

theorem State.lose_rest : s.lose port pkt f = { s.awake with peer := { s.peer with
    stat := (s.lose port pkt f).peer.stat
    used := (s.lose port pkt f).peer.used
    owed := (s.lose port pkt f).peer.owed } } := by
  unfold State.lose State.freeBuf State.creditIn
  rw [s.awake_peer]
  split <;> rfl

end Lose

theorem State.response_bad {s : State} {port type : Nat} {pkt : List Byte} (htakes : s.peerTakes port type = true)
    (ht : pType pkt = type ∨ 6 ≤ pType pkt) (hd : pDst pkt = s.peer.chip.toNat)
    (hbad : pCrcOk pkt = false ∨ pReserved pkt = true) (wr : Option Bool) (use : State → RemReq → Nat → State) :
    s.response port type wr pkt use = s.lose port pkt (badCount pkt) := State.intake_bad htakes ht hd hbad _

theorem State.peerTakes_open {s : State} {port : Nat} (ho : s.peerOpen port = true) (hw : s.pwr.state ≠ 3) (type : Nat) :
    s.peerTakes port type = true := by
  unfold State.peerTakes
  rw [ho, bne_iff_ne.mpr hw]
  rfl

/-- A CREDIT packet gives its credits, and nothing else. -/
theorem State.intake_credit {s : State} {port : Nat} {pkt : List Byte} (htakes : s.peerTakes port 5 = true)
    (h5 : pType pkt = 5) (hc : pCrcOk pkt = true) (hr : pReserved pkt = false) :
    s.intake port 5 pkt id = s.awake.creditIn port (pCrbuf pkt) (pCrcnt pkt) := by
  unfold State.intake
  rw [if_neg (by
    rintro (h | ⟨h1, -⟩ | ⟨h, -⟩)
    · exact absurd (htakes.symm.trans h) (by decide)
    · exact h1 h5
    · exact h h5)]
  dsimp only
  rw [if_neg (by rw [hc]; decide), if_neg (by rw [hr]; decide)]
  rfl

theorem State.creditIn_rest (s : State) (port b n : Nat) : s.awake.creditIn port b n =
    { s.awake with peer := { s.peer with used := (s.awake.creditIn port b n).peer.used } } := by
  unfold State.creditIn
  rw [s.awake_peer]

theorem State.loss_rest (s : State) (port key b n : Nat) (f : PeStat → PeStat) :
    let t := ((s.modStat port f).creditOwe key).creditIn port b n
    t = { s with peer := { s.peer with stat := t.peer.stat, used := t.peer.used, owed := t.peer.owed } } := by
  unfold State.creditIn State.creditOwe State.modStat
  rfl

/-- A loss that the link reports, with its counter, its slot and its credits. -/
theorem State.rxLossOp_eq {s : State} {port : Nat} (ho : s.peerOpen port = true) (h : BitVec 16) :
    s.rxLossOp port h =
      (if fld h.toNat 0 3 ≤ 4 then (s.modStat port fun q => { q with loss := satInc q.loss }).creditOwe
          (4 * port + (if 2 ≤ fld h.toNat 0 3 then 2 else 0) + fld h.toNat 3 1)
        else s.modStat port fun q => { q with loss := satInc q.loss }).creditIn port (fld h.toNat 12 2) (fld h.toNat 8 4) :=
  if_neg (by rw [ho]; decide)

end Sys2Proof.Machine

namespace Sys2Proof
open Machine

/-- A packet whose checks fail is lost, whatever it asks. -/
theorem packetLost {s : State} {port : Fin 2} (ho : s.peerOpen port = true) (hw : s.pwr.state ≠ 3) {pkt : List Byte}
    (h5 : pType pkt ≠ 5) (hd : pDst pkt = s.peer.chip.toNat) (hbad : pCrcOk pkt = false ∨ pReserved pkt = true) :
    exec (match pType pkt with
      | 0 => Instr.peerWrite port pkt
      | 1 => .peerRdreq port pkt
      | 2 => .peerRdrsp port pkt
      | 3 => .peerWack port pkt
      | _ => .peerNack port pkt) s = .next (s.lose port pkt (badCount pkt)) := by
  have ht := State.peerTakes_open ho hw
  split
  · next h => exact congrArg Host.Outcome.next (State.intake_bad (ht 0) (.inl h) hd hbad _)
  · next h => exact congrArg Host.Outcome.next (State.intake_bad (ht 1) (.inl h) hd hbad _)
  · next h =>
    have hop : s.rdrspOp port pkt = _ := State.response_bad (ht 2) (.inl h) hd hbad _ _
    exact congrArg Host.Outcome.next hop
  · next h =>
    have hop : s.wackOp port pkt = _ := State.response_bad (ht 3) (.inl h) hd hbad _ _
    exact congrArg Host.Outcome.next hop
  · next h0 h1 h2 h3 =>
    have hop : s.nackOp port pkt = _ := State.response_bad (ht 4) (by
      change pType pkt ≠ 0 at h0
      change pType pkt ≠ 1 at h1
      change pType pkt ≠ 2 at h2
      change pType pkt ≠ 3 at h3
      omega) hd hbad _ _
    exact congrArg Host.Outcome.next hop

/-- Settles O30: a packet that fails its checks is lost (`intake_bad`), whatever it asks. -/
theorem peerCreditsAndLosses : Obligations.peer_credits_and_losses := by
  unfold Obligations.peer_credits_and_losses
  intro s port ho pkts stat back owes inc
  refine ⟨fun hw => ⟨fun pkt h5 hc hr => ?_, fun pkt h5 hd hbad => ?_⟩, fun h => ?_⟩
  · have hop := State.intake_credit (State.peerTakes_open ho hw 5) h5 hc hr
    refine ⟨_, congrArg Host.Outcome.next hop, fun k => ?_, s.creditIn_rest ..⟩
    rw [State.creditIn_used, s.awake_peer]
  · refine ⟨_, packetLost ho hw h5 hd hbad, ?_, fun k => s.lose_used _ _ _ k, fun h k => s.lose_owed _ _ _ h k,
      fun h => s.lose_owed_reserved _ _ _ (by omega), s.lose_rest ..⟩
    refine (s.lose_stat ..).trans ?_
    unfold badCount
    split
    · rw [satInc_eq]
    · rw [satInc_eq]
  · have hop := State.rxLossOp_eq ho h
    have hx : ∀ lo w, (h.extractLsb' lo w).toNat = fld h.toNat lo w := fun lo w => by
      rw [BitVec.extractLsb'_toNat, Nat.shiftRight_eq_div_pow]
      rfl
    have hst := s.modStat_stat port fun q => { q with loss := satInc q.loss }
    simp only [hx]
    by_cases h4 : fld h.toNat 0 3 ≤ 4
    · rw [if_pos h4] at hop
      refine ⟨_, congrArg Host.Outcome.next hop, ?_, fun k => (State.creditIn_used _ port _ _ k).trans rfl, fun _ k => ?_, fun h => absurd h4 (by omega), State.loss_rest ..⟩
      · exact hst.trans (by rw [satInc_eq])
      · rw [← Nat.add_assoc]
        exact State.creditOwe_owed _ _ k
    · rw [if_neg h4] at hop
      refine ⟨_, congrArg Host.Outcome.next hop, ?_, fun k => (State.creditIn_used _ port _ _ k).trans rfl, fun h => absurd h h4, fun _ => rfl, rfl⟩
      exact hst.trans (by rw [satInc_eq])

end Sys2Proof
end

section
/-! The bytes of a packet, and O33: forwarding. -/

namespace Sys2Proof.Machine

theorem crc32c_lt (l : List Byte) : crc32c l < 2 ^ 32 := by
  have hbit : ∀ c, c < 2 ^ 32 → (if c % 2 = 1 then (c / 2) ^^^ 0x82F63B78 else c / 2) < 2 ^ 32 := fun c hc => by
    split
    · exact Nat.xor_lt_two_pow (by omega) (by decide)
    · omega
  have hbyte : ∀ c (b : Byte), c < 2 ^ 32 →
      (List.range 8).foldl (fun c _ => if c % 2 = 1 then (c / 2) ^^^ 0x82F63B78 else c / 2) (c ^^^ b.toNat) < 2 ^ 32 :=
    fun c b hc => List.foldlRecOn (motive := fun c => c < 2 ^ 32) _ _
      (Nat.xor_lt_two_pow hc (b.isLt.trans (by decide))) fun c hc _ _ => hbit c hc
  exact Nat.xor_lt_two_pow (List.foldlRecOn (motive := fun c => c < 2 ^ 32) _ _ (by decide) fun c hc b _ => hbyte c b hc)
    (by decide)

/-- A field within one byte. -/
theorem bfld_byte {l : List Byte} {i : Nat} {b : Byte} (h : l[i]? = some b) {lo w : Nat} (hw : 0 < lo + w) (h8 : lo + w ≤ 8) :
    bfld l i lo w = fld b.toNat lo w := by
  have hn : (lo + w + 7) / 8 = 1 := by omega
  obtain ⟨hi, rfl⟩ := List.getElem?_eq_some_iff.mp h
  unfold bfld
  rw [hn, List.drop_eq_getElem_cons hi]
  rfl

theorem leNat_toLE (n v : Nat) : leNat (toLE n v) = v % 256 ^ n := by
  induction n generalizing v with
  | zero => exact (Nat.mod_one v).symm
  | succ n ih =>
    have hp : 256 ^ (n + 1) = 256 * 256 ^ n := Nat.pow_succ'
    unfold toLE leNat
    rw [ih, BitVec.toNat_ofNat, hp, Nat.mod_mul]
    omega

theorem reHead_length {pkt h1 : List Byte} (h : h1.length = 28) (hp : 32 ≤ pkt.length) :
    (reHead pkt h1).length = pkt.length := by
  unfold reHead
  simp only [List.length_append, toLE_length, List.length_drop, h]
  omega

theorem reHead_take {pkt h1 : List Byte} (h : h1.length = 28) : (reHead pkt h1).take 28 = h1 := by
  unfold reHead
  rw [List.append_assoc, List.take_append_of_le_length h.ge, List.take_of_length_le h.le]

theorem reHead_drop {pkt h1 : List Byte} (h : h1.length = 28) : (reHead pkt h1).drop 32 = pkt.drop 32 := by
  unfold reHead
  rw [List.drop_left' (by rw [List.length_append, toLE_length, h])]

/-- The check value under another header. -/
theorem reHead_check {pkt h1 : List Byte} (h : h1.length = 28) : bfld (reHead pkt h1) 28 0 32 =
    bfld pkt 28 0 32 ^^^ crc32c (pkt.take 28 ++ pPayload pkt) ^^^ crc32c (h1 ++ pPayload pkt) := by
  have hf : bfld pkt 28 0 32 < 2 ^ 32 := Nat.mod_lt _ (by decide)
  have hx := Nat.xor_lt_two_pow (Nat.xor_lt_two_pow hf (crc32c_lt (pkt.take 28 ++ pPayload pkt)))
    (crc32c_lt (h1 ++ pPayload pkt))
  unfold reHead
  dsimp only
  generalize bfld pkt 28 0 32 ^^^ crc32c (pkt.take 28 ++ pPayload pkt) ^^^ crc32c (h1 ++ pPayload pkt) = x at hx
  unfold bfld
  rw [List.append_assoc, List.drop_left' h, List.take_append_of_le_length (by rw [toLE_length]),
    List.take_of_length_le (by rw [toLE_length]), leNat_toLE]
  unfold fld
  omega

theorem xor_check (f o n : Nat) : (n == f ^^^ o ^^^ n) = (o == f) := by
  refine Bool.eq_iff_iff.mpr ?_
  rw [beq_iff_eq, beq_iff_eq]
  constructor
  · intro h
    have := congrArg (· ^^^ n) h
    simp only [Nat.xor_self, Nat.xor_assoc, Nat.xor_zero] at this
    exact (Nat.xor_eq_zero_iff.mp this.symm).symm
  · rintro rfl
    rw [Nat.xor_self, Nat.zero_xor]

/-- The header of a forwarded packet, before its check value. -/
def fwdHead (pkt : List Byte) (vc : Bool) : List Byte :=
  (((pkt.take 28).set 0 (BitVec.ofNat 8 (((pkt.take 28).getD 0 0).toNat / 16 * 16 + ((pkt.take 28).getD 0 0).toNat % 8
    + 8 * b2n vc))).set 5 (BitVec.ofNat 8 (pTtl pkt - 1))).set 25 0

theorem forwarded_eq (pkt : List Byte) (vc : Bool) : forwarded pkt vc = reHead pkt (fwdHead pkt vc) := rfl

section Forwarded
variable {pkt : List Byte} (hp : 32 ≤ pkt.length) (vc : Bool)
include hp

theorem fwdHead_length : (fwdHead pkt vc).length = 28 := by
  unfold fwdHead
  simp only [List.length_set, List.length_take]
  omega

/-- The bytes of the forwarded header. -/
theorem forwarded_get {i : Nat} (hi : i < 28) : (forwarded pkt vc)[i]? =
    if i = 0 then some (BitVec.ofNat 8 ((pkt.getD 0 0).toNat / 16 * 16 + (pkt.getD 0 0).toNat % 8 + 8 * b2n vc))
    else if i = 5 then some (BitVec.ofNat 8 (pTtl pkt - 1)) else if i = 25 then some 0 else pkt[i]? := by
  have h : (forwarded pkt vc)[i]? = (fwdHead pkt vc)[i]? := by
    rw [forwarded_eq, ← reHead_take (pkt := pkt) (fwdHead_length hp vc), List.getElem?_take_of_lt hi]
    rw [reHead_take (fwdHead_length hp vc)]
  have h0 : (pkt.take 28).getD 0 0 = pkt.getD 0 0 := by
    rw [List.getD_eq_getElem?_getD, List.getElem?_take_of_lt (by decide), ← List.getD_eq_getElem?_getD]
  rw [h]
  unfold fwdHead
  rw [h0]
  simp only [List.getElem?_set, List.length_set, List.length_take, List.getElem?_take]
  grind

theorem forwarded_byte0 : (forwarded pkt vc)[0]? = some
    (BitVec.ofNat 8 ((pkt.getD 0 0).toNat / 16 * 16 + (pkt.getD 0 0).toNat % 8 + 8 * b2n vc)) :=
  (forwarded_get hp vc (by decide)).trans (if_pos rfl)

theorem byte0_eq : pkt[0]? = some (pkt.getD 0 0) := by
  rw [List.getD_eq_getElem?_getD, List.getElem?_eq_getElem (by omega), Option.getD_some]

theorem forwarded_vc : pVc (forwarded pkt vc) = vc := by
  unfold pVc bbit
  rw [bfld_byte (forwarded_byte0 hp vc) (by decide) (by decide), BitVec.toNat_ofNat]
  have := (pkt.getD 0 0).isLt
  unfold fld
  cases vc with
  | false =>
    change decide (((pkt.getD 0 0).toNat / 16 * 16 + (pkt.getD 0 0).toNat % 8 + 0) % 256 / 8 % 2 = 1) = false
    rw [decide_eq_false_iff_not]
    omega
  | true =>
    change decide (((pkt.getD 0 0).toNat / 16 * 16 + (pkt.getD 0 0).toNat % 8 + 8) % 256 / 8 % 2 = 1) = true
    rw [decide_eq_true_iff]
    omega

theorem forwarded_type : pType (forwarded pkt vc) = pType pkt := by
  unfold pType
  rw [bfld_byte (forwarded_byte0 hp vc) (by decide) (by decide), bfld_byte (byte0_eq hp) (by decide) (by decide),
    BitVec.toNat_ofNat]
  have := (pkt.getD 0 0).isLt
  have hv : 8 * b2n vc = 0 ∨ 8 * b2n vc = 8 := by cases vc with
    | false => exact .inl rfl
    | true => exact .inr rfl
  unfold fld
  omega

theorem forwarded_ttl : pTtl (forwarded pkt vc) = pTtl pkt - 1 := by
  have h : (forwarded pkt vc)[5]? = some (BitVec.ofNat 8 (pTtl pkt - 1)) := forwarded_get hp vc (by decide)
  have ht : pTtl pkt < 2 ^ 4 := Nat.mod_lt _ (by decide)
  unfold pTtl at h ht ⊢
  rw [bfld_byte h (by decide) (by decide), BitVec.toNat_ofNat]
  generalize bfld pkt 5 0 4 = n at ht
  unfold fld
  omega

theorem forwarded_crcnt : pCrcnt (forwarded pkt vc) = 0 := by
  have h : (forwarded pkt vc)[25]? = some 0 := forwarded_get hp vc (by decide)
  unfold pCrcnt
  rw [bfld_byte h (by decide) (by decide)]
  rfl

theorem forwarded_drop : (forwarded pkt vc).drop 32 = pkt.drop 32 := reHead_drop (fwdHead_length hp vc)

theorem forwarded_len : pLen (forwarded pkt vc) = pLen pkt := by
  have h : ((forwarded pkt vc).drop 6).take 2 = (pkt.drop 6).take 2 := List.ext_getElem? fun i => by
    rw [List.getElem?_take, List.getElem?_take]
    split
    · next hi =>
      rw [List.getElem?_drop, List.getElem?_drop, forwarded_get hp vc (by omega), if_neg (by omega), if_neg (by omega),
        if_neg (by omega)]
    · rfl
  exact congrArg (fun l => fld (leNat l) 0 10) h

theorem forwarded_payload : pPayload (forwarded pkt vc) = pPayload pkt := by
  unfold pPayload pHasData
  rw [forwarded_type hp, forwarded_drop hp, forwarded_len hp]

/-- The check value of a forwarded packet is right exactly when it was (log 41). -/
theorem forwarded_crcOk : pCrcOk (forwarded pkt vc) = pCrcOk pkt := by
  have hlen : (forwarded pkt vc).length = pkt.length := reHead_length (fwdHead_length hp vc) hp
  have hhead : (forwarded pkt vc).take 28 = fwdHead pkt vc := reHead_take (fwdHead_length hp vc)
  unfold pCrcOk pHasData
  rw [forwarded_payload hp, forwarded_type hp, forwarded_len hp, hlen, hhead, forwarded_eq,
    reHead_check (fwdHead_length hp vc), xor_check]

end Forwarded

/-- A packet for another chip: it goes on, or it is lost (R288). -/
theorem State.forwardOp_eq {s : State} {port : Nat} {pkt : List Byte} (ht : s.peerTakes port 6 = true)
    (h5 : pType pkt ≠ 5) (hd : pDst pkt ≠ s.peer.chip.toNat) : s.forwardOp port pkt false =
    if pReserved pkt = true ∨ pTtl pkt = 0 ∨ s.peer.dirOf (pDst pkt) = 0 ∨ s.peer.dirOf (pDst pkt) = 3 then
      s.lose port pkt fun q => { q with drop := satInc q.drop }
    else
      let t := if pCrcOk pkt = false then (s.awake.creditIn port (pCrbuf pkt) (pCrcnt pkt)).modStat port fun q =>
        { q with fwdcrc := satInc q.fwdcrc } else s.awake.creditIn port (pCrbuf pkt) (pCrcnt pkt)
      let vc := pVc pkt || s.peer.dateline (s.peer.dirOf (pDst pkt) - 1)
      { t with peer := { t.peer with tx := t.peer.tx ++ [{
        port := s.peer.dirOf (pDst pkt) - 1, bytes := forwarded pkt vc, resp := decide (2 ≤ pType pkt), vc := vc,
        owner := none, issued := true, ten := 0, gen := 0, slot := some (4 * port + pBuf pkt) }] } } := by
  unfold State.forwardOp
  rw [if_neg (by
    rintro (h | h | h)
    · exact absurd (ht.symm.trans h) (by decide)
    · exact h5 h
    · exact hd h)]
  cases hc : pCrcOk pkt <;> rfl

end Sys2Proof.Machine

namespace Sys2Proof
open Machine

/-- A packet's credits have come in at `s`, and its check value has been counted as `f` says. -/
structure Credited (s u : State) (port b n : Nat) (f : PeStat → PeStat) : Prop where
  used : ∀ k, u.peer.used.get 0 k = s.peer.used.get 0 k - if k = 4 * port + b then n else 0
  stat : u.peer.stat.get PeStat.reset port = f (s.peer.stat.get PeStat.reset port)
  tx : u.peer.tx = s.peer.tx
  rest : u = { s.awake with peer := { s.peer with stat := u.peer.stat, used := u.peer.used } }

theorem credited (s : State) (port b n : Nat) : Credited s (s.awake.creditIn port b n) port b n id := by
  have hp := s.awake_peer
  refine ⟨fun k => ?_, (congrArg (fun q : Peer => q.stat.get PeStat.reset port) hp).trans rfl,
    (congrArg Peer.tx hp).trans rfl, ?_⟩
  · rw [State.creditIn_used, hp]
  · unfold State.creditIn
    rw [hp]

theorem Credited.counted {s u : State} {port b n : Nat} (h : Credited s u port b n id) (f : PeStat → PeStat) :
    Credited s (u.modStat port f) port b n f := by
  obtain ⟨hused, hstat, htx, hrest⟩ := h
  refine ⟨hused, ?_, htx, ?_⟩
  · exact (u.modStat_stat port f).trans (congrArg f hstat)
  · exact congrArg (fun v : State => { v with peer := { v.peer with stat := (u.modStat port f).peer.stat } }) hrest

theorem sent_rest {s u : State} (h : u = { s.awake with peer := { s.peer with stat := u.peer.stat, used := u.peer.used } })
    (l : List TxPkt) : ({ u with peer := { u.peer with tx := l } } : State) =
      { s.awake with peer := { s.peer with stat := u.peer.stat, used := u.peer.used, tx := l } } :=
  congrArg (fun v : State => { v with peer := { v.peer with tx := l } }) h

/-- What becomes of the counter of wrong check values. -/
def fwdCount (pkt : List Byte) (q : PeStat) : PeStat :=
  if pCrcOk pkt = false then { q with fwdcrc := satInc q.fwdcrc } else q

theorem credited_forward (s : State) (port : Nat) (pkt : List Byte) :
    Credited s (if pCrcOk pkt = false then (s.awake.creditIn port (pCrbuf pkt) (pCrcnt pkt)).modStat port fun q =>
        { q with fwdcrc := satInc q.fwdcrc } else s.awake.creditIn port (pCrbuf pkt) (pCrcnt pkt))
      port (pCrbuf pkt) (pCrcnt pkt) (fwdCount pkt) := by
  have h := credited s port (pCrbuf pkt) (pCrcnt pkt)
  by_cases hc : pCrcOk pkt = false
  · have hf : fwdCount pkt = fun q => { q with fwdcrc := satInc q.fwdcrc } := funext fun _ => if_pos hc
    rw [if_pos hc, hf]
    exact h.counted _
  · have hf : fwdCount pkt = id := funext fun _ => if_neg hc
    rw [if_neg hc, hf]
    exact h

/-- Settles O33: the forwarded header (`forwarded_get`) and the check value that stays as right as it was
(`forwarded_crcOk`). -/
theorem packetForwarding : Obligations.packet_forwarding := by
  unfold Obligations.packet_forwarding
  intro s port pkt ho hw h5 hdst hlen d inc used stat lost
  have hop := State.forwardOp_eq (State.peerTakes_open ho hw 6) h5 hdst
  refine ⟨fun h => ?_, fun h => ?_⟩
  · have hop' := hop.trans (if_neg h)
    have hcred := credited_forward s port pkt
    generalize (if pCrcOk pkt = false then (s.awake.creditIn port (pCrbuf pkt) (pCrcnt pkt)).modStat port fun q =>
        { q with fwdcrc := satInc q.fwdcrc } else s.awake.creditIn port (pCrbuf pkt) (pCrcnt pkt)) = u at hop' hcred
    obtain ⟨hused, hstat, htx, hrest⟩ := hcred
    refine ⟨_, _, congrArg Host.Outcome.next hop', congrArg (· ++ [_]) htx, hused, rfl, rfl, forwarded_vc hlen _, rfl,
      forwarded_ttl hlen _, fun i hi h0 h5 h25 => ?_, forwarded_crcnt hlen _, forwarded_drop hlen _, forwarded_type hlen _,
      forwarded_crcOk hlen _, fun hc => ?_, fun hc => ?_, ?_⟩
    · exact (forwarded_get hlen _ hi).trans ((if_neg h0).trans ((if_neg h5).trans (if_neg h25)))
    · exact hstat.trans (if_neg (by rw [hc]; decide))
    · exact (hstat.trans (if_pos hc)).trans (by rw [satInc_eq])
    · exact sent_rest hrest _
  · refine ⟨_, congrArg Host.Outcome.next (hop.trans (if_pos h)), s.lose_used _ _ _, ?_, fun h4 => ?_,
      fun h6 => s.lose_owed_reserved _ _ _ (by omega), s.lose_rest _ _ _⟩
    · exact (s.lose_stat ..).trans (by rw [satInc_eq])
    · exact (s.lose_owed _ _ _ h4 _).trans (if_pos rfl)

end Sys2Proof
end

section
/-! O32: the responses of peers. -/

namespace Sys2Proof.Machine

theorem State.awake_rest (s : State) : s.awake = { s with pwr := s.awake.pwr } := by
  unfold State.awake
  split <;> rfl

/-- `v` is `s` with a packet's credits taken in and its slot free. -/
structure Taken (s v : State) (port : Nat) (pkt : List Byte) : Prop where
  used : ∀ k, v.peer.used.get 0 k = s.peer.used.get 0 k - if k = 4 * port + pCrbuf pkt then pCrcnt pkt else 0
  rest : v = { s.awake with peer := { s.peer with used := v.peer.used, owed := v.peer.owed } }

/-- The state in which a response is used. -/
def State.takeResp (s : State) (port : Nat) (pkt : List Byte) : State :=
  (s.awake.creditIn port (pCrbuf pkt) (pCrcnt pkt)).creditOwe (4 * port + pBuf pkt)

theorem taken (s : State) (port : Nat) (pkt : List Byte) : Taken s (s.takeResp port pkt) port pkt := by
  obtain ⟨hused, -, -, -⟩ := credited s port (pCrbuf pkt) (pCrcnt pkt)
  refine ⟨hused, ?_⟩
  unfold State.takeResp State.creditOwe State.creditIn
  rw [s.awake_peer]

section Used
variable {s v : State} {port : Nat} {pkt : List Byte} (h : Taken s v port pkt)
include h

theorem Taken.eq : v = { s with pwr := v.pwr, peer := { s.peer with used := v.peer.used, owed := v.peer.owed } } := by
  have hr := h.rest
  have hw : v.pwr = s.awake.pwr := (congrArg State.pwr hr).trans rfl
  rw [hw]
  exact hr.trans (congrArg (fun u : State =>
    { u with peer := { s.peer with used := v.peer.used, owed := v.peer.owed } }) s.awake_rest)

theorem Taken.rem : v.peer.rem = s.peer.rem := (congrArg (fun u : State => u.peer.rem) h.eq).trans rfl
theorem Taken.chan (j : Nat) : v.chan j = s.chan j := (congrArg (fun u : State => u.chan j) h.eq).trans rfl
theorem Taken.strmAt (j : Nat) : v.strmAt j = s.strmAt j := (congrArg (fun u : State => u.strmAt j) h.eq).trans rfl
theorem Taken.answered (wr : Option Bool) : v.answered pkt wr = s.answered pkt wr :=
  (congrArg (fun u : State => u.answered pkt wr) h.eq).trans rfl

end Used

/-- A response that passes its checks. -/
theorem State.response_taken {s : State} {port type : Nat} {pkt : List Byte} (htakes : s.peerTakes port type = true)
    (ht : pType pkt = type) (hd : pDst pkt = s.peer.chip.toNat) (hc : pCrcOk pkt = true) (hr : pReserved pkt = false)
    (wr : Option Bool) (use : State → RemReq → Nat → State) :
    s.response port type wr pkt use = match s.answered pkt wr with
      | none => (s.takeResp port pkt).peDrop port
      | some r => match (s.ch r.mv r.ch).act with
        | none => ((s.takeResp port pkt).delRem r).peDrop port
        | some sid => use ((s.takeResp port pkt).delRem r) r sid := by
  have hv := taken s port pkt
  have hin : s.response port type wr pkt use = match (s.takeResp port pkt).answered pkt wr with
      | none => (s.takeResp port pkt).peDrop port
      | some r => match (((s.takeResp port pkt).delRem r).ch r.mv r.ch).act with
        | none => ((s.takeResp port pkt).delRem r).peDrop port
        | some sid => use ((s.takeResp port pkt).delRem r) r sid := by
    unfold State.response State.intake
    rw [if_neg (by
      rintro (h | ⟨h1, -⟩ | ⟨-, h⟩)
      · exact absurd (htakes.symm.trans h) (by decide)
      · exact h1 ht
      · exact h hd)]
    dsimp only
    rw [if_neg (by rw [hc]; decide), if_neg (by rw [hr]; decide)]
    rfl
  rw [hin, hv.answered]
  cases s.answered pkt wr with
  | none => rfl
  | some r =>
    have hch : ((s.takeResp port pkt).delRem r).ch r.mv r.ch = s.ch r.mv r.ch := hv.chan _
    dsimp only
    rw [hch]

theorem State.settle_waits {s : State} {m c sid : Nat} (ha : (s.ch m c).act = some sid) (hs : (s.ch m c).stop = none)
    (hb : (s.ch m c).abort = false) (hr : s.remOut m c ≠ []) : s.settle m c = s := by
  unfold State.settle
  dsimp only
  rw [ha, hs, hb]
  dsimp only
  rw [if_neg Bool.false_ne_true]
  cases (s.strmAt sid).cmd with
  | none => rfl
  | some k => exact if_neg fun h => hr h.2.2.2.2

theorem State.advanceTile_waits {s : State} {m c sid n : Nat} (h : s.readsOut m c n = true) : s.advanceTile m c sid n = s := by
  have hf : s.tryForm m c sid n = (s, false) := by
    unfold State.tryForm
    cases (s.strmAt sid).cmd with
    | none => rfl
    | some k => exact if_pos (by tauto)
  unfold State.advanceTile
  rw [hf]

theorem SMap.get_ins_fold {m : SMap Nat} (l : List Nat) (off j : Nat) :
    (l.foldl (fun m i => m.ins (off + i) 1) m).get 0 j = if ∃ i ∈ l, j = off + i then 1 else m.get 0 j := by
  induction l generalizing m with
  | nil => simp
  | cons i l ih =>
    rw [List.foldl_cons, ih, SMap.get_ins]
    by_cases h : ∃ x ∈ l, j = off + x
    · obtain ⟨x, hx, he⟩ := h
      rw [if_pos ⟨x, hx, he⟩, if_pos ⟨x, List.mem_cons_of_mem _ hx, he⟩]
    · rw [if_neg h]
      by_cases hj : j = off + i
      · rw [if_pos hj, if_pos ⟨i, List.mem_cons_self, hj⟩]
      · rw [if_neg hj, if_neg]
        rintro ⟨x, hx, he⟩
        obtain rfl | hx := List.mem_cons.mp hx
        · exact hj he
        · exact h ⟨x, hx, he⟩

theorem SMap.find_getD {α : Type} (m : SMap α) (d : α) (k : Nat) : (m.find k).getD d = m.get d k := by
  induction m with
  | nil => rfl
  | cons e m ih =>
    unfold SMap.find SMap.get
    split
    · rfl
    · exact ih

/-- `u` is `s` with a response taken to the request `r`, which is awaited no more. -/
structure Answered (s u : State) (port : Nat) (pkt : List Byte) (r : RemReq) : Prop where
  used : ∀ k, u.peer.used.get 0 k = s.peer.used.get 0 k - if k = 4 * port + pCrbuf pkt then pCrcnt pkt else 0
  rem : u.peer.rem = s.peer.rem.erase r
  chan : ∀ j, u.chan j = s.chan j
  strmAt : ∀ j, u.strmAt j = s.strmAt j
  rest : u = { s.awake with peer := { s.peer with used := u.peer.used, owed := u.peer.owed, rem := u.peer.rem } }

theorem Taken.delRem {s v : State} {port : Nat} {pkt : List Byte} (h : Taken s v port pkt) (r : RemReq) :
    Answered s (v.delRem r) port pkt r :=
  ⟨h.used, congrArg (List.erase · r) h.rem, h.chan, h.strmAt,
    congrArg (fun u : State => { u with peer := { u.peer with rem := v.peer.rem.erase r } }) h.rest⟩

theorem State.response_answered {s : State} {port type : Nat} {pkt : List Byte} (htakes : s.peerTakes port type = true)
    (ht : pType pkt = type) (hd : pDst pkt = s.peer.chip.toNat) (hc : pCrcOk pkt = true) (hr : pReserved pkt = false)
    {wr : Option Bool} {r : RemReq} {sid : Nat} (ha : s.answered pkt wr = some r) (hact : (s.ch r.mv r.ch).act = some sid)
    (use : State → RemReq → Nat → State) :
    ∃ u, s.response port type wr pkt use = use u r sid ∧ Answered s u port pkt r := by
  refine ⟨_, (State.response_taken htakes ht hd hc hr wr use).trans ?_, (taken s port pkt).delRem r⟩
  rw [ha]
  dsimp only
  rw [hact]

/-- Another request of the channel is under way. -/
theorem State.writesOut_sent {s : State} {m c : Nat} {q : RemReq} (hq : q ∈ s.peer.rem) (hm : q.mv = m) (hc : q.ch = c)
    (hs : q.sent = true) : s.writesOut m c = true := by
  unfold State.writesOut
  have : (s.peer.rem.any fun r => r.mv == m && r.ch == c && r.sent) = true :=
    List.any_eq_true.mpr ⟨q, hq, by simp [hm, hc, hs]⟩
  rw [this, Bool.or_true]

theorem State.readsOut_remote {s : State} {m c n : Nat} {q : RemReq} (hq : q ∈ s.peer.rem) (hm : q.mv = m) (hc : q.ch = c)
    (hw : q.wr = false) : s.readsOut m c n = true := by
  unfold State.readsOut
  have : (s.peer.rem.any fun r => r.mv == m && r.ch == c && !r.wr) = true :=
    List.any_eq_true.mpr ⟨q, hq, by simp [hm, hc, hw]⟩
  rw [this, Bool.or_true]

/-- A command context with the bytes of a write acknowledged (R295). -/
def ackCmd (r : RemReq) (k : CmdCtx) : CmdCtx :=
  { k with
    remoteOk := (List.range r.len).foldl (fun m i => m.ins (r.off + i) 1) k.remoteOk
    ok := k.ok.ins r.tile ((k.ok.find r.tile).getD 0 + r.len) }

theorem ackCmd_ok (r : RemReq) (k : CmdCtx) (j : Nat) :
    (ackCmd r k).ok.get 0 j = k.ok.get 0 j + if j = r.tile then r.len else 0 := by
  refine (SMap.get_ins k.ok 0 _ r.tile j).trans ?_
  rw [SMap.find_getD]
  split
  · next h => rw [h]
  · rfl

theorem ackCmd_remoteOk (r : RemReq) (k : CmdCtx) (j : Nat) :
    (ackCmd r k).remoteOk.get 0 j = if r.off ≤ j ∧ j < r.off + r.len then 1 else k.remoteOk.get 0 j := by
  refine (SMap.get_ins_fold (List.range r.len) r.off j).trans (if_congr ⟨?_, fun h => ?_⟩ rfl rfl)
  · rintro ⟨i, hi, rfl⟩
    have := List.mem_range.mp hi
    omega
  · exact ⟨j - r.off, List.mem_range.mpr (by omega), by omega⟩

/-- A stop that begins while a request is under way waits for it (R172). -/
theorem State.beginStop_waits {s : State} {m c : Nat} {q : RemReq} (hq : q ∈ s.peer.rem) (hm : q.mv = m) (hc : q.ch = c)
    (hs : q.sent = true) (hstop : (s.ch m c).stop = none) (x : Stop) :
    ((s.beginStop m c x).ch m c).stop = some x ∧ (∀ j, j ≠ 4 * m + c → (s.beginStop m c x).chan j = s.chan j) ∧
      s.beginStop m c x = { s with
        chans := (s.beginStop m c x).chans, acc := (s.beginStop m c x).acc, stg := (s.beginStop m c x).stg
        peer := { s.peer with rem := (s.beginStop m c x).peer.rem, tx := (s.beginStop m c x).peer.tx } } := by
  let s1 := s.modCh m c fun h => { h with stop := some x, slot := none, got := [], xl := [], inB := 0, outB := 0 }
  have hb : s.beginStop m c x = (s1.lateReads m c).dropChan m c x.ntile.toNat := by
    unfold State.beginStop
    dsimp only
    rw [hstop]
    unfold State.finishStop
    rw [State.writesOut_sent (q := q) (List.mem_filter.mpr ⟨hq, by simp [hs]⟩) hm hc hs]
    dsimp only
    split <;> rfl
  rw [hb]
  have hget : ∀ j, ((s1.lateReads m c).dropChan m c x.ntile.toNat).chan j = if j = 4 * m + c then _ else s.chan j :=
    fun j => s.setChan_chan (4 * m + c) j _
  refine ⟨?_, fun j hj => (hget j).trans (if_neg hj), rfl⟩
  exact congrArg Chan.stop ((hget _).trans (if_pos rfl))

end Sys2Proof.Machine

namespace Sys2Proof
open Machine

/-- Settles O32: each response is used where its request is found (`response_answered`), and the channel waits for the
request `q` that is still under way. -/
theorem peerResponses : Obligations.peer_responses := by
  unfold Obligations.peer_responses
  intro s port pkt ho hw hd hc hr used
  have htakes := State.peerTakes_open ho hw
  refine ⟨fun h3 hans => ?_, fun r q sid k hq hmv hch hsent hact hcmd hstop hab hph => ?_⟩
  · have hv := taken s port pkt
    generalize hu : s.takeResp port pkt = v at hv
    have hop : s.wackOp port pkt = v.peDrop port := by
      refine (State.response_taken (htakes 3) h3 hd hc hr _ _).trans ?_
      rw [hans, hu]
    have hst : v.peer.stat = s.peer.stat := (congrArg (fun u : State => u.peer.stat) hv.eq).trans rfl
    refine ⟨_, congrArg Host.Outcome.next hop, hv.used, ?_, ?_⟩
    · refine (congrArg (fun q : PeStat => q.drop.toNat) (v.modStat_stat port _)).trans ((satInc_toNat _).trans ?_)
      rw [hst]
    · exact congrArg (fun u : State => { u with peer := { u.peer with stat := (v.peDrop port).peer.stat } }) hv.rest
  · intro others
    refine ⟨fun h3 hans => ?_, fun h2 hans hqw => ?_, fun h4 hans => ?_⟩
    · obtain ⟨u, hop, husd, hrem, hchan, hstrm, hrest⟩ := State.response_answered (htakes 3) h3 hd hc hr hans hact
        fun t r sid => (t.modCmd sid (ackCmd r)).settle r.mv r.ch
      have hout : (u.modCmd sid (ackCmd r)).remOut r.mv r.ch ≠ [] := by
        rw [← hrem] at hq
        exact List.ne_nil_of_mem (List.mem_filter.mpr ⟨hq, by simp [hmv, hch]⟩)
      have hset : (u.modCmd sid (ackCmd r)).settle r.mv r.ch = u.modCmd sid (ackCmd r) :=
        State.settle_waits ((congrArg Chan.act (hchan _)).trans hact) ((congrArg Chan.stop (hchan _)).trans hstop)
          ((congrArg Chan.abort (hchan _)).trans hab) hout
      have hget : ∀ j, (u.modCmd sid (ackCmd r)).strmAt j = if j = sid then _ else u.strmAt j :=
        fun j => u.setStrmAt_strmAt sid j _
      refine ⟨_, ackCmd r k, congrArg Host.Outcome.next (hop.trans hset), husd, hrem, ?_, rfl, ackCmd_ok r k,
        ackCmd_remoteOk r k, fun j hj => ((hget j).trans (if_neg hj)).trans (hstrm j), ?_⟩
      · refine (congrArg Strm.cmd ((hget sid).trans (if_pos rfl))).trans ?_
        exact congrArg (Option.map (ackCmd r)) ((congrArg Strm.cmd (hstrm sid)).trans hcmd)
      · exact congrArg (fun v : State => { v with strms := (u.modCmd sid (ackCmd r)).strms }) hrest
    · obtain ⟨u, hop, husd, hrem, hchan, hstrm, hrest⟩ := State.response_answered (htakes 2) h2 hd hc hr hans hact
        fun t r sid =>
          let h := t.ch r.mv r.ch
          if h.stop = none ∧ h.abort = false ∧ h.ph = .tiles then
            (t.modCh r.mv r.ch fun y => { y with got := (r.off, pPayload pkt) :: y.got }).advanceTile r.mv r.ch sid r.tile
          else t.settle r.mv r.ch
      rw [← hrem] at hq
      have hif := (hop.trans (if_pos ⟨(congrArg Chan.stop (hchan _)).trans hstop,
        (congrArg Chan.abort (hchan _)).trans hab, (congrArg Chan.ph (hchan _)).trans hph⟩)).trans
          (State.advanceTile_waits (State.readsOut_remote (q := q) hq hmv hch hqw))
      have hget : ∀ j, (u.modCh r.mv r.ch fun y => { y with got := (r.off, pPayload pkt) :: y.got }).chan j =
          if j = 4 * r.mv + r.ch then _ else u.chan j := fun j => u.setChan_chan _ j _
      refine ⟨_, congrArg Host.Outcome.next hif, husd, hrem, ?_, fun j hj => ((hget j).trans (if_neg hj)).trans (hchan j), ?_⟩
      · refine ((hget _).trans (if_pos rfl)).trans ?_
        exact congrArg (fun y : Chan => { y with got := (r.off, pPayload pkt) :: y.got }) (hchan _)
      · exact congrArg (fun v : State => { v with
          chans := (u.modCh r.mv r.ch fun y => { y with got := (r.off, pPayload pkt) :: y.got }).chans }) hrest
    · intro resp
      obtain ⟨u, hop, husd, hrem, hchan, hstrm, hrest⟩ := State.response_answered (htakes 4) h4 hd hc hr hans hact
        fun t r sid => t.remoteStop r sid (busCode r.wr) (if pNst pkt = 1 then 3 else 2)
      rw [← hrem] at hq
      obtain ⟨hz, hoth, hall⟩ := State.beginStop_waits hq hmv hch hsent ((congrArg Chan.stop (hchan _)).trans hstop)
        { tileStop false true r.tile { faultOf (u.strmAt sid) sid r.mv r.ch (busCode r.wr) 11 with
            dir := r.wr, resp := BitVec.ofNat 8 (if pNst pkt = 1 then 3 else 2) } with
          err := some { dir := r.wr, walk := false, resp := if pNst pkt = 1 then 3 else 2, kind := 11, va := 0, pa := 0 } }
      have hop' : s.nackOp port pkt = _ := hop
      generalize ht : State.remoteStop u r sid (busCode r.wr) (if pNst pkt = 1 then 3 else 2) = t at hop'
      change State.beginStop _ _ _ _ = t at ht
      rw [ht] at hz hoth hall
      have hus : t.peer.used = u.peer.used := (congrArg (fun v : State => v.peer.used) hall).trans rfl
      have how : t.peer.owed = u.peer.owed := (congrArg (fun v : State => v.peer.owed) hall).trans rfl
      refine ⟨t, _, congrArg Host.Outcome.next hop', ?_, hz, rfl, rfl, rfl, ?_, rfl, rfl, rfl,
        fun j hj => (hoth j hj).trans (hchan j), ?_⟩
      · change ∀ k, t.peer.used.get 0 k = _
        rw [hus]
        exact husd
      · cases r.wr <;> rfl
      · rw [hus, how]
        exact hall.trans (congrArg (fun v : State => { v with
          chans := t.chans, acc := t.acc, stg := t.stg, peer := { v.peer with rem := t.peer.rem, tx := t.peer.tx } }) hrest)

end Sys2Proof
end

section
/-! Bursts hold the addresses they are made for, and far accesses that no translation caches are made and walked. -/

namespace Sys2Proof.Machine

theorem SMap.keys_ins {α : Type} (m : SMap α) (k j : Nat) (v : α) : j ∈ (m.ins k v).map (·.1) ↔ j = k ∨ j ∈ m.map (·.1) := by
  induction m with
  | nil => simp [SMap.ins]
  | cons e m ih =>
    unfold SMap.ins
    split
    · simp
    · split
      · next h => simp [h]
      · rw [List.map_cons, List.mem_cons, ih, List.map_cons, List.mem_cons]
        tauto

theorem mem_sortU {l : List Nat} {j : Nat} : j ∈ sortU l ↔ j ∈ l := by
  unfold sortU
  induction l with
  | nil => simp
  | cons a l ih => rw [List.foldr_cons, SMap.keys_ins, ih, List.mem_cons]

theorem runsFrom_covers {mx page : Nat} (l : List Nat) (r b n : Nat) {y : Nat} (h : y ∈ l ∨ (b ≤ y ∧ y < b + n)) :
    ∃ e ∈ runsFrom mx page r b n l, e.1 ≤ y ∧ y < e.1 + e.2 := by
  induction l generalizing r b n with
  | nil => exact ⟨(b, n), List.mem_singleton_self _, h.resolve_left List.not_mem_nil⟩
  | cons x t ih =>
    have hopen : ∀ r, (b ≤ y ∧ y < b + n) ∨ (y ∈ t ∨ (x ≤ y ∧ y < x + 1)) →
        ∃ e ∈ (b, n) :: runsFrom mx page r x 1 t, e.1 ≤ y ∧ y < e.1 + e.2 := fun r h => by
      rcases h with h | h
      · exact ⟨(b, n), List.mem_cons_self, h⟩
      · obtain ⟨e, he, hy⟩ := ih r x 1 h
        exact ⟨e, List.mem_cons_of_mem _ he, hy⟩
    have hcase : (b ≤ y ∧ y < b + n) ∨ (y ∈ t ∨ (x ≤ y ∧ y < x + 1)) := by
      rcases h with h | h
      · rcases List.mem_cons.mp h with rfl | h
        · exact .inr (.inr (by omega))
        · exact .inr (.inl h)
      · exact .inl h
    unfold runsFrom
    split
    · next hx =>
      split
      · refine ih r b (n + 1) ?_
        rcases hcase with h | h | h
        · exact .inr (by omega)
        · exact .inl h
        · exact .inr (by omega)
      · exact hopen r hcase
    · exact hopen x hcase

/-- Every address lies in one of the bursts (R36, R422). -/
theorem burstsOf_covers {beat mx : Nat} (hb : 0 < beat) {as : List Nat} {v : Nat} (hv : v ∈ as) :
    ∃ b ∈ burstsOf beat mx as, b.1 ≤ v ∧ v < b.1 + b.2 := by
  have hmem : v / beat ∈ beatsOf beat as := mem_sortU.mpr (List.mem_map.mpr ⟨v, hv, rfl⟩)
  have hrun : ∃ e ∈ runsOf mx (4096 / beat) (beatsOf beat as), e.1 ≤ v / beat ∧ v / beat < e.1 + e.2 := by
    unfold runsOf
    cases hl : beatsOf beat as with
    | nil => rw [hl] at hmem; exact absurd hmem List.not_mem_nil
    | cons b t =>
      rw [hl] at hmem
      refine runsFrom_covers t b b 1 ?_
      rcases List.mem_cons.mp hmem with h | h
      · exact .inr (by omega)
      · exact .inl h
  obtain ⟨e, he, h1, h2⟩ := hrun
  refine ⟨(e.1 * beat, e.2 * beat), List.mem_map.mpr ⟨e, he, rfl⟩, ?_, ?_⟩
  · exact (Nat.le_div_iff_mul_le hb).mp h1
  · rw [← Nat.add_mul]
    exact (Nat.div_lt_iff_lt_mul hb).mp h2

/-- From `s` to `t` accesses are made and walks of partition `p` begin; damaged walk-cache entries are shed. -/
structure State.Walks (p : Nat) (s t : State) : Prop where
  strms : t.strms = s.strms
  cnts : t.cnts = s.cnts
  peer : t.peer = s.peer
  tens : t.tens = s.tens
  movers : t.movers = s.movers
  l2 : ∀ q, (t.xlU q).l2 = (s.xlU q).l2
  acc : ∀ a ∈ s.acc, a ∈ t.acc
  clean : (∀ e ∈ (s.xlU p).wc, e.bad = false) →
    t = { s with xl := t.xl, acc := t.acc, nextAid := t.nextAid } ∧ ∀ e ∈ (t.xlU p).wc, e.bad = false

theorem State.Walks.refl (p : Nat) (s : State) : State.Walks p s s :=
  ⟨rfl, rfl, rfl, rfl, rfl, fun _ => rfl, fun _ h => h, fun h => ⟨rfl, h⟩⟩

theorem State.Walks.trans {p : Nat} {s t u : State} (h : State.Walks p s t) (g : State.Walks p t u) : State.Walks p s u :=
  ⟨g.strms.trans h.strms, g.cnts.trans h.cnts, g.peer.trans h.peer, g.tens.trans h.tens, g.movers.trans h.movers,
    fun q => (g.l2 q).trans (h.l2 q), fun a ha => g.acc a (h.acc a ha), fun hc => by
      obtain ⟨h1, h2⟩ := h.clean hc
      obtain ⟨g1, g2⟩ := g.clean h2
      exact ⟨g1.trans (congrArg (fun v : State => { v with xl := u.xl, acc := u.acc, nextAid := u.nextAid }) h1), g2⟩⟩

theorem State.pushAcc_walks (p : Nat) (s : State) (a : Access) : State.Walks p s (s.pushAcc a) :=
  ⟨rfl, rfl, rfl, rfl, rfl, fun _ => rfl, fun _ h => List.mem_append_left _ h, fun h => ⟨rfl, h⟩⟩

theorem State.modXlU_walks (p : Nat) (s : State) {g : Xl → Xl} (hl : ∀ x, (g x).l2 = x.l2)
    (hw : ∀ e ∈ (g (s.xlU p)).wc, e ∈ (s.xlU p).wc) : State.Walks p s (s.modXlU p g) := by
  have hget : ∀ q, (s.modXlU p g).xlU q = if q = p then g (s.xlU p) else s.xlU q := fun q => s.setXlU_xlU p q _
  refine ⟨rfl, rfl, rfl, rfl, rfl, fun q => ?_, fun _ h => h, fun h => ⟨rfl, fun e he => ?_⟩⟩
  · rw [hget]
    split
    · next hq => rw [hq, hl]
    · rfl
  · rw [hget, if_pos rfl] at he
    exact h e (hw e he)

theorem State.shedCount_rest (s : State) (m sid n : Nat) :
    s.shedCount m sid n = { s with par := (s.shedCount m sid n).par, mg := (s.shedCount m sid n).mg } :=
  List.foldlRecOn (motive := fun t : State => t = { s with par := t.par, mg := t.mg }) _ _ rfl fun t h _ _ =>
    congrArg (fun v : State => { v with par := (t.cacheParity m sid).par, mg := (t.cacheParity m sid).mg }) h

theorem State.shedWalk_walks (p : Nat) (s : State) (r : WalkReq) : State.Walks p s (s.shedWalk p r) := by
  unfold State.shedWalk
  dsimp only
  split
  · exact .refl p s
  · next hn =>
    have hm := s.modXlU_walks p (g := fun x => { x with wc := x.wc.filter fun e =>
      !(e.bad && e.ten == r.ten && e.gen == r.gen && e.vtag == wcTag e.lvl.toNat r.va) }) (fun _ => rfl)
      fun e he => (List.mem_filter.mp he).1
    generalize s.modXlU p _ = u at hm
    generalize (((s.findAcc r.aid).map fun a => (a.who.1, a.sid)).getD (0, 0)) = w
    have hs := u.shedCount_rest w.1 w.2
    refine ⟨?_, ?_, ?_, ?_, ?_, fun q => ?_, fun a ha => ?_, fun hc => absurd ?_ hn⟩
    · rw [hs]; exact hm.strms
    · rw [hs]; exact hm.cnts
    · rw [hs]; exact hm.peer
    · rw [hs]; exact hm.tens
    · rw [hs]; exact hm.movers
    · rw [hs]; exact hm.l2 q
    · rw [hs]; exact hm.acc a ha
    · rw [List.filter_eq_nil_iff.mpr fun e he => by simp [hc e he]]
      rfl

theorem useEntry_mem {α : Type} [DecidableEq α] {cap : Nat} {e a : α} {l : List α} (he : e ∈ l) (ha : a ∈ useEntry cap e l) :
    a ∈ l := by
  rcases List.mem_cons.mp (List.mem_of_mem_take ha) with rfl | h
  · exact he
  · exact List.mem_of_mem_erase h

theorem State.walkRead_walks (p : Nat) (s : State) (w : Walk) : State.Walks p s (s.walkRead p w) :=
  (s.modXlU_walks p (g := fun x => { x with walk := some w }) (fun _ => rfl) fun _ h => h).trans (State.pushAcc_walks p _ _)

theorem State.startWalk_walks (p : Nat) (s : State) (r : WalkReq) : State.Walks p s (s.startWalk p r) := by
  have hs := s.shedWalk_walks p r
  unfold State.startWalk
  dsimp only
  generalize s.shedWalk p r = u at hs
  split
  · next e he =>
    have hmem : e ∈ (u.xlU p).wc := by
      simp only [Option.or_eq_some_iff] at he
      rcases he with he | ⟨-, he | ⟨-, he⟩⟩
      · exact List.mem_of_find?_eq_some he
      · exact List.mem_of_find?_eq_some he
      · exact List.mem_of_find?_eq_some he
    exact (hs.trans (u.modXlU_walks p (g := fun x => { x with wc := useEntry 64 e x.wc }) (fun _ => rfl)
      fun a ha => useEntry_mem hmem ha)).trans (State.walkRead_walks p _ _)
  · exact hs.trans (u.walkRead_walks p _)

/-- A far access that no translation caches is made, and waits for its walk (R181, R184). -/
theorem State.makeFar_miss {s : State} {a : Access} (hen : (s.ten a.ten.toNat).rootEn = true)
    (hu : ∀ m, rqMover a.rq = some m → (s.mover m).utlb = []) (hl : (s.xlU a.part).l2 = []) :
    ∃ t, s.makeFar a = (t, none) ∧ State.Walks a.part s t ∧ ({ a with stage := .xlat, aid := s.nextAid } : Access) ∈ t.acc := by
  have hshed : s.shedTlb a = s := State.shedTlb_clean (by rw [hl]; exact fun _ h => absurd h List.not_mem_nil)
    fun m hm => by rw [hu m hm]; exact fun _ h => absurd h List.not_mem_nil
  have hbind : (rqMover a.rq).bind (fun m => (s.mover m).utlb.find? fun e => e.maps a.ten a.gen a.va) = none := by
    cases hm : rqMover a.rq with
    | none => rfl
    | some m =>
      change (s.mover m).utlb.find? _ = none
      rw [hu m hm]
      rfl
  have hlook : s.lookup a.part (rqMover a.rq) a.ten a.gen a.va a.permW = (.miss, s) := by
    unfold State.lookup
    rw [if_neg (by rw [hen]; decide)]
    dsimp only
    rw [hbind, hl]
    rfl
  unfold State.makeFar
  rw [hshed, hlook]
  have hp := s.pushAcc_walks a.part { a with stage := .xlat }
  have hmem : ({ a with stage := .xlat, aid := s.nextAid } : Access) ∈ (s.pushAcc { a with stage := .xlat }).acc :=
    List.mem_append_right _ (List.mem_singleton_self _)
  dsimp only
  generalize s.pushAcc { a with stage := .xlat } = u at hp hmem
  split
  · have hq := u.modXlU_walks a.part (g := fun x => { x with queue := x.queue ++
      [{ ten := a.ten, gen := a.gen, va := a.va, wr := a.permW, aid := s.nextAid }] }) (fun _ => rfl) fun _ h => h
    exact ⟨_, rfl, hp.trans hq, hq.acc _ hmem⟩
  · have hq := u.startWalk_walks a.part { ten := a.ten, gen := a.gen, va := a.va, wr := a.permW, aid := s.nextAid }
    exact ⟨_, rfl, hp.trans hq, hq.acc _ hmem⟩

/-- Every access of a list is made, where no translation is cached. -/
theorem State.makeFars_miss {p : Nat} {s : State} {l : List Access} (hpart : ∀ a ∈ l, a.part = p)
    (hen : ∀ a ∈ l, (s.ten a.ten.toNat).rootEn = true)
    (hu : ∀ a ∈ l, ∀ m, rqMover a.rq = some m → (s.mover m).utlb = []) (hl : (s.xlU p).l2 = []) :
    ∃ t, s.makeFars l = (t, none) ∧ State.Walks p s t ∧
      ∀ a ∈ l, ∃ b ∈ t.acc, ∃ i, b = { a with stage := .xlat, aid := i } := by
  induction l generalizing s with
  | nil => exact ⟨s, rfl, .refl p s, fun _ h => absurd h List.not_mem_nil⟩
  | cons a l ih =>
    obtain rfl := hpart a List.mem_cons_self
    obtain ⟨t, ht, hw, hmem⟩ := State.makeFar_miss (hen a List.mem_cons_self) (hu a List.mem_cons_self) hl
    have hten : ∀ j, t.ten j = s.ten j := fun j => congrArg (fun m : SMap Tenant => m.get Tenant.reset j) hw.tens
    have hmv : ∀ j, t.mover j = s.mover j := fun j => congrArg (fun m : SMap Mover => m.get Mover.reset j) hw.movers
    obtain ⟨u, hu', hw', hall⟩ := ih (s := t) (fun b hb => hpart b (List.mem_cons_of_mem _ hb))
      (fun b hb => by rw [hten]; exact hen b (List.mem_cons_of_mem _ hb))
      (fun b hb m hm => by rw [hmv]; exact hu b (List.mem_cons_of_mem _ hb) m hm) ((hw.l2 _).trans hl)
    refine ⟨u, ?_, hw.trans hw', fun b hb => ?_⟩
    · unfold State.makeFars
      rw [ht]
      exact hu'
    · rcases List.mem_cons.mp hb with rfl | hb
      · exact ⟨_, hw'.acc _ hmem, _, rfl⟩
      · exact hall b hb

end Sys2Proof.Machine
end

section
/-! Receive requests: what begins one, what it answers, and O34. -/

namespace Sys2Proof.Machine

theorem lastWrites_key {l : List (Nat × Byte)} {e : Nat × Byte} (he : e ∈ l) : e.1 ∈ (lastWrites l).map (·.1) := by
  have hfold : ∀ (l : List (Nat × Byte)) (m : SMap Byte), e.1 ∈ m.map (·.1) ∨ e ∈ l →
      e.1 ∈ (l.foldl (fun m e => m.ins e.1 e.2) m).map (·.1) := fun l => by
    induction l with
    | nil => exact fun m h => h.resolve_right List.not_mem_nil
    | cons x l ih =>
      refine fun m h => ih _ ?_
      rcases h with h | h
      · exact .inl ((SMap.keys_ins m x.1 e.1 x.2).mpr (.inr h))
      · rcases List.mem_cons.mp h with rfl | h
        · exact .inl ((SMap.keys_ins m e.1 e.1 e.2).mpr (.inl rfl))
        · exact .inr h
  exact hfold l [] (.inr he)

/-- Byte `i` of a request, and the address at which its placement descriptor puts it (R291). -/
def State.jobPlaces (s : State) (j : RxJob) : List (Nat × Option Nat) :=
  (List.range (pLen j.head)).map fun i => (i, placeAddr (placeDesc (s.strmAt j.sid)) (pOff j.head + i))

/-- The bytes of a WRITE, the last one at each address. -/
def State.jobBytes (s : State) (j : RxJob) (payload : List Byte) : SMap Byte :=
  lastWrites ((s.jobPlaces j).filterMap fun (i, a) => a.map fun v => (v, payload.getD i 0))

/-- The addresses and FILL bytes that an RDREQ reads. -/
def State.jobWant (s : State) (j : RxJob) : List Nat :=
  (s.jobPlaces j).map fun (i, a) => a.getD
    (2 ^ 48 + fld (placeDesc (s.strmAt j.sid)).fill (8 * ((pOff j.head + i) % max 1 (placeDesc (s.strmAt j.sid)).unit)) 8)

/-- What the begin of a request writes in its job. -/
def State.jobBegun (s : State) (j q : RxJob) : RxJob :=
  if j.wr then { q with landed := ((s.jobPlaces j).filter fun e => e.2.isSome).length } else { q with want := s.jobWant j }

/-- The accesses of a request. -/
def State.jobAccs (s : State) (j : RxJob) (payload : List Byte) : List Access :=
  let x := s.strmAt j.sid
  let base := fun (kind : AKind) (wr : Bool) (b : Nat × Nat) =>
    { s.chanAcc x.hmv.toNat rxCh j.sid kind wr b.1 b.2 with permW := wr }
  if j.wr then
    (burstsOf 64 32 ((s.jobBytes j payload).map (·.1))).map fun b =>
      { base (.rxWrite j.id) true b with
        data := ((List.range b.2).map fun i => b.1 + i).map fun a => ((s.jobBytes j payload).find a).getD 0
        en := ((List.range b.2).map fun i => b.1 + i).map fun a => ((s.jobBytes j payload).find a).isSome }
  else (burstsOf 64 32 ((s.jobWant j).filter fun a => decide (a < 2 ^ 48))).map fun b => base (.rxRead j.id) false b

theorem State.startJob_eq (s : State) (j : RxJob) (payload : List Byte) : s.startJob j payload =
    match (s.modJob j.id (s.jobBegun j)).makeFars (s.jobAccs j payload) with
    | (t, none) => t
    | (t, some f) => t.rxXlat j.id f := by
  unfold State.startJob State.jobBegun State.jobAccs
  cases j.wr <;> rfl

theorem State.jobBegun_landed {s : State} {j : RxJob} (h : j.wr = true) (q : RxJob) : (s.jobBegun j q).landed =
    ((List.range (pLen j.head)).filter fun i =>
      (placeAddr (placeDesc (s.strmAt j.sid)) (pOff j.head + i)).isSome).length := by
  unfold State.jobBegun State.jobPlaces
  rw [if_pos h]
  dsimp only
  rw [List.filter_map, List.length_map]
  rfl

theorem State.jobBegun_want {s : State} {j : RxJob} (h : j.wr = false) (q : RxJob) :
    (s.jobBegun j q).want.length = pLen j.head := by
  unfold State.jobBegun State.jobWant State.jobPlaces
  rw [if_neg (by rw [h]; decide)]
  simp

theorem State.jobAccs_of {s : State} {j : RxJob} {payload : List Byte} {a : Access} (ha : a ∈ s.jobAccs j payload) :
    a.part = (s.strmAt j.sid).part.toNat ∧ a.ten = (s.strmAt j.sid).ten ∧ a.rq = .mover (s.strmAt j.sid).hmv.toNat := by
  unfold State.jobAccs at ha
  dsimp only at ha
  split at ha
  · obtain ⟨b, -, rfl⟩ := List.mem_map.mp ha
    exact ⟨rfl, rfl, rfl⟩
  · obtain ⟨b, -, rfl⟩ := List.mem_map.mp ha
    exact ⟨rfl, rfl, rfl⟩

theorem State.jobAccs_covers {s : State} {j : RxJob} {payload : List Byte} {i v : Nat} (hi : i < pLen j.head)
    (hv : placeAddr (placeDesc (s.strmAt j.sid)) (pOff j.head + i) = some v) (hw : j.wr = true ∨ v < 2 ^ 48) :
    ∃ a ∈ s.jobAccs j payload, a.kind = (if j.wr then .rxWrite j.id else .rxRead j.id) ∧ a.wr = j.wr ∧
      a.va ≤ v ∧ v < a.va + a.len := by
  have hplace : (i, some v) ∈ s.jobPlaces j := List.mem_map.mpr ⟨i, List.mem_range.mpr hi, by rw [hv]⟩
  unfold State.jobAccs
  dsimp only
  cases hwr : j.wr with
  | true =>
    have hkey : v ∈ (s.jobBytes j payload).map (·.1) :=
      lastWrites_key (e := (v, payload.getD i 0)) (List.mem_filterMap.mpr ⟨_, hplace, rfl⟩)
    obtain ⟨b, hb, h1, h2⟩ := burstsOf_covers (beat := 64) (mx := 32) (by decide) hkey
    exact ⟨_, List.mem_map.mpr ⟨b, hb, rfl⟩, rfl, rfl, h1, h2⟩
  | false =>
    have hlt : v < 2 ^ 48 := hw.resolve_left (by rw [hwr]; decide)
    have hmem : v ∈ (s.jobWant j).filter fun a => decide (a < 2 ^ 48) :=
      List.mem_filter.mpr ⟨List.mem_map.mpr ⟨_, hplace, rfl⟩, decide_eq_true hlt⟩
    obtain ⟨b, hb, h1, h2⟩ := burstsOf_covers (beat := 64) (mx := 32) (by decide) hmem
    exact ⟨_, List.mem_map.mpr ⟨b, hb, rfl⟩, rfl, rfl, h1, h2⟩

/-- The begin of a request whose home has no translation cached: an access holds each byte that it places. -/
theorem State.startJob_covers {s : State} {j : RxJob} (payload : List Byte)
    (hen : (s.ten (s.strmAt j.sid).ten.toNat).rootEn = true) (hu : (s.mover (s.strmAt j.sid).hmv.toNat).utlb = [])
    (hl : (s.xlU (s.strmAt j.sid).part.toNat).l2 = []) :
    State.Walks (s.strmAt j.sid).part.toNat (s.modJob j.id (s.jobBegun j)) (s.startJob j payload) ∧
      ∀ i v, i < pLen j.head → placeAddr (placeDesc (s.strmAt j.sid)) (pOff j.head + i) = some v → j.wr = true ∨ v < 2 ^ 48 →
        ∃ a ∈ (s.startJob j payload).acc, a.kind = (if j.wr then .rxWrite j.id else .rxRead j.id) ∧ a.wr = j.wr ∧
          a.va ≤ v ∧ v < a.va + a.len := by
  obtain ⟨t, ht, hwalks, hall⟩ := State.makeFars_miss (s := s.modJob j.id (s.jobBegun j)) (l := s.jobAccs j payload)
    (fun a ha => (State.jobAccs_of ha).1) (fun a ha => by rw [(State.jobAccs_of ha).2.1]; exact hen)
    (fun a ha m hm => by
      rw [(State.jobAccs_of ha).2.2] at hm
      obtain rfl := Option.some.inj hm
      exact hu) hl
  rw [State.startJob_eq, ht]
  refine ⟨hwalks, fun i v hi hv hw => ?_⟩
  obtain ⟨a, ha, hk, hwr, h1, h2⟩ := State.jobAccs_covers (payload := payload) hi hv hw
  obtain ⟨b, hb, n, rfl⟩ := hall a ha
  exact ⟨_, hb, hk, hwr, h1, h2⟩

/-- An increment within the counter's range. -/
theorem State.cntAdd_inRange {s : State} {key n : Nat} (hv : (s.cnt key).value.toNat + n < 2 ^ 32) (sid m c : Nat) :
    s.cntAdd key n sid m c =
      (s.setCnt key { s.cnt key with value := (s.cnt key).value + BitVec.ofNat 32 n }).wakeUp := by
  have hhi : decide (((2 ^ 32 : Nat) : Int) ≤ ((s.cnt key).value.toNat : Int) + n) = false := decide_eq_false (by omega)
  have hlo : decide (((s.cnt key).value.toNat : Int) + n < 0) = false := decide_eq_false (by omega)
  have hnv : BitVec.ofInt 32 (((s.cnt key).value.toNat : Int) + n) = (s.cnt key).value + BitVec.ofNat 32 n := by
    refine BitVec.eq_of_toNat_eq ?_
    rw [BitVec.toNat_ofInt, BitVec.toNat_add, BitVec.toNat_ofNat]
    omega
  unfold State.cntAdd
  dsimp only
  rw [hhi, hlo, hnv, Bool.or_false, Bool.or_false]
  rfl

/-- A landing counter takes the bytes that landed (R217). -/
theorem State.landing_adds {s : State} {sid n key : Nat}
    (hk : key = 64 * (s.strmAt sid).hmv.toNat + (s.strmAt sid).lctr.toNat) (hb : (s.cnt key).bound = true)
    (ht : (s.cnt key).ten = (s.strmAt sid).ten) (hm : (s.cnt key).mode = 2) (hv : (s.cnt key).value.toNat + n < 2 ^ 32) :
    (s.landing sid n).cnt key = { s.cnt key with value := (s.cnt key).value + BitVec.ofNat 32 n } ∧
      (∀ i, i ≠ key → (s.landing sid n).cnt i = s.cnt i) ∧ (s.landing sid n).peer = s.peer := by
  have hop : s.landing sid n = s.cntAdd key n sid (s.strmAt sid).hmv.toNat (s.strmAt sid).hch.toNat := by
    unfold State.landing cntKey
    dsimp only
    rw [← hk]
    exact if_pos (by rw [hb, ht, hm, beq_self_eq_true]; rfl)
  rw [hop, State.cntAdd_inRange hv]
  generalize hw : ({ s.cnt key with value := (s.cnt key).value + BitVec.ofNat 32 n } : Cnt) = w
  have hto := s.setCnt_wakeUp key w
  refine ⟨hto.cnt, hto.other, ?_⟩
  exact (congrArg State.peer (State.wakeUp_woken (s.setCnt key w)).rest).trans rfl

/-- A response that is due is queued at its peer port (R294). -/
theorem State.respond_eq {s : State} {hdr : List Byte} {type nst : Nat} {l : List Byte}
    (hd : s.peer.dirOf (pSrc hdr) = 1 ∨ s.peer.dirOf (pSrc hdr) = 2) : ∃ p : TxPkt,
      s.respond hdr type nst l = { s with peer := { s.peer with tx := s.peer.tx ++ [p] } } ∧
      p.port = s.peer.dirOf (pSrc hdr) - 1 ∧ p.resp = true ∧ p.vc = s.peer.dateline p.port ∧
      p.bytes = packet (reqHeader type (b2n p.vc) 0 0 (pSrc hdr) (pDst hdr) (pMv hdr) (pCh hdr) (pTen hdr) (pGen hdr)
        (s.peer.nchip.toNat - 1) l.length (pRsid hdr) (pXseq hdr) (pOff hdr) 0 nst) l :=
  ⟨_, if_neg (by omega), rfl, rfl, rfl, rfl⟩

theorem State.endJob_eq {s : State} {j : RxJob} (hd : j.drain = false) :
    s.endJob j = { s with acc := (s.endJob j).acc, peer := { s.peer with
      jobs := s.peer.jobs.filter fun q => q.id != j.id, owed := (s.endJob j).peer.owed } } ∧
      (s.endJob j).peer.owed.get 0 (4 * j.port + pBuf j.head) = min 8 (s.peer.owed.get 0 (4 * j.port + pBuf j.head) + 1) := by
  unfold State.endJob
  rw [hd]
  exact ⟨rfl, (State.creditOwe_owed _ _ _).trans (if_pos rfl)⟩

/-- A request ends, and is answered. -/
theorem State.job_answered {s u : State} {j : RxJob} (hd : j.drain = false)
    (hdir : s.peer.dirOf (pSrc j.head) = 1 ∨ s.peer.dirOf (pSrc j.head) = 2)
    (hu : u.peer = { s.peer with fin := u.peer.fin }) {type n : Nat} {l : List Byte} (hn : l.length = n) :
    ((∃ p : TxPkt, ((u.endJob j).respond j.head type 0 l).peer.tx = s.peer.tx ++ [p]
        ∧ p.port = s.peer.dirOf (pSrc j.head) - 1 ∧ p.resp = true
        ∧ p.bytes = packet (reqHeader type (b2n (s.peer.dateline (s.peer.dirOf (pSrc j.head) - 1))) 0 0 (pSrc j.head)
            (pDst j.head) (pMv j.head) (pCh j.head) (pTen j.head) (pGen j.head) (s.peer.nchip.toNat - 1) n (pRsid j.head)
            (pXseq j.head) (pOff j.head) 0 0) l)
      ∧ ((u.endJob j).respond j.head type 0 l).peer.jobs = s.peer.jobs.filter (fun q => q.id != j.id)
      ∧ ((u.endJob j).respond j.head type 0 l).peer.owed.get 0 (4 * j.port + pBuf j.head) =
        min 8 (s.peer.owed.get 0 (4 * j.port + pBuf j.head) + 1))
    ∧ ((u.endJob j).respond j.head type 0 l).peer.fin = u.peer.fin
    ∧ ((u.endJob j).respond j.head type 0 l).cnts = u.cnts := by
  obtain ⟨he, ho⟩ := State.endJob_eq (s := u) hd
  have hpe : (u.endJob j).peer = { s.peer with
      fin := u.peer.fin, jobs := s.peer.jobs.filter fun q => q.id != j.id, owed := (u.endJob j).peer.owed } := by
    refine ((congrArg State.peer he).trans rfl).trans ?_
    exact congrArg (fun q : Peer => { q with
      jobs := q.jobs.filter fun q => q.id != j.id, owed := (u.endJob j).peer.owed }) hu
  have hcn : (u.endJob j).cnts = u.cnts := (congrArg State.cnts he).trans rfl
  have hou : u.peer.owed = s.peer.owed := (congrArg Peer.owed hu).trans rfl
  rw [hou] at ho
  generalize u.endJob j = v at hpe hcn ho
  have hdirv : v.peer.dirOf (pSrc j.head) = s.peer.dirOf (pSrc j.head) := (congrArg (fun q : Peer => q.dirOf _) hpe).trans rfl
  obtain ⟨p, hr, hport, hresp, hvc, hbytes⟩ := State.respond_eq (s := v) (type := type) (nst := 0) (l := l)
    (by rw [hdirv]; exact hdir)
  rw [hr]
  rw [hdirv] at hport
  rw [hvc, hport, hn, hpe] at hbytes
  refine ⟨⟨⟨p, ?_, hport, hresp, hbytes⟩, ?_, ho⟩, ?_, hcn⟩
  · exact (congrArg (fun q : Peer => q.tx ++ [p]) hpe).trans rfl
  · exact (congrArg Peer.jobs hpe).trans rfl
  · exact (congrArg Peer.fin hpe).trans rfl

/-- What the bytes that have landed count at (R217, R218). -/
def State.counted (s : State) (j : RxJob) : State :=
  match j.fin with
  | none => s.landing j.sid j.landed
  | some k =>
    if pFinal j.head then
      let t := s.landing j.sid (pTotal j.head)
      if (t.fin k).xseq.toNat = pXseq j.head then t.setFin k FinTrk.reset else t
    else if (s.fin k).xseq.toNat = pXseq j.head then s.setFin k { s.fin k with landed := (s.fin k).landed + j.landed }
    else s

theorem State.landedOp_eq {s : State} {j : RxJob} (hj : s.job j.id = some j) (hw : j.wr = true)
    (hr : s.jobReady j = true) : s.landedOp j.id = ((s.counted j).endJob j).respond j.head 3 0 [] := by
  unfold State.landedOp
  rw [hj]
  exact if_pos (by rw [hw, hr]; rfl)

theorem State.readsDoneOp_eq {s : State} {j : RxJob} (hj : s.job j.id = some j) (hw : j.wr = false)
    (hr : s.jobReady j = true) : s.readsDoneOp j.id = (s.endJob j).respond j.head 2 0
      (j.want.map fun a => if a < 2 ^ 48 then gotByte j.got a else BitVec.ofNat 8 (a - 2 ^ 48)) := by
  unfold State.readsDoneOp
  rw [hj]
  exact if_pos (by rw [hw, hr]; rfl)

theorem State.cnt_of_cnts {s t : State} (h : t.cnts = s.cnts) (i : Nat) : t.cnt i = s.cnt i :=
  congrArg (fun m : SMap Cnt => m.get Cnt.reset i) h

theorem State.setFin_fin (s : State) (k i : Nat) (v : FinTrk) : (s.setFin k v).fin i = if i = k then v else s.fin i :=
  SMap.get_put _ _ _ _ _

end Sys2Proof.Machine

namespace Sys2Proof
open Machine

/-- Settles O34: what a request counts at (`counted`) and its answer (`job_answered`); a FINAL packet released is begun
(`startJob_covers`). -/
theorem receiveRequestsEnd : Obligations.receive_requests_end := by
  unfold Obligations.receive_requests_end
  intro s j hj hdrain x key d answered adds
  refine ⟨fun hd hready _ => ⟨fun hw hb ht hm => ⟨fun hf hv => ?_, fun k hf hfin hx hv => ?_⟩, fun k hw hf hfin hx => ?_,
    fun hw => ?_⟩, fun k l hl => ⟨fun hne => ?_, fun he hw hen hu hl2 => ?_⟩⟩
  · obtain ⟨hcnt, hoth, hpeer⟩ := State.landing_adds (n := j.landed) rfl hb ht hm hv
    have hc : s.counted j = s.landing j.sid j.landed := by
      unfold State.counted
      rw [hf]
    have hop := State.landedOp_eq hj hw hready
    rw [hc] at hop
    obtain ⟨hans, hfin, hcnts⟩ := State.job_answered (u := s.landing j.sid j.landed) (type := 3) (l := []) hdrain hd
      (hpeer.trans (by rw [hpeer])) rfl
    refine ⟨_, congrArg Host.Outcome.next hop, ⟨(State.cnt_of_cnts hcnts key).trans hcnt,
      fun i hi => (State.cnt_of_cnts hcnts i).trans (hoth i hi)⟩, hans, hfin.trans (congrArg Peer.fin hpeer)⟩
  · obtain ⟨hcnt, hoth, hpeer⟩ := State.landing_adds (n := pTotal j.head) rfl hb ht hm hv
    have hfk : ((s.landing j.sid (pTotal j.head)).fin k).xseq.toNat = pXseq j.head := by
      unfold State.fin at hx ⊢
      rw [hpeer]
      exact hx
    have hc : s.counted j = (s.landing j.sid (pTotal j.head)).setFin k FinTrk.reset := by
      unfold State.counted
      rw [hf]
      exact (if_pos hfin).trans (if_pos hfk)
    have hop := State.landedOp_eq hj hw hready
    rw [hc] at hop
    obtain ⟨hans, hf', hcnts⟩ := State.job_answered (u := (s.landing j.sid (pTotal j.head)).setFin k FinTrk.reset)
      (type := 3) (l := []) hdrain hd (congrArg (fun q : Peer => { q with
        fin := ((s.landing j.sid (pTotal j.head)).setFin k FinTrk.reset).peer.fin }) hpeer) rfl
    have hcnts' := hcnts.trans (rfl : _ = (s.landing j.sid (pTotal j.head)).cnts)
    refine ⟨_, congrArg Host.Outcome.next hop, ⟨(State.cnt_of_cnts hcnts' key).trans hcnt,
      fun i hi => (State.cnt_of_cnts hcnts' i).trans (hoth i hi)⟩, hans, ?_⟩
    exact (congrArg (fun m : SMap FinTrk => m.get FinTrk.reset k) hf').trans
      (((s.landing j.sid (pTotal j.head)).setFin_fin k k _).trans (if_pos rfl))
  · have hc : s.counted j = s.setFin k { s.fin k with landed := (s.fin k).landed + j.landed } := by
      unfold State.counted
      rw [hf]
      exact (if_neg (by rw [hfin]; decide)).trans (if_pos hx)
    have hop := State.landedOp_eq hj hw hready
    rw [hc] at hop
    obtain ⟨hans, hf', hcnts⟩ := State.job_answered
      (u := s.setFin k { s.fin k with landed := (s.fin k).landed + j.landed }) (type := 3) (l := []) hdrain hd rfl rfl
    refine ⟨_, congrArg Host.Outcome.next hop, hans, hcnts, ?_⟩
    exact (congrArg (fun m : SMap FinTrk => m.get FinTrk.reset k) hf').trans ((s.setFin_fin k k _).trans (if_pos rfl))
  · obtain ⟨hans, -, hcnts⟩ := State.job_answered (u := s) (type := 2) hdrain hd rfl
      (l := j.want.map fun a => if a < 2 ^ 48 then gotByte j.got a else BitVec.ofNat 8 (a - 2 ^ 48)) (List.length_map _)
    exact ⟨_, congrArg Host.Outcome.next (State.readsDoneOp_eq hj hw hready), hcnts, hans⟩
  · have hop : s.finalReleaseOp k = s := by
      unfold State.finalReleaseOp
      dsimp only
      rw [hl]
      dsimp only
      rw [hj]
      exact if_neg hne
    exact congrArg Host.Outcome.next hop
  · have hop : s.finalReleaseOp k = (s.setFin k { s.fin k with held := none }).startJob j l := by
      unfold State.finalReleaseOp
      dsimp only
      rw [hl]
      dsimp only
      rw [hj]
      exact if_pos he
    obtain ⟨hwalks, hcov⟩ := State.startJob_covers (s := s.setFin k { s.fin k with held := none }) (j := j) l hen hu hl2
    rw [hw] at hcov
    refine ⟨_, congrArg Host.Outcome.next hop, ?_, fun i v hi hv => hcov i v hi hv (.inl rfl), hwalks.strms, hwalks.cnts,
      (congrArg Peer.tx hwalks.peer).trans rfl⟩
    exact (congrArg (fun q : Peer => q.fin.get FinTrk.reset k) hwalks.peer).trans ((s.setFin_fin k k _).trans (if_pos rfl))

end Sys2Proof
end

section
/-! O31: the requests of peers. -/

namespace Sys2Proof.Machine

theorem leNat_take (l : List Byte) (n : Nat) : leNat (l.take n) = leNat l % 256 ^ n := by
  induction l generalizing n with
  | nil => rw [List.take_nil]; exact (Nat.zero_mod _).symm
  | cons b l ih =>
    cases n with
    | zero => exact (Nat.mod_one _).symm
    | succ n =>
      have hb := b.isLt
      have hp : 256 ^ (n + 1) = 256 * 256 ^ n := Nat.pow_succ'
      rw [List.take_succ_cons]
      unfold leNat
      rw [ih, hp, Nat.mod_mul, Nat.add_mul_mod_self_left, Nat.add_mul_div_left _ _ (by decide),
        Nat.mod_eq_of_lt (by omega : b.toNat < 256), Nat.div_eq_of_lt (by omega : b.toNat < 256), Nat.zero_add]

theorem leNat_drop (l : List Byte) (n : Nat) : leNat (l.drop n) = leNat l / 256 ^ n := by
  induction n generalizing l with
  | zero => exact (Nat.div_one _).symm
  | succ n ih =>
    cases l with
    | nil => exact (Nat.zero_div _).symm
    | cons b l =>
      have hb := b.isLt
      have hp : 256 ^ (n + 1) = 256 * 256 ^ n := Nat.pow_succ'
      rw [List.drop_succ_cons, ih]
      conv_rhs => unfold leNat
      rw [hp, ← Nat.div_div_eq_div_mul, Nat.add_mul_div_left _ _ (by decide), Nat.div_eq_of_lt (by omega : b.toNat < 256),
        Nat.zero_add]

theorem mod_window (v b : Nat) {i m n : Nat} (h : i + n ≤ m) : v % b ^ m / b ^ i % b ^ n = v / b ^ i % b ^ n := by
  have hp : b ^ m = b ^ i * b ^ (m - i) := by rw [← Nat.pow_add]; congr 1; omega
  rw [hp, Nat.mod_mul_right_div_self, Nat.mod_mod_of_dvd _ (Nat.pow_dvd_pow b (by omega))]

theorem leNat_head (pkt : List Byte) :
    leNat (toLE 32 (BitVec.ofNat 256 (leNat (pkt.take 32))).toNat) = leNat pkt % 256 ^ 32 := by
  have hp : (2 : Nat) ^ 256 = 256 ^ 32 := by norm_num
  rw [leNat_toLE, BitVec.toNat_ofNat, leNat_take, hp, Nat.mod_mod, Nat.mod_mod]

/-- The header that a job keeps reads as its packet does. -/
theorem bfld_head (pkt : List Byte) {i lo w : Nat} (h : i + (lo + w + 7) / 8 ≤ 32) :
    bfld (toLE 32 (BitVec.ofNat 256 (leNat (pkt.take 32))).toNat) i lo w = bfld pkt i lo w := by
  unfold bfld
  rw [leNat_take, leNat_drop, leNat_head, leNat_take, leNat_drop, mod_window _ _ h]

/-- `w` is `s` once a request's credits are in and its home Mover is awake. -/
structure Received (s w : State) (port : Nat) (pkt : List Byte) : Prop where
  rest : w = { s.awake with movers := w.movers, peer := { s.peer with used := w.peer.used } }
  utlb : ∀ m, (w.mover m).utlb = (s.mover m).utlb

section Received
variable {s w : State} {port : Nat} {pkt : List Byte} (h : Received s w port pkt)
include h

theorem Received.eq : w = { s with pwr := w.pwr, movers := w.movers, peer := { s.peer with used := w.peer.used } } := by
  have hr := h.rest
  have hw : w.pwr = s.awake.pwr := (congrArg State.pwr hr).trans rfl
  rw [hw]
  exact hr.trans (congrArg (fun u : State =>
    { u with movers := w.movers, peer := { s.peer with used := w.peer.used } }) s.awake_rest)

theorem Received.seq : w.seq = s.seq := (congrArg State.seq h.eq).trans rfl
theorem Received.strmAt (j : Nat) : w.strmAt j = s.strmAt j := (congrArg (fun u : State => u.strmAt j) h.eq).trans rfl
theorem Received.ten (j : Nat) : w.ten j = s.ten j := (congrArg (fun u : State => u.ten j) h.eq).trans rfl
theorem Received.xlU (j : Nat) : w.xlU j = s.xlU j := (congrArg (fun u : State => u.xlU j) h.eq).trans rfl
theorem Received.fin (j : Nat) : w.fin j = s.fin j := (congrArg (fun u : State => u.fin j) h.eq).trans rfl
theorem Received.rxCheck (wr : Bool) : w.rxCheck pkt wr = s.rxCheck pkt wr :=
  (congrArg (fun u : State => u.rxCheck pkt wr) h.eq).trans rfl
theorem Received.ffGrant (a b c : Nat) : w.ffGrant a b c = s.ffGrant a b c :=
  (congrArg (fun u : State => u.ffGrant a b c) h.eq).trans rfl

end Received

/-- The state in which a request is taken. -/
def State.takeReq (s : State) (port : Nat) (pkt : List Byte) : State :=
  let u := s.awake.creditIn port (pCrbuf pkt) (pCrcnt pkt)
  if (u.strmAt (pRsid pkt)).rcv then u.modMover (u.strmAt (pRsid pkt)).hmv.toNat fun v => { v with gated := false } else u

theorem withMovers {u a : State} {p : Peer} (h : u = { a with peer := p }) (m : SMap Mover) :
    ({ u with movers := m } : State) = { a with movers := m, peer := p } := congrArg (fun v : State => { v with movers := m }) h

theorem received (s : State) (port : Nat) (pkt : List Byte) : Received s (s.takeReq port pkt) port pkt := by
  have hrest := s.creditIn_rest port (pCrbuf pkt) (pCrcnt pkt)
  have hmv : ∀ m, (s.awake.creditIn port (pCrbuf pkt) (pCrcnt pkt)).mover m = s.mover m := fun m =>
    ((congrArg (fun u : State => u.mover m) hrest).trans rfl).trans ((congrArg (fun u : State => u.mover m) s.awake_rest).trans rfl)
  unfold State.takeReq
  dsimp only
  generalize s.awake.creditIn port (pCrbuf pkt) (pCrcnt pkt) = u at hrest hmv
  split
  · refine ⟨withMovers hrest _, fun m => ?_⟩
    refine (congrArg Mover.utlb (u.setMover_mover _ m _)).trans ?_
    split
    · next h => rw [h, ← hmv]
    · rw [hmv]
  · exact ⟨withMovers hrest u.movers, fun m => by rw [hmv]⟩

theorem State.intake_good {s : State} {port type : Nat} {pkt : List Byte} (htakes : s.peerTakes port type = true)
    (ht : pType pkt = type) (hd : pDst pkt = s.peer.chip.toNat) (hc : pCrcOk pkt = true) (hr : pReserved pkt = false)
    (use : State → State) :
    s.intake port type pkt use = use (s.awake.creditIn port (pCrbuf pkt) (pCrcnt pkt)) := by
  unfold State.intake
  rw [if_neg (by
    rintro (h | ⟨h1, -⟩ | ⟨-, h⟩)
    · exact absurd (htakes.symm.trans h) (by decide)
    · exact h1 ht
    · exact h hd)]
  dsimp only
  rw [if_neg (by rw [hc]; decide), if_neg (by rw [hr]; decide)]

/-- The job of a request (R293). -/
def rxJob (id port : Nat) (wr : Bool) (pkt : List Byte) : RxJob :=
  { id := id, port := port, sid := pRsid pkt, hdr := BitVec.ofNat 256 (leNat (pkt.take 32)), wr := wr,
    landed := 0, err := false, got := [], want := [], drain := false, fin := none }

/-- A job joins those under way. -/
def State.addJob (t : State) (q : RxJob) : State :=
  { t with seq := t.seq + 1, peer := { t.peer with jobs := t.peer.jobs ++ [q] } }

/-- What becomes of a request, once it has been seen by its tracker. -/
def State.judge (s : State) (port : Nat) (wr : Bool) (pkt : List Byte) : State :=
  match s.rxCheck pkt wr with
  | some n =>
    let s1 := (s.creditOwe (4 * port + pBuf pkt)).nack pkt n
    if n = 1 then s1
    else
      let r := s1.rxRec pkt fltRange
      s1.pushFault r.part.toNat r
  | none =>
    if pFfin pkt then
      match s.ffGrant (pSrc pkt) (pMv pkt) (pCh pkt) with
      | none => s
      | some k =>
        if pFinal pkt then
          let s1 := (s.fin k).held.bind (fun h => s.job h.1) |>.elim s fun o => s.failJob o 6 none
          (s1.addJob { rxJob s.seq port wr pkt with fin := some k }).setFin k
            { s1.fin k with held := some (s.seq, pPayload pkt) }
        else (s.addJob { rxJob s.seq port wr pkt with fin := some k }).startJob
          { rxJob s.seq port wr pkt with fin := some k } (pPayload pkt)
    else (s.addJob (rxJob s.seq port wr pkt)).startJob (rxJob s.seq port wr pkt) (pPayload pkt)

theorem State.request_judge (s : State) (port : Nat) (wr : Bool) (pkt : List Byte) :
    (s.awake.creditIn port (pCrbuf pkt) (pCrcnt pkt)).request port wr pkt =
      ((s.takeReq port pkt).finSees wr pkt).judge port wr pkt := rfl

/-- A tracker that follows the transfer already is not restarted. -/
theorem State.finSees_calm {s : State} {wr : Bool} {pkt : List Byte}
    (h : ∀ k, wr = true → s.ffGrant (pSrc pkt) (pMv pkt) (pCh pkt) = some k →
      (s.fin k).live = true ∧ (s.fin k).xseq = BitVec.ofNat 8 (pXseq pkt)) : s.finSees wr pkt = s := by
  unfold State.finSees
  cases hg : s.ffGrant (pSrc pkt) (pMv pkt) (pCh pkt) with
  | none => rfl
  | some k =>
    cases wr with
    | false => rfl
    | true =>
      obtain ⟨hl, hx⟩ := h k rfl hg
      have ht : s.finTake k (BitVec.ofNat 8 (pXseq pkt)) = s := if_pos (by rw [hl, hx, beq_self_eq_true]; rfl)
      exact ht

/-- The state in which a request is answered: its slot is free. -/
theorem Received.owes {s w : State} {port : Nat} {pkt : List Byte} (h : Received s w port pkt) (key : Nat) :
    w.creditOwe key = { s.awake with
      movers := (w.creditOwe key).movers
      peer := { s.peer with used := (w.creditOwe key).peer.used, owed := (w.creditOwe key).peer.owed } } :=
  congrArg (fun v : State => { v with peer := { v.peer with owed := (w.creditOwe key).peer.owed } }) h.rest

/-- A WRITE reaches a tracker that holds nothing (R296). -/
theorem State.finSees_takes {s : State} {pkt : List Byte} {k : Nat}
    (hg : s.ffGrant (pSrc pkt) (pMv pkt) (pCh pkt) = some k) (hheld : (s.fin k).held = none) :
    s.finSees true pkt = { s with peer := { s.peer with fin := (s.finSees true pkt).peer.fin } } ∧
    (s.finSees true pkt).fin k = {
      live := true, xseq := BitVec.ofNat 8 (pXseq pkt), held := none
      landed := if (s.fin k).live = true ∧ (s.fin k).xseq = BitVec.ofNat 8 (pXseq pkt) then (s.fin k).landed else 0 } ∧
    ∀ j, j ≠ k → (s.finSees true pkt).fin j = s.fin j := by
  have hsees : s.finSees true pkt = s.finTake k (BitVec.ofNat 8 (pXseq pkt)) := by
    unfold State.finSees
    rw [hg]
    rfl
  rw [hsees]
  by_cases h : (s.fin k).live = true ∧ (s.fin k).xseq = BitVec.ofNat 8 (pXseq pkt)
  · obtain ⟨hl, hx⟩ := h
    have ht : s.finTake k (BitVec.ofNat 8 (pXseq pkt)) = s := if_pos (by rw [hl, hx, beq_self_eq_true]; rfl)
    rw [ht, if_pos ⟨hl, hx⟩, ← hl, ← hx, ← hheld]
    exact ⟨rfl, rfl, fun _ _ => rfl⟩
  · have ht : s.finTake k (BitVec.ofNat 8 (pXseq pkt)) =
        s.setFin k { live := true, xseq := BitVec.ofNat 8 (pXseq pkt), landed := 0, held := none } := by
      unfold State.finTake
      dsimp only
      rw [hheld, if_neg (by rw [Bool.and_eq_true, beq_iff_eq]; exact h)]
      rfl
    rw [ht, if_neg h]
    exact ⟨rfl, (State.setFin_fin ..).trans (if_pos rfl), fun j hj => (State.setFin_fin ..).trans (if_neg hj)⟩

/-- A FINAL packet is held at its tracker (R218). -/
theorem State.judge_holds {s : State} {port : Nat} {wr : Bool} {pkt : List Byte} {k : Nat}
    (hchk : s.rxCheck pkt wr = none) (hff : pFfin pkt = true) (hfin : pFinal pkt = true)
    (hg : s.ffGrant (pSrc pkt) (pMv pkt) (pCh pkt) = some k) (hheld : (s.fin k).held = none) :
    s.judge port wr pkt = (s.addJob { rxJob s.seq port wr pkt with fin := some k }).setFin k
      { s.fin k with held := some (s.seq, pPayload pkt) } := by
  unfold State.judge
  rw [hchk]
  dsimp only
  rw [hff, if_pos rfl, hg]
  dsimp only
  rw [hfin, if_pos rfl, hheld]
  rfl

/-- A request without a tracker begins. -/
theorem State.judge_begins {s : State} {port : Nat} {wr : Bool} {pkt : List Byte}
    (hchk : s.rxCheck pkt wr = none) (hff : pFfin pkt = false) :
    s.judge port wr pkt = (s.addJob (rxJob s.seq port wr pkt)).startJob (rxJob s.seq port wr pkt) (pPayload pkt) := by
  unfold State.judge
  rw [hchk]
  dsimp only
  rw [hff, if_neg Bool.false_ne_true]

/-- A job is taken. -/
theorem addJob_rest {s v : State} {m : SMap Mover} {u : SMap Nat} {f : SMap FinTrk}
    (h : v = { s.awake with movers := m, peer := { s.peer with used := u, fin := f } }) (q : RxJob) :
    v.addJob q = { s.awake with
      seq := s.seq + 1, movers := m, peer := { s.peer with used := u, jobs := s.peer.jobs ++ [q], fin := f } } := by
  have hs : s.awake.seq = s.seq := (congrArg State.seq s.awake_rest).trans rfl
  subst h
  rw [← hs]
  rfl

/-- A job is taken, and held at a tracker. -/
theorem heldJob_rest {s v : State} {m : SMap Mover} {u : SMap Nat} {f : SMap FinTrk}
    (h : v = { s.awake with movers := m, peer := { s.peer with used := u, fin := f } }) (q : RxJob) (k : Nat) (x : FinTrk) :
    (v.addJob q).setFin k x = { s.awake with seq := s.seq + 1, movers := m, peer := { s.peer with
      used := u, jobs := s.peer.jobs ++ [q], fin := ((v.addJob q).setFin k x).peer.fin } } :=
  congrArg (fun w : State => { w with peer := { w.peer with fin := ((v.addJob q).setFin k x).peer.fin } }) (addJob_rest h q)

/-- Only the job named is written. -/
theorem modJob_last {l : List RxJob} {q : RxJob} (f : RxJob → RxJob) (h : ∀ j ∈ l, j.id ≠ q.id) :
    (l ++ [q]).map (fun j => if j.id = q.id then f j else j) = l ++ [f q] := by
  have hl : l.map (fun j => if j.id = q.id then f j else j) = l :=
    (List.map_congr_left fun j hj => if_neg (h j hj)).trans (List.map_id _)
  rw [List.map_append, hl, List.map_singleton, if_pos rfl]

theorem State.jobBegun_rest (s : State) (j q : RxJob) :
    s.jobBegun j q = { q with landed := (s.jobBegun j q).landed, want := (s.jobBegun j q).want } := by
  unfold State.jobBegun
  split <;> rfl

/-- The first check of R293 fails. -/
theorem State.rxCheck_stream {s : State} {pkt : List Byte}
    (h : (s.strmAt (pRsid pkt)).st ≠ .armed ∨ (s.strmAt (pRsid pkt)).rcv = false ∨
      (s.ten (s.strmAt (pRsid pkt)).ten.toNat).en = false ∨
      (s.strmAt (pRsid pkt)).tgen ≠ (s.ten (s.strmAt (pRsid pkt)).ten.toNat).gen) (wr : Bool) :
    s.rxCheck pkt wr = some 1 := by
  have hb : ((s.strmAt (pRsid pkt)).st == .armed && (s.strmAt (pRsid pkt)).rcv &&
      (s.ten (s.strmAt (pRsid pkt)).ten.toNat).en &&
      (s.strmAt (pRsid pkt)).tgen == s.genOf (s.strmAt (pRsid pkt)).ten) = false := by
    unfold State.genOf
    rcases h with h | h | h | h
    · simp [h]
    · simp [h]
    · simp [h]
    · simp [h]
  refine if_pos ?_
  rw [hb]
  rfl

end Sys2Proof.Machine

namespace Sys2Proof
open Machine

/-- A request that passes the checks of R287 is judged. -/
theorem requestTaken {s : State} {port : Fin 2} {pkt : List Byte} {wr : Bool} (ho : s.peerOpen port = true)
    (hw : s.pwr.state ≠ 3) (ht : pType pkt = (if wr then 0 else 1)) (hd : pDst pkt = s.peer.chip.toNat)
    (hc : pCrcOk pkt = true) (hr : pReserved pkt = false) :
    exec (if wr then Instr.peerWrite port pkt else .peerRdreq port pkt) s =
      .next (((s.takeReq port pkt).finSees wr pkt).judge port wr pkt) := by
  cases wr with
  | true =>
    have hop := (State.intake_good (State.peerTakes_open ho hw 0) ht hd hc hr fun t => t.request port true pkt).trans
      (s.request_judge port true pkt)
    exact congrArg Host.Outcome.next hop
  | false =>
    have hop := (State.intake_good (State.peerTakes_open ho hw 1) ht hd hc hr fun t => t.request port false pkt).trans
      (s.request_judge port false pkt)
    exact congrArg Host.Outcome.next hop

/-- Settles O31: the request is judged (`requestTaken`), and begins with its accesses (`startJob_covers`). -/
theorem peerRequests : Obligations.peer_requests := by
  unfold Obligations.peer_requests
  intro s port pkt wr ho hw ht hd hc hr c x job calm
  have hop : exec c s = _ := requestTaken ho hw ht hd hc hr
  have hv := received s port pkt
  generalize s.takeReq port pkt = w at hop hv
  have hcalm : calm → w.finSees wr pkt = w := fun h => State.finSees_calm fun k h1 h2 => by
    rw [hv.fin]
    exact h k h1 (h2.symm.trans (hv.ffGrant ..)).symm
  refine ⟨fun hq hbad hdir => ?_, fun k hwr hchk hff hfin hg hheld => ?_, fun hq hchk hff hids hen hu hl hwc => ?_⟩
  · have hj : w.judge port wr pkt = (w.creditOwe (4 * port + pBuf pkt)).respond pkt 4 1 [] := by
      unfold State.judge
      rw [hv.rxCheck, State.rxCheck_stream hbad]
      rfl
    have hy := hv.owes (4 * port + pBuf pkt)
    rw [hcalm hq, hj] at hop
    generalize w.creditOwe (4 * port + pBuf pkt) = y at hop hy
    have hpe : y.peer = { s.peer with used := y.peer.used, owed := y.peer.owed } := (congrArg State.peer hy).trans rfl
    have hdiry : y.peer.dirOf (pSrc pkt) = s.peer.dirOf (pSrc pkt) :=
      (congrArg (fun q : Peer => q.dirOf (pSrc pkt)) hpe).trans rfl
    obtain ⟨p, hresp, hport, hpr, hvc, hbytes⟩ := State.respond_eq (s := y) (hdr := pkt) (type := 4) (nst := 1) (l := [])
      (by rw [hdiry]; exact hdir)
    rw [hpe] at hbytes
    refine ⟨_, p, hop.trans (congrArg Host.Outcome.next hresp), ?_, ?_, hpr, ?_, hbytes, ?_⟩
    · exact (congrArg (fun q : Peer => q.tx ++ [p]) hpe).trans rfl
    · rw [hport, hdiry]
    · exact hvc.trans ((congrArg (fun q : Peer => q.dateline p.port) hpe).trans rfl)
    · have htx : y.peer.tx = s.peer.tx := (congrArg Peer.tx hpe).trans rfl
      exact congrArg (fun v : State => { v with peer := { v.peer with tx := y.peer.tx ++ [p] } }) hy
  · subst hwr
    obtain ⟨hrest, hk, hoth⟩ := State.finSees_takes ((hv.ffGrant ..).trans hg) (by rw [hv.fin]; exact hheld)
    rw [hv.fin] at hk
    generalize w.finSees true pkt = v at hop hrest hk hoth
    have hall := hrest.trans (congrArg (fun u : State => { u with peer := { u.peer with fin := v.peer.fin } }) hv.eq)
    have hchk' : v.rxCheck pkt true = none := ((congrArg (fun u : State => u.rxCheck pkt true) hall).trans rfl).trans hchk
    have hg' : v.ffGrant (pSrc pkt) (pMv pkt) (pCh pkt) = some k :=
      ((congrArg (fun u : State => u.ffGrant (pSrc pkt) (pMv pkt) (pCh pkt)) hall).trans rfl).trans hg
    have hseq : v.seq = s.seq := (congrArg State.seq hall).trans rfl
    have hjobs : v.peer.jobs = s.peer.jobs := (congrArg (fun u : State => u.peer.jobs) hall).trans rfl
    have hj := State.judge_holds (port := port) hchk' hff hfin hg' (by rw [hk])
    rw [hseq, hk] at hj
    refine ⟨_, hop.trans (congrArg Host.Outcome.next hj), congrArg (· ++ [_]) hjobs, ?_, fun j hj => ?_, ?_⟩
    · exact (State.setFin_fin ..).trans (if_pos rfl)
    · exact ((State.setFin_fin ..).trans (if_neg hj)).trans ((hoth j hj).trans (hv.fin j))
    · have hm : v.movers = w.movers := (congrArg State.movers hrest).trans rfl
      have hus : v.peer.used = w.peer.used := (congrArg (fun u : State => u.peer.used) hrest).trans rfl
      have hA := hrest.trans (congrArg (fun u : State => { u with peer := { u.peer with fin := v.peer.fin } }) hv.rest)
      rw [← hm, ← hus] at hA
      refine (heldJob_rest hA _ k _).trans ?_
      rw [← hjobs]
      rfl
  · rw [hcalm hq, State.judge_begins ((hv.rxCheck wr).trans hchk) hff, hv.seq] at hop
    let q := rxJob s.seq port wr pkt
    let a := w.addJob q
    have hx : a.strmAt q.sid = x := hv.strmAt (pRsid pkt)
    obtain ⟨hwalks, hcov⟩ := State.startJob_covers (s := a) (j := q) (pPayload pkt)
      (by rw [hx]; exact (congrArg Tenant.rootEn (hv.ten _)).trans hen)
      (by rw [hx]; exact (hv.utlb _).trans hu)
      (by rw [hx]; exact (congrArg Xl.l2 (hv.xlU _)).trans hl)
    have hlen : pLen q.head = pLen pkt := bfld_head pkt (by decide)
    have hoff : pOff q.head = pOff pkt := bfld_head pkt (by decide)
    rw [hx, hlen, hoff] at hcov
    rw [hx] at hwalks
    have hjobs : w.peer.jobs = s.peer.jobs := (congrArg (fun u : State => u.peer.jobs) hv.eq).trans rfl
    have hlast : (a.modJob q.id (a.jobBegun q)).peer.jobs = s.peer.jobs ++ [a.jobBegun q q] := by
      refine Eq.trans ?_ (modJob_last (a.jobBegun q) hids)
      rw [← hjobs]
      rfl
    have hpeer := hwalks.peer
    refine ⟨_, a.jobBegun q q, hop, (congrArg Peer.jobs hpeer).trans hlast, State.jobBegun_rest a q q, fun hwr => ?_,
      fun hwr => ?_, fun i v hi hv hlt => hcov i v hi hv (.inr hlt), ?_⟩
    · rw [State.jobBegun_landed hwr, hx, hlen, hoff]
    · rw [State.jobBegun_want hwr, hlen]
    · obtain ⟨hclean, -⟩ := hwalks.clean (by rw [show (a.modJob q.id (a.jobBegun q)).xlU x.part.toNat = _ from hv.xlU _]; exact hwc)
      have hb : a.modJob q.id (a.jobBegun q) = _ := congrArg (fun v : State => { v with
        peer := { v.peer with jobs := (a.modJob q.id (a.jobBegun q)).peer.jobs } })
          (addJob_rest (f := s.peer.fin) hv.rest q)
      generalize a.startJob q (pPayload pkt) = t at hwalks hpeer hclean
      have hm : t.movers = w.movers := hwalks.movers
      have hus : t.peer.used = w.peer.used := (congrArg Peer.used hpeer).trans rfl
      have hjb : t.peer.jobs = (a.modJob q.id (a.jobBegun q)).peer.jobs := congrArg Peer.jobs hpeer
      rw [hm, hus, hjb]
      exact hclean.trans (congrArg (fun v : State => { v with xl := t.xl, acc := t.acc, nextAid := t.nextAid }) hb)

end Sys2Proof
end

section
/-! O35: the remote response timer. -/

namespace Sys2Proof.Machine

/-- What a stream, the channel it is on, its partition's fault queue and the awaited requests hold, while it halts. -/
structure State.Sees (u : State) (sid key p : Nat) (rs : List RemReq) (y : Strm) (h : Chan) (q : Fq) : Prop where
  wait : ∀ e ∈ u.strms, e.1 = sid → e.2.st ≠ .waiting
  strm : u.strmAt sid = y
  chan : u.chan key = h
  fq : (u.part p).fq = q
  rem : ∀ r ∈ u.peer.rem, r ∈ rs

section Steps
variable {u : State} {sid key p : Nat} {rs : List RemReq} {y : Strm} {h : Chan} {q : Fq} (hu : u.Sees sid key p rs y h q)
include hu

theorem State.Sees.of_eq {v : State} (h1 : v.strms = u.strms) (h2 : v.chans = u.chans) (h3 : (v.part p).fq = (u.part p).fq)
    (h4 : ∀ r ∈ v.peer.rem, r ∈ u.peer.rem) : v.Sees sid key p rs y h q where
  wait := by rw [h1]; exact hu.wait
  strm := (congrArg (fun m : SMap Strm => m.get Strm.reset sid) h1).trans hu.strm
  chan := (congrArg (fun m : SMap Chan => m.get Chan.reset key) h2).trans hu.chan
  fq := h3.trans hu.fq
  rem := fun r hr => hu.rem r (h4 r hr)

theorem State.Sees.setStrmAt {z : Strm} (hz : z.st ≠ .waiting) : (u.setStrmAt sid z).Sees sid key p rs z h q where
  wait := fun e he hk => by
    rcases SMap.mem_put he with rfl | he
    · exact hz
    · exact hu.wait e he hk
  strm := (u.setStrmAt_strmAt sid sid z).trans (if_pos rfl)
  chan := hu.chan
  fq := hu.fq
  rem := hu.rem

theorem State.Sees.modStrmAt {g : Strm → Strm} (hg : (g y).st ≠ .waiting) :
    (u.modStrmAt sid g).Sees sid key p rs (g y) h q := by
  rw [State.modStrmAt_eq, hu.strm]
  exact hu.setStrmAt hg

theorem State.Sees.modChan (g : Chan → Chan) : (u.modChan key g).Sees sid key p rs y (g h) q where
  wait := hu.wait
  strm := hu.strm
  chan := (u.setChan_chan key key _).trans ((if_pos rfl).trans (congrArg g hu.chan))
  fq := hu.fq
  rem := hu.rem

theorem State.Sees.modPart (j : Nat) {g : Part → Part} (hg : ∀ x, (g x).fq = x.fq) :
    (u.modPart j g).Sees sid key p rs y h q := by
  refine hu.of_eq rfl rfl ?_ fun _ h => h
  refine (congrArg Part.fq (u.setPart_part j p _)).trans ?_
  split
  · next hj => rw [hg, hj]
  · rfl

theorem State.Sees.dropChan (m c keep : Nat) : (u.dropChan m c keep).Sees sid key p rs y h q :=
  hu.of_eq rfl rfl rfl fun _ hr => (List.mem_filter.mp hr).1

theorem State.Sees.setSt (st : StState) (w : Wait) (hst : st ≠ .waiting) : (u.setSt sid st w).Sees sid key p rs { y with
    st := st, wait := w
    stopAt := if st == .armed || (st == .ready && y.stopAt != .recordArmed) then .none else y.stopAt } h q := by
  have hset := hu.setStrmAt (z := { y with
    st := st, wait := w
    stopAt := if st == .armed || (st == .ready && y.stopAt != .recordArmed) then .none else y.stopAt }) hst
  unfold State.setSt
  dsimp only
  rw [hu.strm]
  generalize u.setStrmAt sid _ = v at hset
  have hw := v.refreshActive_woken y.ten.toNat
  exact hset.of_eq (v.refreshActive_strms _) hw.chans (congrArg Part.fq (hw.part p)) (by rw [hw.rest]; exact fun _ h => h)

end Steps

/-- A stop of the one stream concerned keeps where it stopped. -/
def Strm.SameStop (y z : Strm) : Prop :=
  z.st = y.st ∧ z.stopAt = y.stopAt ∧ z.ntile = y.ntile ∧ z.part = y.part ∧ z.ten = y.ten

/-- The stream leaves its channel, whose error latch and shadow set stay (R165). -/
theorem State.Sees.leaveOnly {u : State} {sid m c p : Nat} {rs : List RemReq} {y : Strm} {h : Chan} {q : Fq}
    (hu : u.Sees sid (4 * m + c) p rs y h q) (hact : h.act = some sid) (hst : y.st ≠ .waiting) (hsid : sid < 40960) :
    ∃ z g, (u.leaveOnly m c).Sees sid (4 * m + c) p rs z g q ∧ y.SameStop z ∧ g.act = none ∧ g.shadow = h.shadow ∧
      g.errValid = h.errValid ∧ g.errKind = h.errKind := by
  have hbnd : ∃ z g, ((u.dropChan m c 0).endBoundary m c sid false).Sees sid (4 * m + c) p rs z g q ∧ y.SameStop z ∧
      g.shadow = h.shadow ∧ g.errValid = h.errValid ∧ g.errKind = h.errKind := by
    have hd := hu.dropChan m c 0
    generalize u.dropChan m c 0 = v at hd
    unfold State.endBoundary
    split
    · exact ⟨y, h, hd, ⟨rfl, rfl, rfl, rfl, rfl⟩, rfl, rfl, rfl⟩
    · next l hl =>
      have hsp := hd.modPart (v.strmAt sid).part.toNat (g := fun x => { x with
        bsUsed := x.bsUsed - bndSpace (v.strmAt sid).slots l 1 + slotSpace (v.strmAt sid).slots 1
        spUsed := x.spUsed - bndSpace (v.strmAt sid).slots l 2 + slotSpace (v.strmAt sid).slots 2 }) fun _ => rfl
      exact ⟨_, _, (hsp.modChan fun h => { h with bnd := none }).modStrmAt (g := fun z => { z with
        slots := (v.strmAt sid).slots }) hst, ⟨rfl, rfl, rfl, rfl, rfl⟩, rfl, rfl, rfl⟩
  obtain ⟨z, g, hz, hsame, hsh, hev, hek⟩ := hbnd
  unfold State.leaveOnly
  have hact' : (u.ch m c).act = some sid := (congrArg Chan.act hu.chan).trans hact
  rw [hact']
  dsimp only
  generalize (u.dropChan m c 0).endBoundary m c sid false = v at hz
  have hfree : (v.freeWindow m c (u.strmAt sid).part.toNat).Sees sid (4 * m + c) p rs z { g with units := [] } q := by
    refine (hz.modPart _ fun x => ?_).modChan fun y => { y with units := [] }
    split
    · rfl
    · split <;> rfl
  have hvac := hfree.modChan Chan.vacate
  generalize v.freeWindow m c (u.strmAt sid).part.toNat = w at hvac
  have hback : ∀ w : State, w.writeBack m c sid = w := fun w => if_pos hsid
  rw [hback]
  have hzst : z.st ≠ .waiting := hsame.1.trans_ne hst
  refine ⟨_, _, hvac.modStrmAt (g := fun x => if x.bad = 1 then { x with bad := 2 } else x) ?_, ?_, rfl, hsh, hev, hek⟩
  · split <;> exact hzst
  · split <;> exact hsame

/-- A record that waits behind the one being written (R258). -/
theorem State.Sees.pushFault {u : State} {sid key p : Nat} {rs : List RemReq} {y : Strm} {h : Chan} {q : Fq}
    (hu : u.Sees sid key p rs y h q) (hen : q.en = true) (hbusy : q.busy = true) (hlen : q.buf.length < 64) (f : FRec) :
    (u.pushFault p f).Sees sid key p rs y h { q with buf := q.buf ++ [f] } := by
  have hpush : u.pushFault p f = u.modPart p fun x => { x with fq := { x.fq with buf := x.fq.buf ++ [f] } } := by
    have hne : ∀ l : List FRec, l ++ [f] ≠ [] := fun l => List.append_ne_nil_of_right_ne_nil l (List.cons_ne_nil _ _)
    unfold State.pushFault
    dsimp only
    rw [hu.fq, if_neg (by
      unfold Fq.held
      rw [hen]
      rintro (h | h)
      · exact absurd h (by decide)
      · omega)]
    have hget : ((u.modPart p fun x => { x with fq := { x.fq with buf := x.fq.buf ++ [f] } }).part p).fq =
        { q with buf := q.buf ++ [f] } := by
      refine (congrArg Part.fq ((u.setPart_part p p _).trans (if_pos rfl))).trans ?_
      exact congrArg (fun q : Fq => { q with buf := q.buf ++ [f] }) hu.fq
    unfold State.pumpFq
    dsimp only
    rw [hget]
    dsimp only
    cases hl : q.buf ++ [f] with
    | nil => exact absurd hl (hne _)
    | cons a l => exact if_pos (.inr (.inl hbusy))
  rw [hpush]
  refine ⟨hu.wait, hu.strm, hu.chan, ?_, hu.rem⟩
  refine (congrArg Part.fq ((u.setPart_part p p _).trans (if_pos rfl))).trans ?_
  exact congrArg (fun q : Fq => { q with buf := q.buf ++ [f] }) hu.fq

/-- A halt at a tile, with the error latched and its record kept (R172, R188, R189). -/
theorem State.Sees.applyStop {u : State} {sid m c p : Nat} {rs : List RemReq} {y : Strm} {h : Chan} {q : Fq}
    (hu : u.Sees sid (4 * m + c) p rs y h q) (hact : h.act = some sid) (hev : h.errValid = false) (hst : y.st ≠ .waiting)
    (hsid : sid < 40960) (hen : q.en = true) (hbusy : q.busy = true) (hlen : q.buf.length < 64) {x : Stop} {e : BusErr}
    (hx : x.frozen = false ∧ x.stopAt = .tile ∧ x.more = false) (he : x.err = some e) (hp : x.frec.part.toNat = p) :
    ∃ z g, (u.applyStop m c sid x).Sees sid (4 * m + c) p rs z g { q with buf := q.buf ++ [x.frec] } ∧ z.st = .halted ∧
      z.stopAt = .tile ∧ z.ntile = x.ntile ∧ g.act = none ∧ g.shadow = h.shadow ∧ g.errValid = true ∧
      g.errKind = BitVec.ofNat 8 e.kind := by
  obtain ⟨hfr, hat, hmore⟩ := hx
  have h1 := hu.modStrmAt (g := fun y => { y with ntile := x.ntile, lfsr := (u.ch m c).lfsr, stopAt := x.stopAt }) hst
  unfold State.applyStop State.latchStop State.latchErr
  dsimp only
  rw [he]
  dsimp only
  rw [hmore, if_neg Bool.false_ne_true, hfr, if_neg Bool.false_ne_true]
  generalize u.modStrmAt sid _ = v at h1
  have h2 := h1.modChan fun h => if h.errValid then { h with errOvf := true }
    else { h with
      errva := BitVec.ofNat 48 e.va, errpa := BitVec.ofNat 48 e.pa, errValid := true, errDir := e.dir, errWalk := e.walk,
      errResp := BitVec.ofNat 2 e.resp, errKind := BitVec.ofNat 8 e.kind }
  rw [hev, if_neg Bool.false_ne_true] at h2
  have h3 := h2.setSt .halted (if x.stopAt = .record ∨ x.stopAt = .recordArmed then (u.strmAt sid).wait else .none) (by decide)
  obtain ⟨z, g, h4, ⟨hzst, hzat, hzn, -, -⟩, hgact, hgsh, hgev, hgek⟩ := h3.leaveOnly hact
    (show StState.halted ≠ .waiting by decide) hsid
  rw [hp]
  exact ⟨z, g, h4.pushFault hen hbusy hlen x.frec, hzst, hzat.trans hat, hzn, hgact, hgsh, hgev, hgek⟩

/-- The stream is none that a free home wakes. -/
theorem State.Sees.wakeHome {u : State} {sid key p : Nat} {rs : List RemReq} {y : Strm} {h : Chan} {q : Fq}
    (hu : u.Sees sid key p rs y h q) (m c : Nat) : (u.wakeHome m c).strmAt sid = y ∧ (u.wakeHome m c).chan key = h ∧
      ((u.wakeHome m c).part p).fq = q ∧ ∀ r ∈ (u.wakeHome m c).peer.rem, r ∈ rs := by
  have hw : u.Woken (u.wakeHome m c) := u.makeReadies_woken _
  have hs : (u.wakeHome m c).strmAt sid = u.strmAt sid := u.makeReadies_other fun hmem => by
    obtain ⟨e, he, hk⟩ := List.mem_map.mp hmem
    obtain ⟨hin, hwait⟩ := List.mem_filter.mp he
    simp only [Bool.and_eq_true, beq_iff_eq] at hwait
    exact hu.wait e hin hk hwait.1.1.1
  refine ⟨hs.trans hu.strm, (hw.chan key).trans hu.chan, (congrArg Part.fq (hw.part p)).trans hu.fq, ?_⟩
  rw [hw.rest]
  exact hu.rem

/-- The earliest tile of a list of requests. -/
theorem earliest (l : List RemReq) (r : RemReq) :
    (l.foldl (fun a b => if b.tile < a.tile then b else a) r ∈ r :: l) ∧
      ∀ q ∈ r :: l, (l.foldl (fun a b => if b.tile < a.tile then b else a) r).tile ≤ q.tile := by
  induction l generalizing r with
  | nil => exact ⟨List.mem_cons_self, fun q hq => by rw [List.mem_singleton.mp hq]; exact Nat.le_refl _⟩
  | cons a l ih =>
    rw [List.foldl_cons]
    obtain ⟨hm, hle⟩ := ih (if a.tile < r.tile then a else r)
    refine ⟨?_, fun q hq => ?_⟩
    · rcases List.mem_cons.mp hm with h | h
      · rw [h]
        split
        · exact List.mem_cons_of_mem _ List.mem_cons_self
        · exact List.mem_cons_self
      · exact List.mem_cons_of_mem _ (List.mem_cons_of_mem _ h)
    · have h0 := hle _ List.mem_cons_self
      rcases List.mem_cons.mp hq with rfl | hq
      · refine h0.trans ?_
        split <;> omega
      · rcases List.mem_cons.mp hq with rfl | hq
        · refine h0.trans ?_
          split <;> omega
        · exact hle q (List.mem_cons_of_mem _ hq)

/-- Every access that the channel still writes is discarded when it answers. -/
def State.Quiet (s : State) (m c : Nat) : Prop :=
  ∀ a ∈ s.acc, a.rq = .mover m → a.ch = c → a.wr = false ∨ (a.drain = true ∧ isSpillWrite a.kind = false)

theorem State.Quiet.writesOut {s : State} {m c : Nat} (h : s.Quiet m c)
    (hr : ∀ r ∈ s.peer.rem, ¬ (r.sent = true ∧ r.mv = m ∧ r.ch = c)) : s.writesOut m c = false := by
  unfold State.writesOut
  rw [Bool.or_eq_false_iff]
  refine ⟨List.any_eq_false.mpr fun a ha hc => ?_, List.any_eq_false.mpr fun r hrm hc => ?_⟩
  · simp only [Bool.and_eq_true, beq_iff_eq] at hc
    obtain ⟨⟨⟨⟨hq, hch⟩, hw⟩, -⟩, hi⟩ := hc
    rcases h a ha hq hch with h0 | ⟨hd, hs⟩
    · rw [h0] at hw
      exact absurd hw (by decide)
    · rw [hs, if_neg Bool.false_ne_true, hd] at hi
      exact absurd hi (by decide)
  · simp only [Bool.and_eq_true, beq_iff_eq] at hc
    exact hr r hrm ⟨hc.2, hc.1.1, hc.1.2⟩

theorem State.Quiet.dropped {s : State} {m c : Nat} (h : s.Quiet m c) (keep : Nat) :
    ((s.lateReads m c).dropChan m c keep).Quiet m c := by
  have hlate : (s.lateReads m c).Quiet m c := fun b hb hq hc => by
    obtain ⟨a, ha, hab⟩ := List.mem_map.mp hb
    split_ifs at hab
    · subst hab
      exact h a ha hq hc
    · subst hab
      exact h a ha hq hc
  intro b hb hq hc
  obtain ⟨a, ha, hab⟩ := List.mem_map.mp hb
  obtain ⟨ha, -⟩ := List.mem_filter.mp ha
  split at hab
  · subst hab
    exact (hlate a ha hq hc).imp_right fun h => ⟨rfl, h.2⟩
  · subst hab
    exact hlate a ha hq hc

/-- A stop with nothing left to await takes effect at once (R172). -/
theorem State.Sees.beginStop {u : State} {sid m c p : Nat} {rs : List RemReq} {y : Strm} {h : Chan} {q : Fq}
    (hu : u.Sees sid (4 * m + c) p rs y h q) (hq : u.Quiet m c) (hrs : ∀ r ∈ rs, ¬ (r.sent = true ∧ r.mv = m ∧ r.ch = c))
    (hact : h.act = some sid) (hstop : h.stop = none) (hsh : h.shadow = none) (hev : h.errValid = false)
    (hst : y.st ≠ .waiting) (hsid : sid < 40960) (hen : q.en = true) (hbusy : q.busy = true) (hlen : q.buf.length < 64)
    {x : Stop} {e : BusErr} (hx : x.frozen = false ∧ x.stopAt = .tile ∧ x.more = false) (he : x.err = some e)
    (hp : x.frec.part.toNat = p) :
    let t := u.beginStop m c x
    ((t.strmAt sid).st = .halted ∧ (t.strmAt sid).stopAt = .tile ∧ (t.strmAt sid).ntile = x.ntile) ∧
      ((t.ch m c).act = none ∧ (t.ch m c).errValid = true ∧ (t.ch m c).errKind = BitVec.ofNat 8 e.kind) ∧
      (t.part p).fq.buf = q.buf ++ [x.frec] ∧ ∀ r ∈ t.peer.rem, r ∈ rs := by
  let s1 := u.modCh m c fun h => { h with stop := some x, slot := none, got := [], xl := [], inB := 0, outB := 0 }
  let s2 := (s1.lateReads m c).dropChan m c x.ntile.toNat
  have h1 : s1.Sees sid (4 * m + c) p rs y _ q :=
    hu.modChan fun h => { h with stop := some x, slot := none, got := [], xl := [], inB := 0, outB := 0 }
  have h2 : s2.Sees sid (4 * m + c) p rs y _ q := (h1.of_eq (v := s1.lateReads m c) rfl rfl rfl fun _ h => h).dropChan m c _
  have hout : s2.writesOut m c = false :=
    (State.Quiet.dropped (s := s1) hq x.ntile.toNat).writesOut fun r hr => hrs r (h2.rem r hr)
  obtain ⟨z, g, h3, hz1, hz2, hz3, hg1, hgsh, hg2, hg3⟩ := h2.applyStop hact hev hst hsid hen hbusy hlen hx he hp
  have hb : u.beginStop m c x = (s2.applyStop m c sid x).wakeHome m c := by
    have hst0 : (u.ch m c).stop = none := (congrArg Chan.stop hu.chan).trans hstop
    unfold State.beginStop
    dsimp only
    rw [hst0]
    change s2.finishStop m c = _
    have hact2 : (s2.ch m c).act = some sid := (congrArg Chan.act h2.chan).trans hact
    have hstop2 : (s2.ch m c).stop = some x := congrArg Chan.stop h2.chan
    have hsh2 : ((s2.applyStop m c sid x).ch m c).shadow = none := (congrArg Chan.shadow h3.chan).trans (hgsh.trans hsh)
    unfold State.finishStop
    rw [hact2, hstop2, hout]
    unfold State.stopNow
    dsimp only
    rw [hsh2, if_neg Bool.false_ne_true]
  obtain ⟨hs, hc, hf, hr⟩ := h3.wakeHome m c
  intro t
  have ht : t = (s2.applyStop m c sid x).wakeHome m c := hb
  clear_value t
  subst ht
  have hch : ((s2.applyStop m c sid x).wakeHome m c).ch m c = g := hc
  rw [hs, hch]
  exact ⟨⟨hz1, hz2, hz3⟩, ⟨hg1, hg2, hg3⟩, congrArg Fq.buf hf, hr⟩

end Sys2Proof.Machine

namespace Sys2Proof
open Machine

/-- Settles O35: nothing of the channel is left to await, so the stop takes effect at once (`Sees.beginStop`). -/
theorem peerTimeout : Obligations.peer_timeout := by
  unfold Obligations.peer_timeout
  intro s m c sid r mine x p hact hstop hab hsh hacc hsid hwait hev hr hmine hmin hen hbusy hlen
  have hfil : ∃ r0 l, s.peer.rem.filter (fun r => r.sent && r.mv == m.val && r.ch == c.val) = r0 :: l :=
    List.exists_cons_of_ne_nil (List.ne_nil_of_mem (List.mem_filter.mpr ⟨hr, by simp [hmine.1, hmine.2.1, hmine.2.2]⟩))
  obtain ⟨r0, l, hl⟩ := hfil
  obtain ⟨hfm, hfle⟩ := earliest l r0
  let rs := s.peer.rem.filter fun q => !(q.sent && q.mv == m.val && q.ch == c.val)
  let u1 : State := State.modCmd { s with peer := { s.peer with rem := rs } } sid fun k => { k with timed := true }
  have hop : s.timeoutOp m c = u1.remoteStop
      (l.foldl (fun a b => if b.tile < a.tile then b else a) r0) sid 0x40 0 := by
    unfold State.timeoutOp
    dsimp only
    rw [hl, hact]
    exact if_neg (by rw [hab, hstop]; decide)
  rw [← hl] at hfm hfle
  generalize l.foldl (fun a b => if b.tile < a.tile then b else a) r0 = first at hop hfm hfle
  obtain ⟨hfr, hfmine⟩ := List.mem_filter.mp hfm
  simp only [Bool.and_eq_true, beq_iff_eq] at hfmine
  obtain ⟨⟨hfs, hfmv⟩, hfch⟩ := hfmine
  have htile : first.tile = r.tile := Nat.le_antisymm
    (hfle r (List.mem_filter.mpr ⟨hr, by simp [hmine.1, hmine.2.1, hmine.2.2]⟩)) (hmin first hfr ⟨hfs, hfmv, hfch⟩)
  have hxst : x.st ≠ .waiting := by
    rcases s.strms.get_mem Strm.reset sid with h | h
    · exact (congrArg Strm.st h).trans_ne (by decide)
    · exact hwait _ h rfl
  have hu0 : State.Sees { s with peer := { s.peer with rem := rs } } sid (4 * m + c) p rs x (s.ch m c) (s.part p).fq :=
    ⟨hwait, rfl, rfl, rfl, fun _ h => h⟩
  have hu : u1.Sees sid (4 * m + c) p rs _ (s.ch m c) (s.part p).fq := hu0.modStrmAt (g := fun x => { x with cmd := x.cmd.map fun k => { k with timed := true } }) hxst
  have hrs : ∀ q ∈ rs, ¬ (q.sent = true ∧ q.mv = m.val ∧ q.ch = c.val) := fun q hq h => by
    have := (List.mem_filter.mp hq).2
    simp [h.1, h.2.1, h.2.2] at this
  obtain ⟨⟨h1, h2, h3⟩, ⟨h4, h5, h6⟩, h7, h8⟩ := hu.beginStop (m := m) (c := c) hacc hrs hact hstop hsh hev hxst hsid hen hbusy
    hlen (x := { tileStop false true first.tile { faultOf (u1.strmAt sid) sid m c 0x40 11 with dir := first.wr, resp := 0 } with
      err := some { dir := first.wr, walk := false, resp := 0, kind := 11, va := 0, pa := 0 } }) ⟨rfl, rfl, rfl⟩ rfl
      ((congrArg (fun y : Strm => y.part.toNat) hu.strm).trans rfl)
  unfold State.remoteStop at hop
  rw [hfmv, hfch] at hop
  refine ⟨_, _, congrArg Host.Outcome.next hop, fun q hq h => hrs q (h8 q hq) h, h1, h2,
    h3.trans (congrArg (BitVec.ofNat 40) htile), h4, h5, h6, h7, rfl, rfl, ?_, ?_, rfl⟩
  · exact (congrArg Strm.ten hu.strm).trans rfl
  · exact congrArg (BitVec.ofNat 40) htile

end Sys2Proof
end

section
/-! O27: an aged channel wins its cycle. -/

namespace Sys2Proof.Machine

/-- A change of several of a Mover's channels. -/
theorem State.foldModCh (s : State) (m : Nat) (f : Nat → Chan → Chan) {l : List Nat} (hl : l.Nodup) :
    l.foldl (fun st c => st.modCh m c (f c)) s = { s with chans := (l.foldl (fun st c => st.modCh m c (f c)) s).chans } ∧
    ∀ j, (l.foldl (fun st c => st.modCh m c (f c)) s).chan j =
      if 4 * m ≤ j ∧ j - 4 * m ∈ l then f (j - 4 * m) (s.chan j) else s.chan j := by
  induction l generalizing s with
  | nil => exact ⟨rfl, fun j => (if_neg fun h => List.not_mem_nil h.2).symm⟩
  | cons c l ih =>
    obtain ⟨hc, hl⟩ := List.nodup_cons.mp hl
    obtain ⟨hr, hch⟩ := ih (s.modCh m c (f c)) hl
    rw [List.foldl_cons]
    refine ⟨hr, fun j => ?_⟩
    have hget : (s.modCh m c (f c)).chan j = if j = 4 * m + c then f c (s.chan (4 * m + c)) else s.chan j :=
      s.setChan_chan _ j _
    rw [hch, hget]
    by_cases hj : j = 4 * m + c
    · have hjc : j - 4 * m = c := by omega
      rw [if_neg (by rw [hjc]; exact fun h => hc h.2), if_pos hj,
        if_pos ⟨by omega, by rw [hjc]; exact List.mem_cons_self⟩, hjc, hj]
    · rw [if_neg hj]
      refine if_congr (and_congr_right fun h => ?_) rfl rfl
      rw [List.mem_cons]
      exact (or_iff_right (by omega)).symm

/-- The one candidate is next in turn. -/
theorem inTurn_only {l : List Nat} {c : Nat} (t : Nat) (hc : c < 4) (h : ∀ k, k ∈ l ↔ k = c) : inTurn t l = some c := by
  have hsome : (inTurn t l).isSome = true := by
    unfold inTurn
    rw [List.find?_isSome]
    have hmem : c ∈ [t + 1, t + 2, t + 3, t + 4].map (· % 4) := by
      simp only [List.map_cons, List.map_nil, List.mem_cons, List.not_mem_nil, or_false]
      omega
    exact ⟨c, hmem, List.contains_iff_mem.mpr ((h c).mpr rfl)⟩
  obtain ⟨k, hk⟩ := Option.isSome_iff_exists.mp hsome
  have hin : l.contains k = true := List.find?_some (p := fun c => l.contains c) hk
  rw [hk, (h k).mp (List.contains_iff_mem.mp hin)]

/-- The one channel that has lost 31 cycles wins (R65, R169). -/
theorem State.winner_aged (s : State) (m turn : Nat) {l : List Nat} {lost : Nat → Nat} {c : Nat} (hc : c < 4) (hl : c ∈ l)
    (h31 : 31 ≤ lost c) (hothers : ∀ k ∈ l, k ≠ c → lost k < 31) : s.winner m turn l lost = some c := by
  have hmem : ∀ k, k ∈ l.filter (fun c => decide (31 ≤ lost c)) ↔ k = c := fun k => by
    rw [List.mem_filter, decide_eq_true_iff]
    refine ⟨fun ⟨hk, h⟩ => ?_, fun h => ⟨h ▸ hl, h ▸ h31⟩⟩
    by_contra hne
    have := hothers k hk hne
    omega
  unfold State.winner
  dsimp only
  rw [if_pos (List.ne_nil_of_mem ((hmem c).mpr rfl))]
  exact inTurn_only turn hc hmem

theorem State.beats_nodup (s : State) (m : Nat) (side : Side) : (s.beats m side).Nodup :=
  List.Nodup.filter _ (by decide)

theorem State.beats_lt {s : State} {m : Nat} {side : Side} {k : Nat} (h : k ∈ s.beats m side) : k < 4 := by
  have := (List.mem_filter.mp h).1
  simp only [List.mem_cons, List.not_mem_nil, or_false] at this
  omega

/-- One cycle of the array, won by the aged channel. -/
theorem State.arrayAgeOp_wins {s : State} {m : Nat} {side : Side} {c : Nat} (hc : c < 4) (hl : c ∈ s.beats m side)
    (h31 : 31 ≤ (s.ch m c).lost side) (hothers : ∀ k ∈ s.beats m side, k ≠ c → (s.ch m k).lost side < 31) :
    s.arrayAgeOp m side c = s.arrayGrant m side (s.beats m side) c :=
  if_pos ⟨List.contains_iff_mem.mpr hl, h31, s.winner_aged m _ hc hl h31 hothers⟩

/-- What a cycle of the array makes of a channel with a beat ready, where channel `w` wins. -/
def arrayStep (side : Side) (w k : Nat) (h : Chan) : Chan := match side with
  | .input => if k = w then { h with inB := h.inB - 1, inLoss := 0 } else { h with inLoss := h.inLoss + 1 }
  | .output => if k = w then { h with outB := h.outB - 1, outLoss := 0 } else { h with outLoss := h.outLoss + 1 }

/-- The turn of a side passes to channel `w`. -/
def arrayTurn (side : Side) (w : Nat) (v : Mover) : Mover := match side with
  | .input => { v with turnI := w }
  | .output => { v with turnO := w }

/-- A channel of a Mover, written with others of it. -/
theorem State.foldModCh_mem {s : State} {m : Nat} {f : Nat → Chan → Chan} {l : List Nat} (hl : l.Nodup) {k : Nat} (hk : k ∈ l) :
    (l.foldl (fun st c => st.modCh m c (f c)) s).chan (4 * m + k) = f k (s.chan (4 * m + k)) := by
  have hsub : 4 * m + k - 4 * m = k := by omega
  rw [(s.foldModCh m f hl).2, hsub, if_pos ⟨by omega, hk⟩]

theorem State.foldModCh_other {s : State} {m : Nat} {f : Nat → Chan → Chan} {l : List Nat} (hl : l.Nodup)
    (hlt : ∀ k ∈ l, k < 4) {j : Nat} (hj : j < 4 * m ∨ 4 * m + 4 ≤ j) :
    (l.foldl (fun st c => st.modCh m c (f c)) s).chan j = s.chan j := by
  rw [(s.foldModCh m f hl).2]
  refine if_neg fun h => ?_
  have := hlt _ h.2
  omega

/-- A cycle writes channels of a Mover, and whose turn it is. -/
theorem State.foldTurn (u : State) (m : Nat) (f : Nat → Chan → Chan) (g : Mover → Mover) {l : List Nat} (hl : l.Nodup)
    (hlt : ∀ k ∈ l, k < 4) : ∃ t, (l.foldl (fun st c => st.modCh m c (f c)) u).modMover m g = t ∧
      (∀ k ∈ l, t.chan (4 * m + k) = f k (u.chan (4 * m + k))) ∧ t.mover m = g (u.mover m) ∧
      (∀ j, j < 4 * m ∨ 4 * m + 4 ≤ j → t.chan j = u.chan j) ∧ t = { u with chans := t.chans, movers := t.movers } := by
  have hrest := (u.foldModCh m f hl).1
  refine ⟨_, rfl, fun k hk => State.foldModCh_mem hl hk, ?_, fun j hj => State.foldModCh_other hl hlt hj, ?_⟩
  · refine (State.setMover_mover _ m m _).trans ((if_pos rfl).trans ?_)
    rw [hrest]
    rfl
  · exact congrArg (fun v : State => { v with
      movers := ((l.foldl (fun (st : State) c => st.modCh m c (f c)) u).modMover m g).movers }) hrest

/-- A side's cycle is won by channel `w`. -/
theorem State.arrayGrant_won (s : State) (m w : Nat) (side : Side) :
    ∃ t, s.arrayGrant m side (s.beats m side) w = t ∧
    (∀ k ∈ s.beats m side, t.chan (4 * m + k) = arrayStep side w k (s.chan (4 * m + k))) ∧
    t.mover m = arrayTurn side w (s.mover m) ∧
    (∀ j, j < 4 * m ∨ 4 * m + 4 ≤ j → t.chan j = s.chan j) ∧ t = { s with chans := t.chans, movers := t.movers } := by
  obtain ⟨t, ht, h⟩ := s.foldTurn m (arrayStep side w) (arrayTurn side w) (s.beats_nodup m side) fun k hk => State.beats_lt hk
  exact ⟨t, Eq.trans (by cases side <;> rfl) ht, h⟩

theorem State.issueAgeOp_wins {s : State} {m : Nat} {cls : IssueClass} {c : Nat} (hc : c < 4) (hl : c ∈ s.ready m cls)
    (h31 : 31 ≤ (s.ch m c).lostIn cls) (hothers : ∀ k ∈ s.ready m cls, k ≠ c → (s.ch m k).lostIn cls < 31) :
    s.issueAgeOp m cls c = s.issueGrant m cls (s.ready m cls) c :=
  if_pos ⟨List.contains_iff_mem.mpr hl, h31, s.winner_aged m _ hc hl h31 hothers⟩

/-- A write is issued: it stands behind those issued before it (R169). -/
theorem State.issueReq_write {s : State} {m : Nat} {a : Access} (hf : s.findAcc a.aid = some a) (hw : a.wr = true) :
    s.issueReq m (.acc a.aid) = { s with acc := s.acc.filter (fun b => b.aid ≠ a.aid) ++ [{ a with stage := .arb }] } := by
  unfold State.issueReq
  dsimp only
  rw [hf]
  dsimp only
  split
  · rfl
  · rw [if_pos (.inl hw)]
    rfl

/-- What a cycle of the writes' class makes of a channel, where channel `c` wins. -/
def writeStep (l : List Nat) (c k : Nat) (h : Chan) : Chan :=
  { h with wLoss := if k = c || !l.contains k then 0 else h.wLoss + 1 }

/-- The cycle of the writes' class is won by channel `c`. -/
theorem State.issueGrant_write {s : State} {m c : Nat} {a : Access} (hreq : s.reqOf m .write c = some (.acc a.aid))
    (hf : s.findAcc a.aid = some a) (hw : a.wr = true) (l : List Nat) : ∃ t, s.issueGrant m .write l c = t ∧
      (∀ k ∈ [0, 1, 2, 3], t.chan (4 * m + k) = writeStep l c k (s.chan (4 * m + k))) ∧
      t.mover m = { s.mover m with turnW := c } ∧ (∀ j, j < 4 * m ∨ 4 * m + 4 ≤ j → t.chan j = s.chan j) ∧
      t = { s with chans := t.chans, movers := t.movers
                   acc := s.acc.filter (fun b => b.aid ≠ a.aid) ++ [{ a with stage := .arb }] } := by
  have heq : s.issueGrant m .write l c = State.modMover ([0, 1, 2, 3].foldl (fun st k => st.modCh m k (writeStep l c k))
      { s with acc := s.acc.filter (fun b => b.aid ≠ a.aid) ++ [{ a with stage := .arb }] }) m fun v =>
        { v with turnW := c } := by
    unfold State.issueGrant
    rw [hreq]
    dsimp only
    rw [State.issueReq_write hf hw]
    rfl
  obtain ⟨t, ht, h⟩ := State.foldTurn { s with acc := s.acc.filter (fun b => b.aid ≠ a.aid) ++ [{ a with stage := .arb }] } m
    (writeStep l c) (fun v => { v with turnW := c }) (l := [0, 1, 2, 3]) (by decide) (by decide)
  exact ⟨t, heq.trans ht, h⟩

theorem mem_four {k : Nat} (h : k < 4) : k ∈ [0, 1, 2, 3] := by
  simp only [List.mem_cons, List.not_mem_nil, or_false]
  omega

end Sys2Proof.Machine

namespace Sys2Proof
open Machine

/-- Settles O27: the one aged channel wins (`winner_aged`), and the cycle is its own (`foldTurn`). -/
theorem ageing : Obligations.ageing := by
  unfold Obligations.ageing
  intro s m c ch frame
  refine ⟨fun hl h31 hoth => ?_, fun hl h31 hoth => ?_, fun a hreq hfind hwr h31 hoth => ?_⟩
  · have hop := State.arrayAgeOp_wins (s := s) (side := .input) c.isLt hl h31 hoth
    obtain ⟨t, ht, hch, hmv, hfr, hrest⟩ := s.arrayGrant_won m c .input
    exact ⟨t, congrArg Host.Outcome.next (hop.trans ht), (hch c hl).trans (if_pos rfl),
      fun k hk hkc => (hch k hk).trans (if_neg hkc), hmv, hfr, hrest⟩
  · have hop := State.arrayAgeOp_wins (s := s) (side := .output) c.isLt hl h31 hoth
    obtain ⟨t, ht, hch, hmv, hfr, hrest⟩ := s.arrayGrant_won m c .output
    exact ⟨t, congrArg Host.Outcome.next (hop.trans ht), (hch c hl).trans (if_pos rfl),
      fun k hk hkc => (hch k hk).trans (if_neg hkc), hmv, hfr, hrest⟩
  · have hready : c.val ∈ s.ready m .write := List.mem_filter.mpr ⟨mem_four c.isLt, by rw [hreq]; rfl⟩
    have hop := State.issueAgeOp_wins c.isLt hready h31 hoth
    obtain ⟨t, ht, hch, hmv, hfr, hrest⟩ := State.issueGrant_write hreq hfind hwr (s.ready m .write)
    have hacc : t.acc = _ := congrArg State.acc hrest
    refine ⟨t, congrArg Host.Outcome.next (hop.trans ht), hacc, (hch c (mem_four c.isLt)).trans ?_, fun k hk hkc => ?_, hmv,
      hfr, by rw [hacc]; exact hrest⟩
    · unfold writeStep
      rw [decide_eq_true rfl]
      rfl
    · have hc : (s.ready m .write).contains k = true := List.contains_iff_mem.mpr hk
      rw [show ch t k = _ from hch k (List.mem_filter.mp hk).1]
      unfold writeStep
      rw [hc, decide_eq_false hkc]
      rfl

end Sys2Proof
end

section
/-! O28: the decision at a memory port's table. -/

namespace Sys2Proof.Machine

theorem State.modTab_tab (s : State) (k j : Nat) (g : Tab → Tab) :
    (s.modTab k g).tab j = if j = k then g (s.tab k) else s.tab j := s.setTab_tab k j _

/-- A list's greatest value. -/
theorem foldl_max_spec (l : List Nat) (a : Nat) :
    (l.foldl max a = a ∨ l.foldl max a ∈ l) ∧ a ≤ l.foldl max a ∧ ∀ k ∈ l, k ≤ l.foldl max a := by
  induction l generalizing a with
  | nil => exact ⟨.inl rfl, Nat.le_refl a, fun _ h => absurd h List.not_mem_nil⟩
  | cons b l ih =>
    obtain ⟨h1, h2, h3⟩ := ih (max a b)
    rw [List.foldl_cons]
    refine ⟨?_, (Nat.le_max_left a b).trans h2, fun k hk => ?_⟩
    · rcases h1 with h1 | h1
      · rw [h1]
        rcases Nat.le_total a b with h | h
        · exact .inr (by rw [Nat.max_eq_right h]; exact List.mem_cons_self)
        · exact .inl (Nat.max_eq_left h)
      · exact .inr (List.mem_cons_of_mem _ h1)
    · rcases List.mem_cons.mp hk with rfl | hk
      · exact (Nat.le_max_right a k).trans h2
      · exact h3 k hk

/-- The one contender of the highest priority wins in background (R270). -/
theorem Tab.rank_top {x : Tab} {l : List Nat} {p : Nat} (hp : p ∈ l) (h8 : p < 8)
    (h : ∀ q ∈ l, q ≠ p → x.priOf q < x.priOf p) : x.rank l = some p := by
  have hle : ∀ q ∈ l, x.priOf q ≤ x.priOf p := fun q hq => by
    by_cases hqp : q = p
    · rw [hqp]
    · exact (h q hq hqp).le
  have htop : (l.map x.priOf).foldl max 0 = x.priOf p := by
    obtain ⟨hor, -, hall⟩ := foldl_max_spec (l.map x.priOf) 0
    have h1 := hall _ (List.mem_map.mpr ⟨p, hp, rfl⟩)
    rcases hor with h0 | hm
    · omega
    · obtain ⟨q, hq, he⟩ := List.mem_map.mp hm
      have := hle q hq
      omega
  have hsome : (x.rank l).isSome = true := by
    unfold Tab.rank
    rw [List.find?_isSome]
    refine ⟨p, List.mem_map.mpr ⟨(p + 8 - (x.lastBg + 1) % 8) % 8, List.mem_range.mpr (by omega), by omega⟩, ?_⟩
    rw [htop, List.contains_iff_mem.mpr hp, beq_self_eq_true]
    rfl
  obtain ⟨q, hq⟩ := Option.isSome_iff_exists.mp hsome
  have hin := List.find?_some hq
  rw [htop, Bool.and_eq_true, List.contains_iff_mem, beq_iff_eq] at hin
  rw [hq]
  by_contra hne
  have := h q hin.1 fun he => hne (congrArg some he)
  omega

/-- The losers' counts (R271). -/
theorem Tab.lose_get {l : List Nat} (x : Tab) (hl : l.Nodup) (q : Nat) :
    ((x.lose l).loss.get 0 q = if q ∈ l then min 8 (x.loss.get 0 q + 1) else x.loss.get 0 q) ∧
      (x.lose l).backoff.get false q = (if q ∈ l then true else x.backoff.get false q) ∧
      x.lose l = { x with loss := (x.lose l).loss, backoff := (x.lose l).backoff } := by
  unfold Tab.lose
  induction l generalizing x with
  | nil => exact ⟨(if_neg List.not_mem_nil).symm, (if_neg List.not_mem_nil).symm, rfl⟩
  | cons a l ih =>
    obtain ⟨ha, hl⟩ := List.nodup_cons.mp hl
    obtain ⟨h1, h2, h3⟩ := ih { x with
      loss := x.loss.put 0 a (min 8 (x.loss.get 0 a + 1)), backoff := x.backoff.put false a true } hl
    rw [List.foldl_cons]
    refine ⟨?_, ?_, h3⟩
    · rw [h1]
      dsimp only
      rw [SMap.get_put]
      by_cases hq : q = a
      · subst hq
        rw [if_neg ha, if_pos rfl, if_pos List.mem_cons_self]
      · rw [if_neg hq]
        exact if_congr ((or_iff_right hq).symm.trans List.mem_cons.symm) rfl rfl
    · rw [h2]
      dsimp only
      rw [SMap.get_put]
      by_cases hq : q = a
      · subst hq
        rw [if_neg ha, if_pos rfl, if_pos List.mem_cons_self]
      · rw [if_neg hq]
        exact if_congr ((or_iff_right hq).symm.trans List.mem_cons.symm) rfl rfl

theorem State.turnBid_mem {s : State} {t p : Nat} {b : Bid} (h : s.turnBid t p = some b) : b ∈ s.bids t := by
  have hat : ∀ lo, ((List.range 66).findSome? fun k => if k < lo then none else
      ((s.bids t).filter fun b => match b.who with
        | some (q, o) => q == p && o != 66
        | none => false).find? fun b => b.who == some (p, k)) = some b → b ∈ s.bids t := fun lo h => by
    obtain ⟨k, -, hk⟩ := List.exists_of_findSome?_eq_some h
    split at hk
    · exact absurd hk (by simp)
    · exact (List.mem_filter.mp (List.mem_of_find?_eq_some hk)).1
  unfold State.turnBid at h
  dsimp only at h
  rcases Option.or_eq_some_iff.mp h with h | ⟨-, h⟩
  · exact hat _ h
  · exact hat _ h

/-- The partitions that lose a decision in background. -/
def State.losers (s : State) (t p : Nat) (bg : Bool) : List Nat :=
  if bg then (s.contenders t).filter (· != p) else []

theorem State.losers_nodup (s : State) (t p : Nat) (bg : Bool) : (s.losers t p bg).Nodup := by
  unfold State.losers State.contenders
  split
  · exact (List.nodup_range.filter _).filter _
  · exact List.nodup_nil

theorem State.mem_losers {s : State} {t p q : Nat} {bg : Bool} :
    q ∈ s.losers t p bg ↔ bg = true ∧ q ∈ s.contenders t ∧ q ≠ p := by
  unfold State.losers
  cases bg with
  | false => simp
  | true =>
    rw [if_pos rfl, List.mem_filter, bne_iff_ne]
    simp

/-- A table once partition `p` has won a decision at slot `k`, with requester `o`. -/
def Tab.decided (y : Tab) (p : Nat) (bg : Bool) (l : List Nat) (o k : Nat) : Tab :=
  { (y.won p bg).lose l with turn := ((y.won p bg).lose l).turn.put 0 p (o + 1), ptr := BitVec.ofNat 8 (k + 1) }

/-- A decision that a partition wins. -/
theorem State.arbOp_won {s : State} {t p : Nat} {bg : Bool} {b : Bid} (hc : s.clocked = true) (hp : s.pwr.state ≠ 2)
    (hd : s.decide' t ((s.tab t).seek (s.tab t).ptr.toNat 256) false = if bg then .background p else .owned p)
    (hb : s.turnBid t p = some b) (hpend : (s.tab t).pend = false) :
    let k := (s.tab t).seek (s.tab t).ptr.toNat 256
    let u := s.arbOp t false
    u.tab t = ((s.grant t b).tab t).decided p bg (s.losers t p bg) ((b.who.map (·.2)).getD 0) k ∧
      (∀ j, j ≠ t → u.tab j = (s.grant t b).tab j) ∧ u = { s.grant t b with tabs := u.tabs } := by
  intro k u
  have hne : s.bids t ≠ [] := List.ne_nil_of_mem (State.turnBid_mem hb)
  have hu : u = (((s.grant t b).modTab t fun y =>
      { (y.won p bg).lose (s.losers t p bg) with
        turn := ((y.won p bg).lose (s.losers t p bg)).turn.put 0 p ((b.who.map (·.2)).getD 0 + 1) }).modTab t fun y =>
          { y with ptr := BitVec.ofNat 8 (k + 1) }) := by
    change s.arbOp t false = _
    unfold State.arbOp
    dsimp only
    rw [if_neg (by
      rintro (h | h | h)
      · exact hne h
      · exact absurd (hc.symm.trans h) (by decide)
      · exact hp h), hpend, Bool.and_false]
    cases bg with
    | false =>
      have hd' : s.decide' t ((s.tab t).seek (s.tab t).ptr.toNat 256) false = .owned p := hd
      rw [hd']
      dsimp only
      rw [hb]
      rfl
    | true =>
      have hd' : s.decide' t ((s.tab t).seek (s.tab t).ptr.toNat 256) false = .background p := hd
      rw [hd']
      dsimp only
      rw [hb]
      rfl
  clear_value u
  subst hu
  refine ⟨?_, fun j hj => ?_, rfl⟩
  · rw [State.modTab_tab, if_pos rfl, State.modTab_tab, if_pos rfl]
    rfl
  · rw [State.modTab_tab, if_neg hj, State.modTab_tab, if_neg hj]

/-- The end of a tenure that is no Staging burst's. -/
theorem State.endTenure_plain {s : State} {t : Nat} (h : ∀ n, (s.tab t).tenure ≠ some (.stg n)) :
    s.endTenure t = s.modTab t fun x => { x with tenure := none, left := 0 } := by
  unfold State.endTenure
  dsimp only
  split
  · next id hid => exact absurd hid (h id)
  · rfl

/-- The tracker that a grant takes, a free value (log 9). -/
def State.grantTrk (s : State) (a : Access) : Nat :=
  (s.freeTrackers a.port a.wr).getD (Config.trackerPick s.free % (s.freeTrackers a.port a.wr).length) 0

theorem State.grantTrk_mem {s : State} {a : Access} (h : s.freeTrackers a.port a.wr ≠ []) :
    s.grantTrk a ∈ s.freeTrackers a.port a.wr := by
  have hlen := List.length_pos_of_ne_nil h
  have hlt := Nat.mod_lt (Config.trackerPick s.free) hlen
  unfold State.grantTrk
  rw [List.getD_eq_getElem?_getD, List.getElem?_eq_getElem hlt]
  exact List.getElem_mem hlt

/-- An access that is granted (R263). -/
def State.granted (s : State) (a y : Access) : Access :=
  { y with stage := .out, trk := s.grantTrk a, pool := a.rq == .mgmt || !s.ownTracker a.part a.port a.wr }

theorem State.modTab_granted (s : State) (t : Nat) (g : Tab → Tab) (a y : Access) :
    (s.modTab t g).granted a y = s.granted a y := by
  unfold State.granted State.grantTrk State.freeTrackers State.ownTracker State.modTab State.setTab
  rfl

theorem State.grantBid_acc {s e : State} {t : Nat} {a : Access} (he : s.endTenure t = e) :
    s.grantBid t (.acc a) = { (e.modAcc a.aid (e.granted a)).modTab t fun x =>
      { x with tenure := some (.acc a.aid), left := a.beats } with free := e.free + 1 } := by
  unfold State.grantBid
  rw [he]
  rfl

theorem State.tab_of_tabs {u v : State} (h : u.tabs = v.tabs) (j : Nat) : u.tab j = v.tab j :=
  congrArg (fun l => SMap.get l Tab.reset j) h

/-- The table once a tenure of `n` beats begins for access `aid`. -/
def Tab.tenured (aid n : Nat) (x : Tab) : Tab := { x with tenure := some (.acc aid), left := n }

/-- What the grant of an access that leaves no tile slot does (R263, R268). -/
theorem State.grant_plain {s : State} {t : Nat} {a : Access} (hk : ∀ n, a.kind ≠ .dest n ∧ a.kind ≠ .ecnos n)
    (hten : ∀ n, (s.tab t).tenure ≠ some (.stg n)) (hid : ∀ b ∈ s.acc, b.aid = a.aid → b = a) :
    ∃ v, s.grant t (.acc a) = v ∧
      v.acc = s.acc.map (fun b => if b.aid = a.aid then s.granted a a else b) ∧
      v.tab t = { s.tab t with tenure := some (.acc a.aid), left := a.beats } ∧ (∀ j, j ≠ t → v.tab j = s.tab j) ∧
      v = { s with acc := v.acc, tabs := v.tabs, free := v.free } := by
  have hv : s.grant t (.acc a) = s.grantBid t (.acc a) := by
    unfold State.grant
    dsimp only
    split
    · next m n _ hn => exact absurd hn (hk n).1
    · next m n _ hn => exact absurd hn (hk n).2
    · rfl
  obtain ⟨e, he⟩ : ∃ e, e = s.modTab t fun x => { x with tenure := none, left := 0 } := ⟨_, rfl⟩
  have hgr : ∀ y, e.granted a y = s.granted a y := fun y => by rw [he, State.modTab_granted]
  have hacc : e.acc = s.acc := by rw [he]; rfl
  have htab : ∀ j, e.tab j = if j = t then { s.tab t with tenure := none, left := 0 } else s.tab j := fun j => by
    rw [he, State.modTab_tab]
  have hrest : e = { s with tabs := e.tabs } := by rw [he]; rfl
  have hgb := State.grantBid_acc (a := a) ((State.endTenure_plain hten).trans he.symm)
  refine ⟨_, hv.trans hgb, ?_, ?_, fun j hj => ?_, ?_⟩
  · refine (congrArg (List.map fun y => if y.aid = a.aid then e.granted a y else y) hacc).trans
      (List.map_congr_left fun b hb => ?_)
    split
    · next h => rw [hid b hb h, hgr]
    · rfl
  · refine (State.tab_of_tabs (v := e.modTab t (Tab.tenured a.aid a.beats)) rfl t).trans ((State.modTab_tab e t t _).trans ((if_pos rfl).trans ?_))
    rw [htab, if_pos rfl]
    rfl
  · refine (State.tab_of_tabs (v := e.modTab t (Tab.tenured a.aid a.beats)) rfl j).trans ((State.modTab_tab e t j _).trans ((if_neg hj).trans ?_))
    rw [htab, if_neg hj]
  · unfold State.modTab State.setTab State.modAcc
    exact congrArg (fun w : State => { w with
      acc := e.acc.map fun (y : Access) => if y.aid = a.aid then e.granted a y else y
      tabs := e.tabs.put Tab.reset t { e.tab t with tenure := some (.acc a.aid), left := a.beats }
      free := e.free + 1 }) hrest

/-- The winner's counts, and the losers' (R271, R272). -/
theorem Tab.decided_get (y : Tab) {p : Nat} {bg : Bool} {l : List Nat} (hl : l.Nodup) (hp : p ∉ l) (o k : Nat) :
    (y.decided p bg l o k).loss.get 0 p = 0 ∧ (y.decided p bg l o k).backoff.get false p = false ∧
    (∀ q, q ≠ p → (y.decided p bg l o k).loss.get 0 q = if q ∈ l then min 8 (y.loss.get 0 q + 1) else y.loss.get 0 q) ∧
    (∀ q ∈ l, (y.decided p bg l o k).backoff.get false q = true) ∧ (bg = true → (y.decided p bg l o k).lastBg = p) ∧
    (y.decided p bg l o k).tenure = y.tenure ∧ (y.decided p bg l o k).left = y.left ∧
    (y.decided p bg l o k).live = y.live := by
  have hg := (y.won p bg).lose_get hl
  have hrest := (hg p).2.2
  have hloss : ∀ q, (y.won p bg).loss.get 0 q = if q = p then 0 else y.loss.get 0 q := fun q => by
    exact SMap.get_put y.loss 0 0 p q
  have hback : ∀ q, (y.won p bg).backoff.get false q = if q = p then false else y.backoff.get false q := fun q => by
    exact SMap.get_put y.backoff false false p q
  refine ⟨?_, ?_, fun q hq => ?_, fun q hq => ?_, fun hb => ?_, ?_, ?_, ?_⟩
  · exact (hg p).1.trans ((if_neg hp).trans ((hloss p).trans (if_pos rfl)))
  · exact (hg p).2.1.trans ((if_neg hp).trans ((hback p).trans (if_pos rfl)))
  · refine (hg q).1.trans ?_
    rw [hloss, if_neg hq]
  · exact (hg q).2.1.trans (if_pos hq)
  · exact (congrArg Tab.lastBg hrest).trans (if_pos hb)
  · exact (congrArg Tab.tenure hrest).trans rfl
  · exact (congrArg Tab.left hrest).trans rfl
  · exact (congrArg Tab.live hrest).trans rfl

end Sys2Proof.Machine

namespace Sys2Proof
open Machine

/-- Settles O28: the decision names the partition under PTR or the one of the highest priority; the
table that the grant leaves then takes the counts of the winner and of the losers. -/
theorem arbiterDecision : Obligations.arbiter_decision := by
  unfold Obligations.arbiter_decision
  intro s t a hc hp x k plain granted hid hpend hmgmt
  have hlt : ¬ isPeerTab t.val = true := by
    have := t.isLt
    unfold isPeerTab
    rw [Bool.or_eq_true, beq_iff_eq, beq_iff_eq]
    omega
  have hpl : ∀ (p : Nat) (bg : Bool), s.decide' t k false = (if bg then .background p else .owned p) →
      s.turnBid t p = some (.acc a) →
      ∃ u, exec (.arbDecision ⟨t, by omega⟩ false) s = .next u ∧ (u.tab t).ptr = BitVec.ofNat 8 (k + 1)
        ∧ (u.tab t).loss.get 0 p = 0 ∧ (u.tab t).backoff.get false p = false
        ∧ (bg = true → (u.tab t).lastBg = p)
        ∧ (plain → granted u ∧
          (∀ q, q ≠ p → (u.tab t).loss.get 0 q
            = if q ∈ s.losers t p bg then min 8 (x.loss.get 0 q + 1) else x.loss.get 0 q)
          ∧ ∀ q ∈ s.losers t p bg, (u.tab t).backoff.get false q = true) := fun p bg hd hb => by
    obtain ⟨htab, hoth, hrest⟩ := State.arbOp_won hc hp hd hb hpend
    have hpl : p ∉ s.losers t p bg := fun h => (State.mem_losers.mp h).2.2 rfl
    obtain ⟨h1, h2, h3, h4, h5, h6, h7, h8⟩ := ((s.grant t (.acc a)).tab t).decided_get
      (s.losers_nodup t p bg) hpl (((Bid.acc a).who.map (·.2)).getD 0) k
    refine ⟨_, rfl, ?_, ?_, ?_, fun h => ?_, fun hplain => ?_⟩
    · exact congrArg Tab.ptr htab
    · exact (congrArg (fun y : Tab => y.loss.get 0 p) htab).trans h1
    · exact (congrArg (fun y : Tab => y.backoff.get false p) htab).trans h2
    · exact (congrArg Tab.lastBg htab).trans (h5 h)
    · obtain ⟨v, hv, hacc, hvt, hvo, hvr⟩ := State.grant_plain hplain.1 hplain.2 hid
      rw [hv] at htab hoth hrest h3 h4 h6 h7 h8
      rw [hvt] at htab h3 h4 h6 h7 h8
      have hlive : ∀ {β} (f : Tab → β), f ((s.arbOp t false).tab t) = _ := fun f => congrArg f htab
      refine ⟨⟨⟨s.grantTrk a, a.rq == .mgmt || !s.ownTracker a.part a.port a.wr, State.grantTrk_mem, ?_⟩,
        (hlive Tab.tenure).trans h6, (hlive Tab.left).trans h7, (hlive Tab.live).trans h8,
        fun j hj => (hoth j hj).trans (hvo j hj), ?_⟩, fun q hq => (hlive fun y => y.loss.get 0 q).trans (h3 q hq),
        fun q hq => (hlive fun y => y.backoff.get false q).trans (h4 q hq)⟩
      · exact (congrArg State.acc hrest).trans hacc
      · refine hrest.trans ?_
        generalize s.arbOp t false = u at hrest ⊢
        rw [hvr] at hrest ⊢
        rw [hrest]
  refine ⟨fun h7 hbid hturn => ?_, fun p hown hpc hmax hturn => ?_⟩
  · obtain ⟨u, hu, h1, h2, h3, -, h5⟩ := hpl (x.own k) false (if_pos ⟨h7, hbid⟩) hturn
    refine ⟨u, hu, h1, h2, h3, fun hplain => ⟨(h5 hplain).1, fun q hq => ?_⟩⟩
    rw [(h5 hplain).2.1 q hq, if_neg fun h => absurd (State.mem_losers.mp h).1 (by decide)]
  · have hd : s.decide' t k false = .background p := by
      have hp8 : p < 8 := List.mem_range.mp (List.mem_filter.mp hpc).1
      unfold State.decide'
      dsimp only
      rw [if_neg (by
        rintro ⟨h7, hb⟩
        rcases hown with h | h
        · exact Nat.not_le.mpr h h7
        · exact absurd (hb.symm.trans h) (by decide)), if_neg (by
        unfold State.transitReady
        rw [Bool.and_eq_true]
        exact fun h => hlt h.1)]
      rw [show (s.tab t).rank (s.contenders t) = some p from Tab.rank_top hpc hp8 hmax]
    obtain ⟨u, hu, h1, h2, h3, h4, h5⟩ := hpl p true hd hturn
    refine ⟨u, hu, h1, h2, h3, h4 rfl, fun hplain => ⟨(h5 hplain).1, fun q hq hne => ?_⟩⟩
    have hl := State.mem_losers.mpr ⟨(rfl : true = true), hq, hne⟩
    exact ⟨((h5 hplain).2.1 q hne).trans (if_pos hl), (h5 hplain).2.2 q hl⟩

end Sys2Proof
end

section
/-! O42: a port's reset, and its release. -/

namespace Sys2Proof.Machine

/-- With no reset under way nothing of a reset ends. -/
theorem State.resetChecks_idle {s : State} (h : ∀ p, p < 8 → (s.rstE p).busy = false) : s.resetChecks = s :=
  List.foldlRecOn (motive := fun t : State => t = s) _ _ rfl fun t ht p hp => by
    subst ht
    exact if_neg (by rw [h p (List.mem_range.mp hp)]; exact Bool.false_ne_true)

/-- In RUN nothing of an attempt to start is checked. -/
theorem State.bootCheck_run {s : State} (h : s.boot.state = 13) : s.bootCheck = s :=
  if_pos (.inr (by rw [h]; decide))

theorem State.countQids_busy (s : State) (p : Nat) : (s.countQids.rstE p).busy = (s.rstE p).busy :=
  List.foldlRecOn (motive := fun t : State => (t.rstE p).busy = (s.rstE p).busy) _ _ rfl fun t h q _ => by
    rw [← h, State.modRstE_eq, State.setRstE_rstE]
    split
    · next hq => rw [hq]
    · rfl

/-- The reset of memory ports on which nothing is outstanding. -/
theorem State.memReset_free {s : State} {l : List Nat} (h : (s.acc.filter fun a => a.stage == .out && l.contains a.port) = []) :
    s.memReset l = ({ s with sink := s.sink.filter fun a => !l.contains a.port } : State).countQids := by
  unfold State.memReset
  generalize hw : ({ s with sink := s.sink.filter fun a => !l.contains a.port } : State).countQids = w
  have hacc : w.acc = s.acc := by rw [← hw, State.countQids_rest]
  dsimp only
  rw [hacc, h]
  rfl

theorem SMap.get_filter_out {α : Type} {m : SMap α} {d : α} {f : Nat × α → Bool} {k : Nat}
    (h : ∀ e, e.1 = k → f e = false) : SMap.get (m.filter f) d k = d :=
  SMap.get_default_of_notMem fun e he hk => absurd ((h e hk).symm.trans (List.mem_filter.mp he).2) (by decide)

theorem SMap.get_filter_in {α : Type} {m : SMap α} {d : α} {f : Nat × α → Bool} {k : Nat}
    (h : ∀ e, e.1 = k → f e = true) : SMap.get (m.filter f) d k = m.get d k := by
  induction m with
  | nil => rfl
  | cons e m ih =>
    by_cases hk : e.1 = k
    · rw [List.filter_cons, if_pos (h e hk)]
      exact (if_pos hk).trans (if_pos hk).symm
    · rw [show SMap.get (e :: m) d k = SMap.get m d k from if_neg hk, ← ih, List.filter_cons]
      split
      · exact if_neg hk
      · rfl

/-- The reset of STRM where no TRANSFER takes its source from it. -/
theorem State.strmReset_idle {s : State} (h : ∀ d, s.strmUser d = none) (l : List Nat) :
    ∃ t, l.foldl (fun st d => (st.modStrmP d fun q => { q with buf := [] }).strmCut d) s = t ∧
      t = { s with strm := t.strm } ∧
      ∀ d, t.strmP d = if d ∈ l then { s.strmP d with buf := [] } else s.strmP d := by
  induction l generalizing s with
  | nil => exact ⟨s, rfl, rfl, fun d => (if_neg List.not_mem_nil).symm⟩
  | cons a l ih =>
    obtain ⟨u, hu⟩ : ∃ u, u = s.modStrmP a fun q => { q with buf := [] } := ⟨_, rfl⟩
    have hcut : u.strmCut a = u := by
      have hnone : u.strmUser a = none := by rw [hu]; exact h a
      unfold State.strmCut
      rw [hnone]
    have hnone : ∀ d, u.strmUser d = none := fun d => by rw [hu]; exact h d
    obtain ⟨t, ht, hrest, hall⟩ := ih hnone
    refine ⟨t, ?_, hrest.trans (by rw [hu]; rfl), fun d => ?_⟩
    · rw [List.foldl_cons, ← hu, hcut, ht]
    · rw [hall d, hu]
      have hget : (s.modStrmP a fun q => { q with buf := [] }).strmP d =
          if d = a then { s.strmP a with buf := [] } else s.strmP d := State.setStrmP_strmP ..
      rw [hget]
      by_cases hd : d = a
      · subst hd
        rw [if_pos rfl, if_pos List.mem_cons_self]
        split <;> rfl
      · rw [if_neg hd]
        exact if_congr ((or_iff_right hd).symm.trans List.mem_cons.symm) rfl rfl

end Sys2Proof.Machine

namespace Sys2Proof
open Machine

/-- Settles O42: with no reset under way and the block in RUN nothing else is checked, so that the
port's own rules say all. -/
theorem portResets : Obligations.port_resets := by
  unfold Obligations.port_resets
  intro s hoff hrun hidle
  have hbusy : ∀ p, p < 8 → (s.rstE p).busy = false := fun p hp => hidle ⟨p, hp⟩
  have hassert : ∀ (p : RstPort) (t : State), s.pins.get p = false → s.portAssertOp p = t → t.boot = s.boot →
      (∀ q, q < 8 → (t.rstE q).busy = (s.rstE q).busy) → exec (.portResetAssert p) s = .next t :=
    fun p t _ ht hb hr => by
      have h1 : t.resetChecks = t := State.resetChecks_idle fun q hq => (hr q hq).trans (hbusy q hq)
      have h2 : t.bootCheck = t := State.bootCheck_run ((congrArg Boot.state hb).trans hrun)
      have hop : (s.portAssertOp p).resetChecks.bootCheck = t := by rw [ht, h1, h2]
      exact congrArg Host.Outcome.next hop
  have hopen : ∀ p : RstPort, s.pins.get p = false → ¬ (s.pins.get p || s.pwr.off) = true := fun p h => by
    rw [h, hoff]
    decide
  have hon : ¬ s.pwr.off = true := by rw [hoff]; decide
  have hrelease : ∀ (p : RstPort) (t : State), s.portReleaseOp p = t → exec (.portResetRelease p) s = .next t :=
    fun p t h => congrArg Host.Outcome.next h
  refine ⟨fun hp => ?_, fun hp hout => ?_, fun hp huser => ?_, hrelease .host _ (if_neg hon),
    hrelease .far0 _ (if_neg hon), hrelease .near _ (if_neg hon), ⟨_, hrelease .peer1 _ (if_neg hon), rfl, ?_, rfl, rfl⟩⟩
  · exact hassert .host _ hp (if_neg (hopen .host hp)) rfl fun _ _ => rfl
  · have hnil : (s.acc.filter fun a => a.stage == .out && [0].contains a.port) = [] :=
      List.filter_eq_nil_iff.mpr fun a ha h => by
        rw [Bool.and_eq_true, beq_iff_eq, List.contains_iff_mem, List.mem_singleton] at h
        exact hout a ha h.1 h.2
    have hmem : s.portAssertOp .far0 = ({ s with
        pins := { s.pins with far0 := true }, sink := s.sink.filter fun a => !([0].contains a.port) } : State).countQids := by
      refine (if_neg (hopen .far0 hp)).trans ?_
      exact State.memReset_free (s := { s with pins := { s.pins with far0 := true } }) hnil
    refine ⟨_, hassert .far0 _ hp hmem ?_ fun q _ => State.countQids_busy _ q, ?_⟩
    · rw [State.countQids_rest]
    · have hsink : (s.sink.filter fun a => !([0].contains a.port)) = s.sink.filter fun a => a.port != 0 :=
        List.filter_congr fun a _ => by
          rw [List.contains_cons, List.contains_nil, Bool.or_false]
          rfl
      rw [hsink]
      exact State.countQids_rest _
  · obtain ⟨t, ht, hrest, hall⟩ := State.strmReset_idle (s := { s with pins := { s.pins with strm := true } }) huser (List.range 4)
    refine ⟨t, hassert .strm t hp ((if_neg (hopen .strm hp)).trans ht) (by rw [hrest]) (fun q _ => by rw [hrest]; rfl),
      fun d hd => (hall d).trans (if_pos (List.mem_range.mpr hd)), hrest⟩
  · intro b hb
    exact ⟨SMap.get_filter_out fun e he => by simp; omega, SMap.get_filter_out fun e he => by simp; omega,
      SMap.get_filter_in fun e he => by simp; omega, SMap.get_filter_in fun e he => by simp; omega⟩

end Sys2Proof
end

section
/-! O16: Ecnos channels. -/

namespace Sys2Proof.Machine

theorem State.makeReady_seq {s : State} {sid : Nat} (h : s.CanRun sid) : (s.makeReady sid).seq = s.seq + 1 := by
  unfold State.makeReady
  rw [h.held, h.home, h.busy]
  rfl

/-- A stream without a home, of which no record is held, can run. -/
theorem State.CanRun.of_homeless {s : State} {sid : Nat} (hh : s.hasHeld sid = false) (hn : (s.strmAt sid).hen = false) :
    s.CanRun sid := by
  refine ⟨hh, ?_, ?_⟩
  · unfold State.homeOut
    rw [hn, Bool.false_and]
  · unfold State.homeBusy
    dsimp only
    rw [hn, Bool.false_and]

theorem State.modEcnCh_ecnCh (s : State) (k j : Nat) (g : Ecn → Ecn) :
    (s.modEcnCh k g).ecnCh j = if j = k then g (s.ecnCh k) else s.ecnCh j := s.setEcnCh_ecnCh k j _

/-- What START and ABORT leave of the other channels. -/
theorem State.modEcnCh_other {s : State} {k j : Nat} (h : j ≠ k) (g : Ecn → Ecn) :
    (s.modEcnCh k g).ecnCh j = s.ecnCh j := (s.modEcnCh_ecnCh k j g).trans (if_neg h)

theorem State.modEcnCh_same (s : State) (k : Nat) (g : Ecn → Ecn) : (s.modEcnCh k g).ecnCh k = g (s.ecnCh k) :=
  (s.modEcnCh_ecnCh k k g).trans (if_pos rfl)

/-- A START that is refused (R177, R366). -/
def State.ecnRefused (s : State) (k : Nat) (code : BitVec 8) : State :=
  s.modEcnCh k fun x => { x with cur := BitVec.ofNat 48 (x.desc.toNat * 32), err := true, fcode := code }

/-- The stream with which a chain starts (R177). -/
def State.ecnStrm (s : State) (p : Nat) : Strm :=
  { Strm.reset with ten := (s.part p).eten, tgen := s.genOf (s.part p).eten, part := BitVec.ofNat 3 p }

/-- A START that begins a chain, before its stream is READY. -/
def State.ecnBegun (s : State) (p k : Nat) : State :=
  (s.modEcnCh k fun x => { x with busy := true, next := BitVec.ofNat 48 (x.desc.toNat * 32) }).setStrmAt (1024 + k)
    (s.ecnStrm p)

theorem State.ecnStartOp_begun {s : State} {p n : Nat} (hb : (s.ecnCh (8 * p + n)).busy = false)
    (hen : (s.part p).ecnEn = true) (hp : (s.part p).en = true) (hg : s.granRet.get false 16 = false) :
    s.ecnStartOp p n = (s.ecnBegun p (8 * p + n)).makeReady (1024 + (8 * p + n)) := by
  unfold State.ecnStartOp
  dsimp only
  rw [if_neg (by rw [hb]; decide), if_neg (by
    rintro (h | h)
    · exact absurd (hen.symm.trans h) (by decide)
    · exact absurd (hp.symm.trans h) (by decide)), if_neg (by
    unfold State.retired
    rw [hg]
    decide)]
  rfl

/-- A START takes effect: the chain's stream is READY. -/
theorem State.ecnBegun_ready {s : State} {p k : Nat} (hh : s.hasHeld (1024 + k) = false) :
    ∃ u, (s.ecnBegun p k).makeReady (1024 + k) = u ∧
      u.ecnCh k = { s.ecnCh k with busy := true, next := BitVec.ofNat 48 ((s.ecnCh k).desc.toNat * 32) } ∧
      (∀ j, j ≠ k → u.ecnCh j = s.ecnCh j) ∧
      u.strmAt (1024 + k) = { s.ecnStrm p with st := .ready, readySeq := s.seq } ∧
      (∀ j, j ≠ 1024 + k → u.strmAt j = s.strmAt j) ∧
      u = { s with ecn := u.ecn, strms := u.strms, tens := u.tens, seq := s.seq + 1 } := by
  have hat : (s.ecnBegun p k).strmAt (1024 + k) = s.ecnStrm p := (State.setStrmAt_strmAt ..).trans (if_pos rfl)
  have hcan : (s.ecnBegun p k).CanRun (1024 + k) := .of_homeless hh (by rw [hat]; rfl)
  obtain ⟨v, hv⟩ : ∃ v, (s.ecnBegun p k).makeReady (1024 + k) = v := ⟨_, rfl⟩
  have hrest : v = { s.ecnBegun p k with strms := v.strms, tens := v.tens, seq := v.seq } :=
    hv ▸ ((s.ecnBegun p k).makeReady_woken (1024 + k)).rest
  have hseq : v.seq = s.seq + 1 := hv ▸ State.makeReady_seq hcan
  have hecn : v.ecn = (s.ecnBegun p k).ecn := (congrArg State.ecn hrest).trans rfl
  have hch : ∀ j, v.ecnCh j = (s.ecnBegun p k).ecnCh j := fun j => congrArg (fun l => SMap.get l Ecn.reset j) hecn
  refine ⟨v, hv, ?_, fun j hj => ?_, ?_, fun j hj => ?_, ?_⟩
  · exact (hch k).trans (State.modEcnCh_same s k fun x => { x with busy := true, next := BitVec.ofNat 48 (x.desc.toNat * 32) })
  · exact (hch j).trans (State.modEcnCh_other (s := s) hj fun x => { x with busy := true, next := BitVec.ofNat 48 (x.desc.toNat * 32) })
  · rw [← hv, hcan.makeReady, hat]
    rfl
  · rw [← hv, State.makeReady_other _ _ _ hj]
    exact (State.setStrmAt_strmAt ..).trans (if_neg hj)
  · rw [hseq] at hrest
    rw [hecn]
    exact hrest

/-- An ABORT of a chain that is on no channel (R177). -/
theorem State.ecnAbortOp_off {s : State} {p n : Nat} (hb : (s.ecnCh (8 * p + n)).busy = true)
    (hoff : ∀ h ∈ s.chans, h.2.act ≠ some (1024 + (8 * p + n))) :
    ∃ u, s.ecnAbortOp p n = u ∧ (∀ j, j ≠ 8 * p + n → u.ecnCh j = s.ecnCh j) ∧
      u.ecnCh (8 * p + n) = { s.ecnCh (8 * p + n) with busy := false, abort := false, done := true } ∧
      u.strmAt (1024 + (8 * p + n)) = Strm.reset ∧
      (∀ j, j ≠ 1024 + (8 * p + n) → u.strmAt j = s.strmAt j) ∧ u.acc = s.acc := by
  generalize hk : 8 * p + n = k at *
  obtain ⟨v, hv⟩ : ∃ v, v = (s.modEcnCh k fun e => { e with abort := true }).dropShadow (1024 + k) := ⟨_, rfl⟩
  obtain ⟨w, hw⟩ : ∃ w, w = (v.modEcnCh k fun e => { e with busy := false, abort := false, done := true }).setStrmAt (1024 + k)
    Strm.reset := ⟨_, rfl⟩
  have hop : s.ecnAbortOp p n = w.refreshActive (v.strmAt (1024 + k)).ten.toNat := by
    unfold State.ecnAbortOp
    dsimp only
    rw [hk, if_neg (by rw [hb]; decide), show ((s.modEcnCh k fun e => { e with abort := true }).chans.find? fun e =>
      e.2.act == some (1024 + k)) = none from List.find?_eq_none.mpr fun h hh he => hoff h hh (beq_iff_eq.mp he)]
    dsimp only
    rw [← hv, hw]
    unfold State.ecnEnd
    dsimp only
    rw [Nat.add_sub_cancel_left]
  have hrest := (w.refreshActive_woken (v.strmAt (1024 + k)).ten.toNat).rest
  have hat : ∀ j, (w.refreshActive (v.strmAt (1024 + k)).ten.toNat).strmAt j = w.strmAt j := fun j => w.refreshActive_strmAt _ j
  have hve : ∀ j, v.ecnCh j = if j = k then { s.ecnCh k with abort := true } else s.ecnCh j := fun j => by
    rw [hv]
    exact State.modEcnCh_ecnCh s k j fun e => { e with abort := true }
  have hwe : ∀ j, w.ecnCh j = if j = k then { v.ecnCh k with busy := false, abort := false, done := true } else v.ecnCh j :=
    fun j => by
      rw [hw]
      exact State.modEcnCh_ecnCh v k j fun e => { e with busy := false, abort := false, done := true }
  have hue : ∀ j, (w.refreshActive (v.strmAt (1024 + k)).ten.toNat).ecnCh j = w.ecnCh j := fun j =>
    (congrArg (fun t : State => t.ecnCh j) hrest).trans rfl
  have hws : ∀ j, w.strmAt j = if j = 1024 + k then Strm.reset else s.strmAt j := fun j => by
    rw [hw, State.setStrmAt_strmAt]
    exact if_congr Iff.rfl rfl (by rw [hv]; rfl)
  refine ⟨_, hop, fun j hj => ?_, ?_, ?_, fun j hj => ?_, ?_⟩
  · rw [hue, hwe, if_neg hj, hve, if_neg hj]
  · rw [hue, hwe, if_pos rfl, hve, if_pos rfl]
  · rw [hat, hws, if_pos rfl]
  · rw [hat, hws, if_neg hj]
  · have hwv : w.acc = v.acc := by rw [hw]; rfl
    have hvs : v.acc = s.acc := by rw [hv]; rfl
    exact (congrArg State.acc hrest).trans (hwv.trans hvs)

/-- A read of tile `k` of a chain that its channel holds at the memory ports. -/
structure Access.EcnRead (k : Nat) (b : Nat × Nat) (a : Access) : Prop where
  kind : a.kind = .ecnos k
  read : a.wr = false
  phys : a.phys = true
  stage : a.stage = .issue
  base : a.pa = b.1
  len : a.len = b.2

/-- The reads of a tile are issued, and nothing else changes (R40, R44). -/
theorem State.ecnReads (m c sid k p : Nat) (size : Nat × Nat → Nat) (l : List (Nat × Nat)) (s : State) :
    ∃ u, l.foldl (fun (st : State) b => st.pushPhys { st.chanAcc m c sid (.ecnos k) false b.1 b.2 with size := size b }
        (st.part p).ecnAttr.toNat) s = u ∧
      u = { s with acc := u.acc, nextAid := u.nextAid } ∧ (∀ a ∈ s.acc, a ∈ u.acc) ∧
      ∀ b ∈ l, ∃ a ∈ u.acc, a.EcnRead k b := by
  induction l generalizing s with
  | nil => exact ⟨s, rfl, rfl, fun _ h => h, fun _ h => absurd h List.not_mem_nil⟩
  | cons b l ih =>
    obtain ⟨x, hx⟩ : ∃ x, x = { s.atPa { s.chanAcc m c sid (.ecnos k) false b.1 b.2 with size := size b } b.1
      (s.part p).ecnAttr.toNat with phys := true, prot := 0b011 } := ⟨_, rfl⟩
    obtain ⟨u, hu, hrest, hold, hall⟩ := ih (s.pushAcc x)
    have hmem : ({ x with aid := s.nextAid } : Access) ∈ (s.pushAcc x).acc := List.mem_append_right _ List.mem_cons_self
    have hread : ({ x with aid := s.nextAid } : Access).EcnRead k b := by
      rw [hx]
      exact ⟨rfl, rfl, rfl, rfl, rfl, rfl⟩
    refine ⟨u, ?_, hrest.trans rfl, fun a ha => hold a (List.mem_append_left _ ha), fun q hq => ?_⟩
    · rw [List.foldl_cons, ← hu, hx]
      rfl
    · rcases List.mem_cons.mp hq with rfl | hq
      · exact ⟨_, hold _ hmem, hread⟩
      · exact hall q hq

theorem breach_none {r a : Bool} (h : breach r a = none) : r = false ∧ a = false := by
  revert h
  cases r <;> cases a <;> decide

/-- A fixed source of a descriptor that passes its checks has room for one beat of its width (R41). -/
theorem State.ecnCheck_width {s : State} {p cur : Nat} {d : BitVec 256} (h : s.ecnCheck p d cur = none)
    (hf : eSinc d = false) : eFw d ≤ 6 ∧ 2 ^ eFw d ∣ eLen d := by
  unfold State.ecnCheck at h
  dsimp only at h
  split at h
  · exact absurd h (by simp)
  · next hb =>
    obtain ⟨hr, ha⟩ := breach_none hb
    rw [hf, if_pos (by rfl)] at ha
    simp only [Bool.or_eq_false_iff, beq_eq_false_iff_ne] at hr
    have h8 : eFw d < 8 := Nat.mod_lt _ (by decide)
    exact ⟨by omega, Nat.dvd_of_mod_eq_zero (bne_eq_false_iff_eq.mp (Bool.or_eq_false_iff.mp ha).2)⟩
/-- The first tile of a chain's descriptor that moves bytes: its reads are issued (R40, R44). -/
theorem State.ecnTile_first {s : State} {m c n : Nat} {d : BitVec 256} (hd : (s.ecnCh n).d = d) (hlen : 0 < eLen d) :
    ∃ t, s.ecnTile m c (1024 + n) 0 = t ∧ t = { s with chans := t.chans, acc := t.acc, nextAid := t.nextAid } ∧
      (t.ch m c).ph = .ecnRun ∧ (t.ch m c).tile = 0 ∧
      ∀ b ∈ ecnSpans (eSinc d) (eFw d) (eSrc d) 0 (min 4096 (eLen d)), ∃ a ∈ t.acc, a.EcnRead 0 b := by
  obtain ⟨w, hw⟩ : ∃ w, w = s.modCh m c fun h =>
    { h with ph := .ecnRun, tile := 0, got := [], slot := none, bad := false } := ⟨_, rfl⟩
  obtain ⟨t, ht, hrest, -, hall⟩ := State.ecnReads m c (1024 + n) 0 (n / 8)
    (fun b => if eSinc d then 64 else b.2) (ecnSpans (eSinc d) (eFw d) (eSrc d) 0 (min 4096 (eLen d))) w
  have htiles : ¬ eTiles d ≤ 0 := by
    unfold eTiles ceilDiv
    rw [if_neg (by decide)]
    omega
  have hop : s.ecnTile m c (1024 + n) 0 = t := by
    unfold State.ecnTile
    dsimp only
    rw [Nat.add_sub_cancel_left, hd, if_neg htiles, ← ht, hw]
    rfl
  have hch : t.ch m c = { s.ch m c with ph := .ecnRun, tile := 0, got := [], slot := none, bad := false } :=
    (congrArg (fun u : State => u.ch m c) hrest).trans
      ((congrArg (fun u : State => u.ch m c) hw).trans ((State.setChan_chan ..).trans (if_pos rfl)))
  have hws : w = { s with chans := w.chans } := by rw [hw]; rfl
  exact ⟨t, hop, by rw [hrest, hws], by rw [hch], by rw [hch], hall⟩

/-- A descriptor that arrives with OKAY and passes its checks (R43, R44). -/
theorem State.ecnDescriptorOp_passes {s : State} {m c k : Nat} {data : List Byte} {a : Access} (hk : k < 64)
    (hact : (s.ch m c).act = some (1024 + k)) (hph : (s.ch m c).ph = .ecnFetch)
    (ha : (s.acc.find? fun b => ofChan m c b && isEcnAcc b.kind && b.stage == .out) = some a)
    (hc : s.ecnCheck (k / 8) (BitVec.ofNat 256 (leNat (data.take 32))) a.pa = none) :
    s.ecnDescriptorOp m c data .okay = ((s.delAcc a.aid).modEcnCh k fun e =>
      { e with d := BitVec.ofNat 256 (leNat (data.take 32)) }).ecnTile m c (1024 + k) 0 := by
  have hecn : isEcn (1024 + k) = true := decide_eq_true ⟨by omega, by omega⟩
  unfold State.ecnDescriptorOp
  dsimp only
  rw [hact]
  dsimp only
  rw [ha]
  dsimp only
  rw [if_neg (by
    rintro (h | h)
    · exact h hph
    · exact absurd (hecn.symm.trans h) (by decide)), if_neg (by decide), Nat.add_sub_cancel_left,
    show ((s.delAcc a.aid).modEcnCh k fun e => { e with d := BitVec.ofNat 256 (leNat (data.take 32)) }).ecnCheck (k / 8)
      (BitVec.ofNat 256 (leNat (data.take 32))) a.pa = none from hc]

end Sys2Proof.Machine

namespace Sys2Proof
open Machine

/-- Settles O16: START and ABORT by their guards; a descriptor that passes starts its first tile. -/
theorem ecnosChannels : Obligations.ecnos_channels := by
  unfold Obligations.ecnos_channels
  intro s
  refine ⟨?_, fun m c k data a hk hact hph ha => ?_⟩
  · intro hs p n k e x others
    have hstart : exec (.ecnosStart p n) s = .next (s.reached.ecnStartOp p n) :=
      congrArg Host.Outcome.next (s.hostWrite_eq hs _ _)
    have habort : exec (.ecnosAbort p n) s = .next (s.reached.ecnAbortOp p n) :=
      congrArg Host.Outcome.next (s.hostWrite_eq hs _ _)
    have hidle : e.busy = false → ¬ (s.reached.ecnCh k).busy = true := fun h h' => absurd (h.symm.trans h') (by decide)
    refine ⟨fun hb hen => ?_, fun hb hen hp hg => ?_, fun hb hen hp hg hh => ?_, fun hb => ?_, fun hb => ?_, fun hb hoff => ?_⟩
    · have hop : s.reached.ecnStartOp p n = s.reached.ecnRefused k 0x16 :=
        (if_neg (hidle hb)).trans (if_pos (.inl hen))
      exact ⟨_, hstart.trans (congrArg Host.Outcome.next hop), fun j hj => State.modEcnCh_other hj _, rfl,
        State.modEcnCh_same s.reached k _⟩
    · have hop : s.reached.ecnStartOp p n = s.reached.ecnRefused k 0x48 :=
        (if_neg (hidle hb)).trans ((if_neg (by
          rintro (h | h)
          · exact absurd (hen.symm.trans h) (by decide)
          · exact absurd (hp.symm.trans h) (by decide))).trans (if_pos hg))
      exact ⟨_, hstart.trans (congrArg Host.Outcome.next hop), fun j hj => State.modEcnCh_other hj _, rfl,
        State.modEcnCh_same s.reached k _⟩
    · obtain ⟨u, hu, hk, hother, hstrm, hstrms, hrest⟩ := State.ecnBegun_ready (s := s.reached) (p := p) (k := k) hh
      exact ⟨u, hstart.trans (congrArg Host.Outcome.next ((State.ecnStartOp_begun (s := s.reached) hb hen hp hg).trans hu)),
        hother, hk, hstrm, hstrms, hrest⟩
    · exact hstart.trans (congrArg Host.Outcome.next (if_pos hb))
    · exact habort.trans (congrArg Host.Outcome.next (if_pos hb))
    · obtain ⟨u, hu, hother, hk, hstrm, hstrms, hacc⟩ := State.ecnAbortOp_off (s := s.reached) (p := p) (n := n) hb hoff
      exact ⟨u, habort.trans (congrArg Host.Outcome.next hu), hother, hk, hstrm, hstrms, hacc⟩
  · intro d hc hlen
    obtain ⟨v, hv⟩ : ∃ v, v = (s.delAcc a.aid).modEcnCh k fun e => { e with d := d } := ⟨_, rfl⟩
    have hve : ∀ j, v.ecnCh j = if j = k then { s.ecnCh k with d := d } else s.ecnCh j := fun j => by
      rw [hv]
      exact State.modEcnCh_ecnCh (s.delAcc a.aid) k j fun e => { e with d := d }
    obtain ⟨t, ht, hrest, hph', htile, hall⟩ := State.ecnTile_first (s := v) (m := m) (c := c) (n := k) (d := d)
      (by rw [hve, if_pos rfl]) hlen
    have hecn : ∀ j, t.ecnCh j = v.ecnCh j := fun j => (congrArg (fun u : State => u.ecnCh j) hrest).trans rfl
    have hop : s.ecnDescriptorOp m c data .okay = t :=
      (State.ecnDescriptorOp_passes hk hact hph ha hc).trans ((congrArg (fun u => State.ecnTile u m c (1024 + k) 0) hv.symm).trans ht)
    refine ⟨t, congrArg Host.Outcome.next hop, by rw [hecn, hve, if_pos rfl], fun j hj => by rw [hecn, hve, if_neg hj],
      hph', htile, fun hinc i hi => ?_, fun hinc => ?_, ?_⟩
    · rw [hinc] at hall
      have hin : eSrc d + i ∈ (List.range (min 4096 (eLen d))).map fun i => eSrc d + 0 + i :=
        List.mem_map.mpr ⟨i, List.mem_range.mpr hi, by omega⟩
      obtain ⟨b, hb, hlo, hhi⟩ := burstsOf_covers (beat := 64) (mx := 32) (by decide) hin
      obtain ⟨r, hr, h⟩ := hall b hb
      exact ⟨r, hr, h.kind, h.read, h.phys, h.stage, by rw [h.base]; exact hlo, by rw [h.base, h.len]; exact hhi⟩
    · rw [hinc] at hall
      obtain ⟨h6, hdvd⟩ := State.ecnCheck_width hc hinc
      have hw : 2 ^ eFw d ≤ min 4096 (eLen d) :=
        le_min ((Nat.pow_le_pow_right (by decide) h6).trans (by decide)) (Nat.le_of_dvd hlen hdvd)
      obtain ⟨r, hr, h⟩ := hall (eSrc d, 2 ^ eFw d)
        (List.mem_replicate.mpr ⟨(Nat.div_pos hw (Nat.two_pow_pos _)).ne', rfl⟩)
      exact ⟨r, hr, h.kind, h.read, h.phys, h.stage, h.base, h.len⟩
    · have hvs : v = { s with ecn := v.ecn, acc := v.acc } := by rw [hv]; rfl
      rw [hrest, hvs]

end Sys2Proof
end

section
/-! O13: the responses of a tile's writes, of a read-back and of a flag write. -/

namespace Sys2Proof.Machine

/-- A command whose channel has a tile's write outstanding settles nothing. -/
theorem State.settle_writes {s : State} {m c sid : Nat} (ha : (s.ch m c).act = some sid) (hs : (s.ch m c).stop = none)
    (hb : (s.ch m c).abort = false) (hw : s.writesOut m c = true) : s.settle m c = s := by
  unfold State.settle
  dsimp only
  rw [ha, hs, hb, hw]
  dsimp only
  rw [if_neg Bool.false_ne_true]
  cases (s.strmAt sid).cmd with
  | none => rfl
  | some k => exact if_neg fun ⟨_, _, _, h, _⟩ => absurd h (by decide)

theorem State.writesOut_acc {s : State} {m c : Nat} {b : Access} {n : Nat} (hb : b ∈ s.acc) (hrq : b.rq = .mover m)
    (hch : b.ch = c) (hwr : b.wr = true) (hk : b.kind = .dest n) (hd : b.drain = false) : s.writesOut m c = true := by
  unfold State.writesOut
  have : (s.acc.any fun a => a.rq == .mover m && a.ch == c && a.wr && a.kind != .glacWrite
      && (if isSpillWrite a.kind then inFlight a else !a.drain)) = true :=
    List.any_eq_true.mpr ⟨b, hb, by simp [hrq, hch, hwr, hk, hd, isSpillWrite]⟩
  rw [this, Bool.true_or]

/-- A command's enabled bytes of tile `n` that have been written. -/
def CmdCtx.landed (k : CmdCtx) (n cnt : Nat) : CmdCtx := { k with ok := k.ok.ins n ((k.ok.find n).getD 0 + cnt) }

theorem CmdCtx.landed_ok (k : CmdCtx) (n cnt j : Nat) :
    (k.landed n cnt).ok.get 0 j = k.ok.get 0 j + if j = n then cnt else 0 := by
  unfold CmdCtx.landed
  rw [SMap.get_ins, SMap.find_getD]
  split
  · next h => rw [h]
  · rfl

theorem State.modCmd_strmAt {s : State} {sid : Nat} {k : CmdCtx} (h : (s.strmAt sid).cmd = some k) (f : CmdCtx → CmdCtx)
    (j : Nat) : (s.modCmd sid f).strmAt j = if j = sid then { s.strmAt sid with cmd := some (f k) } else s.strmAt j := by
  unfold State.modCmd
  rw [State.modStrmAt_eq, State.setStrmAt_strmAt, h]
  rfl

end Sys2Proof.Machine

namespace Sys2Proof
open Machine

/-- Settles O13: a tile's write counts, and what is still outstanding keeps the command; a read-back's
response and a flag write's complete it. -/
theorem writeResponses : Obligations.write_responses := by
  unfold Obligations.write_responses
  intro s m a k hfind hrq hout hdrain hact hcmd hch left
  have hout' : ∀ p : Prop, p = False → ¬ (a.stage ≠ .out ∨ p) := fun p hp h => h.elim (fun h => h hout) (fun h => hp.mp h)
  refine ⟨fun b n hidle hk hwr hstop hab hb hbrq hbch hbwr hbk hbd => ?_, fun hk => ?_, fun hk hsop hsk => ?_⟩
  · obtain ⟨u, hu⟩ : ∃ u, u = (s.delAcc a.aid).modCmd a.sid fun k => k.landed n (a.en.filter id).length := ⟨_, rfl⟩
    have hat : ∀ j, u.strmAt j = if j = a.sid then { s.strmAt a.sid with cmd := some (k.landed n (a.en.filter id).length) }
        else s.strmAt j := fun j => by
      rw [hu]
      exact State.modCmd_strmAt (s := s.delAcc a.aid) hcmd _ j
    have hacc : u.acc = left := by rw [hu]; rfl
    have huch : u.ch m a.ch = s.ch m a.ch := by rw [hu]; rfl
    have hrest : u = { s with strms := u.strms, acc := u.acc } := by rw [hu]; rfl
    have hset : u.settle m a.ch = u := State.settle_writes (by rw [huch, hact]) (by rw [huch, hstop]) (by rw [huch, hab])
      (State.writesOut_acc (by rw [hacc]; exact hb) hbrq hbch hbwr hbk hbd)
    have hop : s.writeRespOp a.aid .okay = u := by
      unfold State.writeRespOp
      rw [hfind]
      dsimp only
      rw [if_neg (by
        rintro (h | h)
        · exact h hout
        · exact absurd (hwr.symm.trans h) (by decide)), hrq, hk]
      dsimp only
      rw [if_neg (by rw [hdrain]; decide), if_pos (by rfl), if_pos (by rw [hact]; simp [respOk])]
      refine Eq.trans ?_ hset
      rw [hu]
      rfl
    have hrst : u.resetChecks = u := State.resetChecks_idle fun p hp => by
      rw [hrest]
      exact hidle ⟨p, hp⟩
    refine ⟨u, k.landed n (a.en.filter id).length, ?_, by rw [hat, if_pos rfl], rfl, k.landed_ok n _,
      fun j hj => by rw [hat, if_neg hj], hacc, hrest⟩
    have hall : (s.writeRespOp a.aid .okay).resetChecks = u := by rw [hop, hrst]
    exact congrArg Host.Outcome.next hall
  · have hop : s.readBackOp a.aid .okay = (s.delAcc a.aid).cmdDone m a.ch a.sid := by
      unfold State.readBackOp
      rw [hfind]
      dsimp only
      rw [hrq]
      dsimp only
      rw [if_neg (by
        rintro (h | h)
        · exact h hout
        · exact h hk), if_neg (by rw [hdrain]; decide), if_pos (by rfl)]
    exact ⟨_, congrArg Host.Outcome.next hop, State.cmdDone_done hact hcmd, State.cmdDone_others _ _ _ _,
      by rw [State.cmdDone_rest]; rfl, by rw [State.cmdDone_rest]; rfl⟩
  · obtain ⟨u, hu⟩ : ∃ u, u = (s.delAcc a.aid).modCmd a.sid fun y => { y with sigDone := true } := ⟨_, rfl⟩
    have hat : ∀ j, u.strmAt j = if j = a.sid then { s.strmAt a.sid with cmd := some { k with sigDone := true } }
        else s.strmAt j := fun j => by
      rw [hu]
      exact State.modCmd_strmAt (s := s.delAcc a.aid) hcmd _ j
    have hop : s.flagOp a.aid .okay = u.cmdDone m a.ch a.sid := by
      have href : (s.delAcc a.aid).configRefused ((s.delAcc a.aid).strmAt a.sid) k.raw = false := by
        unfold State.configRefused
        dsimp only
        rw [hsop]
        rfl
      have hcfg : (s.delAcc a.aid).sigConfig a.sid k.raw = s.delAcc a.aid := if_neg (by unfold cSop; rw [hsop]; decide)
      have hsig : (s.delAcc a.aid).applySignal m a.ch a.sid k.raw = s.delAcc a.aid := if_pos hsk
      unfold State.flagOp
      rw [hfind]
      dsimp only
      rw [hrq]
      dsimp only
      rw [if_neg (by
        rintro (h | h)
        · exact h hout
        · exact h hk), if_neg (by rw [hdrain]; decide), if_pos (by rfl),
        show ((s.delAcc a.aid).strmAt a.sid).cmd = some k from hcmd]
      dsimp only
      unfold State.sigApply
      dsimp only
      rw [if_neg (by rw [href]; decide), hcfg, hsig, hu]
    obtain ⟨hso, hco⟩ := u.cmdDone_others m a.ch a.sid
    have hrest : u = { s with strms := u.strms, acc := left } := by rw [hu]; rfl
    refine ⟨_, congrArg Host.Outcome.next hop, State.cmdDone_done (by rw [hu]; exact hact) (by rw [hat, if_pos rfl]),
      ⟨fun j hj => (hso j hj).trans (by rw [hat, if_neg hj]), fun j hj => (hco j hj).trans (by rw [hu]; rfl)⟩, ?_, ?_⟩
    · rw [State.cmdDone_rest, hrest]
    · rw [State.cmdDone_rest, hrest]

end Sys2Proof
end

section
/-! O15: a record's write response. -/

namespace Sys2Proof.Machine

theorem State.modCq_cq (s : State) (c j : Nat) (f : Cq → Cq) :
    (s.modCq c f).cq j = if j = c then f (s.cq c) else s.cq j := s.setCq_cq c j _

theorem State.modSq_sq (s : State) (k j : Nat) (f : Sq → Sq) :
    (s.modSq k f).sq j = if j = k then f (s.sq k) else s.sq j := s.setSq_sq k j _

theorem State.modPart_part (s : State) (k j : Nat) (f : Part → Part) :
    (s.modPart k f).part j = if j = k then f (s.part k) else s.part j := s.setPart_part k j _

theorem State.queuesReady_woken (s : State) (l : List Nat) : s.Woken (s.queuesReady l) :=
  List.foldlRecOn (motive := fun t : State => s.Woken t) _ _ (.refl s) fun t h q _ => h.trans (t.queueReady_woken q)

theorem State.sendMsi_rest (s : State) (p n : Nat) :
    s.sendMsi p n = { s with acc := (s.sendMsi p n).acc, nextAid := (s.sendMsi p n).nextAid } ∧
      ∀ a ∈ s.acc, a ∈ (s.sendMsi p n).acc := ⟨rfl, fun _ h => List.mem_append_left _ h⟩

/-- The interrupt of a record: PEND of its completion queue is set (R217). -/
theorem State.cqFlag (s : State) (c : Nat) (irq : Bool) :
    ∃ t, (if irq then s.cqPending c else s) = t ∧
      (∀ j, t.cq j = if j = c then { s.cq c with pend := (s.cq c).pend || irq } else s.cq j) ∧
      (∀ j, t.sq j = s.sq j) ∧ ∀ a ∈ s.acc, a ∈ t.acc := by
  cases irq with
  | false =>
    refine ⟨s, rfl, fun j => ?_, fun _ => rfl, fun _ h => h⟩
    split
    · next h => rw [h, Bool.or_false]
    · rfl
  | true =>
    obtain ⟨u, hu⟩ : ∃ u, u = s.modCq c fun x => { x with pend := true } := ⟨_, rfl⟩
    have hcq : ∀ j, u.cq j = if j = c then { s.cq c with pend := (s.cq c).pend || true } else s.cq j := fun j => by
      rw [hu, State.modCq_cq, Bool.or_true]
    have hsq : ∀ j, u.sq j = s.sq j := fun j => by rw [hu]; rfl
    have hacc : u.acc = s.acc := by rw [hu]; rfl
    obtain ⟨hrest, hmem⟩ := u.sendMsi_rest (s.ten (s.cq c).ten.toNat).part.toNat c
    refine ⟨s.cqPending c, rfl, ?_⟩
    unfold State.cqPending
    dsimp only
    rw [← hu]
    split
    · exact ⟨hcq, hsq, fun a ha => hmem a (hacc ▸ ha)⟩
    · exact ⟨hcq, hsq, fun a ha => hacc ▸ ha⟩

/-- OUTST of a queue's command falls (R151). -/
theorem State.outstDec_sq (s : State) (r : CqRec) (j : Nat) : (s.outstDec r).sq j = if j = r.queue.toNat then
    { s.sq j with outst := (s.sq j).outst - if r.outst ∧ (s.sq j).outst ≠ 0 then 1 else 0 } else s.sq j := by
  unfold State.outstDec
  split
  · next hr =>
    rw [State.modSq_sq]
    split
    · next hj =>
      subst hj
      by_cases h0 : (s.sq r.queue.toNat).outst = 0
      · rw [if_pos h0, if_neg fun h => h.2 h0, h0]
        rfl
      · rw [if_neg h0, if_pos ⟨hr, h0⟩]
    · rfl
  · next hr =>
    split
    · rw [if_neg fun h => hr h.1]
      exact congrArg (fun n => { s.sq j with outst := n }) (BitVec.sub_zero (s.sq j).outst).symm
    · rfl

theorem State.outstDec_rest (s : State) (r : CqRec) : s.outstDec r = { s with sqs := (s.outstDec r).sqs } := by
  unfold State.outstDec
  split <;> rfl

/-- A queue whose oldest record has not landed does not advance (R163). -/
theorem State.cqAdvance_waits (s : State) (c : Nat) {l : List CqSlot} (h : ∀ g ∈ l, g.done = false) :
    s.cqAdvance c l = s.modCq c fun x => { x with given := l } := by
  cases l with
  | nil => rfl
  | cons g l => exact if_neg (by rw [h g List.mem_cons_self]; decide)

/-- The oldest slot given out has its record: TAIL passes it (R163, R217). -/
theorem State.cqAdvance_lands (s : State) (c : Nat) (g : CqSlot) {l : List CqSlot} (hg : g.done = true)
    (hl : ∀ h ∈ l, h.done = false) :
    let n := ((s.cq c).tail.toNat + 1) % 2 ^ (s.cq c).log2sz.toNat
    (∀ j, (s.cqAdvance c (g :: l)).cq j = if j = c then { s.cq c with
        tail := BitVec.ofNat 16 n, ph := if n = 0 then !(s.cq c).ph else (s.cq c).ph, given := l
        pend := (s.cq c).pend || g.item.irq } else s.cq j) ∧
      (∀ j, (s.cqAdvance c (g :: l)).sq j = (s.outstDec g.item).sq j) ∧
      ∀ a ∈ s.acc, a ∈ (s.cqAdvance c (g :: l)).acc := by
  intro n
  obtain ⟨u, hu⟩ : ∃ u, u = s.modCq c fun x =>
    let n := (x.tail.toNat + 1) % 2 ^ x.log2sz.toNat
    { x with tail := BitVec.ofNat 16 n, ph := if n = 0 then !x.ph else x.ph } := ⟨_, rfl⟩
  obtain ⟨w, hw, hwc, hws, hwa⟩ := (u.outstDec g.item).cqFlag c g.item.irq
  have hucq : ∀ j, (u.outstDec g.item).cq j = if j = c then { s.cq c with
      tail := BitVec.ofNat 16 n, ph := if n = 0 then !(s.cq c).ph else (s.cq c).ph } else s.cq j := fun j => by
    have hj : (u.outstDec g.item).cq j = u.cq j := by rw [State.outstDec_rest]; rfl
    rw [hj, hu, State.modCq_cq]
  have husq : ∀ j, (u.outstDec g.item).sq j = (s.outstDec g.item).sq j := fun j => by
    rw [State.outstDec_sq, State.outstDec_sq, hu]
    rfl
  have huacc : (u.outstDec g.item).acc = s.acc := by
    have hj : (u.outstDec g.item).acc = u.acc := by rw [State.outstDec_rest]
    rw [hj, hu]
    rfl
  have hadv : s.cqAdvance c (g :: l) = w.modCq c fun x => { x with given := l } := by
    rw [← State.cqAdvance_waits w c hl, ← hw, hu]
    exact if_pos hg
  rw [hadv]
  refine ⟨fun j => ?_, fun j => ?_, fun a ha => ?_⟩
  · rw [State.modCq_cq, hwc c, hwc j, hucq c, hucq j, if_pos rfl, if_pos rfl]
    split
    · rfl
    · rfl
  · exact (hws j).trans (husq j)
  · exact hwa a (by rw [huacc]; exact ha)

/-- A fault queue's record waits for nothing (R200). -/
theorem State.pumpFq_empty {s : State} {p : Nat} (h : (s.part p).fq.buf = []) : s.pumpFq p = s := by
  unfold State.pumpFq
  dsimp only
  rw [h]

/-- The fault queue's PEND (R217). -/
theorem State.fqPending_part (s : State) (p j : Nat) : (s.fqPending p).part j =
    if j = p then { s.part p with fq := { (s.part p).fq with pend := true } } else s.part j := by
  obtain ⟨u, hu⟩ : ∃ u, u = s.modPart p fun x => { x with fq := { x.fq with pend := true } } := ⟨_, rfl⟩
  have hpart : u.part j = if j = p then { s.part p with fq := { (s.part p).fq with pend := true } } else s.part j := by
    rw [hu, State.modPart_part]
  unfold State.fqPending
  dsimp only
  rw [← hu]
  split
  · exact hpart
  · exact hpart

end Sys2Proof.Machine

namespace Sys2Proof
open Machine

/-- Settles O15: the response moves the record's queue alone; an interrupt only adds its message. -/
theorem recordsWritten : Obligations.records_written := by
  unfold Obligations.records_written
  intro s a hfind hout hdrain
  refine ⟨fun c slot g l hk hgiv hslot hl => ?_, fun p hk hbuf => ?_⟩
  · intro q n sq
    obtain ⟨u, hu⟩ : ∃ u, u = (s.delAcc a.aid).modCq c fun q => { q with
      given := q.given.map fun g => if g.slot = slot then { g with done := true } else g } := ⟨_, rfl⟩
    have hucq : ∀ j, u.cq j = if j = c then { q with given := { g with done := true } :: l } else s.cq j := fun j => by
      rw [hu, State.modCq_cq]
      refine if_congr Iff.rfl ?_ rfl
      have hm : (q.given.map fun g => if g.slot = slot then { g with done := true } else g) = { g with done := true } :: l := by
        rw [show q.given = g :: l from hgiv, List.map_cons, if_pos hslot]
        refine congrArg _ ((List.map_congr_left fun h hh => if_neg (hl h hh).1).trans l.map_id')
      exact congrArg (fun l => { q with given := l }) hm
    obtain ⟨hcq, hsq, hacc⟩ := u.cqAdvance_lands c { g with done := true } rfl fun h hh => (hl h hh).2
    obtain ⟨v, hv⟩ : ∃ v, v = u.cqAdvance c ({ g with done := true } :: l) := ⟨_, rfl⟩
    rw [← hv] at hcq hsq hacc
    have hgu : (u.cq c).given = { g with done := true } :: l := by rw [hucq, if_pos rfl]
    have hop : s.cqWrittenOp a.aid .okay = v.queuesReady ((u.cq c).given.map fun g => g.item.queue.toNat) := by
      unfold State.cqWrittenOp
      rw [hfind]
      dsimp only
      rw [hk]
      dsimp only
      rw [if_neg (not_not_intro hout), if_neg (by rw [hdrain]; simp), if_pos (by rfl)]
      unfold State.recordLanded
      dsimp only
      rw [← hu, hgu, ← hv]
    have hrest := (v.queuesReady_woken ((u.cq c).given.map fun g => g.item.queue.toNat)).rest
    refine ⟨_, congrArg Host.Outcome.next hop, ?_, fun j hj => ?_, ?_, fun j hj => ?_, fun b hb hne => ?_⟩
    · rw [hrest]
      refine (hcq c).trans ?_
      rw [if_pos rfl, hucq, if_pos rfl]
    · rw [hrest]
      refine (hcq j).trans ?_
      rw [if_neg hj, hucq, if_neg hj]
    · rw [hrest]
      refine (hsq sq).trans ((u.outstDec_sq _ _).trans ((if_pos rfl).trans ?_))
      rw [hu]
      rfl
    · rw [hrest]
      refine (hsq j).trans ((u.outstDec_sq _ _).trans ((if_neg hj).trans ?_))
      rw [hu]
      rfl
    · rw [hrest]
      refine hacc b ?_
      rw [hu]
      exact List.mem_filter.mpr ⟨hb, decide_eq_true hne⟩
  · intro q n
    have hop : ∀ r, s.fqWrittenOp a.aid r = (s.delAcc a.aid).fqWritten p (respOk r) := fun r => by
      unfold State.fqWrittenOp State.fqAnswered
      rw [hfind]
      dsimp only
      rw [hk]
      dsimp only
      rw [if_neg (not_not_intro hout), if_neg (by rw [hdrain]; decide)]
    obtain ⟨u, hu⟩ : ∃ u, u = (s.delAcc a.aid).modPart p fun x => { x with fq := { x.fq with busy := false } } := ⟨_, rfl⟩
    have hup : ∀ j, u.part j = if j = p then { s.part p with fq := { q with busy := false } } else s.part j := fun j => by
      rw [hu, State.modPart_part]
      rfl
    refine ⟨?_, ?_⟩
    · obtain ⟨v, hv⟩ : ∃ v, v = (u.modPart p fun x => { x with fq := { x.fq with
        tail := BitVec.ofNat 16 n, ph := if n = 0 then !x.fq.ph else x.fq.ph } }).fqPending p := ⟨_, rfl⟩
      have hvp : ∀ j, v.part j = if j = p then { s.part p with fq := { q with
          tail := BitVec.ofNat 16 n, ph := if n = 0 then !q.ph else q.ph, busy := false, pend := true } } else s.part j :=
        fun j => by
          rw [hv, State.fqPending_part, State.modPart_part, if_pos rfl, State.modPart_part, hup p, hup j, if_pos rfl]
          split <;> rfl
      have hw : (s.delAcc a.aid).fqWritten p (respOk .okay) = v := by
        refine Eq.trans ?_ (State.pumpFq_empty (s := v) (p := p) (by rw [hvp, if_pos rfl]; exact hbuf))
        rw [hv, hu]
        rfl
      exact ⟨v, congrArg Host.Outcome.next ((hop .okay).trans hw), by rw [hvp, if_pos rfl], fun j hj => by rw [hvp, if_neg hj]⟩
    · obtain ⟨v, hv⟩ : ∃ v, v = u.fqLose p := ⟨_, rfl⟩
      have hvp : ∀ j, v.part j = if j = p then { s.part p with fq := { q with
          busy := false, lost := BitVec.ofNat 16 (min 0xFFFF (q.lost.toNat + 1)) } } else s.part j := fun j => by
        rw [hv]
        refine (State.modPart_part ..).trans ?_
        rw [hup p, hup j, if_pos rfl, ← satInc_eq]
        split <;> rfl
      have hw : (s.delAcc a.aid).fqWritten p (respOk .slverr) = v := by
        refine Eq.trans ?_ (State.pumpFq_empty (s := v) (p := p) (by rw [hvp, if_pos rfl]; exact hbuf))
        rw [hv, hu]
        rfl
      refine ⟨v, congrArg Host.Outcome.next ((hop .slverr).trans hw), by rw [hvp, if_pos rfl],
        fun j hj => by rw [hvp, if_neg hj], ?_⟩
      rw [hv, hu]
      rfl

end Sys2Proof
end

section
/-! O11: the reads of a page walk. -/

namespace Sys2Proof.Machine

theorem State.modXlU_xlU (s : State) (k j : Nat) (g : Xl → Xl) :
    (s.modXlU k g).xlU j = if j = k then g (s.xlU k) else s.xlU j := s.setXlU_xlU k j _

theorem State.modMover_mover (s : State) (k j : Nat) (g : Mover → Mover) :
    (s.modMover k g).mover j = if j = k then g (s.mover k) else s.mover j := s.setMover_mover k j _

theorem fld_eq_zero {v : BitVec 64} {lo w : Nat} (h : v.extractLsb' lo w = 0) : fld v.toNat lo w = 0 := by
  rw [fld_toNat, h]
  rfl

/-- A valid entry whose reserved bits are 0 and whose form fits its level has no fault (R183). -/
theorem entryFault_none {lvl : Nat} {e : BitVec 64} (hv : e.getLsbD 0 = true) (h6 : e.extractLsb' 6 6 = 0)
    (h48 : e.extractLsb' 48 16 = 0) (hform : e.getLsbD 1 = true ∧ lvl = 0 ∧ e.extractLsb' 4 2 ≠ 3 ∨
      e.getLsbD 1 = false ∧ lvl ≠ 0 ∧ e.extractLsb' 2 4 = 0) : entryFault lvl e = none := by
  have hattr : ∀ h : fld e.toNat 4 2 = 3, e.extractLsb' 4 2 = 3 := fun h =>
    BitVec.eq_of_toNat_eq (by rw [← fld_toNat, h]; rfl)
  unfold entryFault
  dsimp only
  rw [bit_toNat, bit_toNat, hv, if_neg (by decide), fld_eq_zero h6, fld_eq_zero h48]
  refine if_neg ?_
  rcases hform with ⟨hl, h0, ha⟩ | ⟨hl, h0, h2⟩
  · rw [hl, h0]
    rintro (h | h | h | h | h | h | h | h)
    · exact h rfl
    · exact h rfl
    · exact absurd h.1 (by decide)
    · exact absurd h.2 (by decide)
    · exact absurd h.1 (by decide)
    · exact ha (hattr h)
    · exact absurd h.2.1 (by decide)
    · exact absurd h.2.1 (by decide)
  · have h42 : fld e.toNat 4 2 ≠ 3 := by
      have := fld_eq_zero h2
      unfold fld at this ⊢
      omega
    rw [hl, fld_eq_zero h2]
    rintro (h | h | h | h | h | h | h | h)
    · exact h rfl
    · exact h rfl
    · exact absurd h.2 (by decide)
    · exact h0 h.1
    · exact h.2 rfl
    · exact h42 h
    · exact absurd h.1 (by decide)
    · exact absurd h.1 (by decide)

/-- No walk waits. -/
theorem State.pumpWalks_none {s : State} {p : Nat} (hw : (s.xlU p).walk = none) (hq : (s.xlU p).queue = []) :
    s.pumpWalks p = s.modXlU p fun x => { x with queue := [] } := by
  unfold State.pumpWalks
  rw [hw, hq]
  rfl

theorem State.findAcc_modAcc {s : State} {aid : Nat} {f : Access → Access} {b : Access} (h : s.findAcc aid = some b)
    (hf : ∀ x, (f x).aid = x.aid) : (s.modAcc aid f).findAcc aid = some (f b) := by
  have hb : b.aid = aid := beq_iff_eq.mp (List.find?_some (p := fun a : Access => a.aid == aid) h)
  unfold State.findAcc State.modAcc
  dsimp only
  rw [List.find?_map, show ((fun a : Access => a.aid == aid) ∘ fun a => if a.aid = aid then f a else a)
    = fun a : Access => a.aid == aid from funext fun a => by
      dsimp only [Function.comp]
      split
      · rw [hf]
      · rfl, show s.acc.find? (fun a : Access => a.aid == aid) = some b from h]
  exact congrArg some (if_pos hb)

theorem State.modAcc_aids {s : State} {aid : Nat} {f : Access → Access} (hf : ∀ x, (f x).aid = x.aid) :
    (s.modAcc aid f).acc.map (·.aid) = s.acc.map (·.aid) := by
  unfold State.modAcc
  dsimp only
  rw [List.map_map]
  refine List.map_congr_left fun a _ => ?_
  dsimp only [Function.comp]
  split
  · exact hf a
  · rfl

theorem State.findAcc_delAcc {s : State} {aid j : Nat} (h : j ≠ aid) : (s.delAcc aid).findAcc j = s.findAcc j := by
  unfold State.findAcc State.delAcc
  dsimp only
  rw [List.find?_filter]
  congr 1
  funext a
  by_cases hj : a.aid = j
  · simp [hj, h]
  · simp [hj]

/-- The read of a walk's entry (R182). -/
theorem State.walkRead_spec (s : State) (p : Nat) (w : Walk) :
    ∃ a, (s.walkRead p w).xlU p = { s.xlU p with walk := some w } ∧ (s.walkRead p w).acc = s.acc ++ [a] ∧
      a.kind = .walkRead ∧ a.wr = false ∧ a.len = 8 ∧
      a.pa = w.tbl.toNat * 4096 + 8 * vaIndex w.lvl.toNat w.req.va ∧
      s.walkRead p w = { s with acc := (s.walkRead p w).acc, nextAid := s.nextAid + 1, xl := (s.walkRead p w).xl } := by
  refine ⟨_, ?_, rfl, rfl, rfl, rfl, rfl, rfl⟩
  exact (State.modXlU_xlU s p p fun x => { x with walk := some w }).trans (if_pos rfl)

/-- A translation that a walk has found stands first in both TLBs (R183, R184). -/
theorem State.installWalk_spec (s : State) (p m : Nat) (w : Walk) (e : TlbE) :
    ∃ u, s.installWalk p w (some m) e = u ∧
      u.xlU p = { s.xlU p with
        l2 := useEntry 1024 e (s.xlU p).l2, wc := w.path.foldl (fun l q => useEntry 64 q l) (s.xlU p).wc } ∧
      (u.mover m).utlb = useEntry 64 e (s.mover m).utlb ∧ u = { s with xl := u.xl, movers := u.movers } := by
  obtain ⟨v, hv⟩ : ∃ v, v = s.modXlU p fun x => { x with
    l2 := useEntry 1024 e x.l2, wc := w.path.foldl (fun l q => useEntry 64 q l) x.wc } := ⟨_, rfl⟩
  refine ⟨v.modMover m fun x => { x with utlb := useEntry 64 e x.utlb }, by rw [hv]; rfl, ?_, ?_, by rw [hv]; rfl⟩
  · have hvx : (v.modMover m fun x => { x with utlb := useEntry 64 e x.utlb }).xlU p = v.xlU p := rfl
    rw [hvx, hv, State.modXlU_xlU, if_pos rfl]
  rw [State.modMover_mover, if_pos rfl, hv]
  rfl

theorem attrCache_attr (v : BitVec 2) :
    attrCache v.toNat = if v = 0 then 0x0 else if v = 1 then 0x3 else 0xF :=
  if_congr ⟨fun h => BitVec.eq_of_toNat_eq h, fun h => by rw [h]; rfl⟩ rfl
    (if_congr ⟨fun h => BitVec.eq_of_toNat_eq h, fun h => by rw [h]; rfl⟩ rfl rfl)

end Sys2Proof.Machine

namespace Sys2Proof
open Machine

/-- Settles O11: the entry has no fault, and no other walk waits behind it. -/
theorem pageWalks : Obligations.page_walks := by
  unfold Obligations.page_walks
  intro s p entry w a b m n hrun hw hq hdis hfind hb hne hrq hkind hva hwr hv h6 h48 page
  obtain ⟨idle, hidle⟩ : ∃ u, u = (s.delAcc a.aid).modXlU p.val fun x => { x with walk := none } := ⟨_, rfl⟩
  have haid : b.aid = w.req.aid := beq_iff_eq.mp (List.find?_some (p := fun q : Access => q.aid == w.req.aid) hb)
  have hb1 : (s.delAcc a.aid).findAcc w.req.aid = some b := by
    rw [State.findAcc_delAcc (haid ▸ hne), hb]
  have hixl : ∀ j, idle.xlU j = if j = p.val then { s.xlU p with walk := none } else s.xlU j := fun j => by
    rw [hidle, State.modXlU_xlU]
    rfl
  have hopen : ∀ t, s.walkOp p entry .okay false = t → t.boot = s.boot →
      exec (.walkReadResponse p entry .okay false) s = .next t := fun t h hbt => by
    have hop : (s.walkOp p entry .okay false).bootCheck = t := by
      rw [h, State.bootCheck_run (by rw [hbt]; exact hrun)]
    exact congrArg Host.Outcome.next hop
  refine ⟨fun hl0 hleaf hattr hperm => ?_, fun hl0 hleaf hres => ?_⟩
  · intro e
    obtain ⟨u, hu, hux, hum, hur⟩ := idle.installWalk_spec p m w e
    have he : leafEntry w.req 0 entry = e := by
      have hppn : fld entry.toNat 12 36 * 4096 / pageSize 0 = page := by
        rw [fld_toNat]
        exact Nat.mul_div_cancel _ (by decide)
      have hat : BitVec.ofNat 2 (fld entry.toNat 4 2) = entry.extractLsb' 4 2 := ofNat_fld ..
      unfold leafEntry
      rw [hppn, hat, hva]
      rfl
    have hhit : permRes (leafEntry w.req 0 entry) w.req.wr = .hit e := by
      rw [he]
      refine if_pos ?_
      cases hw' : w.req.wr with
      | true => rw [hw'] at hperm; exact hperm
      | false => rw [hw'] at hperm; exact hperm
    obtain ⟨v, hvd⟩ : ∃ v, v = u.modAcc b.aid fun x => u.atPa x (e.pa b.va) e.attr.toNat := ⟨_, rfl⟩
    rw [hixl, if_pos rfl] at hux
    have hua : u.acc = s.acc.filter fun q => q.aid ≠ a.aid := by rw [hur, hidle]; rfl
    have hum' : (u.mover m).utlb = useEntry 64 e (s.mover m).utlb := by rw [hum, hidle]; rfl
    have hus : u = { s with acc := u.acc, xl := u.xl, movers := u.movers } := by rw [hur, hidle]; rfl
    have hvx : ∀ j, v.xlU j = u.xlU j := fun j => by rw [hvd]; rfl
    have hpump : v.pumpWalks p = v.modXlU p fun x => { x with queue := [] } :=
      State.pumpWalks_none (by rw [hvx, hux]) (by rw [hvx, hux]; exact hq)
    have hop : s.walkOp p entry .okay false = v.modXlU p fun x => { x with queue := [] } := by
      rw [← hpump]
      unfold State.walkOp
      rw [hw, hfind]
      dsimp only
      rw [hb1]
      dsimp only
      rw [if_neg (by decide), if_neg (by decide), hl0, show entryFault (0 : BitVec 2).toNat entry = none from
        entryFault_none hv h6 h48 (.inl ⟨hleaf, rfl, hattr⟩)]
      dsimp only
      rw [if_pos (by rw [bit_toNat]; exact hleaf), if_neg (by rw [hdis]; decide), ← hidle,
        show permRes (leafEntry w.req (0 : BitVec 2).toNat entry) w.req.wr = .hit e from hhit]
      dsimp only
      rw [show leafEntry w.req (0 : BitVec 2).toNat entry = e from he, hrq, show rqMover (.mover m) = some m from rfl, hu]
      unfold State.translated
      rw [hkind, hrq]
      dsimp only
      rw [← hvd]
    have hxt : ∀ g : Xl → Xl, (v.modXlU p g).xlU p = g (u.xlU p) := fun g => by
      rw [State.modXlU_xlU, if_pos rfl, hvx]
    have huf : u.findAcc b.aid = some b := by
      unfold State.findAcc
      rw [hua]
      exact haid ▸ hb1
    refine ⟨_, u.atPa b (e.pa b.va) e.attr.toNat, hopen _ hop ?_, ?_, ?_, attrCache_attr _, ?_, ?_, ?_, ?_, ?_⟩
    · rw [hvd, hus]
      rfl
    · rw [hvd]
      exact State.findAcc_modAcc huf fun _ => rfl
    · unfold State.atPa
      rw [show stageOf b.rq = .issue by rw [hrq]; rfl]
      rfl
    · have hids : (v.modXlU p fun x => { x with queue := [] }).acc = v.acc := rfl
      rw [hids, hvd, State.modAcc_aids (f := fun x => u.atPa x (e.pa b.va) e.attr.toNat) fun _ => rfl, hua]
    · rw [hxt, hux]
    · rw [hxt, hux]
      rfl
    · have hmv : ((v.modXlU p fun x => { x with queue := [] }).mover m).utlb = (u.mover m).utlb := by
        rw [hvd]
        rfl
      rw [hmv, hum']
      rfl
    · have hvr : v = { u with acc := v.acc } := by rw [hvd]; rfl
      have hmod : v.modXlU p (fun x => { x with queue := [] }) =
        { v with xl := (v.modXlU p fun x => { x with queue := [] }).xl } := rfl
      rw [hmod, hvr, hus]
  · intro l
    obtain ⟨v, hvd⟩ : ∃ v, v = idle.walkRead p { w with
      lvl := w.lvl - 1, tbl := entry.extractLsb' 12 36
      path := w.path ++ [{ ten := w.req.ten, gen := w.req.gen, lvl := w.lvl - 1, vtag := wcTag l w.req.va
                           tbl := entry.extractLsb' 12 36 }] } := ⟨_, rfl⟩
    have hop : s.walkOp p entry .okay false = v := by
      have hne0 : w.lvl.toNat ≠ 0 := fun h => hl0 (BitVec.eq_of_toNat_eq h)
      have htbl : BitVec.ofNat 36 (fld entry.toNat 12 36) = entry.extractLsb' 12 36 := ofNat_fld ..
      unfold State.walkOp
      rw [hw, hfind]
      dsimp only
      rw [hb1]
      dsimp only
      rw [if_neg (by decide), if_neg (by decide), show entryFault w.lvl.toNat entry = none from
        entryFault_none hv h6 h48 (.inr ⟨hleaf, hne0, hres⟩)]
      dsimp only
      rw [if_neg (by rw [bit_toNat, hleaf]; decide), ← hidle, htbl, hvd]
    have hlvl : (w.lvl - 1).toNat = l := by
      have := w.lvl.isLt
      have hne0 : w.lvl.toNat ≠ 0 := fun h => hl0 (BitVec.eq_of_toNat_eq h)
      rw [BitVec.toNat_sub]
      show (2 ^ 2 - 1 + w.lvl.toNat) % 2 ^ 2 = w.lvl.toNat - 1
      omega
    obtain ⟨r, hxl, hacc, hkd, hrd, hlen, hpa, hrest⟩ := idle.walkRead_spec p { w with
      lvl := w.lvl - 1, tbl := entry.extractLsb' 12 36
      path := w.path ++ [{ ten := w.req.ten, gen := w.req.gen, lvl := w.lvl - 1, vtag := wcTag l w.req.va
                           tbl := entry.extractLsb' 12 36 }] }
    rw [← hvd] at hxl hacc hrest
    have hia : idle.acc = s.acc.filter fun q => q.aid ≠ a.aid := by rw [hidle]; rfl
    have hir : idle = { s with acc := idle.acc, xl := idle.xl } := by rw [hidle]; rfl
    refine ⟨v, _, r, hopen v hop ?_, congrArg Xl.walk hxl, rfl, rfl, rfl, hacc.trans (by rw [hia]), hkd, hrd, hlen,
      hpa.trans ?_, ?_⟩
    · rw [hrest, hir]
    · dsimp only
      rw [hlvl, hva]
      rfl
    · rw [hrest, hir]

end Sys2Proof
end

section
/-! O9: a command that is read is held decoded. -/

namespace Sys2Proof.Machine

theorem State.modCh_chan (s : State) (m c j : Nat) (f : Chan → Chan) :
    (s.modCh m c f).chan j = if j = 4 * m + c then f (s.chan (4 * m + c)) else s.chan j := s.setChan_chan _ j _

theorem State.modCmd_chan (s : State) (sid j : Nat) (f : CmdCtx → CmdCtx) : (s.modCmd sid f).chan j = s.chan j := rfl

theorem State.modCh_strmAt (s : State) (m c j : Nat) (f : Chan → Chan) : (s.modCh m c f).strmAt j = s.strmAt j := rfl

theorem State.modCmd_rest (s : State) (sid : Nat) (f : CmdCtx → CmdCtx) :
    s.modCmd sid f = { s with strms := (s.modCmd sid f).strms } := rfl

theorem State.modCh_rest (s : State) (m c : Nat) (f : Chan → Chan) :
    s.modCh m c f = { s with chans := (s.modCh m c f).chans } := rfl

/-- A command that needs no copy is decoded: what that leaves. -/
structure State.Decoded (s : State) (m c sid : Nat) (k : CmdCtx) (t : State) : Prop where
  strm : ∀ j, t.strmAt j =
    if j = sid then { s.strmAt sid with cmd := some { k with stage := .copies, missing := [] } } else s.strmAt j
  chan : ∀ j, t.chan j = if j = 4 * m + c then { s.chan (4 * m + c) with ph := .decoded } else s.chan j
  rest : t = { s with strms := t.strms, chans := t.chans }

theorem State.Decoded.holds {s t : State} {m c sid : Nat} {k : CmdCtx} (h : s.Decoded m c sid k t)
    (ha : (s.ch m c).act = some sid) (hs : (s.ch m c).stop = none) (hb : (s.ch m c).abort = false) :
    t.Holds m c sid { k with stage := .copies, missing := [] } := by
  have hch : t.ch m c = { s.ch m c with ph := .decoded } := (h.chan _).trans (if_pos rfl)
  exact ⟨by rw [hch]; exact ha, by rw [hch], by rw [hch]; exact hs, by rw [hch]; exact hb, by rw [h.strm, if_pos rfl]⟩

/-- A command without descriptors, whose curve is good, passes the checks of its copies (R455). -/
theorem State.placesTo_none {s : State} {sid n : Nat} {k : CmdCtx} (hd : isData k.raw = false) (h16 : cOpc k.raw ≠ 16)
    (hc : cOpc k.raw = 18 → cb k.raw 8 0 = false → curveBad (k.copy 7) = false) : s.placesTo sid k n = none := by
  have h4 : cOpc k.raw ≠ 4 := fun h => by
    unfold isData at hd
    rw [h] at hd
    exact absurd hd (by decide)
  have h5 : s.place5 (s.strmAt sid) k = none := by
    unfold State.place5
    dsimp only
    rw [if_neg fun h => h4 h.1, if_neg fun ⟨h18, hcb, hbad⟩ => absurd ((hc h18 hcb).symm.trans hbad) (by decide),
      if_neg fun h => h16 h.1]
  unfold State.placesTo
  dsimp only
  rw [hd, h5]
  simp

/-- With every copy held that it needs, and its checks passed, a command is decoded. -/
theorem State.lookUp_decoded {s : State} {m c sid : Nat} {k : CmdCtx} (hcmd : (s.strmAt sid).cmd = some k)
    (hn : ((needsOf k).filter fun n => (k.got.find n.place).isNone) = []) (hdf : (s.ch m c).dflt = none)
    (hd : isData k.raw = false) (h16 : cOpc k.raw ≠ 16)
    (hc : cOpc k.raw = 18 → cb k.raw 8 0 = false → curveBad (k.copy 7) = false) :
    ∃ t, s.lookUp m c sid = (t, .on) ∧ s.Decoded m c sid k t := by
  obtain ⟨u, hu⟩ : ∃ u, u = s.modCmd sid fun y => { y with got := k.got, missing := [] } := ⟨_, rfl⟩
  have hus : ∀ j, u.strmAt j = if j = sid then { s.strmAt sid with cmd := some { k with missing := [] } } else s.strmAt j :=
    fun j => by
      rw [hu]
      exact State.modCmd_strmAt hcmd _ j
  have hucmd : (u.strmAt sid).cmd = some { k with missing := [] } := by rw [hus, if_pos rfl]
  obtain ⟨t, ht⟩ : ∃ t, t = (u.modCmd sid fun y => { y with stage := .copies, missing := [] }).modCh m c fun h =>
    { h with ph := .decoded } := ⟨_, rfl⟩
  have hend : u.decodeEnd m c sid = (t, .on) := by
    have hudf : (u.ch m c).dflt = none := by rw [hu]; exact hdf
    unfold State.decodeEnd
    rw [hucmd]
    dsimp only
    rw [hudf, State.placesTo_none (k := { k with missing := [] }) hd h16 hc, ht]
  refine ⟨t, ?_, fun j => ?_, fun j => ?_, ?_⟩
  · unfold State.lookUp
    dsimp only
    rw [hcmd]
    dsimp only
    rw [hn]
    exact (congrArg (fun v : State => v.decodeEnd m c sid) hu.symm).trans hend
  · have hts : t.strmAt j = if j = sid then { u.strmAt sid with cmd := some { k with stage := .copies, missing := [] } }
        else u.strmAt j := by
      rw [ht, State.modCh_strmAt, State.modCmd_strmAt hucmd]
    rw [hts, hus, hus, if_pos rfl]
    split <;> rfl
  · rw [ht, State.modCh_chan, State.modCmd_chan, State.modCmd_chan, hu, State.modCmd_chan, State.modCmd_chan]
  · rw [ht, State.modCh_rest, State.modCmd_rest, hu, State.modCmd_rest]

/-- A NOP without a signal, not the last command of a program, passes its first checks (R455). -/
theorem State.place1_nop {s : State} {sid : Nat} {c : BitVec 512} (hop : cOpc c = 0) (hz : reservedZero c = true)
    (hsk : cSkind c = 0) (hl : (s.strmAt sid).pers = true → (s.strmAt sid).pc.toNat + 1 ≠ (s.strmAt sid).plen.toNat) :
    s.place1 sid c = none := by
  have hlast : ((s.strmAt sid).pers && (s.strmAt sid).pc.toNat + 1 == (s.strmAt sid).plen.toNat) = false := by
    cases hp : (s.strmAt sid).pers with
    | false => rfl
    | true => exact beq_eq_false_iff_ne.mpr (hl hp)
  unfold State.place1
  dsimp only
  rw [hlast, hop, hz, hsk]
  rfl

/-- A NOP is taken and decoded at once. -/
theorem State.takeCmd_nop {s : State} {m c sid : Nat} {r : BitVec 512} (hab : (s.strmAt sid).abortHeld = false)
    (hop : cOpc r = 0) (hz : reservedZero r = true) (hsk : cSkind r = 0)
    (hl : (s.strmAt sid).pers = true → (s.strmAt sid).pc.toNat + 1 ≠ (s.strmAt sid).plen.toNat) :
    ∃ t k, s.takeCmd m c sid r = (t, .on) ∧ k.raw = r ∧ k.recQueue = (s.strmAt sid).queue ∧ k.stage = .copies ∧
      (∀ j, t.strmAt j = if j = sid then { s.strmAt sid with cmd := some k, abortHeld := false, ntile := 0 } else s.strmAt j) ∧
      (∀ j, t.chan j = if j = 4 * m + c then { s.chan (4 * m + c) with
        ph := .decoded, tile := 0, got := [], slot := none, xl := [], bad := false, dflt := none } else s.chan j) ∧
      t = { s with strms := t.strms, chans := t.chans } := by
  obtain ⟨k, hk⟩ : ∃ k, k = { CmdCtx.fresh r with
    recQueue := (s.strmAt sid).queue, aborted := false, unknown := false, stage := .raw } := ⟨_, rfl⟩
  have hraw : k.raw = r := congrArg CmdCtx.raw hk
  obtain ⟨v, hv⟩ : ∃ v, v = (s.setStrmAt sid { s.strmAt sid with cmd := some k, abortHeld := false, ntile := 0 }).modCh m c
    fun h => { h with ph := .decoded, tile := 0, got := [], slot := none, xl := [], bad := false, dflt := none } := ⟨_, rfl⟩
  have hvs : ∀ j, v.strmAt j =
      if j = sid then { s.strmAt sid with cmd := some k, abortHeld := false, ntile := 0 } else s.strmAt j := fun j => by
    rw [hv]
    exact s.setStrmAt_strmAt ..
  have hvc : ∀ j, v.chan j = if j = 4 * m + c then { s.chan (4 * m + c) with
      ph := .decoded, tile := 0, got := [], slot := none, xl := [], bad := false, dflt := none } else s.chan j := fun j => by
    rw [hv, State.modCh_chan]
    rfl
  have hhold : s.holdCmd m c sid r = v := by
    unfold State.holdCmd
    dsimp only
    rw [hab, hv, hk]
    rfl
  have hvch : v.ch m c = { s.ch m c with
      ph := .decoded, tile := 0, got := [], slot := none, xl := [], bad := false, dflt := none } := (hvc _).trans (if_pos rfl)
  have hvcmd : (v.strmAt sid).cmd = some k := by rw [hvs, if_pos rfl]
  obtain ⟨w, hw⟩ : ∃ w, w = v.modCmd sid fun y => { y with slot := if isData y.raw then y.slot.or (nextSlot (v.strmAt sid) 0) else none } :=
    ⟨_, rfl⟩
  have hd : isData k.raw = false := by
    unfold isData
    rw [hraw, hop]
    rfl
  have hws : ∀ j, w.strmAt j = if j = sid then { v.strmAt sid with cmd := some { k with slot := none } } else v.strmAt j :=
    fun j => by
      rw [hw, State.modCmd_strmAt hvcmd, hd]
      rfl
  have hwch : w.chan = v.chan := by rw [hw]; rfl
  have hneeds : ∀ k' : CmdCtx, k'.raw = r → needsOf k' = [] := fun k' h => by
    unfold needsOf
    dsimp only
    rw [h, hop]
    rfl
  obtain ⟨t, ht, hdec⟩ := State.lookUp_decoded (s := w) (m := m) (c := c) (sid := sid) (k := { k with slot := none })
    (by rw [hws, if_pos rfl]) (by rw [hneeds { k with slot := none } hraw]; rfl) (by unfold State.ch; rw [hwch]; exact congrArg Chan.dflt hvch)
    hd (by rw [show ({ k with slot := none } : CmdCtx).raw = r from hraw, hop]; decide)
    (fun h => absurd (h.symm.trans ((congrArg cOpc hraw).trans hop)) (by decide))
  refine ⟨t, { k with slot := none, stage := .copies, missing := [] }, ?_, hraw, ?_, rfl, fun j => ?_, fun j => ?_, ?_⟩
  · unfold State.takeCmd
    dsimp only
    rw [hhold, hvch, if_neg (by simp)]
    unfold State.decode1
    dsimp only
    rw [hvcmd]
    dsimp only
    rw [hraw, State.place1_nop hop hz hsk (by rw [hvs, if_pos rfl]; exact hl), ← ht, hw]
  · rw [hk]
  · rw [hdec.strm, hws, hws, hvs, hvs, if_pos rfl, if_pos rfl]
    split <;> rfl
  · rw [hdec.chan, hwch, hvc, hvc, if_pos rfl]
    split <;> rfl
  · have hvr : v = { s with strms := v.strms, chans := v.chans } := by rw [hv]; rfl
    rw [hdec.rest, hw, State.modCmd_rest, hvr]

theorem State.modDcU_dcU (s : State) (k j : Nat) (g : DCache → DCache) :
    (s.modDcU k g).dcU j = if j = k then g (s.dcU k) else s.dcU j := s.setDcU_dcU k j _

/-- What a copy kept just now leaves of the cache (R194): it is there, and no copy of its address is bad. -/
theorem State.cacheIn_held (s : State) (p : Nat) (ten gen : BitVec 8) (addr m sid : Nat) (data : List Byte)
    (ht : ∀ e ∈ (s.dcU p).tabs, e.bad = false) :
    (s.cacheIn p ten gen addr data).shedCopy p ten gen addr m sid = s.cacheIn p ten gen addr data ∧
      (s.cacheIn p ten gen addr data).cached p ten gen addr = some data := by
  obtain ⟨v, hv⟩ : ∃ v, v = s.cacheIn p ten gen addr data := ⟨_, rfl⟩
  obtain ⟨l, hl⟩ : ∃ l, l = (s.dcU p).desc.filter fun e => !(e.ten == ten && e.gen == gen && e.addr == addr) := ⟨_, rfl⟩
  have hvd : v.dcU p = { s.dcU p with
      desc := { ten := ten, gen := gen, addr := addr, data := data } :: l.take 511 } := by
    rw [hv, hl]
    exact (State.modDcU_dcU ..).trans (if_pos rfl)
  rw [← hv]
  constructor
  · unfold State.shedCopy
    dsimp only
    rw [hvd]
    refine if_pos ?_
    have hdesc : (l.take 511).filter (fun e => e.bad && e.ten == ten && e.gen == gen && e.addr == addr) = [] :=
      List.filter_eq_nil_iff.mpr fun e he h => by
        have hm := List.mem_of_mem_take he
        rw [hl, List.mem_filter] at hm
        simp_all
    have htabs : (s.dcU p).tabs.filter (fun e => e.bad && e.ten == ten && e.gen == gen && e.addr == addr) = [] :=
      List.filter_eq_nil_iff.mpr fun e he h => by
        rw [ht e he] at h
        simp at h
    rw [List.filter_cons, hdesc, htabs]
    rfl
  · unfold State.cached
    rw [hvd]
    dsimp only
    rw [List.find?_cons_of_pos (by simp)]
    rfl

/-- The one need of a TABLE LOAD: its curve (R106). -/
def curveNeed (v : Nat) : Need := { place := 7, addr := v, len := 32, kept := some true }

theorem needsOf_tableLoad {k : CmdCtx} (hop : cOpc k.raw = 18) (hl : cb k.raw 8 0 = false) :
    needsOf k = [curveNeed (cf k.raw 16 0 48)] := by
  unfold needsOf
  dsimp only
  rw [hop, hl]
  rfl

/-- An aligned curve lies in one beat. -/
theorem needBursts_curve {v : Nat} (hv : v % 32 = 0) : needBursts (curveNeed v) = [(v / 64 * 64, 64)] := by
  have hn : (v + 32 + 63) / 64 - v / 64 = 1 := by omega
  unfold needBursts curveNeed
  dsimp only
  rw [hn]
  have hb : (v / 64 + 0) * 64 / 64 = v / 64 := by omega
  unfold burstsOf beatsOf sortU
  rw [show List.range 1 = [0] from rfl, List.map_singleton, List.map_singleton, hb]
  rfl

/-- The bytes of an aligned curve, from the beat that holds it. -/
theorem needBytes_curve {v : Nat} (hv : v % 32 = 0) {data : List Byte} (hd : data.length = 64) :
    needBytes [(v / 64 * 64, data)] (curveNeed v) = (data.drop (v % 64)).take 32 := by
  refine List.ext_getElem ?_ fun i h1 h2 => ?_
  · unfold needBytes curveNeed
    rw [List.length_map, List.length_range, List.length_take, List.length_drop, hd]
    change 32 = min 32 (64 - v % 64)
    omega
  · have hi : i < 32 := by
      rw [List.length_take] at h2
      omega
    have hlt : v % 64 + i < data.length := by omega
    unfold needBytes curveNeed gotByte
    dsimp only
    rw [List.getElem_map, List.getElem_range, if_pos (by omega), List.getElem_take, List.getElem_drop,
      List.getD_eq_getElem?_getD, show v + i - v / 64 * 64 = v % 64 + i by omega, List.getElem?_eq_getElem hlt]
    rfl

/-- The reads of a TABLE LOAD's curve have come: it is kept, and the command is looked up again (R106, R194). -/
theorem State.decodeDone_curve {s : State} {m c sid : Nat} {k : CmdCtx} {a : Access} {data : List Byte}
    (hact : (s.ch m c).act = some sid) (hstop : (s.ch m c).stop = none) (hcmd : (s.strmAt sid).cmd = some k)
    (hph : (s.ch m c).ph = .dreads) (hdf : (s.ch m c).dflt = none) (hbad : (s.ch m c).bad = false)
    (hgot : (s.ch m c).got = []) (hreads : s.decodeReads m c = [a]) (hout : a.stage = .out) (hkg : k.got = [])
    (hkm : k.missing = [7]) (hop : cOpc k.raw = 18) (hl : cb k.raw 8 0 = false) (hv : cf k.raw 16 0 48 % 32 = 0)
    (hva : a.va = cf k.raw 16 0 48 / 64 * 64) (hlen : data.length = 64) :
    ∃ u : State, s.decodeDoneOp m c [(data, .okay)] false = State.goOn m c sid (u.lookUp m c sid) ∧
      (∀ j, u.strmAt j = if j = sid then { s.strmAt sid with cmd := some { k with
        got := [(7, (data.drop (cf k.raw 16 0 48 % 64)).take 32)], missing := [] } } else s.strmAt j) ∧
      (∀ j, u.chan j = if j = 4 * m + c then { s.ch m c with got := [], bad := false } else s.chan j) ∧
      u = { s with strms := u.strms, chans := u.chans, acc := s.acc.filter (fun b => b.aid ≠ a.aid), dc := u.dc } := by
  obtain ⟨s1, hs1⟩ : ∃ t, t = (s.delAcc a.aid).modCh m c fun y => { y with got := [], bad := false } := ⟨_, rfl⟩
  obtain ⟨bytes, hbytes⟩ : ∃ b, b = (data.drop (cf k.raw 16 0 48 % 64)).take 32 := ⟨_, rfl⟩
  obtain ⟨s3, hs3⟩ : ∃ t, t = s1.tabUse (s.strmAt sid).part.toNat
    { ten := (s.strmAt sid).ten, gen := (s.strmAt sid).tgen, addr := cf k.raw 16 0 48, data := bytes } := ⟨_, rfl⟩
  obtain ⟨u, hu⟩ : ∃ u, u = s3.modCmd sid fun y => { y with got := y.got.ins 7 bytes, missing := [] } := ⟨_, rfl⟩
  have h1c : ∀ j, s1.chan j = if j = 4 * m + c then { s.ch m c with got := [], bad := false } else s.chan j := fun j => by
    rw [hs1, State.modCh_chan]
    rfl
  have h1s : ∀ j, s1.strmAt j = s.strmAt j := fun j => by rw [hs1]; rfl
  have h3c : ∀ j, s3.chan j = s1.chan j := fun j => by rw [hs3]; rfl
  have h3s : ∀ j, s3.strmAt j = s1.strmAt j := fun j => by rw [hs3]; rfl
  have h1cmd : (s1.strmAt sid).cmd = some k := by rw [h1s, hcmd]
  have hnew : ([curveNeed (cf k.raw 16 0 48)].filter fun n => k.missing.contains n.place && (needBursts n).all fun b =>
      [(a.va, data)].any fun g => g.1 == b.1 && g.2.length == b.2) = [curveNeed (cf k.raw 16 0 48)] := by
    rw [List.filter_cons, needBursts_curve hv, hkm, hva]
    refine if_pos ?_
    simp [curveNeed, hlen]
  have hbs : needBytes [(a.va, data)] (curveNeed (cf k.raw 16 0 48)) = bytes := by
    rw [hva, needBytes_curve hv hlen, hbytes]
  have hkeep : s1.keepCopy (s1.strmAt sid).part.toNat (s1.strmAt sid).ten (s1.strmAt sid).tgen
      (curveNeed (cf k.raw 16 0 48)) bytes = s3 := by
    rw [h1s, hs3]
    rfl
  have huc : u.ch m c = { s.ch m c with got := [], bad := false } := by
    unfold State.ch
    rw [hu, State.modCmd_chan, h3c, h1c, if_pos rfl]
    rfl
  refine ⟨u, ?_, fun j => ?_, fun j => ?_, ?_⟩
  · unfold State.decodeDoneOp
    dsimp only
    rw [hact, hreads]
    dsimp only
    rw [if_neg (by
      rintro (h | h | h | h | h)
      · exact h hph
      · exact h hstop
      · exact absurd h (List.cons_ne_nil _ _)
      · simp [hout] at h
      · exact h rfl), hbad, if_neg (by decide)]
    rw [show [a].zip [(data, Resp.okay)] = [(a, data, Resp.okay)] from rfl]
    rw [List.foldl_cons, List.foldl_nil, ← hs1]
    rw [show [(a, data, Resp.okay)].filter (fun e => !respOk e.2.2) = [] from rfl, List.foldl_nil, h1cmd]
    dsimp only
    rw [show (s.ch m c).got ++ [(a, data, Resp.okay)].filterMap (fun e : Access × List Byte × Resp =>
      if respOk e.2.2 = true then some (e.1.va, e.2.1) else none) = [(a.va, data)] by rw [hgot]; rfl,
      needsOf_tableLoad hop hl]
    simp only [hnew, List.foldl_cons, List.foldl_nil, hbs, hkeep]
    rw [show (curveNeed (cf k.raw 16 0 48)).place = 7 from rfl, ← hu, huc, hdf]
    rfl
  · rw [hu, State.modCmd_strmAt (by rw [h3s, h1s]; exact hcmd), h3s, h3s, h1s, h1s, hkg, hbytes]
    rfl
  · rw [hu, State.modCmd_chan, h3c, h1c]
  · have h1r : s1 = { s with chans := s1.chans, acc := s.acc.filter fun b => b.aid ≠ a.aid } := by rw [hs1]; rfl
    have h3r : s3 = { s1 with dc := s3.dc } := by rw [hs3]; rfl
    rw [hu, State.modCmd_rest, h3r, h1r]

/-- A NOP that a channel takes, where the state is `s` up to what the read itself changes. -/
theorem State.takeCmd_reads {s u : State} {m c sid : Nat} {r : BitVec 512} (hs : ∀ j, u.strmAt j = s.strmAt j)
    (hc : ∀ j, u.chan j = s.chan j) (hact : (s.ch m c).act = some sid) (hstop : (s.ch m c).stop = none)
    (hb : (s.ch m c).abort = false) (hab : (s.strmAt sid).abortHeld = false) (hop : cOpc r = 0)
    (hz : reservedZero r = true) (hsk : cSkind r = 0)
    (hl : (s.strmAt sid).pers = true → (s.strmAt sid).pc.toNat + 1 ≠ (s.strmAt sid).plen.toNat) :
    ∃ t k, u.takeCmd m c sid r = (t, .on) ∧ t.Holds m c sid k ∧ k.raw = r ∧ k.stage = .copies ∧
      k.recQueue = (s.strmAt sid).queue ∧ (t.strmAt sid).pc = (s.strmAt sid).pc ∧ s.Others t m c sid ∧
      t = { u with strms := t.strms, chans := t.chans } := by
  obtain ⟨t, k, ht, hraw, hq, hst, hts, htc, htr⟩ := State.takeCmd_nop (s := u) (m := m) (c := c) (sid := sid)
    (by rw [hs]; exact hab) hop hz hsk (by rw [hs]; exact hl)
  have hch : t.ch m c = { s.ch m c with
      ph := .decoded, tile := 0, got := [], slot := none, xl := [], bad := false, dflt := none } := by
    refine (htc _).trans ((if_pos rfl).trans ?_)
    rw [hc]
    rfl
  refine ⟨t, k, ht, ⟨by rw [hch]; exact hact, by rw [hch], by rw [hch]; exact hstop, by rw [hch]; exact hb,
    by rw [hts, if_pos rfl]⟩, hraw, hst, by rw [hq, hs], by rw [hts, if_pos rfl, hs],
    ⟨fun j hj => by rw [hts, if_neg hj, hs], fun j hj => by rw [htc, if_neg hj, hc]⟩, htr⟩

end Sys2Proof.Machine

namespace Sys2Proof
open Machine

/-- Settles O9: a NOP needs no copy and passes its checks; a TABLE LOAD's curve is its only copy. -/
theorem commandsRead : Obligations.commands_read := by
  unfold Obligations.commands_read
  intro s m c sid data a x plain hact hstop hab hheld
  refine ⟨fun hph hfind => ⟨fun hk hpers hpl => ?_, fun hk hpers hran hva hlast htabs hpl => ?_⟩, ?_⟩
  · obtain ⟨hop, hz, hsk⟩ := hpl
    obtain ⟨u, hu⟩ : ∃ u, u = (s.delAcc a.aid).modSq sid fun q => { q with
      head := BitVec.ofNat 16 ((q.head.toNat + 1) % 2 ^ q.log2sz.toNat), outst := q.outst + 1 } := ⟨_, rfl⟩
    have hur : u = { s with sqs := u.sqs, acc := s.acc.filter fun b => b.aid ≠ a.aid } := by rw [hu]; rfl
    have husq : ∀ j, u.sq j = if j = sid then { s.sq sid with
        head := BitVec.ofNat 16 (((s.sq sid).head.toNat + 1) % 2 ^ (s.sq sid).log2sz.toNat)
        outst := (s.sq sid).outst + 1 } else s.sq j := fun j => by
      rw [hu, State.modSq_sq]
      rfl
    obtain ⟨t, k, ht, hholds, hraw, hst, hq, -, hoth, htr⟩ := State.takeCmd_reads (s := s) (u := u) (c := c)
      (fun j => by rw [hu]; rfl) (fun j => by rw [hu]; rfl) hact hstop hab hheld hop hz hsk
      fun h => absurd (h.symm.trans hpers) (by decide)
    have hres : s.fetchedOp m c data .okay = t := by
      unfold State.fetchedOp
      dsimp only
      rw [hact, hfind]
      dsimp only
      rw [if_neg (by
        rintro (h | h)
        · exact h hph
        · exact h hstop), if_neg (by decide), if_pos hk, ← hu, ht]
      rfl
    have hsq : ∀ j, t.sq j = u.sq j := fun j => by rw [htr]; rfl
    exact ⟨t, k, congrArg Host.Outcome.next hres, hholds, hraw, hst, hq, by rw [hsq, husq, if_pos rfl],
      fun j hj => by rw [hsq, husq, if_neg hj], by rw [htr, hur], hoth, by rw [htr, hur]⟩
  · obtain ⟨hop, hz, hsk⟩ := hpl
    obtain ⟨v, hv⟩ : ∃ v, v = (s.delAcc a.aid).cacheIn x.part.toNat x.ten x.tgen a.va data := ⟨_, rfl⟩
    obtain ⟨u, hu⟩ : ∃ u, u = v.cacheUse x.part.toNat x.ten x.tgen a.va := ⟨_, rfl⟩
    have hvs : ∀ j, v.strmAt j = s.strmAt j := fun j => by rw [hv]; rfl
    have hus : ∀ j, u.strmAt j = v.strmAt j := fun j => by rw [hu]; rfl
    have hvc : ∀ j, v.chan j = s.chan j := fun j => by rw [hv]; rfl
    have huc : ∀ j, u.chan j = v.chan j := fun j => by rw [hu]; rfl
    have hvr : v = { s with acc := v.acc, dc := v.dc } := by rw [hv]; rfl
    have hur : u = { v with dc := u.dc } := by rw [hu]; rfl
    obtain ⟨hshed, hcached⟩ := State.cacheIn_held (s.delAcc a.aid) x.part.toNat x.ten x.tgen a.va m sid data htabs
    rw [← hv] at hshed hcached
    obtain ⟨t, k, ht, hholds, hraw, -, -, hpc, hoth, htr⟩ := State.takeCmd_reads (s := s) (u := u) (c := c)
      (fun j => (hus j).trans (hvs j)) (fun j => (huc j).trans (hvc j)) hact hstop hab hheld hop hz hsk fun _ => hlast
    have hpair : pairAddr x x.pc.toNat = a.va := hva.symm
    have hres : s.fetchedOp m c data .okay = t := by
      unfold State.fetchedOp
      dsimp only
      rw [hact, hfind]
      dsimp only
      rw [if_neg (by
        rintro (h | h)
        · exact h hph
        · exact h hstop), if_neg (by decide), if_neg (by rw [hk]; decide)]
      change State.goOn m c sid (((s.delAcc a.aid).cacheIn x.part.toNat x.ten x.tgen a.va data).fetchNext m c sid) = t
      rw [← hv]
      unfold State.fetchNext
      dsimp only
      rw [hvs, if_pos hpers, if_pos (by rw [show (s.strmAt sid).ran = true from hran]; rfl)]
      unfold State.fetchProgram
      dsimp only
      rw [hvs, show pairAddr (s.strmAt sid) (s.strmAt sid).pc.toNat = a.va from hpair, hshed, hcached]
      dsimp only
      rw [← hu]
      unfold pairCmd
      rw [ht]
      rfl
    exact ⟨t, k, congrArg Host.Outcome.next hres, hholds, hraw, hpc, hoth, by rw [htr, hur, hvr]⟩
  · intro k hcmd hph hdf hbad hgot hreads hout hkg hkm hop hl v hv hva hlen hcurve
    obtain ⟨u, hres, hus, huc, hur⟩ := State.decodeDone_curve hact hstop hcmd hph hdf hbad hgot hreads hout hkg hkm hop
      hl hv hva hlen
    obtain ⟨k1, hk1⟩ : ∃ k1 : CmdCtx, k1 = { k with got := [(7, (data.drop (v % 64)).take 32)], missing := [] } := ⟨_, rfl⟩
    have hraw : k1.raw = k.raw := by rw [hk1]
    have hfind : k1.got.find 7 = some ((data.drop (v % 64)).take 32) := by rw [hk1]; rfl
    have hcopy : k1.copy 7 = (data.drop (v % 64)).take 32 := by
      unfold CmdCtx.copy
      rw [hfind]
      rfl
    have huch : u.ch m c = { s.ch m c with got := [], bad := false } := (huc _).trans (if_pos rfl)
    obtain ⟨t, ht, hdec⟩ := State.lookUp_decoded (s := u) (m := m) (c := c) (sid := sid) (k := k1)
      (by rw [hus, if_pos rfl, hk1])
      (by
        rw [needsOf_tableLoad (by rw [hraw, hop]) (by rw [hraw, hl])]
        refine List.filter_eq_nil_iff.mpr fun n hn h => ?_
        rw [List.mem_singleton.mp hn, show (curveNeed (cf k1.raw 16 0 48)).place = 7 from rfl, hfind] at h
        exact absurd h (by simp))
      (by rw [huch]; exact hdf) (by unfold isData; rw [hraw, hop]; rfl) (by rw [hraw, hop]; decide)
      (fun _ _ => by rw [hcopy, hcurve])
    have hall : s.decodeDoneOp m c [(data, .okay)] false = t := by
      rw [hres, ht]
      rfl
    refine ⟨t, { k1 with stage := .copies, missing := [] }, congrArg Host.Outcome.next hall,
      hdec.holds (by rw [huch]; exact hact) (by rw [huch]; exact hstop) (by rw [huch]; exact hab), hraw, rfl, hcopy, rfl,
      by rw [hdec.rest, hur], ⟨fun j hj => ?_, fun j hj => ?_⟩, by rw [hdec.rest, hur]⟩
    · rw [hdec.strm, if_neg hj, hus, if_neg hj]
    · rw [hdec.chan, if_neg hj, huc, if_neg hj]

end Sys2Proof
end

section
/-! O14: the completion phase of a command without a signal. -/

namespace Sys2Proof.Machine

/-- What is left of a completion queue's state and its records' writes while a stream leaves its channel. -/
structure State.Passes (sid : Nat) (u t : State) : Prop where
  cqs : t.cqs = u.cqs
  sqs : t.sqs = u.sqs
  cnts : t.cnts = u.cnts
  acc : ∀ a ∈ u.acc, a.rq = .record → a ∈ t.acc
  cmd : (t.strmAt sid).cmd = (u.strmAt sid).cmd

theorem State.Passes.trans {sid : Nat} {u v t : State} (h : u.Passes sid v) (g : v.Passes sid t) : u.Passes sid t where
  cqs := g.cqs.trans h.cqs
  sqs := g.sqs.trans h.sqs
  cnts := g.cnts.trans h.cnts
  acc := fun a ha hr => g.acc a (h.acc a ha hr) hr
  cmd := g.cmd.trans h.cmd

theorem State.Woken.passes {u t : State} (h : u.Woken t) (sid : Nat) : u.Passes sid t where
  cqs := by rw [h.rest]
  sqs := by rw [h.rest]
  cnts := h.cnts
  acc := fun a ha _ => h.acc ▸ ha
  cmd := h.cmd sid

theorem State.Passes.of_rest {u t : State} (sid : Nat) (h : t = { u with parts := t.parts, chans := t.chans }) :
    u.Passes sid t where
  cqs := by rw [h]
  sqs := by rw [h]
  cnts := by rw [h]
  acc := fun a ha _ => by rw [h]; exact ha
  cmd := by rw [h]; rfl

theorem State.freeWindow_rest (s : State) (m c p : Nat) :
    s.freeWindow m c p = { s with parts := (s.freeWindow m c p).parts, chans := (s.freeWindow m c p).chans } := rfl

theorem State.modStrmAt_passes (u : State) (j : Nat) (g : Strm → Strm) (hg : ∀ x, (g x).cmd = x.cmd) (sid : Nat) :
    u.Passes sid (u.modStrmAt j g) where
  cqs := rfl
  sqs := rfl
  cnts := rfl
  acc := fun _ h _ => h
  cmd := by
    rw [State.modStrmAt_eq, State.setStrmAt_strmAt]
    split
    · next h => rw [hg, h]
    · rfl

theorem State.dropChan_passes (u : State) (m c keep sid : Nat) : u.Passes sid (u.dropChan m c keep) where
  cqs := rfl
  sqs := rfl
  cnts := rfl
  acc := fun a ha hr => by
    have hof : ofChan m c a = false := by
      unfold ofChan
      rw [hr]
      rfl
    refine List.mem_map.mpr ⟨a, List.mem_filter.mpr ⟨ha, by rw [hof]; rfl⟩, if_neg (by rw [hof, Bool.false_and]; exact Bool.false_ne_true)⟩
  cmd := rfl

theorem State.endBoundary_passes (u : State) (m c sid : Nat) : u.Passes sid (u.endBoundary m c sid false) := by
  unfold State.endBoundary
  split
  · exact (State.Woken.refl u).passes sid
  · have h : u.Passes sid (((u.moveSpace (u.strmAt sid).part.toNat (bndSpace (u.strmAt sid).slots ‹_›)
        (slotSpace (u.strmAt sid).slots)).modCh m c fun h => { h with bnd := none })) := ⟨rfl, rfl, rfl, fun _ h _ => h, rfl⟩
    exact h.trans (State.modStrmAt_passes _ _ _ (fun _ => rfl) sid)

/-- The stream's leaving of its channel touches no queue and no record's write. -/
theorem State.leaveOnly_passes (u : State) {m c sid : Nat} (hsid : sid < 40960) (hact : (u.ch m c).act = some sid) :
    u.Passes sid (u.leaveOnly m c) := by
  have h1 := (u.dropChan_passes m c 0 sid).trans ((u.dropChan m c 0).endBoundary_passes m c sid)
  unfold State.leaveOnly
  rw [hact]
  dsimp only
  generalize (u.dropChan m c 0).endBoundary m c sid false = v at h1
  have h2 := State.Passes.of_rest sid (v.freeWindow_rest m c (u.strmAt sid).part.toNat)
  generalize v.freeWindow m c (u.strmAt sid).part.toNat = w at h2
  replace h2 := h2.trans (State.Passes.of_rest sid (t := w.modCh m c Chan.vacate) rfl)
  generalize w.modCh m c Chan.vacate = w at h2
  have hback : w.writeBack m c sid = w := if_pos hsid
  rw [hback]
  exact (h1.trans h2).trans (State.modStrmAt_passes _ _ _ (fun x => by split <;> rfl) sid)

/-- A stream past a command that has completed. -/
def Strm.passed (y : Strm) (pc : BitVec 6) : Strm := { y with cmd := none, ntile := 0, arrd := false, pc := pc }

/-- A command that completes without a signal, a slot's run or a Firn table: its record, and then the boundary. -/
theorem State.completeOp_boundary {s : State} {m c sid : Nat} {k : CmdCtx} (hact : (s.ch m c).act = some sid)
    (hph : (s.ch m c).ph = .done) (hstop : (s.ch m c).stop = none) (hw : s.writesOut m c = false)
    (hcmd : (s.strmAt sid).cmd = some k) (hsk : cSkind k.raw = 0) (hslot : k.slot = none) (htab : k.tslot = none)
    (harm : k.toArmed = false) (hab : k.aborted = false) :
    s.completeOp m c = ((if recordDue (s.strmAt sid) k then s.handOff (s.cqRecord m c sid k) else s).modStrmAt sid fun y =>
      y.passed (if (s.strmAt sid).pers then pcAfter (s.strmAt sid) k else (s.strmAt sid).pc)).boundary m c sid := by
  have hnext : nextRun (s.strmAt sid) k = none := by
    unfold nextRun
    rw [hslot]
  have hsig : ∀ u : State, u.applySignal m c sid k.raw = u := fun u => if_pos hsk
  unfold State.completeOp
  dsimp only
  rw [hact]
  dsimp only
  rw [hcmd]
  dsimp only
  rw [if_pos ⟨hph, hstop, hw⟩]
  unfold State.completeCmd State.tableDone
  dsimp only
  rw [hnext, htab, hsig, ite_self]
  dsimp only
  rw [if_neg (by rw [harm, hab]; simp)]
  rfl


/-- The slot that a completion queue gives out next. -/
def Cq.gives (q : Cq) (r : CqRec) : CqSlot := { item := r, slot := q.next.1, ph := q.next.2, done := false }

/-- A record that finds room takes the next slot, and its write awaits its translation (R163, R171). -/
theorem State.handOff_room {s : State} {r : CqRec} {c : Nat} (hc : (s.sq r.queue.toNat).cq.toNat = c)
    (hrec : (s.strmAt r.sid).recStop = none) (hheld : s.hasHeld r.sid = false) (hnone : (s.cq c).held = [])
    (hfull : (s.cq c).full = false) (hen : (s.ten (s.cq c).ten.toNat).rootEn = true)
    (hl2 : (s.xlU (s.ten (s.cq c).ten.toNat).part.toNat).l2 = [])
    (hwc : ∀ e ∈ (s.xlU (s.ten (s.cq c).ten.toNat).part.toNat).wc, e.bad = false) :
    ∃ t a, s.handOff r = t ∧ t = { s with cqs := t.cqs, xl := t.xl, acc := t.acc, nextAid := t.nextAid } ∧
      (∀ j, t.cq j = if j = c then { s.cq c with given := (s.cq c).given ++ [(s.cq c).gives r] } else s.cq j) ∧
      t.hasHeld r.sid = false ∧ a ∈ t.acc ∧ a.rq = .record ∧ a.kind = .cqRec c (s.cq c).next.1 ∧ a.wr = true ∧
      a.va = (s.cq c).base.toNat * 4096 + 32 * (s.cq c).next.1 ∧ a.len = 32 ∧ a.data.length = 32 := by
  have hblk : s.recBlocked r = false := by
    unfold State.recBlocked
    rw [hrec, Option.isSome_none, Bool.false_or]
    refine List.any_eq_false.mpr fun e he h => ?_
    obtain ⟨x, hx, hh⟩ := List.any_eq_true.mp h
    have := List.any_eq_false.mp hheld e he
    exact this (List.any_eq_true.mpr ⟨x, hx, (Bool.and_eq_true _ _ ▸ hh).1⟩)
  obtain ⟨u, hu⟩ : ∃ u, u = s.modCq c fun x => { x with given := x.given ++ [(s.cq c).gives r] } := ⟨_, rfl⟩
  have huq : ∀ j, u.cq j = if j = c then { s.cq c with given := (s.cq c).given ++ [(s.cq c).gives r] } else s.cq j := fun j => by
    rw [hu, State.modCq_cq]
  have hut : ∀ j, u.ten j = s.ten j := fun j => by rw [hu]; rfl
  have hux : ∀ j, u.xlU j = s.xlU j := fun j => by rw [hu]; rfl
  have huc : (u.cq c).ten = (s.cq c).ten := by rw [huq, if_pos rfl]
  have hub : (u.cq c).base = (s.cq c).base := by rw [huq, if_pos rfl]
  have hur : u = { s with cqs := u.cqs } := by rw [hu]; rfl
  obtain ⟨a, ha⟩ : ∃ a, a = { blankAcc (u.ten (u.cq c).ten.toNat).part.toNat .record r.ch (.cqRec c (s.cq c).next.1) true
      ((u.cq c).base.toNat * 4096 + 32 * (s.cq c).next.1) 32 with
    mv := some r.mv, sid := r.sid, ten := (u.cq c).ten, gen := u.genOf (u.cq c).ten
    data := recordBytes r.bits (s.cq c).next.2 (u.sq r.queue.toNat).head.toNat, en := List.replicate 32 true
    permW := true } := ⟨_, rfl⟩
  have hap : a.part = (s.ten (s.cq c).ten.toNat).part.toNat := by rw [ha, ← huc, ← hut]; rfl
  obtain ⟨t, ht, hwalk, hmem⟩ := State.makeFar_miss (s := u) (a := a)
    (by rw [show a.ten = (s.cq c).ten by rw [ha, ← huc], hut]; exact hen)
    (fun m h => absurd (show rqMover a.rq = none by rw [ha]; rfl) (by rw [h]; exact Option.some_ne_none m))
    (by rw [hap, hux]; exact hl2)
  obtain ⟨hclean, -⟩ := hwalk.clean (by rw [hap, hux]; exact hwc)
  have htr : t = { s with cqs := t.cqs, xl := t.xl, acc := t.acc, nextAid := t.nextAid } := by rw [hclean, hur]
  have htq : t.cqs = u.cqs := by rw [hclean]
  have hplace : s.placeRecord c r = some t := by
    have hgive : s.giveSlot c r = some (u.makeFar a) := by
      unfold State.giveSlot
      dsimp only
      rw [if_neg (by rw [hfull]; decide), ha, hu]
      rfl
    unfold State.placeRecord
    rw [hgive, ht]
  refine ⟨t, _, ?_, htr, fun j => ?_, ?_, hmem, ?_⟩
  · unfold State.handOff
    dsimp only
    rw [hc, hblk, hnone, hplace]
    rfl
  · rw [← huq]
    unfold State.cq
    rw [htq]
  · unfold State.hasHeld
    rw [htq, hu]
    refine List.any_eq_false.mpr fun e he h => ?_
    rcases SMap.mem_put he with rfl | he
    · have h' : ((s.cq c).held.any fun x => x.sid == r.sid) = true := h
      rw [hnone] at h'
      exact absurd h' (by simp)
    · exact List.any_eq_false.mp hheld e he h
  · have hva : a.va = (u.cq c).base.toNat * 4096 + 32 * (s.cq c).next.1 := by rw [ha]; rfl
    have hlen : a.data.length = 32 := by rw [ha]; exact toLE_length _ _
    rw [hub] at hva
    exact ⟨by rw [ha]; rfl, by rw [ha]; rfl, by rw [ha]; rfl, hva, by rw [ha]; rfl, hlen⟩

/-- Nothing at the boundary keeps the stream from its next command. -/
structure State.CanGoOn (s : State) (m c sid : Nat) : Prop where
  cmd : (s.strmAt sid).cmd = none
  recStop : (s.strmAt sid).recStop = none
  wait : (s.strmAt sid).wait = .none
  stopAt : (s.strmAt sid).stopAt = .none
  abortHeld : (s.strmAt sid).abortHeld = false
  held : s.hasHeld sid = false
  stays : s.mustLeave m sid = false
  quantum : (s.ch m c).run < (s.part (s.strmAt sid).part.toNat).quantum.toNat

theorem State.CanGoOn.of_passed {t : State} {m c sid : Nat} (hrec : (t.strmAt sid).recStop = none)
    (hwait : (t.strmAt sid).wait = .none) (hsa : (t.strmAt sid).stopAt = .none) (hab : (t.strmAt sid).abortHeld = false)
    (hh : t.hasHeld sid = false) (hml : t.mustLeave m sid = false)
    (hq : (t.ch m c).run < (t.part (t.strmAt sid).part.toNat).quantum.toNat) (pc : BitVec 6) :
    (t.modStrmAt sid fun y => y.passed pc).CanGoOn m c sid := by
  obtain ⟨u, hu⟩ : ∃ u, u = t.modStrmAt sid fun y => y.passed pc := ⟨_, rfl⟩
  have hus : u.strmAt sid = (t.strmAt sid).passed pc := by
    rw [hu, State.modStrmAt_eq, State.setStrmAt_strmAt, if_pos rfl]
  have hur : u = { t with strms := u.strms } := by rw [hu]; rfl
  have hleave : u.mustLeave m sid = t.mustLeave m sid := by
    unfold State.mustLeave State.soloBars
    rw [hus, hur]
    rfl
  have hhas : u.hasHeld sid = t.hasHeld sid := by rw [hur]; rfl
  have hrun : (u.ch m c).run = (t.ch m c).run := by rw [hur]; rfl
  have hpart : u.part (u.strmAt sid).part.toNat = t.part (t.strmAt sid).part.toNat := by
    rw [hus, hur]
    rfl
  rw [← hu]
  exact ⟨by rw [hus]; rfl, by rw [hus]; exact hrec, by rw [hus]; exact hwait, by rw [hus]; exact hsa,
    by rw [hus]; exact hab, hhas.trans hh, hleave.trans hml, by rw [hrun, hpart]; exact hq⟩

theorem State.CanGoOn.boundary {s : State} {m c sid : Nat} (h : s.CanGoOn m c sid) :
    s.boundary m c sid = State.goOn m c sid ((s.modStrmAt sid fun y => { y with wait := .none }).fetchNext m c sid) := by
  obtain ⟨u, hu⟩ : ∃ u, u = s.modStrmAt sid fun y => { y with wait := .none } := ⟨_, rfl⟩
  have hus : u.strmAt sid = { s.strmAt sid with wait := .none } := by
    rw [hu, State.modStrmAt_eq, State.setStrmAt_strmAt, if_pos rfl]
  have hover : ∀ (v : State) (x : Strm), x.wait = .none → ¬ v.waitOver x = false := fun v x hx => by
    unfold State.waitOver
    rw [hx]
    exact fun h => absurd (show true = false from h) (by decide)
  have hbegin : u.begin m c sid = u.fetchNext m c sid := by
    have hrec : (u.strmAt sid).recStop = none := (congrArg Strm.recStop hus).trans h.recStop
    have hwait : (u.strmAt sid).wait = .none := congrArg Strm.wait hus
    have hstop : (u.strmAt sid).stopAt = .none := (congrArg Strm.stopAt hus).trans h.stopAt
    have hcmd : (u.strmAt sid).cmd = none := (congrArg Strm.cmd hus).trans h.cmd
    unfold State.begin
    dsimp only
    rw [hrec]
    dsimp only
    rw [if_neg (hover u _ hwait), if_neg (by rw [hstop]; decide), hcmd]
  unfold State.boundary
  dsimp only
  rw [h.recStop]
  dsimp only
  rw [if_neg (hover s _ h.wait), if_neg (by rw [h.held]; decide), if_neg (by
    rw [h.abortHeld, h.stays, decide_eq_false (Nat.not_le.mpr h.quantum), Bool.false_and]
    decide), ← hu, hbegin]

/-- A stream without a further command to read leaves its channel, ARMED (R165). -/
theorem State.CanGoOn.leaves {s : State} {m c sid : Nat} (h : s.CanGoOn m c sid) (hp : (s.strmAt sid).pers = false)
    (hr : s.readable sid = false) : s.boundary m c sid =
      ((s.modStrmAt sid fun y => { y with wait := .none }).makeArmed sid).leave m c := by
  rw [h.boundary]
  obtain ⟨u, hu⟩ : ∃ u, u = s.modStrmAt sid fun y => { y with wait := .none } := ⟨_, rfl⟩
  have hus : u.strmAt sid = { s.strmAt sid with wait := .none } := by
    rw [hu, State.modStrmAt_eq, State.setStrmAt_strmAt, if_pos rfl]
  have hur : u.readable sid = false := by rw [hu]; exact hr
  rw [← hu]
  unfold State.fetchNext
  dsimp only
  rw [hus, if_neg (by rw [show ({ s.strmAt sid with wait := .none } : Strm).pers = false from hp]; decide),
    if_neg (by rw [hur]; decide)]
  rfl

/-- No copy of the cache is bad. -/
theorem State.shedCopy_clean {s : State} {p : Nat} (h : ∀ e ∈ (s.dcU p).desc ++ (s.dcU p).tabs, e.bad = false)
    (ten gen : BitVec 8) (addr m sid : Nat) : s.shedCopy p ten gen addr m sid = s := by
  have hnil : ∀ l : List DEnt, (∀ e ∈ l, e.bad = false) →
      l.filter (fun e => e.bad && e.ten == ten && e.gen == gen && e.addr == addr) = [] := fun l hl =>
    List.filter_eq_nil_iff.mpr fun e he => by simp [hl e he]
  unfold State.shedCopy
  dsimp only
  rw [hnil _ fun e he => h e (List.mem_append_left _ he), hnil _ fun e he => h e (List.mem_append_right _ he)]
  rfl

/-- The read of a program's next pair, of which nothing is cached (R160, R194). -/
theorem State.fetchProgram_miss {s : State} {m c sid i : Nat} (hit : BitVec 512 → State → State × Going)
    (hc : s.cached (s.strmAt sid).part.toNat (s.strmAt sid).ten (s.strmAt sid).tgen (pairAddr (s.strmAt sid) i) = none)
    (hd : ∀ e ∈ (s.dcU (s.strmAt sid).part.toNat).desc ++ (s.dcU (s.strmAt sid).part.toNat).tabs, e.bad = false)
    (hwc : ∀ e ∈ (s.xlU (s.strmAt sid).part.toNat).wc, e.bad = false)
    (hen : (s.ten (s.strmAt sid).ten.toNat).rootEn = true) (hu : (s.mover m).utlb = [])
    (hl2 : (s.xlU (s.strmAt sid).part.toNat).l2 = []) :
    ∃ t, s.fetchProgram m c sid i hit = (t, .on) ∧
      (∀ j, t.chan j = if j = 4 * m + c then { s.chan (4 * m + c) with ph := .fetch } else s.chan j) ∧
      (∃ a ∈ t.acc, a.kind = .program ∧ a.wr = false ∧ a.va = pairAddr (s.strmAt sid) i ∧ a.len = 128) ∧
      t = { s with chans := t.chans, acc := t.acc, nextAid := t.nextAid, xl := t.xl } := by
  obtain ⟨u, hmk, hwalk, hmem⟩ := State.makeFar_miss (s := s)
    (a := s.chanAcc m c sid .program false (pairAddr (s.strmAt sid) i) 128) hen
    (fun j hj => by rw [← Option.some.inj hj]; exact hu) hl2
  obtain ⟨hclean, -⟩ := hwalk.clean hwc
  have hmks : s.makeOr m c [s.chanAcc m c sid .program false (pairAddr (s.strmAt sid) i) 128] 0 = (u, .on) := by
    unfold State.makeOr State.makeFars
    rw [hmk]
    rfl
  refine ⟨u.modCh m c fun h => { h with ph := .fetch }, ?_, fun j => ?_, ⟨_, hmem, rfl, rfl, rfl, rfl⟩, ?_⟩
  · unfold State.fetchProgram
    dsimp only
    rw [State.shedCopy_clean hd, hc]
    dsimp only
    rw [hmks]
  · rw [State.modCh_chan]
    have : ∀ j, u.chan j = s.chan j := fun j => by rw [hclean]; rfl
    rw [this, this]
  · rw [State.modCh_rest, hclean]

/-- What an ARMED stream leaves of its channel (R165). -/
theorem State.armed_leaves {u : State} {m c sid : Nat} {y : Strm} {h : Chan} {p : Nat} {rs : List RemReq} {q : Fq}
    (hu : u.Sees sid (4 * m + c) p rs y h q) (hact : h.act = some sid) (hsh : h.shadow = none) (hpend : y.rpend = none)
    (hsid : sid < 40960) (hst : y.st ≠ .waiting) :
    ∃ t, (u.makeArmed sid).leave m c = t ∧ (t.strmAt sid).st = .armed ∧ (t.ch m c).act = none ∧ u.Passes sid t := by
  obtain ⟨v, hv⟩ : ∃ v, v = u.modStrmAt sid fun x => { x with stopAt := .none } := ⟨_, rfl⟩
  have hvs : v.Sees sid (4 * m + c) p rs { y with stopAt := .none } h q := hv ▸ hu.modStrmAt hst
  have hws := hvs.setSt .armed .none (by decide)
  obtain ⟨w, hw⟩ : ∃ w, w = v.setSt sid .armed .none := ⟨_, rfl⟩
  rw [← hw] at hws
  have harmed : u.makeArmed sid = w := by
    unfold State.makeArmed
    dsimp only
    rw [← hv, ← hw, hws.strm]
    dsimp only
    rw [hpend]
  have hpv : u.Passes sid v := by
    rw [hv]
    exact u.modStrmAt_passes sid (fun x => { x with stopAt := .none }) (fun _ => rfl) sid
  have hpw : u.Passes sid w := by
    rw [hw]
    exact hpv.trans ((v.setSt_woken sid .armed .none).passes sid)
  have hwact : (w.ch m c).act = some sid := (congrArg Chan.act hws.chan).trans hact
  obtain ⟨z, g, hz, hsame, hga, hgs, -, -⟩ := hws.leaveOnly hact (show StState.armed ≠ .waiting by decide) hsid
  have hpl := w.leaveOnly_passes hsid hwact
  generalize hlo : w.leaveOnly m c = l at hz hpl
  obtain ⟨hfs, hfc, -, -⟩ := hz.wakeHome m c
  have hleave : w.leave m c = l.wakeHome m c := by
    unfold State.leave
    dsimp only
    rw [hlo, show (l.ch m c).shadow = none from (congrArg Chan.shadow hz.chan).trans (hgs.trans hsh)]
  refine ⟨l.wakeHome m c, by rw [harmed, hleave], ?_, ?_, ?_⟩
  · rw [hfs]
    exact hsame.1
  · exact (congrArg Chan.act hfc).trans hga
  · exact (hpw.trans hpl).trans ((l.makeReadies_woken _).passes sid)

end Sys2Proof.Machine

namespace Sys2Proof
open Machine

/-- Settles O14: nothing at the boundary keeps the stream; one without a further slot leaves, a program goes on. -/
theorem commandsComplete : Obligations.commands_complete := by
  unfold Obligations.commands_complete
  intro s m c sid k x p hact hph hstop hw hcmd hsk hslot htab harm hab hheld hrec hwait hsa hhas hml hrun hst
  have hop := State.completeOp_boundary hact hph hstop hw hcmd hsk hslot htab harm hab
  have hxst : x.st ≠ .waiting := by
    rcases s.strms.get_mem Strm.reset sid with h | h
    · rw [show x = Strm.reset from h]
      decide
    · exact hst _ h rfl
  refine ⟨?_, ?_⟩
  · intro cq q slot hpers hread hpend hsh hsid hnone hfull hroot hl2 hwc
    have hdue : recordDue x k = true := by
      unfold recordDue
      rw [hpers]
      rfl
    obtain ⟨r, hr⟩ : ∃ r, r = s.cqRecord m c sid k := ⟨_, rfl⟩
    have hrq : r.queue = k.recQueue := by rw [hr]; rfl
    have hrs : r.sid = sid := by rw [hr]; rfl
    have hbits : r.bits.extractLsb' 0 16 = BitVec.ofNat 16 (cTag k.raw) := by
      rw [hr]
      unfold State.cqRecord
      dsimp only
      refine (pack_extract [] 16 (cTag _) _ (by decide)).trans ?_
      split <;> rfl
    obtain ⟨t, a, ht, htr, htq, hth, ha, harq, hak, hawr, hava, halen, hadl⟩ := State.handOff_room (s := s) (r := r) (c := cq)
      (by rw [hrq]) (by rw [hrs]; exact hrec) (by rw [hrs]; exact hhas) hnone hfull hroot hl2 hwc
    have hts : t.strmAt sid = x := by rw [htr]; rfl
    obtain ⟨u, hu⟩ : ∃ u, u = t.modStrmAt sid fun y => y.passed x.pc := ⟨_, rfl⟩
    have hgo : u.CanGoOn m c sid := by
      rw [hu]
      refine .of_passed (by rw [hts]; exact hrec) (by rw [hts]; exact hwait) (by rw [hts]; exact hsa)
        (by rw [hts]; exact hheld) (hrs ▸ hth) ?_ ?_ x.pc
      · rw [← hml]
        unfold State.mustLeave
        rw [hts, htr]
        rfl
      · rw [hts, htr]
        exact hrun
    have hus : u.strmAt sid = x.passed x.pc := by
      rw [hu, State.modStrmAt_eq, State.setStrmAt_strmAt, if_pos rfl, hts]
    have hsees : u.Sees sid (4 * m + c) 0 s.peer.rem (x.passed x.pc) (s.ch m c) (s.part 0).fq := by
      have h0 : s.Sees sid (4 * m + c) 0 s.peer.rem x (s.ch m c) (s.part 0).fq := ⟨hst, rfl, rfl, rfl, fun _ h => h⟩
      have h1 : t.Sees sid (4 * m + c) 0 s.peer.rem x (s.ch m c) (s.part 0).fq :=
        h0.of_eq (by rw [htr]) (by rw [htr]) (by rw [htr]; rfl) (by rw [htr]; exact fun _ h => h)
      rw [hu]
      exact h1.modStrmAt (g := fun y => y.passed x.pc) hxst
    have hread' : u.readable sid = false := by rw [hu, htr]; exact hread
    obtain ⟨v, hv⟩ : ∃ v, v = u.modStrmAt sid fun y => { y with wait := .none } := ⟨_, rfl⟩
    have hvs := hsees.modStrmAt (g := fun y => { y with wait := .none }) hxst
    rw [← hv] at hvs
    obtain ⟨w, hwl, hwst, hwact, hpass⟩ := State.armed_leaves hvs hact hsh hpend (by omega) hxst
    have hpv : u.Passes sid v := by
      rw [hv]
      exact u.modStrmAt_passes sid (fun y => { y with wait := .none }) (fun _ => rfl) sid
    have hall : s.completeOp m c = w := by
      rw [hop, if_pos hdue, ← hr, ht, show (s.strmAt sid).pers = false from hpers, if_neg Bool.false_ne_true]
      change (t.modStrmAt sid fun y => y.passed x.pc).boundary m c sid = w
      rw [← hu, hgo.leaves (by rw [hus]; exact hpers) hread', ← hv, hwl]
    have hcqs : w.cqs = t.cqs := by rw [hpass.cqs, hpv.cqs, hu]; rfl
    have hcq : ∀ j, w.cq j = t.cq j := fun j => by
      unfold State.cq
      rw [hcqs]
    refine ⟨w, congrArg Host.Outcome.next hall, ⟨q.gives r, by rw [hcq, htq, if_pos rfl], rfl, rfl, hrs, hbits⟩,
      ⟨a, hpass.acc a (hpv.acc a (by rw [hu]; exact ha) harq) harq, hak, hawr, hava, halen, hadl⟩,
      fun j hj => by rw [hcq, htq, if_neg hj], hwst, ?_, hwact, ?_, ?_⟩
    · rw [hpass.cmd, hpv.cmd, hus]
      rfl
    · rw [hpass.sqs, hpv.sqs, hu, htr]
      rfl
    · rw [hpass.cnts, hpv.cnts, hu, htr]
      rfl
  · intro hpers hdue hop17 hran pc pair hcached hdc hwc hroot hutlb hl2
    have hpc : pcAfter x k = pc := by
      unfold pcAfter
      rw [beq_eq_false_iff_ne.mpr hop17, Bool.false_and, Bool.false_or]
      exact if_congr decide_eq_true_iff rfl rfl
    obtain ⟨u, hu⟩ : ∃ u, u = s.modStrmAt sid fun y => y.passed pc := ⟨_, rfl⟩
    have hgo : u.CanGoOn m c sid := hu ▸ .of_passed hrec hwait hsa hheld hhas hml hrun pc
    have hus : ∀ j, u.strmAt j = if j = sid then x.passed pc else s.strmAt j := fun j => by
      rw [hu, State.modStrmAt_eq, State.setStrmAt_strmAt]
    obtain ⟨v, hv⟩ : ∃ v, v = u.modStrmAt sid fun y => { y with wait := .none } := ⟨_, rfl⟩
    have hvs : ∀ j, v.strmAt j = if j = sid then x.passed pc else s.strmAt j := fun j => by
      rw [hv, State.modStrmAt_eq, State.setStrmAt_strmAt, hus, hus, if_pos rfl]
      split
      · rw [← show (x.passed pc).wait = .none from hwait]
      · rfl
    have hvr : v = { s with strms := v.strms } := by rw [hv, hu]; rfl
    have hvx : v.strmAt sid = x.passed pc := by rw [hvs, if_pos rfl]
    have hvch : ∀ j, v.chan j = s.chan j := fun j => by rw [hvr]; rfl
    obtain ⟨t, ht, htc, htacc, htr⟩ := State.fetchProgram_miss (s := v) (m := m) (c := c) (sid := sid) (i := pc.toNat)
      (fun raw t => t.takeCmd m c sid raw) (by rw [hvx, hvr]; exact hcached) (by rw [hvx, hvr]; exact hdc)
      (by rw [hvx, hvr]; exact hwc) (by rw [hvx, hvr]; exact hroot) (by rw [hvr]; exact hutlb) (by rw [hvx, hvr]; exact hl2)
    have hfetch : v.fetchNext m c sid = (t, .on) := by
      unfold State.fetchNext
      dsimp only
      rw [hvx, if_pos (show (x.passed pc).pers = true from hpers),
        if_pos (by rw [show (x.passed pc).ran = true from hran]; rfl)]
      exact ht
    have hall : s.completeOp m c = t := by
      rw [hop, if_neg (by rw [show recordDue (s.strmAt sid) k = false from hdue]; decide), if_pos hpers,
        show pcAfter (s.strmAt sid) k = pc from hpc, ← hu, hgo.boundary, ← hv, hfetch]
      rfl
    have hts : ∀ j, t.strmAt j = v.strmAt j := fun j => by rw [htr]; rfl
    have htch : t.ch m c = { s.ch m c with ph := .fetch } := by
      refine (htc _).trans ((if_pos rfl).trans ?_)
      rw [hvch]
      rfl
    refine ⟨t, congrArg Host.Outcome.next hall, ?_, by rw [htch]; exact hact, by rw [htch], ?_, ?_,
      ⟨fun j hj => ?_, fun j hj => ?_⟩, by rw [htr, hvr]⟩
    · rw [hts, hvx]
      rfl
    · obtain ⟨a, ha, hk, hwr, hva, hlen⟩ := htacc
      exact ⟨a, ha, hk, hwr, hva.trans (by rw [hvx]; rfl), hlen⟩
    · rw [htr, hvr]
    · rw [hts, hvs, if_neg hj]
    · rw [htc, if_neg hj, hvch]

end Sys2Proof
end

section
/-! O12: the statement asks too much of a state in which two accesses share an ID. -/

namespace Sys2Proof.Machine

/-- A source read of channel 0 of Mover 0. -/
def sharedRead (aid : Nat) : Access := { blankAcc 0 (.mover 0) 0 (.source 0) false 0 64 with aid := aid, stage := .out }

/-- Two source reads of stream 5's tile 0 are awaited, and a read of start has the ID of the first. -/
def sharedId : State := { State.reset with
  chans := [(0, { Chan.reset with act := some 5 })]
  acc := [sharedRead 1, sharedRead 2, { sharedRead 1 with kind := .bootRead }] }

/-- The read of start takes the response, and outside start nothing happens. -/
theorem sharedId_response : exec (.sourceReadResponse 1 [] .okay false) sharedId = .next sharedId := rfl

end Sys2Proof.Machine

namespace Sys2Proof
open Machine

/-- Refutes O12: where a read of start has the ID of a source read, the response is taken for the former; the
statement does not say that the IDs of the accesses differ. -/
theorem not_tiles : ¬ Obligations.tiles := by
  unfold Obligations.tiles
  intro h
  obtain ⟨t, ht, -, -, hacc, -⟩ := (h sharedId 0 0 5 rfl (by decide)).1 (sharedRead 1) (sharedRead 2) 0 [] rfl rfl rfl rfl rfl
    rfl rfl (by decide) (by decide) rfl rfl
  rw [← Host.Outcome.next.inj (sharedId_response.symm.trans ht)] at hacc
  exact absurd (congrArg List.length hacc) (by decide)

end Sys2Proof
end

section
/-! What the issue of far accesses leaves of the state. -/

namespace Sys2Proof.Machine

/-- What an access to a far address can change: the caches and walks, the accesses, and the count of parity errors. -/
def State.Fars (s t : State) : Prop :=
  t = { s with
    par := t.par, mg := t.mg, xl := t.xl, movers := t.movers, acc := t.acc, nextAid := t.nextAid }

theorem State.Fars.refl (s : State) : s.Fars s := rfl

theorem State.Fars.trans {s t u : State} (h : s.Fars t) (g : t.Fars u) : s.Fars u := by
  unfold State.Fars at h g ⊢
  rw [g, h]

theorem State.Fars.strms {s t : State} (h : s.Fars t) : t.strms = s.strms := by rw [h]
theorem State.Fars.chans {s t : State} (h : s.Fars t) : t.chans = s.chans := by rw [h]
theorem State.Fars.parts {s t : State} (h : s.Fars t) : t.parts = s.parts := by rw [h]
theorem State.Fars.chan {s t : State} (h : s.Fars t) (j : Nat) : t.chan j = s.chan j :=
  congrArg (fun m : SMap Chan => m.get Chan.reset j) h.chans
theorem State.Fars.part {s t : State} (h : s.Fars t) (j : Nat) : t.part j = s.part j :=
  congrArg (fun m : SMap Part => m.get Part.reset j) h.parts

theorem State.shedCount_fars (s : State) (m sid n : Nat) : s.Fars (s.shedCount m sid n) := by
  have h := s.shedCount_rest m sid n
  unfold State.Fars
  rw [h]

theorem State.modXlU_fars (s : State) (p : Nat) (g : Xl → Xl) : s.Fars (s.modXlU p g) := rfl

theorem State.modMover_fars (s : State) (m : Nat) (g : Mover → Mover) : s.Fars (s.modMover m g) := rfl

theorem State.pushAcc_fars (s : State) (a : Access) : s.Fars (s.pushAcc a) := rfl

theorem State.modAcc_fars (s : State) (aid : Nat) (f : Access → Access) : s.Fars (s.modAcc aid f) := rfl

theorem State.shedTlb_fars (s : State) (a : Access) : s.Fars (s.shedTlb a) := by
  unfold State.shedTlb
  dsimp only
  split
  · exact .refl s
  · cases rqMover a.rq with
    | none =>
      dsimp only
      split
      · exact .refl s
      · exact .trans (s.modXlU_fars a.part _) (State.shedCount_fars _ _ _ _)
    | some m =>
      dsimp only
      split
      · exact .refl s
      · exact .trans (.trans (s.modMover_fars m _) (State.modXlU_fars _ a.part _)) (State.shedCount_fars _ _ _ _)

theorem State.lookup_fars (s : State) (p : Nat) (mv : Option Nat) (ten gen : BitVec 8) (va : Nat) (wr : Bool) :
    s.Fars (s.lookup p mv ten gen va wr).2 := by
  unfold State.lookup
  split
  · exact .refl s
  · dsimp only
    split
    · cases mv with
      | none => exact .refl s
      | some m => rfl
    · split
      · cases mv with
        | none => rfl
        | some m => rfl
      · exact .refl s

theorem State.shedWalk_fars (s : State) (p : Nat) (r : WalkReq) : s.Fars (s.shedWalk p r) := by
  unfold State.shedWalk
  dsimp only
  split
  · exact .refl s
  · exact .trans (s.modXlU_fars _ _) (State.shedCount_fars _ _ _ _)

theorem State.walkRead_fars (s : State) (p : Nat) (w : Walk) : s.Fars (s.walkRead p w) := rfl

theorem State.startWalk_fars (s : State) (p : Nat) (r : WalkReq) : s.Fars (s.startWalk p r) := by
  unfold State.startWalk
  dsimp only
  have h := s.shedWalk_fars p r
  generalize s.shedWalk p r = u at h
  split
  · exact h.trans (.trans (u.modXlU_fars _ _) (State.walkRead_fars _ _ _))
  · exact h.trans (u.walkRead_fars _ _)

theorem State.translated_fars {s : State} {a : Access} (hk : ∀ n, a.kind ≠ .probe n) (e : TlbE) : s.Fars (s.translated a e) := by
  unfold State.translated
  split
  · next n m h _ => exact absurd h (hk n)
  · exact s.modAcc_fars _ _

/-- An access to a far address that is no probe (R182 to R187). -/
theorem State.makeFar_fars {s : State} {a : Access} (hk : ∀ n, a.kind ≠ .probe n) : s.Fars (s.makeFar a).1 := by
  unfold State.makeFar
  have h := (s.shedTlb_fars a).trans (State.lookup_fars _ a.part (rqMover a.rq) a.ten a.gen a.va a.permW)
  generalize (s.shedTlb a).lookup a.part (rqMover a.rq) a.ten a.gen a.va a.permW = z at h
  obtain ⟨r, u⟩ := z
  cases r with
  | hit e =>
    dsimp only
    exact h.trans (.trans (u.pushAcc_fars { a with stage := .xlat })
      (State.translated_fars (a := { a with aid := u.nextAid }) hk e))
  | fault c l => exact h
  | miss =>
    dsimp only
    refine h.trans (.trans (u.pushAcc_fars { a with stage := .xlat }) ?_)
    split
    · rfl
    · exact State.startWalk_fars _ _ _

theorem State.makeFars_fars {s : State} {l : List Access} (hk : ∀ a ∈ l, ∀ n, a.kind ≠ .probe n) : s.Fars (s.makeFars l).1 := by
  induction l generalizing s with
  | nil => exact .refl s
  | cons a l ih =>
    have h : s.Fars (s.makeFar a).1 := State.makeFar_fars (hk a List.mem_cons_self)
    unfold State.makeFars
    split
    · next t ht =>
      rw [ht] at h
      exact h.trans (ih fun b hb => hk b (List.mem_cons_of_mem _ hb))
    · next t f ht =>
      rw [ht] at h
      exact h

end Sys2Proof.Machine
end

section
/-! O10: a JOIN at a slot step boundary. -/

namespace Sys2Proof.Machine

theorem SMap.find_ins {α : Type} (m : SMap α) (k j : Nat) (v : α) :
    (m.ins k v).find j = if j = k then some v else m.find j := by
  induction m with
  | nil => exact if_congr eq_comm rfl rfl
  | cons e m ih =>
    unfold SMap.ins
    split
    · exact if_congr eq_comm rfl rfl
    · split
      · next he =>
        by_cases hj : j = k
        · rw [if_pos hj]
          exact if_pos hj.symm
        · rw [if_neg hj]
          exact (if_neg (Ne.symm hj)).trans (if_neg fun h => hj (h.symm.trans he)).symm
      · next he =>
        by_cases hej : e.1 = j
        · rw [if_neg fun h => he (hej.trans h)]
          exact (if_pos hej).trans (if_pos hej).symm
        · refine (if_neg hej).trans (ih.trans ?_)
          exact if_congr Iff.rfl rfl (if_neg hej).symm

/-- One index of a range. -/
theorem filterMap_range_single {β : Type} (n : Nat) (v : β) {N : Nat} (h : n < N) :
    (List.range N).filterMap (fun i => if i = n then some v else none) = [v] := by
  have hall : ∀ N, (List.range N).filterMap (fun i => if i = n then some v else none) = if n < N then [v] else [] := fun N => by
    induction N with
    | zero => rfl
    | succ N ih =>
      rw [List.range_succ, List.filterMap_append, ih]
      have hlast : [N].filterMap (fun i => if i = n then some v else none) = if N = n then [v] else [] := by
        by_cases hN : N = n
        · simp [hN]
        · simp [hN]
      rw [hlast]
      rcases Nat.lt_trichotomy n N with hn | hn | hn
      · rw [if_pos hn, if_neg (show ¬ N = n by omega), if_pos (show n < N + 1 by omega)]
        rfl
      · rw [if_neg (show ¬ n < N by omega), if_pos hn.symm, if_pos (show n < N + 1 by omega)]
        rfl
      · rw [if_neg (show ¬ n < N by omega), if_neg (show ¬ N = n by omega), if_neg (show ¬ n < N + 1 by omega)]
        rfl
  rw [hall, if_pos h]

/-- The entry of slot `i` in a table's bytes (R133). -/
def slotEntAt (data : List Byte) (i : Nat) : SlotEnt :=
  let e := (data.drop (32 * i)).take 32
  { n := i, req := bfld e 0 0 2, seq := bfld e 1 0 8, low := bfld e 2 0 8, ack := bfld e 3 0 8, rsv := bfld e 4 0 16,
    soff := BitVec.ofNat 48 (bfld e 8 0 48), doff := BitVec.ofNat 48 (bfld e 16 0 48) }

theorem slotEnts_eq {data : List Byte} (h : data.length = 8192) :
    slotEnts data = (List.range 256).map (slotEntAt data) := by
  have hc : chunks 32 data = (List.range 256).map fun k => (data.drop (k * 32)).take 32 := by
    unfold chunks
    rw [h]
    rfl
  unfold slotEnts
  rw [hc]
  refine List.ext_getElem (by simp) fun i h1 h2 => ?_
  have hi : i < 256 := by simpa using h2
  simp only [List.getElem_map, List.getElem_zipIdx, List.getElem_range, Nat.zero_add]
  unfold slotEntAt
  rw [Nat.mul_comm i 32]

/-- The bytes of a table that four reads of 2 KiB return. -/
theorem gotByte_chunks {data : List Byte} (h : data.length = 8192) (base : Nat) {j : Nat} (hj : j < 8192) :
    gotByte [(base, (data.drop 0).take 2048), (base + 2048, (data.drop 2048).take 2048),
      (base + 4096, (data.drop 4096).take 2048), (base + 6144, (data.drop 6144).take 2048)] (base + j) = data.getD j 0 := by
  have hlen : ∀ k, k ≤ 6144 → ((data.drop k).take 2048).length = 2048 := fun k hk => by
    rw [List.length_take, List.length_drop, h]
    omega
  have hget : ∀ k i, i < 2048 → ((data.drop k).take 2048).getD i 0 = data.getD (k + i) 0 := fun k i hi => by
    rw [List.getD_eq_getElem?_getD, List.getElem?_take_of_lt hi, List.getElem?_drop, ← List.getD_eq_getElem?_getD]
  have hone : ∀ k (t : List (Nat × List Byte)), k ≤ 6144 → k ≤ j → gotByte ((base + k, (data.drop k).take 2048) :: t) (base + j)
      = if j < k + 2048 then data.getD j 0 else gotByte t (base + j) := fun k t hk hkj => by
    rw [gotByte, hlen k hk]
    by_cases hlt : j < k + 2048
    · rw [if_pos hlt, if_pos (by omega), hget k _ (by omega)]
      congr 1
      omega
    · rw [if_neg hlt, if_neg (by omega)]
  rw [show (base, (data.drop 0).take 2048) = (base + 0, (data.drop 0).take 2048) from rfl, hone 0 _ (by omega) (by omega)]
  split
  · rfl
  · rw [hone 2048 _ (by omega) (by omega)]
    split
    · rfl
    · rw [hone 4096 _ (by omega) (by omega)]
      split
      · rfl
      · rw [hone 6144 _ (by omega) (by omega), if_pos (by omega)]

/-- The table that the reads return, put together (R133). -/
theorem slotTable_bytes {data : List Byte} {l : List Access} {base : Nat} (h : data.length = 8192)
    (hl : l.map (·.va) = (List.range 4).map fun i => base + 2048 * i) :
    ((List.range 8192).map fun i => gotByte ((l.zip (chunks 2048 data)).map fun e => (e.1.va, e.2)) (base + i)) = data := by
  have hc : chunks 2048 data = (List.range 4).map fun k => (data.drop (k * 2048)).take 2048 := by
    unfold chunks
    rw [h]
    rfl
  have hz : (l.zip (chunks 2048 data)).map (fun e => (e.1.va, e.2)) = (l.map (·.va)).zip (chunks 2048 data) := by
    rw [List.zip_map_left]
    rfl
  rw [hz, hl, hc]
  refine List.ext_getElem (by simp [h]) fun i h1 h2 => ?_
  have hi : i < 8192 := by simpa using h1
  rw [List.getElem_map, List.getElem_range]
  refine (gotByte_chunks h base hi).trans ?_
  rw [List.getD_eq_getElem?_getD, List.getElem?_eq_getElem h2]
  rfl

/-- The boundary of a table that asks for one thing, the JOIN of an EMPTY slot for which there is room (R133). -/
theorem Bnd.run_join {p : Part} {b : Bnd} {data : List Byte} {n : Nat} (hn : n < 256)
    (hother : ∀ i, i < 256 → i ≠ n → (slotEntAt data i).seq = (slotEntAt data i).ack)
    (hseq : (slotEntAt data n).seq ≠ (slotEntAt data n).ack) (hreq : (slotEntAt data n).req = 1)
    (hempty : b.slots.find n = none) (h0 : 0 < (slotEntAt data n).rsv) (h256 : (slotEntAt data n).rsv ≤ 256)
    (hroom : b.bs + (slotEntAt data n).rsv ≤ p.bsa.toNat) :
    Bnd.run p b ((List.range 256).map (slotEntAt data)) = { b with
      slots := b.slots.ins n { st := 1, rsv := BitVec.ofNat 16 (slotEntAt data n).rsv, soff := (slotEntAt data n).soff
                               doff := (slotEntAt data n).doff, ord := 0, units := [] }
      bs := b.bs + (slotEntAt data n).rsv
      out := b.out.ins n (1, false, true) } := by
  have hpend : ((List.range 256).map (slotEntAt data)).filter (fun e => e.seq != e.ack) = [slotEntAt data n] := by
    rw [← List.filterMap_eq_filter, List.filterMap_map, ← filterMap_range_single n (slotEntAt data n) hn]
    refine List.filterMap_congr fun i hi => ?_
    have hi' := List.mem_range.mp hi
    dsimp only [Function.comp]
    by_cases hin : i = n
    · subst hin
      rw [if_pos rfl]
      exact if_pos (bne_iff_ne.mpr hseq)
    · rw [if_neg hin]
      refine if_neg fun hne => bne_iff_ne.mp hne (hother i hi' hin)
  have hst : ((b.slots.find (slotEntAt data n).n).getD Slot.empty).st = 0 := by
    rw [show (slotEntAt data n).n = n from rfl, hempty]
    rfl
  unfold Bnd.run
  dsimp only
  rw [hpend]
  simp only [List.filter_cons, List.filter_nil, hreq, hst]
  exact (if_neg (by omega)).trans (if_pos hroom)

theorem SMap.ins_perm {α : Type} {m : SMap α} {k : Nat} (h : m.find k = none) (v : α) :
    List.Perm (m.ins k v) ((k, v) :: m) := by
  induction m with
  | nil => exact List.Perm.refl _
  | cons e m ih =>
    have hne : e.1 ≠ k := fun he => absurd ((if_pos he).symm.trans h) (Option.some_ne_none _)
    unfold SMap.ins
    split
    · exact List.Perm.refl _
    · exact (List.Perm.cons e (ih ((if_neg hne).symm.trans h))).trans (List.Perm.swap ..)

/-- The space of the slots of a state, with one slot more. -/
theorem slotSpace_ins {l : SMap Slot} {n : Nat} (h : l.find n = none) (v : Slot) (st : BitVec 3) :
    slotSpace (l.ins n v) st = (if v.st = st then v.rsv.toNat else 0) + slotSpace l st := by
  unfold slotSpace
  rw [(((SMap.ins_perm h v).filter fun e => e.2.st == st).map fun e => e.2.rsv.toNat).sum_eq, List.filter_cons]
  by_cases hv : v.st = st
  · rw [if_pos (beq_iff_eq.mpr hv), if_pos hv]
    rfl
  · rw [if_neg (fun hb => hv (beq_iff_eq.mp hb)), if_neg hv, Nat.zero_add]

/-- No spilled slot awaits its units. -/
theorem placeSlots_none {seed : Nat} {free : List Nat} {l : SMap Slot} (h : ∀ e ∈ l, e.2.st = 2 → e.2.units ≠ []) :
    placeSlots seed free l = (l, seed) := by
  have hnil : (l.filter fun e => e.2.st == 2 && e.2.units == []) = [] := List.filter_eq_nil_iff.mpr fun e he hb => by
    rw [Bool.and_eq_true, beq_iff_eq, beq_iff_eq] at hb
    exact h e he hb.1 hb.2
  unfold placeSlots
  rw [hnil]
  rfl

/-- The write that acknowledges the JOIN of slot `n` (R133). -/
def State.slotAck (s : State) (m c sid base n seq : Nat) : Access :=
  { s.chanAcc m c sid .slotWrite true (base + 32 * n + 2) 2 with
    data := [1, BitVec.ofNat 8 seq], en := [true, true] }

theorem State.delAccs_rest (s : State) (l : List Access) :
    l.foldl (fun st b => st.delAcc b.aid) s = { s with acc := (l.foldl (fun st b => st.delAcc b.aid) s).acc } :=
  List.foldlRecOn (motive := fun t : State => t = { s with acc := t.acc }) _ _ rfl fun t h b _ => by
    rw [h]
    rfl

/-- The boundary of a slot table whose entries `es` lie at `base` (R133, R211). -/
def State.slotsTaken (s1 : State) (m c sid base : Nat) (es : List SlotEnt) : State :=
  let x := s1.strmAt sid
  let p := s1.part x.part.toNat
  let b := Bnd.run p { slots := x.slots, bs := p.bsUsed, sp := p.spUsed, out := [], ord := s1.seq } es
  let (slots, free) := placeSlots s1.free (s1.freeUnits x.part.toNat (some sid)) b.slots
  let s2 := (s1.moveSpace x.part.toNat (slotSpace x.slots) (bndSpace x.slots slots)).modCh m c fun y =>
    { y with bnd := some slots }
  let s3 := { s2 with seq := b.ord, free := free }
  let writes := es.filterMap fun e => (b.out.find e.n).bind fun (st, err, ack) =>
    let low := st.toNat + 8 * b2n err
    let a8 := if ack then e.seq else e.ack
    if low = e.low ∧ a8 = e.ack then none
    else some { s3.chanAcc m c sid .slotWrite true (base + 32 * e.n + 2) 2 with
      data := [BitVec.ofNat 8 low, BitVec.ofNat 8 a8]
      en := [true, true] }
  if writes = [] then s3.slotsDone m c sid
  else State.goOn m c sid (s3.makeOr m c writes 0)

/-- A table's reads have come (R133). -/
theorem State.slotTableOp_taken {s : State} {m c sid base : Nat} {data : List Byte} {l : List Access}
    (hact : (s.ch m c).act = some sid) (hph : (s.ch m c).ph = .slots) (hstop : (s.ch m c).stop = none)
    (hgot : (s.ch m c).got = []) (hl : (s.acc.filter fun a => ofChan m c a && a.kind == .slotTable) = l)
    (hout : ∀ a ∈ l, a.stage = .out) (hva : l.map (·.va) = (List.range 4).map fun i => base + 2048 * i)
    (hlen : data.length = 8192) :
    s.slotTableOp m c data .okay = ((l.foldl (fun st b => st.delAcc b.aid) s).modCh m c fun y =>
      { y with got := [] }).slotsTaken m c sid base (slotEnts data) := by
  obtain ⟨a, l', hcons⟩ : ∃ a l', l = a :: l' := by
    cases l with
    | nil => exact absurd (congrArg List.length hva) (by simp)
    | cons a l' => exact ⟨a, l', rfl⟩
  have hfirst : a.va = base := by
    rw [hcons] at hva
    exact (List.cons.inj hva).1
  have hbase : (((l.zip (chunks 2048 data)).map fun e => (e.1.va, e.2)).map (·.1)).foldl min a.va = base := by
    have hmap : ((l.zip (chunks 2048 data)).map fun e => (e.1.va, e.2)).map (·.1) = l.map (·.va) := by
      have hlc : l.length ≤ (chunks 2048 data).length := by
        have h4 : l.length = 4 := by simpa using congrArg List.length hva
        unfold chunks
        rw [hlen, h4]
        simp [ceilDiv]
      rw [List.map_map]
      refine Eq.trans ?_ (congrArg (List.map (·.va)) (List.map_fst_zip hlc))
      rw [List.map_map]
      rfl
    rw [hmap, hva, hfirst]
    change min (min (min (min base (base + 2048 * 0)) (base + 2048 * 1)) (base + 2048 * 2)) (base + 2048 * 3) = base
    omega
  have htable : (s.ch m c).got ++ (l.zip (chunks 2048 data)).map (fun e => (e.1.va, e.2)) =
      (l.zip (chunks 2048 data)).map fun e => (e.1.va, e.2) := by rw [hgot]; rfl
  have hres : s.slotTableOp m c data .okay =
      ((l.foldl (fun st b => st.delAcc b.aid) s).modCh m c fun y => { y with got := [] }).slotsTaken m c sid
        ((((s.ch m c).got ++ (l.zip (chunks 2048 data)).map fun e => (e.1.va, e.2)).map (·.1)).foldl min a.va)
        (slotEnts ((List.range 8192).map fun i => gotByte ((s.ch m c).got ++ (l.zip (chunks 2048 data)).map fun e => (e.1.va, e.2))
          ((((s.ch m c).got ++ (l.zip (chunks 2048 data)).map fun e => (e.1.va, e.2)).map (·.1)).foldl min a.va + i))) := by
    unfold State.slotTableOp
    dsimp only
    rw [hl, hact, hcons]
    dsimp only
    rw [← hcons]
    exact (if_neg (by
      rintro (h | h | h)
      · exact h hph
      · exact h hstop
      · obtain ⟨b, hb, hb'⟩ := List.any_eq_true.mp h
        exact bne_iff_ne.mp hb' (hout b hb))).trans (if_neg (by decide))
  rw [hres, htable, hbase, slotTable_bytes hlen hva]

end Sys2Proof.Machine

namespace Sys2Proof
open Machine

/-- Settles O10: the table's one pending entry joins, and its acknowledgement is the only write. -/
theorem slotJoins : Obligations.slot_joins := by
  unfold Obligations.slot_joins
  intro s m c sid base data n l x p ent rsv hact hph hstop hgot hl hout hva hlen hother hseq hreq hempty h0 h256 hroom hs1 hs2
    hunits hroot hutlb hl2
  obtain ⟨s1, hs⟩ : ∃ t, t = (l.foldl (fun st b => st.delAcc b.aid) s).modCh m c fun y => { y with got := [] } := ⟨_, rfl⟩
  obtain ⟨v, hv⟩ : ∃ v : Slot, v = {
    st := 1, rsv := BitVec.ofNat 16 rsv, ord := 0, units := []
    soff := BitVec.ofNat 48 (bfld (ent n) 8 0 48), doff := BitVec.ofNat 48 (bfld (ent n) 16 0 48) } := ⟨_, rfl⟩
  have hrsv : v.rsv.toNat = rsv := by
    rw [hv]
    exact Nat.mod_eq_of_lt (by omega)
  have h1r : s1 = { s with acc := s1.acc, chans := s1.chans } := by
    rw [hs, State.modCh_rest, State.delAccs_rest]
  have h1c : ∀ j, s1.chan j = if j = 4 * m + c then { s.ch m c with got := [] } else s.chan j := fun j => by
    rw [hs, State.modCh_chan, State.delAccs_rest]
    rfl
  have h1s : s1.strmAt sid = x := by rw [h1r]; rfl
  have h1p : ∀ j, s1.part j = s.part j := fun j => by rw [h1r]; rfl
  obtain ⟨s3, h3⟩ : ∃ t, t = (s1.moveSpace p (slotSpace x.slots) (bndSpace x.slots (x.slots.ins n v))).modCh m c fun y =>
    { y with bnd := some (x.slots.ins n v) } := ⟨_, rfl⟩
  have h3r : s3 = { s1 with parts := s3.parts, chans := s3.chans } := by rw [h3]; rfl
  have h3c : ∀ j, s3.chan j = if j = 4 * m + c then { s.ch m c with got := [], bnd := some (x.slots.ins n v) } else s.chan j :=
    fun j => by
      have hm : ∀ j, (s1.moveSpace p (slotSpace x.slots) (bndSpace x.slots (x.slots.ins n v))).chan j = s1.chan j :=
        fun j => rfl
      rw [h3, State.modCh_chan, hm, hm, h1c, h1c, if_pos rfl]
      split <;> rfl
  have hsp1 : bndSpace x.slots (x.slots.ins n v) 1 = rsv + slotSpace x.slots 1 := by
    unfold bndSpace
    rw [slotSpace_ins hempty, hrsv, if_pos (by rw [hv])]
    omega
  have hsp2 : bndSpace x.slots (x.slots.ins n v) 2 = slotSpace x.slots 2 := by
    unfold bndSpace
    rw [slotSpace_ins hempty, if_neg (by rw [hv]; exact (show ¬ (1 : BitVec 3) = 2 by decide))]
    omega
  have h3p : ∀ j, s3.part j = if j = p then { s.part p with
      bsUsed := (s.part p).bsUsed + rsv, spUsed := (s.part p).spUsed } else s.part j := fun j => by
    have hm : s3.part j = (s1.moveSpace p (slotSpace x.slots) (bndSpace x.slots (x.slots.ins n v))).part j := by
      rw [h3]
      rfl
    rw [hm]
    refine (State.modPart_part ..).trans ?_
    rw [hsp1, hsp2, h1p, h1p]
    refine if_congr Iff.rfl ?_ rfl
    have e1 : (s.part p).bsUsed - slotSpace x.slots 1 + (rsv + slotSpace x.slots 1) = (s.part p).bsUsed + rsv := by omega
    have e2 : (s.part p).spUsed - slotSpace x.slots 2 + slotSpace x.slots 2 = (s.part p).spUsed := by omega
    rw [e1, e2]
  obtain ⟨w, hw⟩ : ∃ w, w = s3.slotAck m c sid base n (bfld (ent n) 1 0 8) := ⟨_, rfl⟩
  have h3x : s3.strmAt sid = x := by
    rw [h3r]
    exact h1s
  have hwt : w.ten = x.ten := by rw [hw, ← h3x]; rfl
  have hwp : w.part = p := by rw [hw, show p = (s3.strmAt sid).part.toNat by rw [h3x]]; rfl
  obtain ⟨t, ht, hwalk, hmem⟩ := State.makeFars_miss (p := p) (s := s3) (l := [w])
    (fun b hb => by rw [List.mem_singleton.mp hb, hwp])
    (fun b hb => by rw [List.mem_singleton.mp hb, hwt, h3r, h1r]; exact hroot)
    (fun b hb j hj => by
      rw [List.mem_singleton.mp hb, hw] at hj
      rw [← Option.some.inj hj, h3r, h1r]
      exact hutlb)
    (by rw [h3r, h1r]; exact hl2)
  have hfars : s3.Fars t := by
    have h := State.makeFars_fars (s := s3) (l := [w]) fun b hb j => by
      rw [List.mem_singleton.mp hb, hw]
      exact AKind.noConfusion
    rw [ht] at h
    exact h
  have h3e : ({ s3 with seq := s.seq, free := s.free } : State) = s3 := by rw [h3r, h1r]
  have hrun : Bnd.run (s.part p) { slots := x.slots, bs := (s.part p).bsUsed, sp := (s.part p).spUsed, out := [], ord := s.seq }
      (slotEnts data) = { slots := x.slots.ins n v, bs := (s.part p).bsUsed + rsv, sp := (s.part p).spUsed
                          out := [(n.val, (1, false, true))], ord := s.seq } := by
    rw [slotEnts_eq hlen, hv]
    exact Bnd.run_join n.isLt hother hseq hreq hempty h0 h256 hroom
  have hplace : ∀ free, placeSlots s.free free (x.slots.ins n v) = (x.slots.ins n v, s.free) := fun free =>
    placeSlots_none fun e he h2 => by
      rcases SMap.mem_ins _ _ _ _ he with rfl | h
      · rw [hv] at h2
        exact absurd h2 (show ¬ (1 : BitVec 3) = 2 by decide)
      · exact hunits e h h2
  have hwrites : (slotEnts data).filterMap (fun e => (SMap.find [(n.val, ((1 : BitVec 3), false, true))] e.n).bind fun o =>
      let low := o.1.toNat + 8 * b2n o.2.1
      let a8 := if o.2.2 then e.seq else e.ack
      if low = e.low ∧ a8 = e.ack then none
      else some { s3.chanAcc m c sid .slotWrite true (base + 32 * e.n + 2) 2 with
        data := [BitVec.ofNat 8 low, BitVec.ofNat 8 a8]
        en := [true, true] }) = [w] := by
    rw [slotEnts_eq hlen, List.filterMap_map, ← filterMap_range_single n.val w n.isLt]
    refine List.filterMap_congr fun i hi => ?_
    dsimp only [Function.comp]
    by_cases hin : i = n.val
    · rw [hin, if_pos rfl, show SMap.find [(n.val, ((1 : BitVec 3), false, true))] (slotEntAt data n).n
        = some (1, false, true) from if_pos rfl]
      refine (if_neg fun h => hseq h.2).trans ?_
      rw [hw]
      rfl
    · rw [if_neg hin, show SMap.find [(n.val, ((1 : BitVec 3), false, true))] (slotEntAt data i).n
        = none from if_neg fun h => hin h.symm]
      rfl
  have hop : s.slotTableOp m c data .okay = t := by
    rw [State.slotTableOp_taken hact hph hstop hgot hl hout hva hlen, ← hs]
    unfold State.slotsTaken
    dsimp only
    rw [h1s, h1p, show s1.seq = s.seq by rw [h1r], show s1.free = s.free by rw [h1r], hrun]
    dsimp only
    rw [hplace]
    dsimp only
    rw [← h3, h3e, hwrites, if_neg (List.cons_ne_nil _ _)]
    unfold State.makeOr
    rw [ht]
    rfl
  refine ⟨t, x.slots.ins n v, congrArg Host.Outcome.next hop, ?_, ?_, fun i hi => ?_, ?_, ?_, ?_, ?_, fun j hj => ?_, fun j hj => ?_⟩
  · refine (congrArg Chan.bnd (hfars.chan _)).trans ?_
    rw [h3c, if_pos rfl]
  · rw [SMap.find_ins, if_pos rfl, hv]
  · rw [SMap.find_ins, if_neg hi]
  · rw [hfars.strms, h3r, h1r]
  · rw [hfars.part, h3p, if_pos rfl]
  · rw [hfars.part, h3p, if_pos rfl]
  · obtain ⟨b, hb, i, hbe⟩ := hmem w (List.mem_singleton_self w)
    rw [hw] at hbe
    exact ⟨b, hb, by rw [hbe]; rfl, by rw [hbe]; rfl, by rw [hbe]; rfl, by rw [hbe]; rfl, by rw [hbe]; rfl, by rw [hbe]; rfl⟩
  · rw [hfars.part, h3p, if_neg hj]
  · rw [hfars.chan, h3c, if_neg hj]

end Sys2Proof
end

section
/-! What a fence, the walks and the work of channels never write (`Outer`): the parts of the state that have events of
their own, and of tenants, partitions and Movers all but their activity. One lemma per function of the model says that
the function leaves them as they are. A proof `(rfl)` in brackets keeps `simp` from using the lemma by unfolding alone,
so that the lemma can discharge a hypothesis of another one; `-implicitDefEqProofs` does the same for the laws of
State. -/

namespace Sys2Proof.Machine

/-- What of a tenant a fence keeps. -/
def Tenant.fixed (x : Tenant) : Tenant :=
  { x with active := false, vt := Tenant.reset.vt, placed := 0, cyc := Tenant.reset.cyc }

@[simp] theorem Tenant.fixed_mk (en part avail gen weight cerr cyc vt active placed rootEn wattr root) :
    (Tenant.mk en part avail gen weight cerr cyc vt active placed rootEn wattr root).fixed = Tenant.mk en part avail
        gen weight cerr Tenant.reset.cyc Tenant.reset.vt false 0 rootEn wattr root := (rfl)

@[simp] theorem Tenant.fixed_eta (x : Tenant) :
    Tenant.mk x.en x.part x.avail x.gen x.weight x.cerr Tenant.reset.cyc Tenant.reset.vt false 0 x.rootEn x.wattr
        x.root = x.fixed := (rfl)

/-- What of a partition a fence keeps. -/
def Part.fixed (x : Part) : Part :=
  { x with
    homeDrop := false, fq := Fq.reset, ftab := [], fnext := Part.reset.fnext, pfUsed := 0, bsUsed := 0, spUsed := 0 }

@[simp] theorem Part.fixed_mk (en spillEn eten mvmask pfa bsa qen qglo qghi ren rglo rghi spillAttr spillBase
    spillSz glacAttr glacBase gfirst gcnt issue nwin ecnEn ecnAttr ecnLo ecnHi trkF trkN quantum homeDrop fq ftab
    fnext pfUsed bsUsed spUsed) :
    (Part.mk en spillEn eten mvmask pfa bsa qen qglo qghi ren rglo rghi spillAttr spillBase spillSz glacAttr
        glacBase gfirst gcnt issue nwin ecnEn ecnAttr ecnLo ecnHi trkF trkN quantum homeDrop fq ftab fnext pfUsed
        bsUsed spUsed).fixed = Part.mk en spillEn eten mvmask pfa bsa qen qglo qghi ren rglo rghi spillAttr
        spillBase spillSz glacAttr glacBase gfirst gcnt issue nwin ecnEn ecnAttr ecnLo ecnHi trkF trkN quantum false
        Fq.reset [] Part.reset.fnext 0 0 0 := (rfl)

@[simp] theorem Part.fixed_eta (x : Part) :
    Part.mk x.en x.spillEn x.eten x.mvmask x.pfa x.bsa x.qen x.qglo x.qghi x.ren x.rglo x.rghi x.spillAttr
        x.spillBase x.spillSz x.glacAttr x.glacBase x.gfirst x.gcnt x.issue x.nwin x.ecnEn x.ecnAttr x.ecnLo x.ecnHi
        x.trkF x.trkN x.quantum false Fq.reset [] Part.reset.fnext 0 0 0 = x.fixed := (rfl)

/-- What of a Mover a fence keeps. -/
def Mover.fixed (x : Mover) : Mover :=
  { x with
    susp := [], sovf := false, gated := false, turnI := 0, turnO := 0, turnR := 0, turnW := 0, turnX := 0, utlb := [] }

@[simp] theorem Mover.fixed_mk (solo solot oos hang testf req phase tpass tfail tdrop susp sovf froz gated turnI
    turnO turnR turnW turnX utlb) :
    (Mover.mk solo solot oos hang testf req phase tpass tfail tdrop susp sovf froz gated turnI turnO turnR turnW
        turnX utlb).fixed = Mover.mk solo solot oos hang testf req phase tpass tfail tdrop [] false froz false 0 0 0
        0 0 [] := (rfl)

@[simp] theorem Mover.fixed_eta (x : Mover) :
    Mover.mk x.solo x.solot x.oos x.hang x.testf x.req x.phase x.tpass x.tfail x.tdrop [] false x.froz false 0 0 0 0
        0 [] = x.fixed := (rfl)

/-- What a fence, the walks and the work of channels keep. -/
structure Outer where
  pending : List Instr
  boot : Boot
  pins : Pins
  esc : Esc
  rst : SMap RstEng
  blk : Option (BitVec 3)
  sink : List Access
  stc : Stc
  granRet : SMap Bool
  granErr : SMap Nat
  scrub : Nat
  pwr : Pwr
  hsec : HSec
  dbg : Dbg
  host : Hst
  tabs : SMap Tab
  arb : Arb
  inv : Inv
  nvm : SMap Byte
  smb : Smb
  tap : Tap
  cnts : SMap Cnt
  ropes : SMap Rope
  recs : Bool × BitVec 16
  tens : Nat → Tenant
  parts : Nat → Part
  movers : Nat → Mover

/-- What of a state they keep. -/
def State.outer (s : State) : Outer :=
  ⟨s.pending, s.boot, s.pins, s.esc, s.rst, s.blk, s.sink, s.stc, s.granRet, s.granErr, s.scrub, s.pwr, s.hsec, s.dbg,
    s.host, s.tabs, s.arb, s.inv, s.nvm, s.smb, s.tap, s.cnts, s.ropes, (s.par.recE, s.par.rcnt), fun k => (s.tens.get
    Tenant.reset k).fixed, fun k => (s.parts.get Part.reset k).fixed, fun k => (s.movers.get Mover.reset k).fixed⟩

@[simp] theorem State.outer_eta (s : State) :
    Outer.mk s.pending s.boot s.pins s.esc s.rst s.blk s.sink s.stc s.granRet s.granErr s.scrub s.pwr s.hsec s.dbg
        s.host
      s.tabs s.arb s.inv s.nvm s.smb s.tap s.cnts s.ropes (s.par.recE, s.par.rcnt) (fun k => (s.tens.get Tenant.reset
      k).fixed) (fun k => (s.parts.get Part.reset k).fixed) (fun k => (s.movers.get Mover.reset k).fixed) = s.outer :=
      (rfl)

@[simp] theorem State.outer_ite (c : Prop) [Decidable c] (s t : State) :
    (if c then s else t).outer = if c then s.outer else t.outer := apply_ite State.outer c s t

/-- Steps that each keep a list of things in order keep it together. -/
@[simp] theorem State.outer_foldl {α : Type} {f : State → α → State} (hf : ∀ s a, (f s a).outer = s.outer) (s : State)
    (l : List α) : (l.foldl f s).outer = s.outer := by
  induction l generalizing s with
  | nil => rfl
  | cons a l ih => exact (ih _).trans (hf s a)

@[simp] theorem State.outer_mk (pending cc nextAid seq free boot pins esc rst blk sink par stc granRet granErr scrub
    pwr hsec dbg irq strm host tens sqs cqs parts ecn xl dc tabs arb movers chans cnts ropes strms acc stg inv peer mg
    nvm smb tap) :
    (State.mk pending cc nextAid seq free boot pins esc rst blk sink par stc granRet granErr scrub pwr hsec dbg irq
      strm host tens sqs cqs parts ecn xl dc tabs arb movers chans cnts ropes strms acc stg inv peer mg nvm smb
      tap).outer =
    ⟨pending, boot, pins, esc, rst, blk, sink, stc, granRet, granErr, scrub, pwr, hsec, dbg, host, tabs, arb, inv,
        nvm,
        smb, tap, cnts, ropes, (par.recE, par.rcnt), fun k => (tens.get Tenant.reset k).fixed, fun k => (parts.get
        Part.reset k).fixed, fun k => (movers.get Mover.reset k).fixed⟩ := (rfl)

/-! ### Functions of Ops.lean -/

@[simp] theorem State.setTen_outer (s : State) (k : Nat) (v : Tenant) (h : v.fixed = (s.ten k).fixed) :
    (s.setTen k v).outer = s.outer := by
  have hf : (fun j => ((s.setTen k v).ten j).fixed) = fun j => (s.ten j).fixed := funext fun j => by
    rw [setTen_ten]
    split
    · next hj => rw [hj, h]
    · rfl
  exact congrArg (fun x => { s.outer with tens := x }) hf

@[simp] theorem State.setSq_outer (s : State) (k v) : (s.setSq k v).outer = s.outer := (rfl)
@[simp] theorem State.setCq_outer (s : State) (k v) : (s.setCq k v).outer = s.outer := (rfl)
@[simp] theorem State.setPart_outer (s : State) (k : Nat) (v : Part) (h : v.fixed = (s.part k).fixed) :
    (s.setPart k v).outer = s.outer := by
  have hf : (fun j => ((s.setPart k v).part j).fixed) = fun j => (s.part j).fixed := funext fun j => by
    rw [setPart_part]
    split
    · next hj => rw [hj, h]
    · rfl
  exact congrArg (fun x => { s.outer with parts := x }) hf

@[simp] theorem State.modPart_outer (s : State) (k : Nat) (g : Part → Part) (h : ∀ x, (g x).fixed = x.fixed) :
    (s.modPart k g).outer = s.outer := setPart_outer s k _ (h _)

@[simp] theorem State.setEcnCh_outer (s : State) (k v) : (s.setEcnCh k v).outer = s.outer := (rfl)
@[simp] theorem State.setXlU_outer (s : State) (k v) : (s.setXlU k v).outer = s.outer := (rfl)
@[simp] theorem State.setDcU_outer (s : State) (k v) : (s.setDcU k v).outer = s.outer := (rfl)
@[simp] theorem State.setMover_outer (s : State) (k : Nat) (v : Mover) (h : v.fixed = (s.mover k).fixed) :
    (s.setMover k v).outer = s.outer := by
  have hf : (fun j => ((s.setMover k v).mover j).fixed) = fun j => (s.mover j).fixed := funext fun j => by
    rw [setMover_mover]
    split
    · next hj => rw [hj, h]
    · rfl
  exact congrArg (fun x => { s.outer with movers := x }) hf

@[simp] theorem State.setChan_outer (s : State) (k v) : (s.setChan k v).outer = s.outer := (rfl)
@[simp] theorem State.setStrmAt_outer (s : State) (k v) : (s.setStrmAt k v).outer = s.outer := (rfl)
@[simp] theorem State.setStrmP_outer (s : State) (k v) : (s.setStrmP k v).outer = s.outer := (rfl)

/-! ### Functions of Access.lean -/

@[simp] theorem State.cacheParity_outer (s : State) (m sid) : (s.cacheParity m sid).outer = s.outer := (rfl)

@[simp] theorem State.shedCount_outer (s : State) (m sid n) : (s.shedCount m sid n).outer = s.outer := by
  simp -implicitDefEqProofs [shedCount]

@[simp] theorem State.modCh_outer (s : State) (m c f) : (s.modCh m c f).outer = s.outer := (rfl)
@[simp] theorem State.delAcc_outer (s : State) (aid) : (s.delAcc aid).outer = s.outer := (rfl)
@[simp] theorem State.modAcc_outer (s : State) (aid f) : (s.modAcc aid f).outer = s.outer := (rfl)
@[simp] theorem State.pushAcc_outer (s : State) (a) : (s.pushAcc a).outer = s.outer := (rfl)
@[simp] theorem State.pushPhys_outer (s : State) (a attr) : (s.pushPhys a attr).outer = s.outer := (rfl)
@[simp] theorem State.pushNear_outer (s : State) (a n) : (s.pushNear a n).outer = s.outer := (rfl)

@[simp] theorem State.lookup_outer (s : State) (p mv ten gen va wr) :
    (s.lookup p mv ten gen va wr).2.outer = s.outer := by
  unfold lookup
  dsimp only
  repeat' split
  all_goals simp -implicitDefEqProofs

@[simp] theorem State.shedTlb_outer (s : State) (a) : (s.shedTlb a).outer = s.outer := by
  unfold shedTlb
  dsimp only
  repeat' split
  all_goals simp -implicitDefEqProofs

@[simp] theorem State.walkRead_outer (s : State) (p w) : (s.walkRead p w).outer = s.outer := (rfl)

@[simp] theorem State.shedWalk_outer (s : State) (p r) : (s.shedWalk p r).outer = s.outer := by
  simp -implicitDefEqProofs [shedWalk]

@[simp] theorem State.startWalk_outer (s : State) (p r) : (s.startWalk p r).outer = s.outer := by
  unfold startWalk
  dsimp only
  split <;> simp -implicitDefEqProofs

@[simp] theorem State.translated_outer (s : State) (a e) : (s.translated a e).outer = s.outer := by
  unfold translated
  split <;> simp -implicitDefEqProofs

@[simp] theorem State.pumpWalk_outer (s : State) (p l fs) : (s.pumpWalk p l fs).1.outer = s.outer := by
  induction l generalizing s fs with
  | nil => simp -implicitDefEqProofs [pumpWalk]
  | cons r t ih =>
    unfold pumpWalk
    split
    · exact ih s fs
    · next a _ =>
      have h := (s.shedTlb a).lookup_outer p (rqMover a.rq) r.ten r.gen r.va r.wr
      split <;> simp_all

@[simp] theorem State.makeFar_outer (s : State) (a) : (s.makeFar a).1.outer = s.outer := by
  have h := (s.shedTlb a).lookup_outer a.part (rqMover a.rq) a.ten a.gen a.va a.permW
  unfold makeFar
  split
  · simp_all
  · simp_all
  · dsimp only
    split <;> simp_all

@[simp] theorem State.makeFars_outer (s : State) (l) : (s.makeFars l).1.outer = s.outer := by
  induction l generalizing s with
  | nil => rfl
  | cons a t ih =>
    have h := s.makeFar_outer a
    unfold makeFars
    split <;> simp_all

/-! ### Functions of Fault.lean -/

@[simp] theorem State.sendMsi_outer (s : State) (p n) : (s.sendMsi p n).outer = s.outer := (rfl)

@[simp] theorem State.pumpFq_outer (s : State) (p) : (s.pumpFq p).outer = s.outer := by
  unfold pumpFq
  dsimp only
  split <;> simp -implicitDefEqProofs

@[simp] theorem State.fqLose_outer (s : State) (p) : (s.fqLose p).outer = s.outer :=
  modPart_outer s p _ fun _ => rfl

@[simp] theorem State.pushFault_outer (s : State) (p f) : (s.pushFault p f).outer = s.outer := by
  simp -implicitDefEqProofs [pushFault]

@[simp] theorem State.fqPending_outer (s : State) (p) : (s.fqPending p).outer = s.outer := by
  simp -implicitDefEqProofs [fqPending]

@[simp] theorem State.fqWritten_outer (s : State) (p ok) : (s.fqWritten p ok).outer = s.outer := by
  simp -implicitDefEqProofs [fqWritten]

@[simp] theorem State.fqAnswered_outer (s : State) (a p ok) : (s.fqAnswered a p ok).outer = s.outer := by
  simp -implicitDefEqProofs [fqAnswered]

@[simp] theorem State.cqPending_outer (s : State) (c) : (s.cqPending c).outer = s.outer := by
  simp -implicitDefEqProofs [cqPending]

@[simp] theorem State.outstDec_outer (s : State) (r) : (s.outstDec r).outer = s.outer := by
  simp -implicitDefEqProofs [outstDec]

@[simp] theorem State.cqAdvance_outer (s : State) (c l) : (s.cqAdvance c l).outer = s.outer := by
  induction l generalizing s with
  | nil => simp -implicitDefEqProofs [cqAdvance]
  | cons g t ih =>
    unfold cqAdvance
    dsimp only
    split <;> [rw [ih]; skip] <;> simp -implicitDefEqProofs

/-! ### Functions of Stream.lean -/

@[simp] theorem State.refreshActive_outer (s : State) (t) : (s.refreshActive t).outer = s.outer := by
  simp -implicitDefEqProofs [refreshActive]

@[simp] theorem State.setSt_outer (s : State) (sid st w) : (s.setSt sid st w).outer = s.outer := by
  simp -implicitDefEqProofs [setSt]

@[simp] theorem State.haltHome_outer (s : State) (sid) : (s.haltHome sid).outer = s.outer := by
  simp -implicitDefEqProofs [haltHome]

@[simp] theorem State.makeReady_outer (s : State) (sid) : (s.makeReady sid).outer = s.outer := by
  simp -implicitDefEqProofs [makeReady]

@[simp] theorem State.makeReadies_outer (s : State) (l) : (s.makeReadies l).outer = s.outer := by
  simp -implicitDefEqProofs [makeReadies]

@[simp] theorem State.setWait_outer (s : State) (sid w) : (s.setWait sid w).outer = s.outer := by
  simp -implicitDefEqProofs [setWait]

@[simp] theorem State.wakeUp_outer (s : State) : (s.wakeUp).outer = s.outer := by
  simp -implicitDefEqProofs [wakeUp]

@[simp] theorem State.wakeHome_outer (s : State) (m c) : (s.wakeHome m c).outer = s.outer := by
  simp -implicitDefEqProofs [wakeHome]

@[simp] theorem State.modGen_outer (s : State) (p g f) : (s.modGen p g f).outer = s.outer := by
  unfold modGen
  split <;> simp -implicitDefEqProofs

@[simp] theorem State.unpin_outer (s : State) (sid) : (s.unpin sid).outer = s.outer := by
  simp -implicitDefEqProofs [unpin]

@[simp] theorem State.rearmEnds_outer (s : State) (issuer target aborted) :
    (s.rearmEnds issuer target aborted).outer = s.outer := by
  unfold rearmEnds
  dsimp only
  split <;> simp -implicitDefEqProofs

@[simp] theorem State.applyPending_outer (s : State) (sid) : (s.applyPending sid).outer = s.outer := by
  unfold applyPending
  split <;> simp -implicitDefEqProofs

@[simp] theorem State.discardPending_outer (s : State) (sid) : (s.discardPending sid).outer = s.outer := by
  unfold discardPending
  split <;> simp -implicitDefEqProofs

@[simp] theorem State.makeArmed_outer (s : State) (sid) : (s.makeArmed sid).outer = s.outer := by
  unfold makeArmed
  dsimp only
  split <;> simp -implicitDefEqProofs

@[simp] theorem State.takeWindow_outer (s : State) (m c sid) : (s.takeWindow m c sid).outer = s.outer := by
  unfold takeWindow
  dsimp only
  split
  · rfl
  · split
    · exact modPart_outer s _ (fun y => { y with pfUsed := y.pfUsed + s.pfUnits sid }) fun _ => rfl
    · split
      · exact modPart_outer s _ (fun y => { y with spUsed := y.spUsed + s.pfUnits sid }) fun _ => rfl
      · rfl

@[simp] theorem State.freeWindow_outer (s : State) (m c p) : (s.freeWindow m c p).outer = s.outer := by
  unfold freeWindow
  refine (modCh_outer _ _ _ _).trans (modPart_outer s p _ fun y => ?_)
  (repeat' split) <;> rfl

@[simp] theorem State.recordOut_outer (s : State) (m c sid kind) : (s.recordOut m c sid kind).outer = s.outer := by
  simp -implicitDefEqProofs [recordOut]

@[simp] theorem State.writeBack_outer (s : State) (m c sid) : (s.writeBack m c sid).outer = s.outer := by
  simp -implicitDefEqProofs [writeBack]

@[simp] theorem State.moveSpace_outer (s : State) (p old new) : (s.moveSpace p old new).outer = s.outer :=
  modPart_outer s p _ fun _ => rfl

@[simp] theorem State.endBoundary_outer (s : State) (m c sid done) :
    (s.endBoundary m c sid done).outer = s.outer := by
  unfold endBoundary
  split <;> simp -implicitDefEqProofs

@[simp] theorem State.dropChan_outer (s : State) (m c keep) : (s.dropChan m c keep).outer = s.outer := (rfl)

@[simp] theorem State.leaveOnly_outer (s : State) (m c) : (s.leaveOnly m c).outer = s.outer := by
  unfold leaveOnly
  split <;> simp -implicitDefEqProofs

@[simp] theorem State.latchErr_outer (s : State) (m c e) : (s.latchErr m c e).outer = s.outer := (rfl)
@[simp] theorem State.lateErr_outer (s : State) (m c) : (s.lateErr m c).outer = s.outer := (rfl)

@[simp] theorem State.latchStop_outer (s : State) (m c x) : (s.latchStop m c x).outer = s.outer := by
  unfold latchStop
  split <;> simp -implicitDefEqProofs

@[simp] theorem State.applyStop_outer (s : State) (m c sid x) : (s.applyStop m c sid x).outer = s.outer := by
  simp -implicitDefEqProofs [applyStop]

@[simp] theorem State.shedCopy_outer (s : State) (p ten gen addr m sid) :
    (s.shedCopy p ten gen addr m sid).outer = s.outer := by
  simp -implicitDefEqProofs [shedCopy]

@[simp] theorem State.cacheUse_outer (s : State) (p ten gen addr) :
    (s.cacheUse p ten gen addr).outer = s.outer := (rfl)

@[simp] theorem State.makeOr_outer (s : State) (m c l n) : (s.makeOr m c l n).1.outer = s.outer := by
  have h := s.makeFars_outer l
  unfold makeOr
  split <;> simp_all

/-! ### Functions of Check.lean -/

@[simp] theorem State.tabUse_outer (s : State) (p e) : (s.tabUse p e).outer = s.outer := (rfl)

@[simp] theorem State.findCopy_outer (s : State) (p ten gen drr n) :
    (s.findCopy p ten gen drr n).2.outer = s.outer := by
  unfold findCopy
  split
  · rfl
  · split
    · rfl
    · split <;> simp -implicitDefEqProofs
    · split <;> simp -implicitDefEqProofs

@[simp] theorem State.readNeed_outer (s : State) (m c sid n) : (s.readNeed m c sid n).outer = s.outer := by
  refine State.outer_foldl (fun t b => ?_) _ _
  have h := t.makeFar_outer (t.chanAcc m c sid (.decode n.place) false b.1 b.2)
  split <;> simp_all

@[simp] theorem State.decodeEnd_outer (s : State) (m c sid) : (s.decodeEnd m c sid).1.outer = s.outer := by
  unfold decodeEnd
  dsimp only
  repeat' split
  all_goals simp -implicitDefEqProofs

@[simp] theorem State.lookUp_outer (s : State) (m c sid) : (s.lookUp m c sid).1.outer = s.outer := by
  unfold lookUp
  dsimp only
  split
  · rfl
  · next k _ =>
    generalize hr : List.foldl _ (s, k.got, []) _ = r
    have h : r.1.outer = s.outer := by
      rw [← hr]
      refine foldl_keeps (fun b : State × SMap (List Byte) × List Need => b.1.outer) (fun b n => ?_) _ _
      generalize hu : State.findCopy _ _ _ _ _ n = u
      have h : u.2.outer = b.1.outer := by
        rw [← hu]
        simp -implicitDefEqProofs
      split <;> simp_all
    split
    · simp -implicitDefEqProofs [h]
    · split <;> simp -implicitDefEqProofs [h]

@[simp] theorem State.decode1_outer (s : State) (m c sid) : (s.decode1 m c sid).1.outer = s.outer := by
  unfold decode1
  dsimp only
  split
  · rfl
  · split <;> simp -implicitDefEqProofs

/-! ### Functions of Active.lean -/

@[simp] theorem State.holdCmd_outer (s : State) (m c sid raw) : (s.holdCmd m c sid raw).outer = s.outer := by
  simp -implicitDefEqProofs [holdCmd]

@[simp] theorem State.takeCmd_outer (s : State) (m c sid raw) : (s.takeCmd m c sid raw).1.outer = s.outer := by
  unfold takeCmd
  dsimp only
  split <;> simp -implicitDefEqProofs

@[simp] theorem State.readSlots_outer (s : State) (m c sid sltab) :
    (s.readSlots m c sid sltab).1.outer = s.outer := by
  simp -implicitDefEqProofs [readSlots]

@[simp] theorem State.fetchProgram_outer {hit : BitVec 512 → State → State × Going}
    (h : ∀ r s, (hit r s).1.outer = s.outer) (s : State) (m c sid i) : (s.fetchProgram m c sid i hit).1.outer =
        s.outer := by
  unfold fetchProgram
  dsimp only
  split <;> simp -implicitDefEqProofs [h]

@[simp] theorem State.fetchNext_outer (s : State) (m c sid) : (s.fetchNext m c sid).1.outer = s.outer := by
  unfold fetchNext
  dsimp only
  split
  · split
    · simp -implicitDefEqProofs
    · refine State.fetchProgram_outer (fun r t => ?_) _ _ _ _ _
      split <;> simp -implicitDefEqProofs
  · split <;> simp -implicitDefEqProofs

@[simp] theorem State.ecnFetch_outer (s : State) (m c sid) : (s.ecnFetch m c sid).1.outer = s.outer := by
  unfold ecnFetch
  dsimp only
  repeat' split
  all_goals simp -implicitDefEqProofs

@[simp] theorem State.ecnEnd_outer (s : State) (sid f) : (s.ecnEnd sid f).outer = s.outer := by
  unfold ecnEnd
  split <;> simp -implicitDefEqProofs

@[simp] theorem State.begin_outer (s : State) (m c sid) : (s.begin m c sid).1.outer = s.outer := by
  unfold begin
  dsimp only
  repeat' split
  all_goals simp -implicitDefEqProofs

@[simp] theorem Mover.suspect_fixed (v : Mover) (t : BitVec 8) : (v.suspect t).fixed = v.fixed := by
  unfold Mover.suspect
  split
  · rfl
  · split <;> rfl

@[simp] theorem State.startStream_outer (s : State) (m c sid) : (s.startStream m c sid).outer = s.outer := by
  unfold startStream
  dsimp only
  generalize hv : State.modTen _ _ _ = v
  have hvs : v.outer = s.outer := by
    rw [← hv]
    simp -implicitDefEqProofs
  generalize hu : List.foldl _ _ _ = u
  have hus : u.outer = s.outer := by
    rw [← hu, State.outer_foldl fun t k => t.setWait_outer _ _]
    simp -implicitDefEqProofs [hvs]
  have he := u.ecnFetch_outer m c sid
  have hb := u.begin_outer m c sid
  split <;> split <;> simp_all

@[simp] theorem State.leave_outer (s : State) (m c) : (s.leave m c).outer = s.outer := by
  unfold leave
  dsimp only
  split <;> simp -implicitDefEqProofs

@[simp] theorem State.stopNow_outer (s : State) (m c sid x) : (s.stopNow m c sid x).outer = s.outer := by
  unfold stopNow
  dsimp only
  split <;> simp -implicitDefEqProofs

@[simp] theorem State.finishStop_outer (s : State) (m c) : (s.finishStop m c).outer = s.outer := by
  unfold finishStop
  split <;> simp -implicitDefEqProofs

@[simp] theorem State.lateReads_outer (s : State) (m c) : (s.lateReads m c).outer = s.outer := (rfl)

@[simp] theorem State.beginStop_outer (s : State) (m c x) : (s.beginStop m c x).outer = s.outer := by
  simp -implicitDefEqProofs [beginStop]

/-! ### Functions of Complete.lean -/

@[simp] theorem State.dropShadow_outer (s : State) (sid) : (s.dropShadow sid).outer = s.outer := (rfl)

@[simp] theorem State.recordFault_outer (s : State) (sid frozen f) :
    (s.recordFault sid frozen f).outer = s.outer := by
  unfold recordFault
  dsimp only
  split <;> simp -implicitDefEqProofs

@[simp] theorem State.goOn_outer (m c sid) (r : State × Going) : (State.goOn m c sid r).outer = r.1.outer := by
  unfold goOn
  split <;> simp -implicitDefEqProofs

/-! ### Functions of Run.lean -/

@[simp] theorem State.busError_outer (s : State) (m c a code resp) :
    (s.busError m c a code resp).outer = s.outer := by
  simp -implicitDefEqProofs [busError]

@[simp] theorem State.strmDone_outer (s : State) (k) : (s.strmDone k).outer = s.outer := by
  unfold strmDone
  split <;> simp -implicitDefEqProofs

@[simp] theorem State.cmdDone_outer (s : State) (m c sid) : (s.cmdDone m c sid).outer = s.outer := (rfl)

@[simp] theorem State.readBack_outer (s : State) (m c sid w) : (s.readBack m c sid w).outer = s.outer := by
  unfold readBack
  dsimp only
  split
  · generalize hu : State.makeFar _ _ = r
    have h : r.1.outer = s.outer := by
      rw [← hu]
      simp -implicitDefEqProofs
    split <;> simp_all
  · simp -implicitDefEqProofs

@[simp] theorem State.tilesDone_outer (s : State) (m c sid) : (s.tilesDone m c sid).outer = s.outer := by
  unfold tilesDone
  dsimp only
  repeat' split
  all_goals simp -implicitDefEqProofs

@[simp] theorem State.abortDone_outer (s : State) (m c sid) : (s.abortDone m c sid).outer = s.outer := by
  unfold abortDone
  split <;> simp -implicitDefEqProofs

@[simp] theorem State.settle_outer (s : State) (m c) : (s.settle m c).outer = s.outer := by
  unfold settle
  dsimp only
  repeat' split
  all_goals simp -implicitDefEqProofs

@[simp] theorem State.makeTile_outer (s : State) (m c n l) : (s.makeTile m c n l).1.outer = s.outer := by
  have h := s.makeFars_outer l
  unfold makeTile
  split <;> simp_all

@[simp] theorem State.probeDest_outer (s : State) (m c sid n g) : (s.probeDest m c sid n g).1.outer = s.outer := by
  unfold probeDest
  split <;> simp -implicitDefEqProofs

/-! ### Functions of StreamCmd.lean -/

@[simp] theorem State.freeSlots_outer (s : State) (p l) : (s.freeSlots p l).outer = s.outer :=
  modPart_outer s p _ fun _ => rfl

/-! ### Functions of Peer.lean -/

@[simp] theorem State.peDrop_outer (s : State) (port) : (s.peDrop port).outer = s.outer := (rfl)
@[simp] theorem State.creditOwe_outer (s : State) (key) : (s.creditOwe key).outer = s.outer := (rfl)

@[simp] theorem State.respond_outer (s : State) (hdr type nst payload) :
    (s.respond hdr type nst payload).outer = s.outer := by
  simp -implicitDefEqProofs [respond]

@[simp] theorem State.nack_outer (s : State) (hdr nst) : (s.nack hdr nst).outer = s.outer := by
  simp -implicitDefEqProofs [nack]

@[simp] theorem State.modJob_outer (s : State) (id f) : (s.modJob id f).outer = s.outer := (rfl)

@[simp] theorem State.endJob_outer (s : State) (j) : (s.endJob j).outer = s.outer := by
  simp -implicitDefEqProofs [endJob]

@[simp] theorem State.failJob_outer (s : State) (j nst f) : (s.failJob j nst f).outer = s.outer := by
  unfold failJob
  split <;> simp -implicitDefEqProofs

@[simp] theorem State.rxXlat_outer (s : State) (id f) : (s.rxXlat id f).outer = s.outer := by
  unfold rxXlat
  split <;> simp -implicitDefEqProofs

@[simp] theorem State.jobAnswer_outer (s : State) (id a r data hog) :
    (s.jobAnswer id a r data hog).outer = s.outer := by
  unfold jobAnswer
  dsimp only
  repeat' split
  all_goals simp -implicitDefEqProofs

/-! ### Functions of Ecnos.lean -/

@[simp] theorem State.ecnLeave_outer (s : State) (m c sid f) : (s.ecnLeave m c sid f).outer = s.outer := by
  unfold ecnLeave
  dsimp only
  repeat' split
  all_goals simp -implicitDefEqProofs

@[simp] theorem State.ecnFail_outer (s : State) (m c n f err) : (s.ecnFail m c n f err).outer = s.outer := by
  simp -implicitDefEqProofs [ecnFail]

@[simp] theorem State.ecnNext_outer (s : State) (m c sid) : (s.ecnNext m c sid).outer = s.outer := by
  have h := s.ecnFetch_outer m c sid
  unfold ecnNext
  split <;> simp_all

@[simp] theorem State.ecnSettle_outer (s : State) (m c sid) : (s.ecnSettle m c sid).outer = s.outer := by
  unfold ecnSettle
  dsimp only
  repeat' split
  all_goals simp -implicitDefEqProofs

@[simp] theorem State.ecnBus_outer (s : State) (m c sid a code resp kind) :
    (s.ecnBus m c sid a code resp kind).outer = s.outer := by
  simp -implicitDefEqProofs [ecnBus]

/-! ### Functions of Events.lean -/

@[simp] theorem State.accFault_outer (s : State) (a frozen err rec) :
    (s.accFault a frozen err rec).outer = s.outer := by
  unfold accFault
  dsimp only
  repeat' split
  all_goals simp -implicitDefEqProofs

@[simp] theorem State.xlatFault_outer (s : State) (f) : (s.xlatFault f).outer = s.outer := by
  unfold xlatFault
  split <;> simp -implicitDefEqProofs

@[simp] theorem State.pumpWalks_outer (s : State) (p) : (s.pumpWalks p).outer = s.outer := by
  unfold pumpWalks
  split <;> simp -implicitDefEqProofs

@[simp] theorem State.queueReady_outer (s : State) (q) : (s.queueReady q).outer = s.outer := by
  simp -implicitDefEqProofs [queueReady]

@[simp] theorem State.queuesReady_outer (s : State) (l) : (s.queuesReady l).outer = s.outer := by
  simp -implicitDefEqProofs [queuesReady]

@[simp] theorem State.recordLanded_outer (s : State) (c slot) : (s.recordLanded c slot).outer = s.outer := by
  simp -implicitDefEqProofs [recordLanded]

/-! ### Functions of Sched.lean -/

@[simp] theorem State.evict_outer (s : State) (m c) : (s.evict m c).outer = s.outer := by
  unfold evict
  split <;> simp -implicitDefEqProofs

@[simp] theorem State.refill_outer (s : State) (m c) : (s.refill m c).outer = s.outer := by
  unfold refill
  split <;> simp -implicitDefEqProofs

@[simp] theorem State.quarantine_outer (s : State) (sid) : (s.quarantine sid).outer = s.outer := by
  unfold quarantine
  dsimp only
  repeat' split
  all_goals simp -implicitDefEqProofs

/-! ### Functions of Arb.lean -/

@[simp] theorem State.spillHog_outer (s : State) (m a) : (s.spillHog m a).outer = s.outer := by
  unfold spillHog
  dsimp only
  repeat' split
  all_goals simp -implicitDefEqProofs

/-! ### Functions of Door.lean -/

@[simp] theorem State.dropRecord_outer (s : State) (c g) : (s.dropRecord c g).outer = s.outer := by
  simp -implicitDefEqProofs [dropRecord]

/-! ### Functions of Conf.lean -/

@[simp] theorem State.invReads_outer (s : State) (i) : (s.invReads i).outer = s.outer := by
  simp -implicitDefEqProofs [invReads]

@[simp] theorem State.invTile_outer (s : State) (i k) : (s.invTile i k).outer = s.outer := by
  unfold invTile
  dsimp only
  repeat' split
  all_goals simp -implicitDefEqProofs

/-! ### Functions of Reset.lean -/

@[simp] theorem State.fenceChan_outer (s : State) (k) : (s.fenceChan k).outer = s.outer := by
  unfold fenceChan
  dsimp only
  split <;> simp -implicitDefEqProofs

@[simp] theorem State.fenceWalks_outer (s : State) : (s.fenceWalks).outer = s.outer := by
  simp -implicitDefEqProofs [fenceWalks]

@[simp] theorem State.unhold_outer (s : State) (sid) : (s.unhold sid).outer = s.outer := by
  simp -implicitDefEqProofs [unhold]

@[simp] theorem State.fenceRecords_outer (s : State) (d) : (s.fenceRecords d).outer = s.outer := by
  simp -implicitDefEqProofs [fenceRecords]

@[simp] theorem State.fenceJobs_outer (s : State) (d) : (s.fenceJobs d).outer = s.outer := by
  simp -implicitDefEqProofs [fenceJobs]

@[simp] theorem State.countUnsent_outer (s : State) (d) : (s.countUnsent d).outer = s.outer := by
  unfold countUnsent
  split
  · exact State.outer_foldl (fun t p => t.peDrop_outer p) _ _
  · exact State.outer_foldl (fun t p => t.peDrop_outer p) _ _
  · rfl

@[simp] theorem State.fence_outer (s : State) (d) : (s.fence d).outer = s.outer := by
  simp -implicitDefEqProofs [fence]

end Sys2Proof.Machine
end

section
/-! O22: invalidations. -/

namespace Sys2Proof.Machine

/-- The invalidation that a register write begins. -/
def InvScope.writtenBy (i : InvScope) (c : Instr) : Prop :=
  match i with
  | .tenant t => c = .invTenant t
  | .page t va => ∃ g : BitVec 36, c = .invPage t g ∧ va = g.toNat * 4096
  | .all => c = .invAll

theorem exec_of_writtenBy {s : State} (hs : s.Serves) {i : InvScope} {c : Instr} (h : i.writtenBy c) :
    exec c s = .next (s.reached.invOp i) := by
  cases i with
  | tenant t => subst h; exact congrArg Host.Outcome.next (State.hostWrite_eq hs _ _)
  | page t va => obtain ⟨g, rfl, rfl⟩ := h; exact congrArg Host.Outcome.next (State.hostWrite_eq hs _ _)
  | all => subst h; exact congrArg Host.Outcome.next (State.hostWrite_eq hs _ _)

/-- The state in which the caches of an invalidation have been cleared. -/
def State.invBegun (s : State) (i : InvScope) : State :=
  State.invCaches { s with inv := { s.inv with busy := true, waits := (s.acc.filter (invWait i)).map (·.aid) } } i

theorem State.invOp_begun {s : State} {i : InvScope} (h : s.inv.busy = false) : s.invOp i
    = (((s.invBegun i).invReads i).chans.map (·.1)).foldl (fun st k => st.invTile i k) ((s.invBegun i).invReads i) :=
  if_neg (by rw [h]; decide)

theorem State.invOp_inv {s : State} {i : InvScope} (h : s.inv.busy = false) : (s.invOp i).inv
    = { s.inv with busy := true, waits := (s.acc.filter (invWait i)).map (·.aid) } := by
  rw [State.invOp_begun h]
  obtain ⟨t, ht⟩ : ∃ t, t = (s.invBegun i).invReads i := ⟨_, rfl⟩
  rw [← ht]
  have hkeep : ((t.chans.map (·.1)).foldl (fun st k => st.invTile i k) t).outer = t.outer :=
    State.outer_foldl (fun u k => State.invTile_outer u i k) t _
  have hreads : t.outer = (s.invBegun i).outer := ht ▸ State.invReads_outer (s.invBegun i) i
  exact congrArg Outer.inv (hkeep.trans hreads)

theorem State.invReads_idle {s : State} {i : InvScope} (ha : s.acc = []) (hq : ∀ e ∈ s.xl, e.2.queue = []) :
    s.invReads i = s := by
  have hnone : ∀ p, (s.xlU p).queue = [] := fun p => by
    rcases s.xl.get_mem Xl.reset p with h | h
    · exact congrArg Xl.queue h
    · exact hq _ h
  have hstep : ∀ l : List Nat, l.foldl (fun st p =>
      if (st.xlU p).walk.isNone ∧ (st.xlU p).queue ≠ [] then st.pumpWalks p else st) s = s := fun l => by
    induction l with
    | nil => rfl
    | cons p l ih => rw [List.foldl_cons, if_neg (fun h => h.2 (hnone p)), ih]
  unfold State.invReads
  rw [ha]
  exact hstep _

theorem State.invTile_idle {s : State} {i : InvScope} (h : ∀ e ∈ s.chans, e.2.xl = []) (k : Nat) :
    s.invTile i k = s := by
  have hxl : (s.ch (k / 4) (k % 4)).xl = [] := by
    rcases s.chans.get_mem Chan.reset (4 * (k / 4) + k % 4) with h0 | h0
    · exact congrArg Chan.xl h0
    · exact h _ h0
  unfold State.invTile
  dsimp only
  split
  · rfl
  · split
    · rfl
    · exact if_pos (by rw [hxl]; simp)

/-- With nothing under way an invalidation clears the caches, and no more. -/
theorem State.invOp_idle {s : State} {i : InvScope} (h : s.inv.busy = false) (ha : s.acc = [])
    (hxl : ∀ e ∈ s.chans, e.2.xl = []) (hq : ∀ e ∈ s.xl, e.2.queue = []) : s.invOp i = s.invBegun i := by
  have hq' : ∀ e ∈ (s.invBegun i).xl, e.2.queue = [] := fun e he => by
    obtain ⟨f, hf, rfl⟩ := List.mem_map.mp (List.mem_of_mem_filter he)
    exact hq f hf
  have hstep : ∀ l : List Nat, l.foldl (fun st k => st.invTile i k) (s.invBegun i) = s.invBegun i := fun l => by
    induction l with
    | nil => rfl
    | cons k l ih => rw [List.foldl_cons, State.invTile_idle (s := s.invBegun i) hxl, ih]
  rw [State.invOp_begun h, State.invReads_idle (s := s.invBegun i) ha hq']
  exact hstep _

theorem State.invBegun_utlb {s : State} {i : InvScope} (h : s.movers.wf Mover.reset) (m : Nat) :
    (s.invBegun i).mover m = { s.mover m with utlb := (s.mover m).utlb.filter fun e => !i.drops e } :=
  SMap.get_map_filter (f := fun v : Mover => { v with utlb := v.utlb.filter fun e => !i.drops e }) s.movers rfl h.1 m

/-- What an invalidation leaves of a partition's translation unit. -/
def InvScope.left (i : InvScope) (x : Xl) : Xl :=
  { x with
    l2 := x.l2.filter fun e => !i.drops e
    wc := x.wc.filter fun e => !i.hits e.ten
    walk := x.walk.map fun w => if i.hits w.req.ten then { w with discard := true } else w }

theorem State.invBegun_xlU {s : State} {i : InvScope} (h : s.xl.wf Xl.reset) (p : Nat) :
    (s.invBegun i).xlU p = i.left (s.xlU p) :=
  SMap.get_map_filter (f := i.left) s.xl rfl h.1 p

theorem State.invDoneOp_ended {s : State} (ha : ∀ a ∈ s.acc ++ s.sink, a.aid ∉ s.inv.waits)
    (hw : ∀ e ∈ s.xl, ∀ w, e.2.walk = some w → w.discard = false) :
    s.invDoneOp = { s with inv := { s.inv with busy := false, waits := [] } } := by
  refine if_neg ?_
  rw [Bool.or_eq_true, not_or]
  refine ⟨fun h => ?_, fun h => ?_⟩
  · obtain ⟨a, hmem, hin⟩ := List.any_eq_true.mp h
    exact ha a hmem (List.contains_iff_mem.mp hin)
  · obtain ⟨e, hmem, hd⟩ := List.any_eq_true.mp h
    cases hwalk : e.2.walk with
    | none => simp [hwalk] at hd
    | some w => simp [hwalk, hw e hmem w hwalk] at hd

theorem State.invDoneOp_going {s : State} (h : ¬ ((∀ a ∈ s.acc ++ s.sink, a.aid ∉ s.inv.waits) ∧
    ∀ e ∈ s.xl, ∀ w, e.2.walk = some w → w.discard = false)) : s.invDoneOp = s := by
  refine if_pos ?_
  by_contra hno
  rw [Bool.or_eq_true, not_or] at hno
  obtain ⟨hacc, hwalk⟩ := hno
  refine h ⟨fun a ha hin => hacc (List.any_eq_true.mpr ⟨a, ha, List.contains_iff_mem.mpr hin⟩), fun e he w hw => ?_⟩
  cases hd : w.discard with
  | false => rfl
  | true => exact absurd (List.any_eq_true.mpr ⟨e, he, by simp [hw, hd]⟩) hwalk

end Sys2Proof.Machine

namespace Sys2Proof
open Machine

/-- Settles O22: clearing the caches is the whole of an invalidation when nothing is under way; what follows it
otherwise (reads translated again, a tile's destination) leaves the register as it is. -/
theorem invalidations : Obligations.invalidations := by
  unfold Obligations.invalidations
  intro s
  refine ⟨fun hs i c hc => ?_, fun ⟨ha, hw⟩ => congrArg Host.Outcome.next (State.invDoneOp_ended ha hw),
    fun h => congrArg Host.Outcome.next (State.invDoneOp_going h)⟩
  have hexec : exec c s = .next (s.reached.invOp i) := exec_of_writtenBy hs hc
  refine ⟨fun hb => hexec.trans (congrArg Host.Outcome.next (if_pos hb)), fun hb => ?_, fun hb ha hxl hq hm hx => ?_⟩
  · have hinv := State.invOp_inv (s := s.reached) (i := i) hb
    refine ⟨_, hexec, (congrArg Inv.busy hinv).trans rfl, (congrArg Inv.drop hinv).trans rfl, fun a hmem hhit hten hfly => ?_⟩
    have hwait : invWait i a = true := by simp [invWait, hhit, hten, hfly]
    exact (congrArg Inv.waits hinv) ▸ List.mem_map_of_mem (List.mem_filter.mpr ⟨hmem, hwait⟩)
  · have hop := State.invOp_idle (s := s.reached) (i := i) hb ha hxl hq
    have hwaits : (s.reached.acc.filter (invWait i)).map (·.aid) = [] := by
      rw [show s.reached.acc = [] from ha]
      rfl
    refine ⟨_, hexec.trans (congrArg Host.Outcome.next hop), ?_, fun m => ?_, fun p => ?_, fun p => ?_⟩
    · unfold State.invBegun
      rw [hwaits]
      rfl
    · cases i <;> exact State.invBegun_utlb (s := s.reached) hm m
    · cases i <;> exact congrArg Xl.l2 (State.invBegun_xlU (s := s.reached) hx p)
    · cases i <;> exact congrArg Xl.wc (State.invBegun_xlU (s := s.reached) hx p)

end Sys2Proof
end

section
/-! O29: the timers of the arbiter's tables, cut-offs and COMMIT. -/

namespace Sys2Proof.Machine

theorem satInc_byte (v : BitVec 8) : satInc v = BitVec.ofNat 8 (min 0xFF (v.toNat + 1)) := by
  unfold satInc
  split
  · next h => exact BitVec.eq_of_toNat_eq (by simp; omega)
  · next h => exact BitVec.eq_of_toNat_eq (by simp; omega)

/-- A table whose tenure is cut off, by Mover m. -/
def Tab.cutOff (x : Tab) (m : Nat) : Tab :=
  { x with tenure := none, left := 0, hogc := satInc x.hogc, hogmv := BitVec.ofNat 6 m }

theorem Tab.cutOff_eq (x : Tab) (m : Nat) : x.cutOff m = { x with
    tenure := none, left := 0, hogmv := BitVec.ofNat 6 m, hogc := BitVec.ofNat 8 (min 0xFF (x.hogc.toNat + 1)) } := by
  unfold Tab.cutOff
  rw [satInc_byte]

/-- A table at which the back-off of partition p has ended. -/
def Tab.backedOff (x : Tab) (p : Nat) : Tab := { x with backoff := x.backoff.put false p false }

/-- The state in which the tenure of a table is over and its cut-off counted. -/
def State.hogCounted (s : State) (t m : Nat) : State :=
  (s.endTenure t).modTab t fun y => { y with hogc := satInc y.hogc, hogmv := BitVec.ofNat 6 m }

theorem State.endTenure_tab (s : State) (t j : Nat) :
    (s.endTenure t).tab j = if j = t then { s.tab t with tenure := none, left := 0 } else s.tab j := by
  have hmod := State.modTab_tab s t j fun x => { x with tenure := none, left := 0 }
  unfold State.endTenure
  dsimp only
  split
  · exact hmod
  · exact hmod

theorem State.hogCounted_tab (s : State) (t m j : Nat) :
    (s.hogCounted t m).tab j = if j = t then (s.tab t).cutOff m else s.tab j := by
  unfold State.hogCounted
  rw [State.modTab_tab, State.endTenure_tab, State.endTenure_tab, if_pos rfl]
  split <;> rfl

theorem State.endTenure_rst (s : State) (t : Nat) : (s.endTenure t).rst = s.rst := by
  unfold State.endTenure
  dsimp only
  split <;> rfl

theorem State.hogCounted_rst (s : State) (t m : Nat) : (s.hogCounted t m).rst = s.rst := State.endTenure_rst s t

/-- Without a Staging burst the end of a tenure touches its table alone. -/
theorem State.hogCounted_eq (s : State) (t m : Nat) (h : ∀ id, (s.tab t).tenure ≠ some (.stg id)) :
    s.hogCounted t m = { s with tabs := (s.hogCounted t m).tabs } := by
  unfold State.hogCounted
  rw [endTenure_plain h]
  rfl

theorem State.hogCounted_delAcc {s : State} {t m : Nat} (h : ∀ id, (s.tab t).tenure ≠ some (.stg id)) (aid : Nat) :
    ((s.delAcc aid).hogCounted t m).tabs = (s.hogCounted t m).tabs := by
  unfold State.hogCounted
  rw [endTenure_plain h, endTenure_plain (s := s.delAcc aid) h]
  rfl

theorem State.hogCounted_stg {s : State} {t m id : Nat} (h : (s.tab t).tenure = some (.stg id)) :
    s.hogCounted t m = { s with tabs := (s.hogCounted t m).tabs, stg := s.stg.filter fun r => r.id != id } := by
  unfold State.hogCounted State.endTenure
  rw [h]
  rfl

/-- From `s` to `t` at most accesses are asked for, and the contact sheet moves on. -/
def State.Sheeted (s t : State) : Prop :=
  t = { s with acc := t.acc, nextAid := t.nextAid, pwr := t.pwr, mg := { s.mg with cs := t.mg.cs, csDue := t.mg.csDue, csOut := t.mg.csOut } }

theorem State.Sheeted.refl (s : State) : s.Sheeted s := rfl

theorem State.sheetOut_sheeted (s : State) : s.Sheeted s.sheetOut := by
  unfold State.sheetOut
  split
  · split
    · exact .refl s
    · next l _ _ _ =>
      obtain ⟨v, hv⟩ : ∃ v : State, v = { s with mg := { s.mg with cs := none, csOut := some (l.length, false) } } :=
        ⟨_, rfl⟩
      have hasks : v.Asks (v.mgmtWrite .sheet (s.mg.csAddr.toNat * 64) l) := State.mgmtWrite_asks v _ _ l
      rw [← hv]
      generalize v.mgmtWrite .sheet (s.mg.csAddr.toNat * 64) l = t at hasks
      have hmg : t.mg = v.mg := by rw [hasks]
      unfold State.Sheeted
      rw [hmg, hasks, hv]
  · exact .refl s

/-- The response that a write of the management core has lost moves no arbiter and no reset. -/
theorem State.mgmtWritten_arbiter (s : State) (k : AKind) (ok : Bool) :
    (s.mgmtWritten k ok).tabs = s.tabs ∧ (s.mgmtWritten k ok).rst = s.rst := by
  have hsheet : ∀ t : State, t.sheetOut.tabs = t.tabs ∧ t.sheetOut.rst = t.rst := fun t => by
    rw [t.sheetOut_sheeted]
    exact ⟨rfl, rfl⟩
  have hcopy : s.copyLost.tabs = s.tabs ∧ s.copyLost.rst = s.rst := ⟨rfl, rfl⟩
  unfold State.mgmtWritten
  split
  · exact ⟨rfl, rfl⟩
  · exact ⟨rfl, rfl⟩
  · split
    · exact ⟨rfl, rfl⟩
    · exact ⟨rfl, rfl⟩
  · split
    · exact ⟨rfl, rfl⟩
    · exact hcopy
  · split
    · exact ⟨rfl, rfl⟩
    · split
      · exact ⟨rfl, rfl⟩
      · dsimp only
        split
        · exact hsheet _
        · exact hsheet _
  · exact ⟨rfl, rfl⟩

/-- What follows the cut-off of an access, once it is counted. -/
def State.hogAnswered (u : State) (a : Access) : State :=
  match a.rq, a.kind with
  | .mover _, .rxWrite j => if a.drain then u else u.jobAnswer j a .slverr [] true
  | .mover m, .spillWrite _ _ => (u.spillHog m a).settle m a.ch
  | .mgmt, k => if a.drain then u else u.mgmtWritten k false
  | .mover m, .glacWrite | .mover m, .recWrite =>
    if a.drain then u else (u.latchErr m a.ch (busErrOf a 0)).pushFault a.part (u.busRec m a.ch a 0x22 0 0)
  | .mover m, .ecnos _ => if a.drain then u else u.ecnBus m a.ch a.sid a 0x22 0 1
  | .mover m, _ =>
    if a.drain then u.settle m a.ch else (u.busError m a.ch a 0x22 0).settle m a.ch
  | .record, .cqRec c slot =>
    if a.drain then (if u.acc.any fun b => b.kind == a.kind && !b.drain then u else u.recordLanded c slot)
    else (u.latchErr a.who.1 a.who.2 (busErrOf a 0)).recordFault a.sid false (u.busRec a.who.1 a.who.2 a 0x22 0 0)
  | .record, .fqRec p => u.fqAnswered a p false
  | _, _ => u

theorem State.hogOp_acc {s : State} {t : Nat} {a : Access} (ht : ¬ (t < 12 ∧ t % 2 = 0))
    (hten : (s.tab t).tenure = some (.acc a.aid)) (ha : s.findAcc a.aid = some a) :
    s.hogOp t = ((s.delAcc a.aid).hogCounted t (a.mv.getD 0)).hogAnswered a := by
  unfold State.hogOp
  dsimp only
  rw [if_neg ht, hten]
  dsimp only
  rw [ha]
  rfl

/-- What follows the cut-off of an access moves no arbiter and no reset. -/
theorem State.hogAnswered_arbiter (u : State) (a : Access) :
    (u.hogAnswered a).tabs = u.tabs ∧ (u.hogAnswered a).rst = u.rst := by
  have hkeep : ∀ {v : State}, v.outer = u.outer → v.tabs = u.tabs ∧ v.rst = u.rst := fun h =>
    ⟨congrArg Outer.tabs h, congrArg Outer.rst h⟩
  unfold State.hogAnswered
  split
  case h_3 =>
    split
    · exact ⟨rfl, rfl⟩
    · exact State.mgmtWritten_arbiter u a.kind false
  all_goals exact hkeep (by (repeat' split) <;> simp)

/-! ### COMMIT -/

theorem State.foldl_modTab (s : State) (g : Nat → Tab → Tab) (n : Nat) :
    (List.range n).foldl (fun st t => st.modTab t (g t)) s
        = { s with tabs := ((List.range n).foldl (fun st t => st.modTab t (g t)) s).tabs }
      ∧ ∀ k, ((List.range n).foldl (fun st t => st.modTab t (g t)) s).tab k
          = if k < n then g k (s.tab k) else s.tab k := by
  induction n with
  | zero => exact ⟨rfl, fun k => (if_neg (Nat.not_lt_zero k)).symm⟩
  | succ n ih =>
    obtain ⟨hrest, htab⟩ := ih
    rw [List.range_succ, List.foldl_append]
    obtain ⟨u, hu⟩ : ∃ u, u = (List.range n).foldl (fun st t => st.modTab t (g t)) s := ⟨_, rfl⟩
    rw [← hu] at hrest htab ⊢
    refine ⟨?_, fun k => ?_⟩
    · have hmod : u.modTab n (g n) = { u with tabs := (u.modTab n (g n)).tabs } := rfl
      exact hmod.trans (by rw [hrest]; rfl)
    · have hmod : (u.modTab n (g n)).tab k = if k = n then g n (u.tab n) else u.tab k := State.modTab_tab u n k (g n)
      refine hmod.trans ?_
      by_cases hk : k = n
      · subst hk
        rw [if_pos rfl, htab, if_neg (Nat.lt_irrefl k), if_pos (Nat.lt_succ_self k)]
      · rw [if_neg hk, htab]
        exact if_congr (by omega) rfl rfl

/-- A table that takes a pending commit. -/
def Tab.committed (x : Tab) (q : PendSet) (t : Nat) : Tab :=
  { x with
    live := if x.lock then x.live else (q.slots.filter fun e => e.1 / 256 == t).map fun e => (e.1 % 256, e.2)
    pri := q.pri, quota := q.quota, pend := false }

/-- The arbiter's registers once the last table has taken the commit. -/
def Arb.done (a : Arb) : Arb := { a with pend := false, set := none }

theorem State.tabIdle_of {s t : State} (h : t = { s with arb := t.arb, tabs := t.tabs }) {k : Nat}
    (hten : (t.tab k).tenure = (s.tab k).tenure) : t.tabIdle k = s.tabIdle k := by
  have hbids : t.bids k = s.bids k := by rw [h]; rfl
  have hfind : ∀ aid, t.findAcc aid = s.findAcc aid := fun aid => by rw [h]; rfl
  unfold State.tabIdle
  rw [hbids, hten]
  refine congrArg (_ && ·) ?_
  split
  · rfl
  · exact congrArg Option.isNone (hfind _)
  · rfl

theorem State.applyCommit_of {s : State} {q : PendSet} (h : s.arb.set = some q) (t : Nat) :
    (∀ k, (s.applyCommit t).tab k = if k = t then (s.tab t).committed q t else s.tab k)
      ∧ s.applyCommit t = { s with arb := (s.applyCommit t).arb, tabs := (s.applyCommit t).tabs }
      ∧ ((∃ k, k < 30 ∧ k ≠ t ∧ (s.tab k).pend = true) → (s.applyCommit t).arb = s.arb)
      ∧ ((∀ k, k < 30 → k ≠ t → (s.tab k).pend = false) → (s.applyCommit t).arb = s.arb.done) := by
  obtain ⟨u, hu⟩ : ∃ u, u = s.modTab t fun x => x.committed q t := ⟨_, rfl⟩
  have htab : ∀ k, u.tab k = if k = t then (s.tab t).committed q t else s.tab k := fun k => by
    rw [hu]
    exact State.modTab_tab s t k _
  have happly : s.applyCommit t = if (List.range 30).any fun k => (u.tab k).pend then u
      else { u with arb := { u.arb with pend := false, set := none } } := by
    unfold State.applyCommit
    rw [h, hu]
    rfl
  have hrest : u = { s with tabs := u.tabs } := by rw [hu]; rfl
  have harb : u.arb = s.arb := by rw [hrest]
  by_cases hany : ((List.range 30).any fun k => (u.tab k).pend) = true
  · rw [happly, if_pos hany]
    refine ⟨htab, by rw [hrest], fun _ => harb, fun hno => ?_⟩
    obtain ⟨k, hk, hpend⟩ := List.any_eq_true.mp hany
    rw [htab] at hpend
    split at hpend
    · exact absurd hpend Bool.false_ne_true
    · next hkt => exact absurd hpend (by rw [hno k (List.mem_range.mp hk) hkt]; exact Bool.false_ne_true)
  · rw [happly, if_neg hany]
    refine ⟨htab, by rw [hrest], fun ⟨k, hk, hkt, hpend⟩ => ?_, fun _ => by rw [harb]; rfl⟩
    exact absurd (List.any_eq_true.mpr ⟨k, List.mem_range.mpr hk, by rw [htab, if_neg hkt]; exact hpend⟩) hany

/-- With every table idle the tables take a pending commit one after another, and the last one ends it. -/
theorem State.applyIdle_all {s : State} {q : PendSet} (hset : s.arb.set = some q) (hpend : s.arb.pend = true)
    (htabs : ∀ k, k < 30 → (s.tab k).pend = true ∧ s.tabIdle k = true) :
    s.applyIdle = { s with arb := s.arb.done, tabs := s.applyIdle.tabs }
      ∧ ∀ k, k < 30 → s.applyIdle.tab k = (s.tab k).committed q k := by
  have hall : s.applyIdle = (List.range 30).foldl
      (fun st t => if (st.tab t).pend && st.tabIdle t then st.applyCommit t else st) s := if_pos hpend
  have hfold : ∀ n, n ≤ 30 → ∀ u, u = (List.range n).foldl
      (fun st t => if (st.tab t).pend && st.tabIdle t then st.applyCommit t else st) s →
      u = { s with arb := u.arb, tabs := u.tabs } ∧ u.arb = (if n < 30 then s.arb else s.arb.done)
        ∧ ∀ k, u.tab k = if k < n then (s.tab k).committed q k else s.tab k := by
    intro n
    induction n with
    | zero => exact fun _ u hu => by subst hu; exact ⟨rfl, rfl, fun k => (if_neg (Nat.not_lt_zero k)).symm⟩
    | succ n ih =>
      intro hn u hu
      obtain ⟨v, hv⟩ : ∃ v, v = (List.range n).foldl
        (fun st t => if (st.tab t).pend && st.tabIdle t then st.applyCommit t else st) s := ⟨_, rfl⟩
      obtain ⟨hrest, harb, htab⟩ := ih (by omega) v hv
      rw [if_pos (show n < 30 by omega)] at harb
      have hvn : v.tab n = s.tab n := (htab n).trans (if_neg (Nat.lt_irrefl n))
      obtain ⟨hp, hi⟩ := htabs n (by omega)
      have hidle : v.tabIdle n = true := (State.tabIdle_of hrest (congrArg Tab.tenure hvn)).trans hi
      have hstep : u = v.applyCommit n := by
        rw [hu, List.range_succ, List.foldl_append, ← hv]
        exact if_pos (by rw [hvn, hp, hidle]; rfl)
      obtain ⟨ctab, crest, cmore, clast⟩ := State.applyCommit_of (show v.arb.set = some q by rw [harb]; exact hset) n
      rw [← hstep] at ctab crest cmore clast
      refine ⟨by rw [crest, hrest], ?_, fun k => ?_⟩
      · by_cases hlast : n + 1 < 30
        · rw [if_pos hlast]
          refine (cmore ⟨29, by omega, by omega, ?_⟩).trans harb
          rw [htab, if_neg (by omega)]
          exact (htabs 29 (by omega)).1
        · rw [if_neg hlast]
          refine (clast fun k hk hne => ?_).trans (congrArg Arb.done harb)
          rw [htab, if_pos (by omega)]
          rfl
      · rw [ctab]
        by_cases hk : k = n
        · subst hk
          rw [if_pos rfl, hvn, if_pos (Nat.lt_succ_self k)]
        · rw [if_neg hk, htab]
          exact if_congr (by omega) rfl rfl
  obtain ⟨hrest, harb, htab⟩ := hfold 30 (Nat.le_refl 30) _ hall
  exact ⟨hrest.trans (by rw [harb]; rfl), fun k hk => (htab k).trans (if_pos hk)⟩

/-- The slots that a commit holds for a table are those of its shadow rota. -/
theorem commitSlots_get (l : Nat → SMap (BitVec 4)) (hl : ∀ t, t < 30 → ∀ e ∈ l t, e.1 < 256) {t : Nat} (ht : t < 30)
    (k : Nat) : SMap.get (((((List.range 30).map fun t => (l t).map fun e => (256 * t + e.1, e.2)).flatten).filter
      fun e => e.1 / 256 == t).map fun e => (e.1 % 256, e.2)) 0 k = (l t).get 0 k := by
  have hblock : ∀ j, j < 30 → ((((l j).map fun e => (256 * j + e.1, e.2)).filter
      fun e => e.1 / 256 == t).map fun e => (e.1 % 256, e.2)) = if j = t then l t else [] := fun j hj => by
    by_cases hjt : j = t
    · subst hjt
      rw [if_pos rfl, List.filter_eq_self.mpr, List.map_map]
      · refine (List.map_congr_left fun e he => ?_).trans (List.map_id _)
        have := hl j hj e he
        exact Prod.ext (show (256 * j + e.1) % 256 = e.1 by omega) rfl
      · intro e he
        obtain ⟨f, hf, rfl⟩ := List.mem_map.mp he
        have := hl j hj f hf
        exact beq_iff_eq.mpr (show (256 * j + f.1) / 256 = j by omega)
    · rw [if_neg hjt, List.filter_eq_nil_iff.mpr]
      · rfl
      · intro e he
        obtain ⟨f, hf, rfl⟩ := List.mem_map.mp he
        have := hl j hj f hf
        exact fun h => hjt (by have := beq_iff_eq.mp h; dsimp only at this; omega)
  have hprefix : ∀ n, n ≤ 30 → ((((List.range n).map fun t => (l t).map fun e => (256 * t + e.1, e.2)).flatten).filter
      fun e => e.1 / 256 == t).map (fun e => (e.1 % 256, e.2)) = if t < n then l t else [] := by
    intro n
    induction n with
    | zero => exact fun _ => (if_neg (Nat.not_lt_zero t)).symm
    | succ n ih =>
      intro hn
      rw [List.range_succ, List.map_append, List.flatten_append, List.filter_append, List.map_append, ih (by omega)]
      rw [show [n].map (fun t => (l t).map fun e => (256 * t + e.1, e.2)) = [(l n).map fun e => (256 * n + e.1, e.2)]
        from rfl, List.flatten_singleton, hblock n (by omega)]
      by_cases hnt : n = t
      · subst hnt
        rw [if_neg (Nat.lt_irrefl n), if_pos rfl, if_pos (Nat.lt_succ_self n), List.nil_append]
      · rw [if_neg hnt, List.append_nil]
        exact if_congr (by omega) rfl rfl
  rw [hprefix 30 (Nat.le_refl 30), if_pos ht]

/-- What a commit that is taken leaves: every table with the rota, the priorities and the quotas committed. -/
theorem State.commitOp_taken {s : State} (hpend : s.arb.pend = false)
    (hgood : ¬ ∃ t, t < 30 ∧ (s.tab t).lock = false ∧ s.badRota t (s.tab t).shadow = true)
    (htabs : ∀ t, t < 30 → s.tabIdle t = true ∧ ∀ e ∈ (s.tab t).shadow, e.1 < 256) :
    s.commitOp = { s with arb := s.commitOp.arb, tabs := s.commitOp.tabs }
      ∧ s.commitOp.arb.pend = false ∧ s.commitOp.arb.cerr = s.arb.cerr
      ∧ ∀ t, t < 30 → (s.commitOp.tab t).pri = s.arb.pri ∧ (s.commitOp.tab t).quota = s.arb.quota
        ∧ (s.commitOp.tab t).pend = false ∧ (s.commitOp.tab t).shadow = (s.tab t).shadow
        ∧ (s.commitOp.tab t).ptr = (s.tab t).ptr ∧ ∀ k, (s.commitOp.tab t).live.get 0 k
          = if (s.tab t).lock then (s.tab t).live.get 0 k else (s.tab t).shadow.get 0 k := by
  obtain ⟨q, hq⟩ : ∃ q : PendSet, q = PendSet.mk
      (((List.range 30).map fun t => (s.tab t).shadow.map fun e => (256 * t + e.1, e.2)).flatten)
      s.arb.pri s.arb.quota := ⟨_, rfl⟩
  obtain ⟨v, hv⟩ : ∃ v : State, v = { s with arb := { s.arb with pend := true, set := some q } } := ⟨_, rfl⟩
  obtain ⟨u, hu⟩ : ∃ u, u = (List.range 30).foldl (fun st t => st.modTab t fun x => { x with pend := true }) v :=
    ⟨_, rfl⟩
  have hrota : ((List.range 30).any fun t => !(s.tab t).lock && s.badRota t (s.tab t).shadow) = false := by
    refine List.any_eq_false.mpr fun t ht hbad => hgood ⟨t, List.mem_range.mp ht, ?_⟩
    exact ⟨by simpa using (Bool.and_eq_true_iff.mp hbad).1, (Bool.and_eq_true_iff.mp hbad).2⟩
  have hop : s.commitOp = u.applyIdle := by
    unfold State.commitOp
    rw [if_neg (by rw [hpend]; exact Bool.false_ne_true), if_neg (by rw [hrota]; exact Bool.false_ne_true), hu, hv, hq]
  obtain ⟨hrest, htab⟩ := State.foldl_modTab v (fun _ x => { x with pend := true }) 30
  rw [← hu] at hrest htab
  have hutab : ∀ k, k < 30 → u.tab k = { s.tab k with pend := true } := fun k hk =>
    (htab k).trans ((if_pos hk).trans (by rw [hv]; rfl))
  have hus : u = { s with arb := u.arb, tabs := u.tabs } := by rw [hrest, hv]
  have harb : u.arb = { s.arb with pend := true, set := some q } := by rw [hrest, hv]
  obtain ⟨hend, hcom⟩ := State.applyIdle_all (s := u) (q := q) (by rw [harb]) (by rw [harb]) fun k hk =>
    ⟨congrArg Tab.pend (hutab k hk), (State.tabIdle_of hus ((congrArg Tab.tenure (hutab k hk)).trans rfl)).trans (htabs k hk).1⟩
  rw [← hop] at hend hcom
  have hdone : s.commitOp.arb = u.arb.done := by rw [hend]
  refine ⟨by rw [hend, hus], by rw [hdone]; rfl, by rw [hdone, harb]; rfl, fun t ht => ?_⟩
  have hct : s.commitOp.tab t = Tab.committed { s.tab t with pend := true } q t := by rw [hcom t ht, hutab t ht]
  refine ⟨by rw [hct, hq]; rfl, by rw [hct, hq]; rfl, by rw [hct]; rfl, by rw [hct]; rfl, by rw [hct]; rfl, fun k => ?_⟩
  have hlive : (s.commitOp.tab t).live = if (s.tab t).lock then (s.tab t).live
      else (q.slots.filter fun e => e.1 / 256 == t).map fun e => (e.1 % 256, e.2) := congrArg Tab.live hct
  rw [hlive]
  split
  · rfl
  · rw [hq]
    exact commitSlots_get (fun t => (s.tab t).shadow) (fun t ht => (htabs t ht).2) ht k

end Sys2Proof.Machine

namespace Sys2Proof
open Machine

/-- Settles O29: a cut-off counts at its table alone, whatever its access's end does elsewhere; a commit that finds every
table idle is applied to the tables one after another. -/
theorem arbiterTimersAndCommit : Obligations.arbiter_timers_and_commit := by
  unfold Obligations.arbiter_timers_and_commit
  refine ⟨fun s t => ?_, fun s hs => ?_⟩
  · intro x others
    refine ⟨fun p => ?_, ?_, fun hb ht he => ?_, fun hb hodd => ?_⟩
    · have htab : ∀ j, (s.backoffOp t p).tab j = if j = t.val then x.backedOff p else s.tab j := fun j =>
        State.modTab_tab s t j fun y => y.backedOff p
      have hself := (htab t).trans (if_pos rfl)
      have hget : ∀ q, ((s.backoffOp t p).tab t).backoff.get false q = if q = p.val then false else x.backoff.get false q :=
        fun q => by
          rw [hself]
          exact SMap.get_put x.backoff false false p q
      exact ⟨_, rfl, (hget p).trans (if_pos rfl), fun q hq => (hget q).trans (if_neg hq), hself.trans (by rw [hself]; rfl),
        fun j hj => (htab j).trans (if_neg hj), rfl⟩
    · have htab := fun j => State.modTab_tab s t j fun x : Tab => { x with wins := [] }
      exact ⟨_, rfl, (htab t).trans (if_pos rfl), fun j hj => (htab j).trans (if_neg hj), rfl⟩
    · have hidle : s.resetChecks = s := State.resetChecks_idle fun p hp => hb ⟨p, hp⟩
      have hop : s.hogOp t = s := if_pos ⟨ht, he⟩
      exact congrArg Host.Outcome.next ((congrArg State.resetChecks hop).trans hidle)
    · intro cut
      have hexec : ∀ u, s.hogOp t = u → u.rst = s.rst → exec (.hogCutoff t) s = .next u := fun u hu hr => by
        have hidle : u.resetChecks = u := State.resetChecks_idle fun p hp =>
          (congrArg (fun r : SMap RstEng => (r.get RstEng.reset p).busy) hr).trans (hb ⟨p, hp⟩)
        exact congrArg Host.Outcome.next ((congrArg State.resetChecks hu).trans hidle)
      have hcut : ∀ u m, u.tabs = (s.hogCounted t m).tabs → u.tab t = cut m ∧ others u := fun u m hu => by
        have htab : ∀ j, u.tab j = if j = t.val then x.cutOff m else s.tab j := fun j =>
          (congrArg (fun r : SMap Tab => r.get Tab.reset j) hu).trans (State.hogCounted_tab s t m j)
        exact ⟨(htab t).trans ((if_pos rfl).trans (x.cutOff_eq m)), fun j hj => (htab j).trans (if_neg hj)⟩
      refine ⟨fun hno => ?_, fun a hten ha => ?_, fun r hten hr hact => ?_, fun k hten hown hback => ?_⟩
      · refine hexec s ?_ rfl
        unfold State.hogOp
        dsimp only
        rw [if_neg hodd, show (s.tab t).tenure = none from hno]
      · have hop := State.hogOp_acc hodd hten ha
        obtain ⟨htabs, hrst⟩ := State.hogAnswered_arbiter ((s.delAcc a.aid).hogCounted t (a.mv.getD 0)) a
        refine ⟨_, hexec _ hop (hrst.trans (State.hogCounted_rst _ t _)), hcut _ _ (htabs.trans ?_)⟩
        exact State.hogCounted_delAcc (fun id h => by
          rw [show (s.tab t).tenure = some (.acc a.aid) from hten] at h
          simp at h) a.aid
      · have hcount := State.hogCounted_stg (m := r.mv) hten
        have hop : s.hogOp t = s.hogCounted t r.mv := by
          unfold State.hogOp
          dsimp only
          rw [if_neg hodd, show (s.tab t).tenure = some (.stg r.id) from hten]
          dsimp only
          rw [hr]
          have hch : (s.hogCounted t r.mv).ch r.mv r.ch = s.chan (4 * r.mv + r.ch) := by rw [hcount]; rfl
          exact if_pos (fun h => hact ((congrArg Chan.act hch).symm.trans h))
        obtain ⟨htab, hoth⟩ := hcut (s.hogCounted t r.mv) r.mv rfl
        exact ⟨_, hexec _ hop (State.hogCounted_rst s t _), htab, hoth, hcount⟩
      · have hcount := State.hogCounted_eq s t k.mv fun id h => by
          rw [show (s.tab t).tenure = some (.pkt k) from hten] at h
          simp at h
        have hop : s.hogOp t = (s.hogCounted t k.mv).unsend (t - 12) k := by
          unfold State.hogOp
          dsimp only
          rw [if_neg hodd, show (s.tab t).tenure = some (.pkt k) from hten]
          dsimp only
          rw [hown]
          rfl
        obtain ⟨htab, hoth⟩ := hcut ((s.hogCounted t k.mv).unsend (t - 12) k) k.mv rfl
        refine ⟨_, hexec _ hop (State.hogCounted_rst s t k.mv), htab, hoth, ?_⟩
        unfold State.unsend
        rw [hback, hcount]
  · intro bad
    have hexec : ∀ u, s.reached.commitOp = u → exec .commit s = .next u := fun u hu =>
      congrArg Host.Outcome.next ((State.hostWrite_eq hs .commit State.commitOp).trans hu)
    refine ⟨fun hp => hexec _ (if_pos hp), fun hp ⟨t, ht, hl, hb⟩ => hexec _ ?_, fun hp hgood htabs => ?_⟩
    · refine (if_neg (by rw [show s.reached.arb.pend = false from hp]; exact Bool.false_ne_true)).trans (if_pos ?_)
      refine List.any_eq_true.mpr ⟨t, List.mem_range.mpr ht, ?_⟩
      rw [Bool.and_eq_true]
      exact ⟨by rw [show (s.reached.tab t).lock = false from hl]; rfl, hb⟩
    · obtain ⟨hrest, hpend, hcerr, htab⟩ := State.commitOp_taken (s := s.reached) hp hgood htabs
      refine ⟨_, hexec _ rfl, hpend, hcerr, fun t ht => ?_, hrest⟩
      obtain ⟨hpri, hquota, hpd, hshadow, hptr, hlive⟩ := htab t ht
      exact ⟨hpri, hquota, hpd, hshadow, hptr, fun k _ => hlive k⟩

end Sys2Proof
end

section
/-! O37: the reset of the block, and a power cycle. -/

namespace Sys2Proof.Machine

theorem State.modRstE_rstE (s : State) (k j : Nat) (g : RstEng → RstEng) :
    (s.modRstE k g).rstE j = if j = k then g (s.rstE k) else s.rstE j := by
  simp

theorem State.foldl_modRstE (s : State) (g : RstEng → RstEng) (n : Nat) :
    (List.range n).foldl (fun st p => st.modRstE p g) s
        = { s with rst := ((List.range n).foldl (fun st p => st.modRstE p g) s).rst }
      ∧ ∀ k, ((List.range n).foldl (fun st p => st.modRstE p g) s).rstE k = if k < n then g (s.rstE k) else s.rstE k := by
  induction n with
  | zero => exact ⟨rfl, fun k => (if_neg (Nat.not_lt_zero k)).symm⟩
  | succ n ih =>
    obtain ⟨hrest, hrst⟩ := ih
    rw [List.range_succ, List.foldl_append]
    obtain ⟨u, hu⟩ : ∃ u, u = (List.range n).foldl (fun st p => st.modRstE p g) s := ⟨_, rfl⟩
    rw [← hu] at hrest hrst ⊢
    refine ⟨?_, fun k => ?_⟩
    · have hmod : u.modRstE n g = { u with rst := (u.modRstE n g).rst } := rfl
      exact hmod.trans (by rw [hrest]; rfl)
    · refine (State.modRstE_rstE u n k g).trans ?_
      by_cases hk : k = n
      · subst hk
        rw [if_pos rfl, hrst, if_neg (Nat.lt_irrefl k), if_pos (Nat.lt_succ_self k)]
      · rw [if_neg hk, hrst]
        exact if_congr (by omega) rfl rfl

/-- From `s` to `t` at most the drain for RETAIN has ended, Movers have met a reset and a contact sheet is taken. -/
def State.Met (s t : State) : Prop := t = { s with pwr := t.pwr, movers := t.movers, mg := { s.mg with cs := t.mg.cs, csDue := t.mg.csDue } }

theorem State.Met.refl (s : State) : s.Met s := rfl

theorem State.Met.trans {s t u : State} (h : s.Met t) (g : t.Met u) : s.Met u := by
  have hmg : t.mg = { s.mg with cs := t.mg.cs, csDue := t.mg.csDue } := by rw [h]
  have hu : u.mg = { t.mg with cs := u.mg.cs, csDue := u.mg.csDue } := by rw [g]
  unfold State.Met at h g ⊢
  rw [hmg] at hu
  rw [g, hmg, h]

theorem State.Met.nvm {s t : State} (h : s.Met t) : t.nvm = s.nvm := by rw [h]

theorem State.Met.esc {s t : State} (h : s.Met t) : t.esc = s.esc := by rw [h]

theorem State.Met.rstE {s t : State} (h : s.Met t) (p : Nat) : t.rstE p = s.rstE p := by
  rw [h]
  rfl

theorem State.awake_met (s : State) : s.Met s.awake := by
  unfold State.awake
  split
  · rfl
  · exact .refl s

theorem State.sheetLater_met (s : State) : s.Met s.sheetLater := by
  unfold State.sheetLater
  split
  · rfl
  · exact .refl s

theorem State.sheetTake_met (s : State) (due : Nat) : s.Met (s.sheetTake due) := by
  unfold State.sheetTake
  split
  · rfl
  · exact .refl s

theorem State.meetReset_met (s : State) (freeze : Bool) (m : Nat) : s.Met (s.meetReset freeze m) := rfl

theorem State.meetResets_met (s : State) (l : List Nat) : s.Met (l.foldl (fun st m => st.meetReset false m) s) :=
  List.foldlRecOn (motive := s.Met) l _ (.refl s) fun t h m _ => h.trans (t.meetReset_met false m)

/-- The engine of a partition during a reset of the block. -/
def RstEng.blocked (e : RstEng) (unit : Nat) : RstEng :=
  { e with
    busy := true, unit := BitVec.ofNat 3 unit, sbath := true, target := 0, rcv := true, queue := [], tests := [] }

/-- What a reset of the whole block leaves at its fence. -/
structure State.BlockFenced (s u : State) (unit : Nat) : Prop where
  blk : u.blk = some (BitVec.ofNat 3 unit)
  stc : u.stc.busy = false
  nvm : u.nvm = s.nvm
  esc : u.esc = s.esc
  rstE : ∀ p, p < 8 → u.rstE p = (s.rstE p).blocked unit

/-- The state in which a reset of the whole block has met the Movers. -/
def State.blockMet (s : State) (raised : Bool) : State :=
  (List.range 64).foldl (fun st m => st.meetReset false m)
    (if raised then s.awake.sheetLater.sheetTake 8 else s.awake.sheetLater)

theorem State.blockMet_met (s : State) (raised : Bool) : s.Met (s.blockMet raised) := by
  refine State.Met.trans ((s.awake_met.trans (State.sheetLater_met _)).trans ?_) (State.meetResets_met _ _)
  split
  · exact State.sheetTake_met _ 8
  · exact .refl _

/-- The state whose every engine is under a reset of the whole block. -/
def State.blockBusy (s : State) (unit : Nat) : State :=
  let t := (List.range 8).foldl (fun st p => st.modRstE p fun e => e.blocked unit) s
  { t with blk := some (BitVec.ofNat 3 unit), stc := { t.stc with busy := false } }

theorem State.beginBlock_eq (s : State) (unit : Nat) (raised : Bool) :
    s.beginBlock unit raised = ((s.blockMet raised).blockBusy unit).fence .block := rfl

theorem State.blockBusy_fenced (s : State) (unit : Nat) : s.BlockFenced (s.blockBusy unit) unit := by
  obtain ⟨hrest, hrst⟩ := s.foldl_modRstE (fun e => e.blocked unit) 8
  unfold State.blockBusy
  dsimp only
  generalize (List.range 8).foldl (fun st p => st.modRstE p fun e => e.blocked unit) s = t at hrest hrst
  have hnvm : t.nvm = s.nvm := by rw [hrest]
  have hesc : t.esc = s.esc := by rw [hrest]
  exact ⟨rfl, rfl, hnvm, hesc, fun p hp => (hrst p).trans (if_pos hp)⟩

theorem State.BlockFenced.of_outer {s t u : State} {unit : Nat} (h : s.BlockFenced t unit) (ho : u.outer = t.outer) :
    s.BlockFenced u unit :=
  ⟨(congrArg Outer.blk ho).trans h.blk, (congrArg (fun o : Outer => o.stc.busy) ho).trans h.stc,
    (congrArg Outer.nvm ho).trans h.nvm, (congrArg Outer.esc ho).trans h.esc,
    fun p hp => (congrArg (fun o : Outer => o.rst.get RstEng.reset p) ho).trans (h.rstE p hp)⟩

theorem State.BlockFenced.of_met {r s t : State} {unit : Nat} (h : s.BlockFenced t unit) (hm : r.Met s) :
    r.BlockFenced t unit :=
  ⟨h.blk, h.stc, h.nvm.trans hm.nvm, h.esc.trans hm.esc, fun p hp => (h.rstE p hp).trans (by rw [hm.rstE])⟩

theorem State.beginBlock_fenced (s : State) (unit : Nat) (raised : Bool) :
    s.BlockFenced (s.beginBlock unit raised) unit := by
  rw [State.beginBlock_eq]
  exact ((State.blockBusy_fenced _ unit).of_outer (State.fence_outer _ .block)).of_met (s.blockMet_met raised)

/-- A reset of the block that is requested enters the recovery history, and the block is fenced. -/
theorem State.noted_fenced (s : State) (unit : Nat) (raised : Bool) :
    let u := (s.escNote unit 0).beginBlock unit raised
    u.blk = some (BitVec.ofNat 3 unit) ∧ u.stc.busy = false ∧ u.nvm = s.nvm ∧ u.esc.hist.length = s.esc.hist.length + 1
      ∧ ∀ p : Fin 8, (u.rstE p).busy = true ∧ (u.rstE p).unit = BitVec.ofNat 3 unit ∧ (u.rstE p).sbath = true
        ∧ (u.rstE p).queue = [] := by
  intro u
  have hu : (s.escNote unit 0).BlockFenced u unit := State.beginBlock_fenced (s.escNote unit 0) unit raised
  clear_value u
  obtain ⟨hblk, hstc, hnvm, hesc, hrst⟩ := hu
  refine ⟨hblk, hstc, hnvm, congrArg (·.hist.length) hesc, fun p => ?_⟩
  have hp := hrst p p.isLt
  exact ⟨congrArg RstEng.busy hp, congrArg RstEng.unit hp, congrArg RstEng.sbath hp, congrArg RstEng.queue hp⟩

theorem State.requestReset_block {s : State} (hrun : s.boot.state = 13) (hoos : s.esc.oos = false) (hblk : s.blk = none)
    {unit : Nat} (h4 : 4 ≤ unit) (h6 : unit < 6) (rcv : Bool) : s.requestReset unit 0 rcv = s.startBlock unit := by
  have hno : ¬ (unit = 0 ∨ 6 ≤ unit ∨ s.inRun = false ∨ s.esc.oos = true ∨ s.blk.isSome = true) := by
    have hr : s.inRun = true := beq_iff_eq.mpr hrun
    rw [hr, hoos, hblk]
    simp
    omega
  exact (if_neg hno).trans ((if_pos h4).trans (if_neg (fun h => h rfl)))

/-- The engine of a partition when the block leaves service. -/
def RstEng.stopped (e : RstEng) : RstEng :=
  { e with busy := false, sbath := false, unit := 0, target := 0, rcv := false, lunit := 5, ltarget := 0 }

theorem stopped_busy (r : SMap RstEng) (p : Nat) :
    (SMap.get ((r.map fun x => (x.1, x.2.stopped)).filter fun x => x.2 ≠ RstEng.reset) RstEng.reset p).busy = false := by
  rcases SMap.get_mem ((r.map fun x => (x.1, x.2.stopped)).filter fun x => x.2 ≠ RstEng.reset) RstEng.reset p with h | h
  · exact congrArg RstEng.busy h
  · obtain ⟨e, _, he⟩ := List.mem_map.mp (List.mem_of_mem_filter h)
    exact (congrArg (fun e : Nat × RstEng => e.2.busy) he).symm

theorem State.outOfService_cycles (s : State) :
    s.outOfService.boot.state = 14 ∧ s.outOfService.esc.oos = true ∧ s.outOfService.blk = none
      ∧ s.outOfService.mg.pwrcyc = true ∧ s.outOfService.nvm = s.nvm ∧ ∀ p, (s.outOfService.rstE p).busy = false := by
  obtain ⟨t, ht⟩ : ∃ t, t = s.sheetTake 9 := ⟨_, rfl⟩
  have hnvm : t.nvm = s.nvm := by rw [ht, s.sheetTake_met 9]
  unfold State.outOfService
  dsimp only
  rw [State.sheetOut_sheeted, ← ht]
  refine ⟨rfl, rfl, rfl, rfl, hnvm, fun p => ?_⟩
  exact stopped_busy t.rst p

end Sys2Proof.Machine

namespace Sys2Proof
open Machine

/-- Settles O37: the fence of the whole block keeps what `State.outer` holds, among it the engines, the recovery history
and the NVM. -/
theorem resetBlock : Obligations.reset_block := by
  unfold Obligations.reset_block
  intro s
  refine ⟨fun hs hoos hblk => ?_, fun hacc => ⟨fun hb hbusy => ?_, fun hb => ?_⟩⟩
  · intro fenced
    have hreq : ∀ k c, 4 ≤ k → k < 6 → exec c s = .next (s.hostWrite c fun u => u.requestReset k 0 true) →
        exec c s = .next (s.reached.startBlock k) := fun k c h4 h6 h => h.trans (congrArg Host.Outcome.next
      ((State.hostWrite_eq hs c _).trans (State.requestReset_block (s := s.reached) hs.run hoos hblk h4 h6 true)))
    refine ⟨fun hcount hladder => ?_, ?_⟩
    · have hcount' : s.reached.countFull = false := hcount
      have hladder' : (s.reached.ladder && s.reached.recurs 4 0) = false := hladder
      have hop : s.reached.startBlock 4 = (s.reached.escNote 4 0).beginBlock 4 false :=
        (if_neg (by rw [hcount']; decide)).trans (if_neg (by rw [hladder']; decide))
      exact ⟨_, (hreq 4 .resetBlock (by omega) (by omega) rfl).trans (congrArg Host.Outcome.next hop),
        State.noted_fenced s.reached 4 false⟩
    · have hop : s.reached.startBlock 5 = (s.reached.escNote 5 0).beginBlock 5 false := by
        unfold State.startBlock
        split
        · rfl
        · exact if_neg (by rw [Bool.and_eq_true]; exact fun h => absurd h.2 (by decide))
      exact ⟨_, (hreq 5 .resetPowerCycle (by omega) (by omega) rfl).trans (congrArg Host.Outcome.next hop),
        State.noted_fenced s.reached 5 false⟩
  · have hnone : s.acc.filter (s.inDom .block) = [] := List.filter_eq_nil_iff.mpr fun a ha => by
      simp [State.inDom, hacc a ha]
    have hop : s.drainedOp none = s.blockDone := by
      unfold State.drainedOp
      rw [hb]
      exact (if_neg (not_not_intro hnone)).trans (if_pos rfl)
    have hall : s.acc.filter (fun a => a.rq == Requester.mgmt) = s.acc := List.filter_eq_self.mpr fun a ha => by
      rw [hacc a ha]
      rfl
    refine ⟨s.blockDone, congrArg Host.Outcome.next hop, ?_⟩
    unfold State.blockDone State.blockState
    rw [State.mbAbort_idle hbusy]
    exact ⟨rfl, rfl, rfl, rfl, rfl, rfl, rfl, rfl, rfl, rfl, hall, rfl, ⟨_, rfl, rfl, rfl⟩, rfl, rfl, rfl⟩
  · have hnone : s.acc.filter (s.inDom .block) = [] := List.filter_eq_nil_iff.mpr fun a ha => by
      simp [State.inDom, hacc a ha]
    have hop : s.drainedOp none = s.outOfService := by
      unfold State.drainedOp
      rw [hb]
      exact (if_neg (not_not_intro hnone)).trans (if_neg (by decide))
    exact ⟨_, congrArg Host.Outcome.next hop, s.outOfService_cycles⟩

end Sys2Proof
end

section
/-! What a fence leaves alone while no access waits for a walk. -/

namespace Sys2Proof.Machine

/-- From `s` to `t` nothing changes but streams, channels, queues, requests, accesses and tenants' activity. -/
def State.Cut (s t : State) : Prop :=
  t = { s with strms := t.strms, chans := t.chans, tens := t.tens, seq := t.seq, acc := t.acc, nextAid := t.nextAid
               stg := t.stg, peer := t.peer, sqs := t.sqs, cqs := t.cqs }

theorem State.Cut.refl (s : State) : s.Cut s := rfl

theorem State.Cut.trans {s t u : State} (h : s.Cut t) (g : t.Cut u) : s.Cut u :=
  Eq.trans g (congrArg (fun v : State => { v with
    strms := u.strms, chans := u.chans, tens := u.tens, seq := u.seq, acc := u.acc, nextAid := u.nextAid
    stg := u.stg, peer := u.peer, sqs := u.sqs, cqs := u.cqs }) h)

/-- Steps that each cut do so together. -/
theorem State.Cut.foldl {α : Type} {f : State → α → State} (hf : ∀ s a, State.Cut s (f s a)) (l : List α) (s : State) :
    s.Cut (l.foldl f s) :=
  List.foldlRecOn (motive := s.Cut) l f (.refl s) fun _ h a _ => h.trans (hf _ a)

theorem State.Placed.cut {s t : State} (h : s.Placed t) : s.Cut t := by
  unfold State.Placed at h
  unfold State.Cut
  rw [h]

theorem State.Cut.of_woken {s t : State} (h : s.Woken t) : s.Cut t := h.placed.cut

theorem State.peDrop_cut (s : State) (port : Nat) : s.Cut (s.peDrop port) := rfl

theorem State.modCq_cut (s : State) (c : Nat) (g : Cq → Cq) : s.Cut (s.modCq c g) := rfl

theorem State.setCqs_cut (s : State) (l : SMap Cq) : s.Cut { s with cqs := l } := rfl

theorem State.setAcc_cut (s : State) (l : List Access) : s.Cut { s with acc := l } := rfl

theorem State.sendMsi_cut (s : State) (p n : Nat) : s.Cut (s.sendMsi p n) := rfl

theorem State.countUnsent_cut (s : State) (d : Dom) : s.Cut (s.countUnsent d) := by
  unfold State.countUnsent
  split
  · exact State.Cut.foldl State.peDrop_cut _ s
  · exact State.Cut.foldl State.peDrop_cut _ s
  · exact .refl s

theorem State.fenceChan_cut (s : State) (k : Nat) : s.Cut (s.fenceChan k) := by
  unfold State.fenceChan
  dsimp only
  split
  · rfl
  · rfl

theorem State.endJob_cut (s : State) (j : RxJob) : s.Cut (s.endJob j) := by
  unfold State.endJob
  dsimp only
  split
  · rfl
  · rfl

theorem State.fenceJobs_cut (s : State) (d : Dom) : s.Cut (s.fenceJobs d) := by
  unfold State.fenceJobs
  exact (State.Cut.foldl (fun t j => t.endJob_cut j) _ s).trans rfl

theorem State.outstDec_cut (s : State) (r : CqRec) : s.Cut (s.outstDec r) := by
  rw [State.outstDec_rest]
  rfl

theorem State.cqPending_cut (s : State) (c : Nat) : s.Cut (s.cqPending c) := by
  unfold State.cqPending
  dsimp only
  split
  · exact (s.modCq_cut c _).trans (State.sendMsi_cut _ _ _)
  · exact s.modCq_cut c _

theorem State.cqAdvance_cut (s : State) (c : Nat) (l : List CqSlot) : s.Cut (s.cqAdvance c l) := by
  induction l generalizing s with
  | nil => rfl
  | cons g l ih =>
    unfold State.cqAdvance
    split
    · dsimp only
      refine State.Cut.trans ?_ (ih _)
      split
      · exact ((s.modCq_cut c _).trans (State.outstDec_cut _ _)).trans (State.cqPending_cut _ _)
      · exact (s.modCq_cut c _).trans (State.outstDec_cut _ _)
    · rfl

theorem State.dropRecord_cut (s : State) (c : Nat) (g : CqSlot) : s.Cut (s.dropRecord c g) := by
  unfold State.dropRecord
  dsimp only
  exact (((s.outstDec_cut g.item).trans (State.modCq_cut _ c _)).trans (State.cqAdvance_cut _ c _)).trans
    (.of_woken (State.queuesReady_woken _ _))

theorem State.unhold_cut (s : State) (sid : Nat) : s.Cut (s.unhold sid) := by
  unfold State.unhold
  dsimp only
  split
  · exact .of_woken (State.makeReady_woken _ _)
  · exact .refl s

/-- The records of a domain that wait for a slot. -/
def State.heldRecs (s : State) (d : Dom) : List CqRec := (s.cqs.map fun e => e.2.held.filter (s.recInDom d)).flatten

/-- The completion queues without the records of a domain: none waits, and none written raises an interrupt. -/
def State.cqsFenced (s : State) (d : Dom) : SMap Cq :=
  s.cqs.map fun e => (e.1, { e.2 with
    held := e.2.held.filter fun r => !s.recInDom d r
    given := e.2.given.map fun g => if s.recInDom d g.item
      then { g with item := { g.item with irq := false } } else g })

/-- The slots given out whose records of a domain have no write under way. -/
def State.goneRecs (s : State) (d : Dom) : List (Nat × CqSlot) :=
  (s.cqs.map fun (c, q) => (q.given.filter fun g => s.recInDom d g.item && !g.done
    && !s.acc.any fun a => a.kind == .cqRec c g.slot).map fun g => (c, g)).flatten

/-- The state in which no record of a domain waits for a slot. -/
def State.heldFenced (s : State) (d : Dom) : State :=
  let t := (s.heldRecs d).foldl State.outstDec s
  ((s.heldRecs d).map (·.sid)).foldl State.unhold { t with cqs := t.cqsFenced d }

theorem State.fenceRecords_eq (s : State) (d : Dom) : s.fenceRecords d
    = ((s.heldFenced d).goneRecs d).foldl (fun st e => st.dropRecord e.1 e.2) (s.heldFenced d) := rfl

theorem State.heldFenced_cut (s : State) (d : Dom) : s.Cut (s.heldFenced d) := by
  have h1 : s.Cut ((s.heldRecs d).foldl State.outstDec s) := State.Cut.foldl State.outstDec_cut _ s
  unfold State.heldFenced
  dsimp only
  generalize (s.heldRecs d).foldl State.outstDec s = t at h1
  have h2 : s.Cut { t with cqs := t.cqsFenced d } := h1.trans (t.setCqs_cut _)
  exact h2.trans (State.Cut.foldl State.unhold_cut _ _)

theorem State.fenceRecords_cut (s : State) (d : Dom) : s.Cut (s.fenceRecords d) := by
  have h := s.heldFenced_cut d
  rw [State.fenceRecords_eq]
  generalize s.heldFenced d = t at h
  have hdrop : ∀ (u : State) (e : Nat × CqSlot), u.Cut (u.dropRecord e.1 e.2) := fun u e => u.dropRecord_cut e.1 e.2
  exact h.trans (State.Cut.foldl hdrop (t.goneRecs d) t)

/-- A fence up to its records: what follows is the walks. -/
def State.fenceStart (s' : State) (d : Dom) : State :=
  let s := s'.countUnsent d
  let ks := (List.range 256).filter fun k => s.chanInDom d k (s.chan k)
  let sh := (s.chans.map fun e => ([e.2.shadow, e.2.loading].filterMap id).map fun k => (e.1, k)).flatten
  let out := (sh.filter fun e => strmInDom d (s.strmAt e.2) || (match d with
    | .mover m => e.1 / 4 == m
    | .part p => s.partOf (e.1 / 4) == p
    | _ => false)).map (·.2)
  let s1 := out.foldl State.dropShadow (ks.foldl State.fenceChan s)
  let s2 := s1.fenceJobs d
  let await := fun (a : Access) => if s2.inDom d a && a.kind != AKind.walkRead then { a with drain := true, after := false } else a
  let s3 := { s2 with acc := (s2.acc.filter fun (a : Access) => !(s2.inDom d a && !issuedAcc a)).map await }
  s3.fenceRecords d

theorem State.fence_eq (s : State) (d : Dom) : s.fence d = (s.fenceStart d).fenceWalks := rfl

theorem State.fenceStart_cut (s : State) (d : Dom) : s.Cut (s.fenceStart d) := by
  unfold State.fenceStart
  dsimp only
  refine State.Cut.trans ?_ (State.fenceRecords_cut _ d)
  refine State.Cut.trans (State.Cut.trans ?_ (State.fenceJobs_cut _ d)) (State.setAcc_cut _ _)
  refine State.Cut.trans ?_ (State.Cut.foldl (fun t k => (t.dropShadow_placed k).cut) _ _)
  exact (s.countUnsent_cut d).trans (State.Cut.foldl (fun t k => t.fenceChan_cut k) _ _)

/-- From `s` to `t` nothing changes but walks that have ended, and no access waits for a walk. -/
def State.Unwalked (s t : State) : Prop := t = { s with xl := t.xl } ∧ ∀ q, (t.xlU q).queue = []

theorem State.endWalk_unwalked {s : State} (h : ∀ q, (s.xlU q).queue = []) (p : Nat) :
    s.Unwalked ((s.modXlU p fun x => { x with walk := none }).pumpWalks p) := by
  obtain ⟨t, ht⟩ : ∃ t, t = s.modXlU p fun x => { x with walk := none } := ⟨_, rfl⟩
  have hx : ∀ q, t.xlU q = if q = p then { s.xlU p with walk := none } else s.xlU q := fun q => by
    rw [ht]
    exact State.modXlU_xlU s p q _
  have hrest : t = { s with xl := t.xl } := by rw [ht]; rfl
  have hq : ∀ q, (t.xlU q).queue = [] := fun q => by
    rw [hx]
    split
    · exact h p
    · exact h q
  have hw : (t.xlU p).walk = none := by rw [hx, if_pos rfl]
  have hpump : t.pumpWalks p = t.modXlU p fun x => { x with queue := [] } := State.pumpWalks_none hw (hq p)
  rw [← ht, hpump]
  refine ⟨?_, fun q => ?_⟩
  · rw [hrest]
    rfl
  · rw [State.modXlU_xlU]
    split
    · rfl
    · exact hq q

theorem State.fenceWalks_unwalked {s : State} (h : ∀ q, (s.xlU q).queue = []) : s.Unwalked s.fenceWalks := by
  refine List.foldlRecOn (motive := s.Unwalked) _ _ ⟨rfl, h⟩ fun t ht p _ => ?_
  obtain ⟨hrest, hq⟩ := ht
  dsimp only
  split
  · obtain ⟨hrest', hq'⟩ := State.endWalk_unwalked hq p
    exact ⟨hrest'.trans (by rw [hrest]), hq'⟩
  · split
    · next hp => exact absurd (hq p) (by simpa using (Bool.and_eq_true_iff.mp hp).2)
    · exact ⟨hrest, hq⟩

/-- With no access waiting for a walk, a fence reaches neither the management core nor a Mover's registers. -/
theorem State.fence_alone {s : State} (h : ∀ q, (s.xlU q).queue = []) (d : Dom) :
    (s.fence d).mg = s.mg ∧ (s.fence d).movers = s.movers := by
  have hcut := s.fenceStart_cut d
  rw [State.fence_eq]
  generalize s.fenceStart d = t at hcut
  have hxl : t.xl = s.xl := by rw [hcut]
  have hq : ∀ q, (t.xlU q).queue = [] := fun q => (congrArg (fun l : SMap Xl => (l.get Xl.reset q).queue) hxl).trans (h q)
  rw [(State.fenceWalks_unwalked hq).1, hcut]
  exact ⟨rfl, rfl⟩

end Sys2Proof.Machine
end

section
/-! How a reset begins, and what its fence leaves. -/

namespace Sys2Proof.Machine

/-- The engine of a partition that begins a reset. -/
def RstEng.begun (e : RstEng) (unit target : Nat) (rcv : Bool) : RstEng :=
  { e with
    busy := true, unit := BitVec.ofNat 3 unit, sbath := true, target := BitVec.ofNat 8 target, rcv := rcv, tests := [] }

/-- The state whose engine has begun a reset; Movers, and the fence, come next. -/
def State.resetBegun (s : State) (p unit target : Nat) (rcv raised : Bool) : State :=
  (if raised then s.awake.sheetTake p else s.awake).modRstE p fun e => e.begun unit target rcv

theorem State.beginReset_tenant (s : State) (p t : Nat) (rcv raised : Bool) : s.beginReset p 1 t rcv raised
    = ((s.resetBegun p 1 t rcv raised).fence (.ten t)).genUp t := rfl

theorem State.beginReset_mover (s : State) (p m : Nat) (rcv raised : Bool) : s.beginReset p 2 m rcv raised
    = ((s.resetBegun p 2 m rcv raised).meetReset true m).fence (.mover m) := rfl

/-- The state whose Movers a partition's reset has met. -/
def State.partMet (s : State) (p : Nat) : State := (s.moversOf p).foldl (fun st m => st.meetReset false m) s

theorem State.beginReset_part (s : State) (p : Nat) (rcv raised : Bool) : s.beginReset p 3 p rcv raised
    = (((s.resetBegun p 3 p rcv raised).partMet p).tenantsOf p).foldl State.genUp
      (((s.resetBegun p 3 p rcv raised).partMet p).fence (.part p)) := rfl

/-- What a reset leaves at its fence, beside the unit that is reset. -/
structure State.Fenced (s u : State) (p : Nat) (e : RstEng) : Prop where
  esc : u.esc = s.esc
  nvm : u.nvm = s.nvm
  boot : u.boot = s.boot
  cnts : u.cnts = s.cnts
  ropes : u.ropes = s.ropes
  engine : u.rstE p = e
  others : ∀ j, j ≠ p → u.rstE j = s.rstE j
  log : (∀ q, (s.xlU q).queue = []) → u.mg.log = s.mg.log
  out : ∀ m, (s.mover m).oos = true → (u.mover m).oos = true ∧ (u.mover m).hang = (s.mover m).hang
    ∧ (u.mover m).testf = (s.mover m).testf

/-- From `s` to `t` a reset has begun at the engine of partition p: engines, Movers and the contact sheet have met it. -/
structure State.Begun (s t : State) (p : Nat) (e : RstEng) : Prop where
  rest : t = { s with
    pwr := t.pwr, rst := t.rst, movers := t.movers, mg := { s.mg with cs := t.mg.cs, csDue := t.mg.csDue } }
  engine : t.rstE p = e
  others : ∀ j, j ≠ p → t.rstE j = s.rstE j
  out : ∀ m, (t.mover m).oos = (s.mover m).oos ∧ (t.mover m).hang = (s.mover m).hang
    ∧ (t.mover m).testf = (s.mover m).testf

theorem State.awake_movers (s : State) : s.awake.movers = s.movers := by
  unfold State.awake
  split
  · rfl
  · rfl

theorem State.sheetTake_movers (s : State) (due : Nat) : (s.sheetTake due).movers = s.movers := by
  unfold State.sheetTake
  split
  · rfl
  · rfl

theorem State.resetBegun_begun (s : State) (p unit target : Nat) (rcv raised : Bool) :
    s.Begun (s.resetBegun p unit target rcv raised) p ((s.rstE p).begun unit target rcv) := by
  obtain ⟨v, hv⟩ : ∃ v, v = if raised then s.awake.sheetTake p else s.awake := ⟨_, rfl⟩
  have hmet : s.Met v := by
    rw [hv]
    split
    · exact s.awake_met.trans (State.sheetTake_met _ p)
    · exact s.awake_met
  have hmovers : v.movers = s.movers := by
    rw [hv]
    split
    · rw [State.sheetTake_movers, State.awake_movers]
    · rw [State.awake_movers]
  have hop : s.resetBegun p unit target rcv raised = v.modRstE p fun e => e.begun unit target rcv := by rw [hv]; rfl
  have hvm : ∀ m, v.mover m = s.mover m := fun m => congrArg (fun l : SMap Mover => l.get Mover.reset m) hmovers
  have hrst := fun j => State.modRstE_rstE v p j fun e => e.begun unit target rcv
  rw [hop]
  refine ⟨?_, (hrst p).trans ((if_pos rfl).trans (by rw [hmet.rstE])), fun j hj => ((hrst j).trans (if_neg hj)).trans (hmet.rstE j),
    fun m => ?_⟩
  · have hmod : v.modRstE p (fun e => e.begun unit target rcv)
        = { v with rst := (v.modRstE p fun e => e.begun unit target rcv).rst } := rfl
    generalize v.modRstE p (fun e => e.begun unit target rcv) = w at hmod ⊢
    have hmg : w.mg = v.mg := by rw [hmod]
    have hpwr : w.pwr = v.pwr := by rw [hmod]
    have hmov : w.movers = v.movers := by rw [hmod]
    rw [hmg, hpwr, hmov]
    unfold State.Met at hmet
    rw [hmod, hmet]
  · rw [show (v.modRstE p fun e => e.begun unit target rcv).mover m = v.mover m from rfl, hvm]
    exact ⟨rfl, rfl, rfl⟩

theorem State.Begun.meetReset {s t : State} {p : Nat} {e : RstEng} (h : s.Begun t p e) (freeze : Bool) (m : Nat) :
    s.Begun (t.meetReset freeze m) p e := by
  have hmod := fun j => State.modMover_mover t m j fun v : Mover =>
    { v with gated := false, froz := v.froz || freeze, phase := 0, req := false }
  refine ⟨?_, h.engine, h.others, fun j => ?_⟩
  · have hmeet : t.meetReset freeze m = { t with movers := (t.meetReset freeze m).movers } := rfl
    generalize t.meetReset freeze m = w at hmeet ⊢
    have hmg : w.mg = t.mg := by rw [hmeet]
    have hpwr : w.pwr = t.pwr := by rw [hmeet]
    have hrst : w.rst = t.rst := by rw [hmeet]
    rw [hmg, hpwr, hrst, hmeet, h.rest]
  · have hj : (t.meetReset freeze m).mover j = _ := hmod j
    rw [hj]
    split
    · next hjm => subst hjm; exact h.out j
    · exact h.out j

theorem State.Begun.partMet {s t : State} {p : Nat} {e : RstEng} (h : s.Begun t p e) (q : Nat) :
    s.Begun (t.partMet q) p e :=
  List.foldlRecOn (motive := fun u : State => s.Begun u p e) _ _ h fun _ hu m _ => hu.meetReset false m

/-- What a fence behind the begin of a reset keeps. -/
theorem State.Begun.fence {s t : State} {p : Nat} {e : RstEng} (h : s.Begun t p e) (d : Dom) :
    s.Fenced (t.fence d) p e := by
  have ho : (t.fence d).outer = t.outer := t.fence_outer d
  have halone := fun hq => (State.fence_alone (s := t) hq d).1
  generalize t.fence d = u at ho halone ⊢
  have hrst : ∀ j, u.rstE j = t.rstE j := fun j => congrArg (fun o : Outer => o.rst.get RstEng.reset j) ho
  have hkeep : t.esc = s.esc ∧ t.nvm = s.nvm ∧ t.boot = s.boot ∧ t.cnts = s.cnts ∧ t.ropes = s.ropes ∧ t.xl = s.xl
      ∧ t.mg.log = s.mg.log := by
    rw [h.rest]
    exact ⟨rfl, rfl, rfl, rfl, rfl, rfl, rfl⟩
  obtain ⟨hesc, hnvm, hboot, hcnts, hropes, hxl, hlog⟩ := hkeep
  refine ⟨(congrArg Outer.esc ho).trans hesc, (congrArg Outer.nvm ho).trans hnvm, (congrArg Outer.boot ho).trans hboot,
    (congrArg Outer.cnts ho).trans hcnts, (congrArg Outer.ropes ho).trans hropes, (hrst p).trans h.engine,
    fun j hj => (hrst j).trans (h.others j hj), fun hq => ?_, fun m hm => ?_⟩
  · have hq' : ∀ q, (t.xlU q).queue = [] := fun q =>
      (congrArg (fun x : SMap Xl => (x.get Xl.reset q).queue) hxl).trans (hq q)
    rw [halone hq', hlog]
  · have hfix : (u.mover m).fixed = (t.mover m).fixed := congrArg (fun o : Outer => o.movers m) ho
    obtain ⟨hoos, hhang, htestf⟩ := h.out m
    exact ⟨((congrArg Mover.oos hfix).trans hoos).trans hm, (congrArg Mover.hang hfix).trans hhang,
      (congrArg Mover.testf hfix).trans htestf⟩

/-! ### The next generation of a tenant -/

/-- A Mover without the translations of a tenant's generation. -/
def Mover.forget (v : Mover) (t g : BitVec 8) : Mover := { v with utlb := v.utlb.filter fun e => !(e.ten == t && e.gen == g) }

/-- A function that leaves the default alone acts on the first entry of a key, where it does not make it the default. -/
theorem SMap.get_map_filter_ne {α : Type} [DecidableEq α] (m : SMap α) {d : α} {f : α → α} (hf : f d = d) {k : Nat}
    (h : f (m.get d k) ≠ d) : SMap.get ((m.map fun e => (e.1, f e.2)).filter fun e => e.2 ≠ d) d k = f (m.get d k) := by
  induction m with
  | nil => exact absurd hf h
  | cons e m ih =>
    have hcons : SMap.get (e :: m) d k = if e.1 = k then e.2 else SMap.get m d k := rfl
    rw [hcons] at h ⊢
    rw [List.map_cons, List.filter_cons]
    by_cases he : e.1 = k
    · rw [if_pos he] at h ⊢
      rw [if_pos (by simpa using h)]
      exact if_pos he
    · rw [if_neg he] at h ⊢
      split
      · exact (if_neg he).trans (ih h)
      · exact ih h

theorem State.genUp_mover {s : State} {m : Nat} (t : Nat) (h : (s.mover m).oos = true) :
    (s.genUp t).mover m = (s.mover m).forget (BitVec.ofNat 8 t) ((s.ten t).gen + 1) :=
  SMap.get_map_filter_ne (f := fun v : Mover => v.forget (BitVec.ofNat 8 t) ((s.ten t).gen + 1)) s.movers rfl
    fun hno => Bool.false_ne_true ((congrArg Mover.oos hno).symm.trans h)

theorem State.genUp_ten (s : State) (t j : Nat) : (s.genUp t).ten j
    = if j = t then { s.ten t with en := false, weight := 0, gen := (s.ten t).gen + 1 } else s.ten j := by
  have h : (s.genUp t).ten j = (s.modTen t fun x => { x with en := false, weight := 0, gen := (s.ten t).gen + 1 }).ten j :=
    rfl
  rw [h]
  simp

theorem State.Fenced.genUp {s u : State} {p : Nat} {e : RstEng} (h : s.Fenced u p e) (t : Nat) :
    s.Fenced (u.genUp t) p e where
  esc := h.esc
  nvm := h.nvm
  boot := h.boot
  cnts := h.cnts
  ropes := h.ropes
  engine := h.engine
  others := h.others
  log := h.log
  out := fun m hm => by
    obtain ⟨hoos, hhang, htestf⟩ := h.out m hm
    rw [State.genUp_mover t hoos]
    exact ⟨hoos, hhang, htestf⟩

theorem State.Fenced.genUps {s u : State} {p : Nat} {e : RstEng} (h : s.Fenced u p e) (l : List Nat) :
    s.Fenced (l.foldl State.genUp u) p e :=
  List.foldlRecOn (motive := fun v : State => s.Fenced v p e) l _ h fun _ hv t _ => hv.genUp t

theorem State.beginReset_tenant_fenced (s : State) (p t : Nat) (rcv raised : Bool) :
    s.Fenced (s.beginReset p 1 t rcv raised) p ((s.rstE p).begun 1 t rcv) := by
  rw [State.beginReset_tenant]
  exact ((s.resetBegun_begun p 1 t rcv raised).fence (.ten t)).genUp t

theorem State.beginReset_mover_fenced (s : State) (p m : Nat) (rcv raised : Bool) :
    s.Fenced (s.beginReset p 2 m rcv raised) p ((s.rstE p).begun 2 m rcv) := by
  rw [State.beginReset_mover]
  exact ((s.resetBegun_begun p 2 m rcv raised).meetReset true m).fence (.mover m)

theorem State.beginReset_part_fenced (s : State) (p : Nat) (rcv raised : Bool) :
    s.Fenced (s.beginReset p 3 p rcv raised) p ((s.rstE p).begun 3 p rcv) := by
  rw [State.beginReset_part]
  exact (((s.resetBegun_begun p 3 p rcv raised).partMet p).fence (.part p)).genUps _

end Sys2Proof.Machine
end

section
/-! O39: the self-test of a Mover reset, and what a Mover that fails it leads to. -/

namespace Sys2Proof.Machine

/-! ### A reset that ends with none behind it -/

theorem State.sheetDue_sheeted (s : State) (n : Nat) : s.Sheeted (s.sheetDue n) := by
  unfold State.sheetDue
  split
  · have h := State.sheetOut_sheeted { s with mg := { s.mg with csDue := 9 } }
    generalize State.sheetOut { s with mg := { s.mg with csDue := 9 } } = t at h
    have hmg : t.mg = { s.mg with cs := t.mg.cs, csDue := t.mg.csDue, csOut := t.mg.csOut } := by rw [h]
    unfold State.Sheeted at h ⊢
    rw [← hmg]
    exact h.trans (by rw [hmg])
  · exact .refl s

/-- The engine of a partition after a reset that none waits behind. -/
def RstEng.ended (e : RstEng) : RstEng :=
  { e with
    busy := false, unit := 0, target := 0, sbath := false, rcv := false, lunit := e.unit, ltarget := e.target, tests := []
    queue := [] }

/-- The state in which a reset has ended and its event is logged. -/
def State.resetLogged (s : State) (p : Nat) : State :=
  (s.modRstE p RstEng.ended).logEvent 0x10 p
    ((s.rstE p).unit.toNat + 8 * b2n (s.rstE p).rcv + 256 * (s.rstE p).target.toNat)

/-- The state in which the streams that waited for a reset have been placed anew. -/
def State.resetPlaced (s : State) (p : Nat) : State :=
  (((s.resetLogged p).moversOf p).foldl State.rehome (s.resetLogged p)).wakeUp.ropeEvalAll

theorem State.resetPlaced_ran (s : State) (p : Nat) : (s.resetLogged p).Ran (s.resetPlaced p) := by
  have hhome : (s.resetLogged p).Placed (((s.resetLogged p).moversOf p).foldl State.rehome (s.resetLogged p)) :=
    State.Placed.foldl State.rehome_placed _ _
  exact (hhome.trans (State.wakeUp_woken _).placed).ran.trans (State.ropeEvalAll_ran _)

theorem State.resetDone_alone {s : State} {p : Nat} (hq : (s.rstE p).queue = []) :
    s.resetDone p = (s.resetPlaced p).sheetDue p := by
  have hend : s.modRstE p (fun x => { x with
      busy := false, unit := 0, target := 0, sbath := false, rcv := false, lunit := (s.rstE p).unit
      ltarget := (s.rstE p).target, tests := [], queue := [].drop 1 }) = s.modRstE p RstEng.ended := by
    rw [State.modRstE_eq, State.modRstE_eq]
    rfl
  unfold State.resetDone
  dsimp only
  rw [hq]
  dsimp only [List.filter_nil, List.foldl_nil]
  rw [hend]
  rfl

theorem State.resetDone_rest {s : State} {p : Nat} (hq : (s.rstE p).queue = []) :
    (s.resetDone p).rst = (s.modRstE p RstEng.ended).rst ∧ (s.resetDone p).mg.log = (s.resetLogged p).mg.log
      ∧ (s.resetDone p).nvm = s.nvm ∧ (s.resetDone p).cnts = s.cnts ∧ (s.resetDone p).movers = s.movers := by
  rw [State.resetDone_alone hq, State.sheetDue_sheeted, State.resetPlaced_ran]
  exact ⟨rfl, rfl, rfl, rfl, rfl⟩

/-! ### A Mover out of service -/

/-- From `r` to `u` one reset has entered the recovery history; the newest event is still in the log, and no Mover is back in
service. -/
structure State.Recovered (r u : State) : Prop where
  hist : u.esc.hist.length = r.esc.hist.length + 1
  log : (∀ q, (r.xlU q).queue = []) → ∀ e, r.mg.log.head? = some e → e ∈ u.mg.log
  out : ∀ m, (r.mover m).oos = true → (u.mover m).oos = true ∧ (u.mover m).hang = (r.mover m).hang
    ∧ (u.mover m).testf = (r.mover m).testf

theorem State.escRaise_log {s : State} {e : LogE} (h : s.mg.log.head? = some e) (p unit target : Nat) :
    e ∈ (s.escRaise p unit target).mg.log := by
  obtain ⟨l, hl⟩ := List.head?_eq_some_iff.mp h
  obtain ⟨f, hf, _⟩ := State.logEvent_log { s with esc := { s.esc with
    raised := true, runit := BitVec.ofNat 3 unit, rtgt := BitVec.ofNat 8 target } } 0x11 p (unit + 256 * target)
  have hlog : (s.escRaise p unit target).mg.log = (f :: s.mg.log).take 4096 := hf
  rw [hlog, hl]
  simp

theorem State.blockMet_rest (s : State) (raised : Bool) (m : Nat) : (s.blockMet raised).xl = s.xl
    ∧ (s.blockMet raised).mg.log = s.mg.log ∧ ((s.blockMet raised).mover m).oos = (s.mover m).oos
    ∧ ((s.blockMet raised).mover m).hang = (s.mover m).hang ∧ ((s.blockMet raised).mover m).testf = (s.mover m).testf := by
  have hmet := s.blockMet_met raised
  have hmov : ((s.blockMet raised).mover m).oos = (s.mover m).oos
      ∧ ((s.blockMet raised).mover m).hang = (s.mover m).hang ∧ ((s.blockMet raised).mover m).testf = (s.mover m).testf := by
    unfold State.blockMet
    refine List.foldlRecOn (motive := fun u : State => (u.mover m).oos = (s.mover m).oos
      ∧ (u.mover m).hang = (s.mover m).hang ∧ (u.mover m).testf = (s.mover m).testf) _ _ ?_ fun u hu j _ => ?_
    · have hm : (if raised then s.awake.sheetLater.sheetTake 8 else s.awake.sheetLater).mover m = s.mover m := by
        have hlater : s.awake.sheetLater.movers = s.movers := by
          unfold State.sheetLater
          split
          · exact s.awake_movers
          · exact s.awake_movers
        refine congrArg (fun l : SMap Mover => l.get Mover.reset m) ?_
        split
        · rw [State.sheetTake_movers, hlater]
        · exact hlater
      rw [hm]
      exact ⟨rfl, rfl, rfl⟩
    · have hmod := State.modMover_mover u j m fun v : Mover =>
        { v with gated := false, froz := v.froz || false, phase := 0, req := false }
      have hj : (u.meetReset false j).mover m = _ := hmod
      rw [hj]
      split
      · next hmj => subst hmj; exact hu
      · exact hu
  refine ⟨?_, ?_, hmov⟩
  · rw [hmet]
  · rw [hmet]

theorem State.beginBlock_recovers {r s : State} {unit : Nat} (raised : Bool)
    (hist : s.esc.hist.length = r.esc.hist.length + 1) (hxl : s.xl = r.xl) (hmov : s.movers = r.movers)
    (hlog : ∀ e, r.mg.log.head? = some e → e ∈ s.mg.log) : r.Recovered (s.beginBlock unit raised) := by
  have hesc := (s.beginBlock_fenced unit raised).esc
  have hblock := s.blockMet_rest raised
  rw [State.beginBlock_eq] at hesc ⊢
  obtain ⟨t, ht⟩ : ∃ t, t = (s.blockMet raised).blockBusy unit := ⟨_, rfl⟩
  obtain ⟨v, hv⟩ : ∃ v, v = s.blockMet raised := ⟨_, rfl⟩
  rw [← hv] at hblock ht hesc ⊢
  rw [← ht] at hesc ⊢
  have hbusy : t.xl = v.xl ∧ t.mg = v.mg ∧ t.movers = v.movers := by
    obtain ⟨hrest, _⟩ := v.foldl_modRstE (fun e => e.blocked unit) 8
    rw [ht]
    unfold State.blockBusy
    dsimp only
    rw [hrest]
    exact ⟨rfl, rfl, rfl⟩
  obtain ⟨htxl, htmg, htmov⟩ := hbusy
  have halone := fun hq => (State.fence_alone (s := t) hq .block).1
  have ho := t.fence_outer .block
  generalize t.fence .block = u at hesc halone ho ⊢
  refine ⟨(congrArg (fun x : Esc => x.hist.length) hesc).trans hist, fun hq e he => ?_, fun m hm => ?_⟩
  · have hq' : ∀ q, (t.xlU q).queue = [] := fun q => (congrArg (fun x : SMap Xl => (x.get Xl.reset q).queue)
      ((htxl.trans (hblock 0).1).trans hxl)).trans (hq q)
    rw [halone hq', htmg, (hblock 0).2.1]
    exact hlog e he
  · have hfix : (u.mover m).fixed = (t.mover m).fixed := congrArg (fun o : Outer => o.movers m) ho
    have htv : t.mover m = v.mover m := congrArg (fun x : SMap Mover => x.get Mover.reset m) htmov
    have hsr : s.mover m = r.mover m := congrArg (fun x : SMap Mover => x.get Mover.reset m) hmov
    obtain ⟨_, _, hoos, hhang, htestf⟩ := hblock m
    rw [htv] at hfix
    rw [hsr] at hoos hhang htestf
    exact ⟨((congrArg Mover.oos hfix).trans hoos).trans hm, (congrArg Mover.hang hfix).trans hhang,
      (congrArg Mover.testf hfix).trans htestf⟩

theorem State.preempt_recovers (r : State) (p : Nat) : r.Recovered (r.preempt p) := by
  obtain ⟨s, hs⟩ : ∃ s, s = (((r.escNote 3 p).modRstE p fun e => { e with
    busy := false, sbath := false, tests := [] }).escRaise p 3 p) := ⟨_, rfl⟩
  have hop : r.preempt p = s.beginReset p 3 p true true := by rw [hs]; rfl
  have hhist : s.esc.hist.length = r.esc.hist.length + 1 := by rw [hs]; rfl
  have hxl : s.xl = r.xl := by rw [hs]; rfl
  have hmov : s.movers = r.movers := by rw [hs]; rfl
  have hlog : ∀ e, r.mg.log.head? = some e → e ∈ s.mg.log := fun e he => by
    rw [hs]
    exact State.escRaise_log (s := (r.escNote 3 p).modRstE p fun e => { e with
      busy := false, sbath := false, tests := [] }) he p 3 p
  have hf := s.beginReset_part_fenced p true true
  rw [hop]
  refine ⟨(congrArg (fun x : Esc => x.hist.length) hf.esc).trans hhist, fun hq e he => ?_, fun m hm => ?_⟩
  · rw [hf.log fun q => (congrArg (fun x : SMap Xl => (x.get Xl.reset q).queue) hxl).trans (hq q)]
    exact hlog e he
  · have hsr : s.mover m = r.mover m := congrArg (fun x : SMap Mover => x.get Mover.reset m) hmov
    rw [← hsr] at hm ⊢
    exact hf.out m hm

/-- Partition p is to be reset, whatever the recovery history raises that to. -/
theorem State.recover_part_recovers (r : State) (p : Nat) : r.Recovered (r.recover p 3 p true) := by
  unfold State.recover
  split
  · exact State.beginBlock_recovers true rfl rfl rfl fun e he => List.mem_of_mem_head? he
  · split
    · exact r.preempt_recovers p
    · rw [if_neg (by decide), if_neg (by decide)]
      exact State.beginBlock_recovers (s := (r.escRaise p 4 0).escNote 4 0) true rfl rfl rfl
        fun e he => State.escRaise_log he p 4 0

/-- A Mover that leaves service. -/
def Mover.retired (v : Mover) (hang testf : Bool) : Mover :=
  { v with oos := true, hang := v.hang || hang, testf := v.testf || testf }

theorem State.moverOut_recovers {s : State} {m : Nat} (hang testf : Bool) (hp : s.partOf m < 8) (hblk : s.blk = none)
    (hunit : (s.rstE (s.partOf m)).unit = 2) :
    ((s.moverOut m hang testf).mover m).oos = true
      ∧ ((s.moverOut m hang testf).mover m).hang = ((s.mover m).hang || hang)
      ∧ ((s.moverOut m hang testf).mover m).testf = ((s.mover m).testf || testf)
      ∧ (s.moverOut m hang testf).esc.hist.length = s.esc.hist.length + 1
      ∧ ((∀ q, (s.xlU q).queue = []) → ∃ e ∈ (s.moverOut m hang testf).mg.log, e.code = 0x13
        ∧ e.src = BitVec.ofNat 8 m ∧ e.seq = s.mg.nseq) := by
  obtain ⟨v, hv⟩ : ∃ v, v = (((s.modMover m fun v => v.retired hang testf).logEvent 0x13 m
    (b2n hang + 2 * b2n testf)).modRstE (s.partOf m) fun e => { e with tests := e.tests.erase m }) := ⟨_, rfl⟩
  obtain ⟨r, hr⟩ : ∃ r, r = v.ropeEvalAll := ⟨_, rfl⟩
  have hran : v.Ran r := hr ▸ v.ropeEvalAll_ran
  have hvm : v.mover m = (s.mover m).retired hang testf := by
    rw [hv]
    exact (State.modMover_mover s m m fun v => v.retired hang testf).trans (if_pos rfl)
  have hrm : r.mover m = v.mover m := by rw [hran]; rfl
  have hrb : r.blk = none := by rw [hran, hv]; exact hblk
  have hrh : r.esc.hist = s.esc.hist := by rw [hran, hv]; rfl
  have hrx : r.xl = s.xl := by rw [hran, hv]; rfl
  have hrl : r.mg.log = v.mg.log := by rw [hran]
  have hop : s.moverOut m hang testf = r.recover (s.partOf m) 3 (s.partOf m) true := by
    have hraise : r.raisePart (s.partOf m) = r.recover (s.partOf m) 3 (s.partOf m) true := if_neg (by
      rw [hrb]
      rintro (h | h)
      · exact Bool.false_ne_true h
      · omega)
    rw [← hraise, hr, hv]
    exact if_pos hunit
  obtain ⟨hhist, hlog, hout⟩ := r.recover_part_recovers (s.partOf m)
  rw [← hop] at hhist hlog hout
  obtain ⟨hoos, hhang, htestf⟩ := hout m (by rw [hrm, hvm]; rfl)
  rw [hrm, hvm] at hhang htestf
  refine ⟨hoos, hhang, htestf, hhist.trans (by rw [hrh]), fun hq => ?_⟩
  obtain ⟨e, he, hcode, hsrc, _, hseq⟩ := State.logEvent_log (s.modMover m fun v => v.retired hang testf) 0x13 m
    (b2n hang + 2 * b2n testf)
  have hhead : r.mg.log.head? = some e := by
    have hvl : v.mg.log = (e :: s.mg.log).take 4096 := by rw [hv]; exact he
    rw [hrl, hvl]
    rfl
  exact ⟨e, hlog (fun q => (congrArg (fun x : SMap Xl => (x.get Xl.reset q).queue) hrx).trans (hq q)) e hhead, hcode,
    hsrc, hseq⟩

end Sys2Proof.Machine

namespace Sys2Proof
open Machine

/-- Settles O39: with nothing queued behind it a reset ends at its event; a Mover that is out of service stays so through
the reset of its partition, or of the block, that follows. -/
theorem moverSelfTest : Obligations.mover_self_test := by
  unfold Obligations.mover_self_test
  intro s m p hp hblk hbusy hbath htests hunit htarget
  refine ⟨fun hq hzero => ?_, fun hwalk => ?_, fun hwalk => ?_⟩
  · obtain ⟨v, hv⟩ : ∃ v, v = s.modRstE p fun x => { x with tests := x.tests.erase m } := ⟨_, rfl⟩
    have hvp : v.rstE p = { s.rstE p with tests := [] } := by
      rw [hv, State.modRstE_rstE, if_pos rfl, htests, List.erase_cons_head]
    have hvs : v = { s with rst := v.rst } := by rw [hv]; rfl
    have hvq : (v.rstE p).queue = [] := by rw [hvp]; exact hq
    have hcheck : v.resetCheck p = v.resetDone p := if_pos (by
      rw [hvp, hbusy, hbath, show v.blk = none by rw [hvs]; exact hblk]
      have hno : (v.acc.any fun a => a.kind == .glacZero && a.part == p) = false := List.any_eq_false.mpr fun a ha => by
        have ha' : a ∈ s.acc := by rw [hvs] at ha; exact ha
        simp [hzero a ha']
      rw [hno]
      rfl)
    have hop : s.selftestOp m true = v.resetDone p := by
      rw [← hcheck, hv]
      refine (if_neg ?_).trans (if_pos rfl)
      have h8 : ¬ 8 ≤ s.partOf m := by
        have : s.partOf m = p := rfl
        omega
      rw [show (s.rstE (s.partOf m)).busy = true from hbusy, show (s.rstE (s.partOf m)).sbath = false from hbath, hblk,
        show (s.rstE (s.partOf m)).tests = [m.val] from htests]
      simp [h8]
    obtain ⟨hrst, hlog, hnvm, hcnts, hmovers⟩ := State.resetDone_rest hvq
    have hend : (v.resetDone p).rstE p = (v.rstE p).ended :=
      (congrArg (fun r : SMap RstEng => r.get RstEng.reset p) hrst).trans
        ((State.modRstE_rstE v p p RstEng.ended).trans (if_pos rfl))
    refine ⟨_, congrArg Host.Outcome.next hop, ?_, ?_, ?_, ?_, ?_⟩
    · rw [hend, hvp]
      unfold RstEng.ended
      dsimp only
      rw [hunit, htarget, hq, hbath]
    · obtain ⟨e, he, hcode, hsrc, _⟩ := State.logEvent_log (v.modRstE p RstEng.ended) 0x10 p
        ((v.rstE p).unit.toNat + 8 * b2n (v.rstE p).rcv + 256 * (v.rstE p).target.toNat)
      have hvl : v.mg.log = s.mg.log := by rw [hvs]
      exact ⟨e, hlog.trans (he.trans (by rw [show (v.modRstE p RstEng.ended).mg.log = v.mg.log from rfl, hvl])), hcode, hsrc⟩
    · rw [hnvm, hvs]
    · rw [hcnts, hvs]
    · rw [hmovers, hvs]
  · have hop : s.selftestOp m false = s.moverOut m false true := by
      refine (if_neg ?_).trans (if_neg Bool.false_ne_true)
      have h8 : ¬ 8 ≤ s.partOf m := by
        have : s.partOf m = p := rfl
        omega
      rw [show (s.rstE (s.partOf m)).busy = true from hbusy, show (s.rstE (s.partOf m)).sbath = false from hbath, hblk,
        show (s.rstE (s.partOf m)).tests = [m.val] from htests]
      simp [h8]
    obtain ⟨hoos, _, htestf, hhist, hlog⟩ := State.moverOut_recovers (m := m.val) false true hp hblk hunit
    exact ⟨_, congrArg Host.Outcome.next hop, hoos, htestf.trans (Bool.or_true _), hhist, hlog hwalk⟩
  · have hop : s.moverHangOp m = s.moverOut m true false := by
      refine if_neg ?_
      have h8 : ¬ 8 ≤ s.partOf m := by
        have : s.partOf m = p := rfl
        omega
      rw [show (s.rstE (s.partOf m)).busy = true from hbusy, hblk,
        show (s.rstE (s.partOf m)).tests = [m.val] from htests]
      simp [h8]
    obtain ⟨hoos, hhang, _, hhist, hlog⟩ := State.moverOut_recovers (m := m.val) true false hp hblk hunit
    exact ⟨_, congrArg Host.Outcome.next hop, hoos, hhang.trans (Bool.or_true _), hhist, hlog hwalk⟩

end Sys2Proof
end

section
/-! O38: the statement asks too much of a state in which two channels hold one stream in their shadow sets. -/

namespace Sys2Proof.Machine

/-- Tenant 0 is being reset, and the stream of an Ecnos channel of tenant 1, whose next descriptor is misaligned, stands in
the shadow sets of two channels; tenant 2 is active at virtual time 5. -/
def twiceShadowed : State := { State.reset with
  rst := [(0, { RstEng.reset with busy := true, unit := 1, sbath := true })]
  tens := [(1, { Tenant.reset with active := true }), (2, { Tenant.reset with active := true, vt := 5 })]
  parts := [(0, { Part.reset with mvmask := 1 })]
  ecn := [(0, { Ecn.reset with next := 1 })]
  strms := [(1024, { Strm.reset with st := .ready, ten := 1 })]
  chans := [(0, { Chan.reset with shadow := some 1024 }), (1, { Chan.reset with shadow := some 1024 })] }

/-- The first channel ends the chain, which leaves the stream's record as at reset, of tenant 0; the second one starts it
again, and tenant 0 takes the least virtual time of the others. -/
theorem twiceShadowed_vt : ((twiceShadowed.drainedOp (some 0)).ten 0).vt = 5 := by decide

end Sys2Proof.Machine

namespace Sys2Proof
open Machine

/-- Refutes O38: a stream that stands in two shadow sets is started after its record has ended, and an ended record
names tenant 0, whose virtual time is then not 0; the statement does not say that a stream stands in one shadow set. -/
theorem not_stopBaths : ¬ Obligations.stop_baths := by
  unfold Obligations.stop_baths
  intro h
  obtain ⟨u, hu, -, -, -, -, -, -, hvt, -⟩ := (h.1 twiceShadowed 0 rfl rfl rfl (by decide)).1 0 (by decide) (by decide)
    (by decide) rfl rfl rfl rfl rfl (by decide) (by decide)
  rw [← Host.Outcome.next.inj hu] at hvt
  exact absurd (twiceShadowed_vt.symm.trans hvt) (by decide)

end Sys2Proof
end

section
/-! What most steps of the engine leave as they are: the streams, the channels, and which Movers are gated. -/

namespace Sys2Proof.Machine

/-- The streams and channels, and which Movers are gated. -/
def State.seats (s : State) : SMap Strm × SMap Chan × (Nat → Bool) :=
  (s.strms, s.chans, fun k => (s.movers.get Mover.reset k).gated)

@[simp] theorem State.seats_eta (s : State) :
    (s.strms, s.chans, fun k => (s.movers.get Mover.reset k).gated) = s.seats := (rfl)

@[simp] theorem State.seats_ite (c : Prop) [Decidable c] (s t : State) :
    (if c then s else t).seats = if c then s.seats else t.seats := apply_ite State.seats c s t

/-- Steps that each keep a list of things in order keep it together. -/
@[simp] theorem State.seats_foldl {α : Type} {f : State → α → State} (hf : ∀ s a, (f s a).seats = s.seats) (s : State)
    (l : List α) : (l.foldl f s).seats = s.seats := by
  induction l generalizing s with
  | nil => rfl
  | cons a l ih => exact (ih _).trans (hf s a)

@[simp] theorem State.seats_mk (pending cc nextAid seq free boot pins esc rst blk sink par stc granRet granErr scrub
    pwr hsec dbg irq strm host tens sqs cqs parts ecn xl dc tabs arb movers chans cnts ropes strms acc stg inv peer mg
    nvm smb tap) :
    (State.mk pending cc nextAid seq free boot pins esc rst blk sink par stc granRet granErr scrub pwr hsec dbg irq
      strm host tens sqs cqs parts ecn xl dc tabs arb movers chans cnts ropes strms acc stg inv peer mg nvm smb
      tap).seats = (strms, chans, fun k => (movers.get Mover.reset k).gated) := (rfl)

/-! ### Functions of Ops.lean -/

@[simp] theorem State.setTen_seats (s : State) (k v) : (s.setTen k v).seats = s.seats := (rfl)
@[simp] theorem State.modTen_seats (s : State) (k g) : (s.modTen k g).seats = s.seats := (rfl)
@[simp] theorem State.setPart_seats (s : State) (k v) : (s.setPart k v).seats = s.seats := (rfl)
@[simp] theorem State.modPart_seats (s : State) (k g) : (s.modPart k g).seats = s.seats := (rfl)
@[simp] theorem State.modEcnCh_seats (s : State) (k g) : (s.modEcnCh k g).seats = s.seats := (rfl)
@[simp] theorem State.setXlU_seats (s : State) (k v) : (s.setXlU k v).seats = s.seats := (rfl)
@[simp] theorem State.modXlU_seats (s : State) (k g) : (s.modXlU k g).seats = s.seats := (rfl)
@[simp] theorem State.setDcU_seats (s : State) (k v) : (s.setDcU k v).seats = s.seats := (rfl)
@[simp] theorem State.setMover_seats (s : State) (k : Nat) (v : Mover) (h : v.gated = (s.mover k).gated) :
    (s.setMover k v).seats = s.seats := by
  have hf : (fun j => ((s.setMover k v).mover j).gated) = fun j => (s.mover j).gated := funext fun j => by
    rw [setMover_mover]
    split
    · next hj => rw [hj, h]
    · rfl
  exact congrArg (fun x => (s.strms, s.chans, x)) hf

/-! ### Functions of Access.lean -/

@[simp] theorem State.cacheParity_seats (s : State) (m sid) : (s.cacheParity m sid).seats = s.seats := (rfl)

@[simp] theorem State.shedCount_seats (s : State) (m sid n) : (s.shedCount m sid n).seats = s.seats := by
  simp -implicitDefEqProofs [shedCount]

@[simp] theorem State.delAcc_seats (s : State) (aid) : (s.delAcc aid).seats = s.seats := (rfl)
@[simp] theorem State.modAcc_seats (s : State) (aid f) : (s.modAcc aid f).seats = s.seats := (rfl)
@[simp] theorem State.pushAcc_seats (s : State) (a) : (s.pushAcc a).seats = s.seats := (rfl)
@[simp] theorem State.pushPhys_seats (s : State) (a attr) : (s.pushPhys a attr).seats = s.seats := (rfl)

@[simp] theorem State.lookup_seats (s : State) (p mv ten gen va wr) :
    (s.lookup p mv ten gen va wr).2.seats = s.seats := by
  unfold lookup
  dsimp only
  repeat' split
  all_goals simp -implicitDefEqProofs

@[simp] theorem State.shedTlb_seats (s : State) (a) : (s.shedTlb a).seats = s.seats := by
  unfold shedTlb
  dsimp only
  repeat' split
  all_goals simp -implicitDefEqProofs

@[simp] theorem State.walkRead_seats (s : State) (p w) : (s.walkRead p w).seats = s.seats := (rfl)

@[simp] theorem State.shedWalk_seats (s : State) (p r) : (s.shedWalk p r).seats = s.seats := by
  simp -implicitDefEqProofs [shedWalk]

@[simp] theorem State.startWalk_seats (s : State) (p r) : (s.startWalk p r).seats = s.seats := by
  unfold startWalk
  dsimp only
  split <;> simp -implicitDefEqProofs





/-! ### Functions of Fault.lean -/

@[simp] theorem State.pumpFq_seats (s : State) (p) : (s.pumpFq p).seats = s.seats := by
  unfold pumpFq
  dsimp only
  split <;> simp -implicitDefEqProofs

@[simp] theorem State.fqLose_seats (s : State) (p) : (s.fqLose p).seats = s.seats := (rfl)

@[simp] theorem State.pushFault_seats (s : State) (p f) : (s.pushFault p f).seats = s.seats := by
  simp -implicitDefEqProofs [pushFault]

/-! ### Functions of Stream.lean -/

@[simp] theorem State.refreshActive_seats (s : State) (t) : (s.refreshActive t).seats = s.seats := by
  simp -implicitDefEqProofs [refreshActive]








@[simp] theorem State.modGen_seats (s : State) (p g f) : (s.modGen p g f).seats = s.seats := by
  unfold modGen
  split <;> simp -implicitDefEqProofs








@[simp] theorem State.recordOut_seats (s : State) (m c sid kind) : (s.recordOut m c sid kind).seats = s.seats := by
  simp -implicitDefEqProofs [recordOut]

@[simp] theorem State.writeBack_seats (s : State) (m c sid) : (s.writeBack m c sid).seats = s.seats := by
  simp -implicitDefEqProofs [writeBack]

@[simp] theorem State.moveSpace_seats (s : State) (p old new) : (s.moveSpace p old new).seats = s.seats := (rfl)


@[simp] theorem State.dropChan_seats (s : State) (m c keep) : (s.dropChan m c keep).seats = s.seats := (rfl)





@[simp] theorem State.shedCopy_seats (s : State) (p ten gen addr m sid) :
    (s.shedCopy p ten gen addr m sid).seats = s.seats := by
  simp -implicitDefEqProofs [shedCopy]

@[simp] theorem State.cacheUse_seats (s : State) (p ten gen addr) :
    (s.cacheUse p ten gen addr).seats = s.seats := (rfl)


/-! ### Functions of Sync.lean -/

/-! ### Functions of Check.lean -/

@[simp] theorem State.tabUse_seats (s : State) (p e) : (s.tabUse p e).seats = s.seats := (rfl)

@[simp] theorem State.findCopy_seats (s : State) (p ten gen drr n) :
    (s.findCopy p ten gen drr n).2.seats = s.seats := by
  unfold findCopy
  split
  · rfl
  · split
    · rfl
    · split <;> simp -implicitDefEqProofs
    · split <;> simp -implicitDefEqProofs






/-! ### Functions of Active.lean -/













@[simp] theorem State.lateReads_seats (s : State) (m c) : (s.lateReads m c).seats = s.seats := (rfl)


/-! ### Functions of Complete.lean -/




/-! ### Functions of Run.lean -/

/-! ### Functions of StreamCmd.lean -/

@[simp] theorem State.freeSlots_seats (s : State) (p l) : (s.freeSlots p l).seats = s.seats := (rfl)

/-! ### Functions of Peer.lean -/

@[simp] theorem State.creditOwe_seats (s : State) (key) : (s.creditOwe key).seats = s.seats := (rfl)

@[simp] theorem State.respond_seats (s : State) (hdr type nst payload) :
    (s.respond hdr type nst payload).seats = s.seats := by
  simp -implicitDefEqProofs [respond]

@[simp] theorem State.nack_seats (s : State) (hdr nst) : (s.nack hdr nst).seats = s.seats := by
  simp -implicitDefEqProofs [nack]

@[simp] theorem State.endJob_seats (s : State) (j) : (s.endJob j).seats = s.seats := by
  simp -implicitDefEqProofs [endJob]

@[simp] theorem State.failJob_seats (s : State) (j nst f) : (s.failJob j nst f).seats = s.seats := by
  unfold failJob
  split <;> simp -implicitDefEqProofs

@[simp] theorem State.rxXlat_seats (s : State) (id f) : (s.rxXlat id f).seats = s.seats := by
  unfold rxXlat
  split <;> simp -implicitDefEqProofs

/-! ### Functions of Ecnos.lean -/

/-! ### Functions of Events.lean -/




/-! ### Functions of Sched.lean -/

/-! ### Functions of Arb.lean -/

/-! ### Functions of Door.lean -/

/-! ### Functions of Conf.lean -/

/-! ### Functions of Pins.lean -/

/-! ### Functions of Power.lean -/

/-! ### Functions of Sheet.lean -/

/-! ### Functions of Reset.lean -/

/-! ### Functions of Test.lean -/

/-! ### Functions of Mgmt.lean -/

/-! ### Functions of Dbg.lean -/

/-! ### Functions of RegMap.lean -/

/-! ### Functions of Parity.lean -/

/-! ### Functions of Boot.lean -/

/-! ### Functions of Step.lean -/

/-! ### Functions of Safety.lean -/

end Sys2Proof.Machine
end

section
/-! A predicate that the engine's elementary writes keep, its steps keep: an induction over the engine, done once. -/

namespace Sys2Proof.Machine

/-- A write to a channel that the engine makes: `L` are the streams that it may start, `free` says that the channel may
start to work. -/
structure Chan.Next (L : Nat → Prop) (free : Prop) (h h' : Chan) : Prop where
  loading : h'.loading = h.loading
  xseq : h'.xseq = h.xseq
  shadow : h'.shadow = h.shadow ∨ h'.shadow = none
  act : ∀ n, h'.act = some n → h.act = some n ∨ L n
  ph : free ∨ h'.ph = h.ph ∨ h'.ph = .idle

theorem Chan.Next.of_same {L : Nat → Prop} {free : Prop} {h h' : Chan} (hl : h'.loading = h.loading)
    (hx : h'.xseq = h.xseq) (hs : h'.shadow = h.shadow) (ha : h'.act = h.act) (hp : free ∨ h'.ph = h.ph) :
    Chan.Next L free h h' :=
  ⟨hl, hx, .inl hs, fun _ hn => .inl (ha.symm.trans hn), hp.imp_right .inl⟩

/-- A predicate on states that the engine's elementary writes keep: streams written are of `L`, and channels that start to
work are of `C`. -/
structure State.Keeper (Q : State → Prop) (L C : Nat → Prop) : Prop where
  seats : ∀ {s t : State}, t.seats = s.seats → Q s → Q t
  ungate : ∀ {s : State} (m : Nat) (g : Mover → Mover), (∀ v, (g v).gated = false) → Q s → Q (s.modMover m g)
  strm : ∀ {s : State} {sid : Nat} (v : Strm), L sid → Q s → Q (s.setStrmAt sid v)
  chan : ∀ {s : State} {m c : Nat} (g : Chan → Chan), (∀ h, Chan.Next L (C (4 * m + c)) h (g h)) → Q s → Q (s.modCh m c g)
  waits : ∀ {s : State} {e : Nat × Strm}, Q s → e ∈ s.strms → e.2.st = .waiting ∨ e.2.st = .ready → L e.1
  issuer : ∀ {s : State} {j : Nat}, Q s → (s.strmAt j).wait ≠ .none → L j
  act : ∀ {s : State} {k n : Nat}, Q s → C k → (s.chan k).act = some n → L n

namespace State.Keeper

variable {Q : State → Prop} {L C : Nat → Prop}

theorem foldl {α : Type} {f : State → α → State} (l : List α) (hf : ∀ s a, a ∈ l → Q s → Q (f s a)) {s : State} (h : Q s) :
    Q (l.foldl f s) :=
  List.foldlRecOn (motive := Q) l f h fun t ht a ha => hf t a ha ht

variable (K : State.Keeper Q L C)
include K

theorem setSeq {s : State} (n : Nat) (h : Q s) : Q { s with seq := n } := K.seats (s := s) rfl h

theorem setFree {s : State} (n : Nat) (h : Q s) : Q { s with free := n } := K.seats (s := s) rfl h

/-! ### Streams -/

theorem modStrmAt {s : State} {sid : Nat} (g : Strm → Strm) (hL : L sid) (h : Q s) : Q (s.modStrmAt sid g) := K.strm _ hL h

theorem modCmd {s : State} {sid : Nat} (g : CmdCtx → CmdCtx) (hL : L sid) (h : Q s) : Q (s.modCmd sid g) :=
  K.modStrmAt _ hL h

theorem setSt {s : State} {sid : Nat} (st : StState) (w : Wait) (hL : L sid) (h : Q s) : Q (s.setSt sid st w) :=
  K.seats (State.refreshActive_seats _ _) (K.strm _ hL h)

theorem setWait {s : State} {sid : Nat} (w : Wait) (hL : L sid) (h : Q s) : Q (s.setWait sid w) := K.setSt .waiting w hL h

theorem haltHome {s : State} {sid : Nat} (hL : L sid) (h : Q s) : Q (s.haltHome sid) :=
  K.setSt .halted .none hL (K.modStrmAt _ hL h)

theorem makeReady {s : State} {sid : Nat} (hL : L sid) (h : Q s) : Q (s.makeReady sid) := by
  unfold State.makeReady
  split
  · exact K.setSt .waiting .cqFull hL h
  · split
    · exact K.haltHome hL h
    · split
      · exact K.setSt .waiting .home hL h
      · exact K.setSeq _ (K.setSt .ready .none hL (K.modStrmAt _ hL h))

theorem makeReadies {s : State} {l : List Nat} (hl : ∀ k ∈ l, L k) (h : Q s) : Q (s.makeReadies l) :=
  foldl l (fun _ k hk ht => K.makeReady (hl k hk) ht) h

/-- The streams of a list that wait. -/
theorem waiting {s : State} {f : Nat × Strm → Bool} (h : Q s) (hf : ∀ e, f e = true → e.2.st = .waiting) :
    ∀ k ∈ (s.strms.filter f).map (·.1), L k := fun k hk => by
  obtain ⟨e, he, rfl⟩ := List.mem_map.mp hk
  obtain ⟨hmem, hfe⟩ := List.mem_filter.mp he
  exact K.waits h hmem (.inl (hf e hfe))

theorem wakeUp {s : State} (h : Q s) : Q s.wakeUp :=
  K.makeReadies (K.waiting h fun e he => by simpa using (Bool.and_eq_true_iff.mp he).1) h

theorem wakeHome {s : State} (m c : Nat) (h : Q s) : Q (s.wakeHome m c) :=
  K.makeReadies (K.waiting h fun e he => by simp at he; exact he.1.1.1) h

theorem unpin {s : State} {sid : Nat} (hL : L sid) (h : Q s) : Q (s.unpin sid) := by
  unfold State.unpin
  dsimp only
  split
  · exact h
  · exact K.wakeUp (K.seats (State.modGen_seats _ _ _ _) (K.modStrmAt _ hL h))

theorem rearmEnds {s : State} (issuer target : Nat) (aborted : Bool) (h : Q s) : Q (s.rearmEnds issuer target aborted) := by
  unfold State.rearmEnds
  dsimp only
  split
  · exact h
  · split
    · next hw =>
      have hL : L issuer := K.issuer h (by rw [hw]; exact Wait.noConfusion)
      split
      · exact K.makeReady hL (K.strm _ hL h)
      · exact K.strm _ hL h
    · exact h

theorem applyPending {s : State} {sid : Nat} (hL : L sid) (h : Q s) : Q (s.applyPending sid) := by
  unfold State.applyPending
  split
  · exact h
  · exact K.wakeUp (K.rearmEnds _ _ _ (K.modStrmAt _ hL (K.unpin hL h)))

theorem makeArmed {s : State} {sid : Nat} (hL : L sid) (h : Q s) : Q (s.makeArmed sid) := by
  unfold State.makeArmed
  dsimp only
  have h1 := K.setSt .armed .none hL (K.modStrmAt (fun x => { x with stopAt := .none }) hL h)
  split
  · exact h1
  · exact K.makeReady hL (K.applyPending hL h1)

/-! ### Channels -/

theorem freeWindow {s : State} (m c p : Nat) (h : Q s) : Q (s.freeWindow m c p) := by
  unfold State.freeWindow
  exact K.chan _ (fun _ => .of_same rfl rfl rfl rfl (.inr rfl)) (K.seats (State.modPart_seats _ _ _) h)

theorem takeWindow {s : State} (m c sid : Nat) (h : Q s) : Q (s.takeWindow m c sid) := by
  unfold State.takeWindow
  dsimp only
  split
  · exact K.chan _ (fun _ => .of_same rfl rfl rfl rfl (.inr rfl)) h
  · split
    · exact K.chan _ (fun _ => .of_same rfl rfl rfl rfl (.inr rfl)) (K.seats (State.modPart_seats _ _ _) h)
    · split
      · exact K.setFree _ (K.chan _ (fun _ => .of_same rfl rfl rfl rfl (.inr rfl)) (K.seats (State.modPart_seats _ _ _) h))
      · exact K.chan _ (fun _ => .of_same rfl rfl rfl rfl (.inr rfl)) h

theorem latchErr {s : State} (m c : Nat) (e : BusErr) (h : Q s) : Q (s.latchErr m c e) := by
  refine K.chan _ (fun y => ?_) h
  split
  · exact .of_same rfl rfl rfl rfl (.inr rfl)
  · exact .of_same rfl rfl rfl rfl (.inr rfl)

theorem latchStop {s : State} (m c : Nat) (x : Stop) (h : Q s) : Q (s.latchStop m c x) := by
  unfold State.latchStop
  split
  · exact h
  · split
    · exact K.chan _ (fun _ => .of_same rfl rfl rfl rfl (.inr rfl)) (K.latchErr m c _ h)
    · exact K.latchErr m c _ h

theorem endBoundary {s : State} (m c : Nat) {sid : Nat} (done : Bool) (hL : L sid) (h : Q s) :
    Q (s.endBoundary m c sid done) := by
  unfold State.endBoundary
  split
  · exact h
  · exact K.modStrmAt _ hL (K.chan _ (fun _ => .of_same rfl rfl rfl rfl (.inr rfl)) (K.seats (State.moveSpace_seats _ _ _ _) h))

theorem vacate {s : State} (m c : Nat) (h : Q s) : Q (s.modCh m c Chan.vacate) :=
  K.chan _ (fun _ => ⟨rfl, rfl, .inl rfl, fun _ hn => absurd hn (by simp [Chan.vacate]), .inr (.inr rfl)⟩) h

theorem leaveOnly {s : State} {m c : Nat} (hL : C (4 * m + c) ∨ ∀ n, L n) (h : Q s) : Q (s.leaveOnly m c) := by
  unfold State.leaveOnly
  split
  · exact h
  · next sid hact =>
    have hsid : L sid := hL.elim (fun hC => K.act h hC hact) fun hall => hall sid
    exact K.modStrmAt _ hsid (K.seats (State.writeBack_seats _ _ _ _) (K.vacate m c (K.freeWindow _ _ _
      (K.endBoundary m c false hsid (K.seats (State.dropChan_seats _ _ _ _) h)))))

theorem applyStop {s : State} {m c sid : Nat} (x : Stop) (hL : C (4 * m + c) ∨ ∀ n, L n) (hsid : L sid) (h : Q s) :
    Q (s.applyStop m c sid x) :=
  K.seats (State.pushFault_seats _ _ _) (K.leaveOnly hL (K.setSt _ _ hsid (K.latchStop m c x (K.modStrmAt _ hsid h))))

/-! ### Accesses -/

theorem translated {s : State} (a : Access) (e : TlbE) (h : Q s) : Q (s.translated a e) := by
  unfold State.translated
  split
  · exact K.chan _ (fun _ => .of_same rfl rfl rfl rfl (.inr rfl)) (K.seats (State.delAcc_seats _ _) h)
  · exact K.seats (State.modAcc_seats _ _ _) h

theorem makeFar {s : State} (a : Access) (h : Q s) : Q (s.makeFar a).1 := by
  have hlook := State.lookup_seats (s.shedTlb a) a.part (rqMover a.rq) a.ten a.gen a.va a.permW
  have h1 : Q ((s.shedTlb a).lookup a.part (rqMover a.rq) a.ten a.gen a.va a.permW).2 :=
    K.seats (hlook.trans (State.shedTlb_seats s a)) h
  unfold State.makeFar
  generalize (s.shedTlb a).lookup a.part (rqMover a.rq) a.ten a.gen a.va a.permW = r at h1
  obtain ⟨x, s1⟩ := r
  cases x with
  | hit e => exact K.translated _ _ (K.seats (State.pushAcc_seats _ _) h1)
  | fault c l => exact h1
  | miss =>
    dsimp only
    have h2 := K.seats (State.pushAcc_seats s1 { a with stage := .xlat }) h1
    split
    · exact K.seats (State.modXlU_seats _ _ _) h2
    · exact K.seats (State.startWalk_seats _ _ _) h2

theorem makeFars {s : State} (l : List Access) (h : Q s) : Q (s.makeFars l).1 := by
  induction l generalizing s with
  | nil => exact h
  | cons a l ih =>
    unfold State.makeFars
    have h1 := K.makeFar a h
    split
    · next s1 heq => exact ih (by rw [heq] at h1; exact h1)
    · next s1 f heq => rw [heq] at h1; exact h1

theorem makeOr {s : State} (m c : Nat) (l : List Access) (n : Nat) (h : Q s) : Q (s.makeOr m c l n).1 := by
  have h1 := K.makeFars l h
  unfold State.makeOr
  split
  · next s1 heq => rw [heq] at h1; exact h1
  · next s1 f heq => rw [heq] at h1; exact h1

/-! ### Commands read and decoded -/

theorem readNeed {s : State} {m c : Nat} (sid : Nat) (n : Need) (h : Q s) : Q (s.readNeed m c sid n) := by
  refine foldl _ (fun t b _ ht => ?_) h
  have h1 := K.makeFar (t.chanAcc m c sid (.decode n.place) false b.1 b.2) ht
  dsimp only
  split
  · next s1 heq => rw [heq] at h1; exact h1
  · next s1 f heq =>
    rw [heq] at h1
    exact K.chan _ (fun _ => .of_same rfl rfl rfl rfl (.inr rfl)) h1

theorem decodeEnd {s : State} {m c sid : Nat} (hC : C (4 * m + c)) (hL : L sid) (h : Q s) : Q (s.decodeEnd m c sid).1 := by
  unfold State.decodeEnd
  split
  · exact h
  · dsimp only
    split
    · exact h
    · split
      · exact h
      · dsimp only
        refine K.chan _ (fun _ => ?_) (K.modCmd _ hL h)
        exact .of_same rfl rfl rfl rfl (.inl hC)

theorem lookUp {s : State} {m c sid : Nat} (hC : C (4 * m + c)) (hL : L sid) (h : Q s) : Q (s.lookUp m c sid).1 := by
  unfold State.lookUp
  dsimp only
  split
  · exact h
  · next x k hk =>
    generalize hr : List.foldl _ (s, k.got, []) _ = r
    have hr1 : Q r.1 := by
      rw [← hr]
      refine List.foldlRecOn (motive := fun t : State × SMap (List Byte) × List Need => Q t.1) _ _ h fun t ht n _ => ?_
      have hshed : ∀ u : State, u.seats = t.1.seats → Q u := fun u hu => K.seats hu ht
      split
      · next d v heq =>
        refine hshed v ?_
        have := congrArg (fun q : Option (List Byte) × State => q.2.seats) heq
        refine this.symm.trans ((State.findCopy_seats _ _ _ _ _ _).trans ?_)
        split
        · rfl
        · exact State.shedCopy_seats _ _ _ _ _ _ _
      · next v heq =>
        refine hshed v ?_
        have := congrArg (fun q : Option (List Byte) × State => q.2.seats) heq
        refine this.symm.trans ((State.findCopy_seats _ _ _ _ _ _).trans ?_)
        split
        · rfl
        · exact State.shedCopy_seats _ _ _ _ _ _ _
    obtain ⟨s1, got, miss⟩ := r
    have h2 : Q (s1.modCmd sid fun y => { y with got := got, missing := miss.map (·.place) }) := K.modCmd _ hL hr1
    dsimp only
    split
    · exact K.decodeEnd hC hL h2
    · generalize hv : List.foldl (fun st n => State.readNeed st m c sid n) _ _ = v
      have hvQ : Q v := by
        rw [← hv]
        exact foldl _ (fun t n _ ht => K.readNeed sid n ht)
          (K.chan _ (fun _ => .of_same rfl rfl rfl rfl (.inl hC)) h2)
      split
      · exact K.decodeEnd hC hL hvQ
      · exact hvQ

theorem decode1 {s : State} {m c sid : Nat} (hC : C (4 * m + c)) (hL : L sid) (h : Q s) : Q (s.decode1 m c sid).1 := by
  unfold State.decode1
  dsimp only
  split
  · exact h
  · split
    · exact h
    · exact K.lookUp hC hL (K.modCmd _ hL h)

theorem holdCmd {s : State} {m c sid : Nat} (raw : BitVec 512) (hC : C (4 * m + c)) (hL : L sid) (h : Q s) :
    Q (s.holdCmd m c sid raw) := by
  unfold State.holdCmd
  refine K.chan _ (fun _ => .of_same rfl rfl rfl rfl (.inl hC)) ?_
  split
  · exact K.unpin hL (K.strm _ hL h)
  · exact K.strm _ hL h

theorem takeCmd {s : State} {m c sid : Nat} (raw : BitVec 512) (hC : C (4 * m + c)) (hL : L sid) (h : Q s) :
    Q (s.takeCmd m c sid raw).1 := by
  unfold State.takeCmd
  have h1 := K.holdCmd raw hC hL h
  dsimp only
  split
  · exact h1
  · exact K.decode1 hC hL h1

theorem readSlots {s : State} {m c sid : Nat} (a : Nat) (hC : C (4 * m + c)) (h : Q s) : Q (s.readSlots m c sid a).1 := by
  unfold State.readSlots
  dsimp only
  exact K.chan _ (fun _ => .of_same rfl rfl rfl rfl (.inl hC)) (K.makeOr m c _ _
    (K.chan _ (fun _ => .of_same rfl rfl rfl rfl (.inr rfl)) (K.freeWindow m c _ h)))

theorem fetchProgram {s : State} {m c sid : Nat} (i : Nat) {hit : BitVec 512 → State → State × Going}
    (hhit : ∀ raw t, Q t → Q (hit raw t).1) (hC : C (4 * m + c)) (h : Q s) : Q (s.fetchProgram m c sid i hit).1 := by
  unfold State.fetchProgram
  dsimp only
  generalize hv : s.shedCopy _ _ _ _ _ _ = v
  have hvQ : Q v := K.seats (hv ▸ State.shedCopy_seats _ _ _ _ _ _ _) h
  split
  · exact hhit _ _ (K.seats (State.cacheUse_seats _ _ _ _ _) hvQ)
  · have h1 := K.makeOr m c [v.chanAcc m c sid .program false (pairAddr (s.strmAt sid) i) 128] 0 hvQ
    dsimp only
    refine K.chan _ (fun _ => ?_) h1
    exact .of_same rfl rfl rfl rfl (.inl hC)

theorem fetchNext {s : State} {m c sid : Nat} (hC : C (4 * m + c)) (hL : L sid) (h : Q s) : Q (s.fetchNext m c sid).1 := by
  have hcmd : ∀ t, Q t → Q (t.fetchProgram m c sid (t.strmAt sid).pc.toNat fun raw u => u.takeCmd m c sid raw).1 :=
    fun t ht => K.fetchProgram _ (fun raw u hu => K.takeCmd raw hC hL hu) hC ht
  unfold State.fetchNext
  dsimp only
  split
  · split
    · exact hcmd s h
    · refine K.fetchProgram _ (fun raw t ht => ?_) hC h
      split
      · exact K.readSlots _ hC ht
      · exact hcmd _ (K.modStrmAt _ hL ht)
  · split
    · have h1 := K.makeOr m c [s.chanAcc m c sid .ring false
        ((s.sq sid).base.toNat * 4096 + 64 * (s.sq sid).head.toNat) 64] 0 h
      dsimp only
      refine K.chan _ (fun _ => ?_) h1
      exact .of_same rfl rfl rfl rfl (.inl hC)
    · exact h

theorem ecnFetch {s : State} {m c : Nat} (sid : Nat) (hC : C (4 * m + c)) (h : Q s) : Q (s.ecnFetch m c sid).1 := by
  have h1 : Q ((s.modEcnCh (sid - 1024) fun e => { e with cur := e.next }).modCh m c fun h => { h with ph := .ecnFetch }) :=
    K.chan _ (fun _ => .of_same rfl rfl rfl rfl (.inl hC)) (K.seats (State.modEcnCh_seats _ _ _) h)
  unfold State.ecnFetch
  dsimp only
  split
  · exact h1
  · split
    · exact K.seats (State.pushPhys_seats _ _ _) h1
    · exact h1

theorem ecnEnd {s : State} {sid : Nat} (f : Option FRec) (hL : L sid) (h : Q s) : Q (s.ecnEnd sid f) := by
  unfold State.ecnEnd
  dsimp only
  have h1 := fun g : Ecn → Ecn => K.seats (State.refreshActive_seats _ (s.strmAt sid).ten.toNat)
    (K.strm Strm.reset hL (K.seats (State.modEcnCh_seats s (sid - 1024) g) h))
  split
  · exact K.seats (State.pushFault_seats _ _ _) (h1 _)
  · exact h1 _

theorem begin {s : State} {m c sid : Nat} (hC : C (4 * m + c)) (hL : L sid) (h : Q s) : Q (s.begin m c sid).1 := by
  unfold State.begin
  dsimp only
  split
  · exact h
  · split
    · exact h
    · split
      · exact h
      · split
        · exact K.fetchNext hC hL h
        · split
          · dsimp only
            refine K.chan _ (fun _ => ?_) (K.unpin hL (K.strm _ hL h))
            exact .of_same rfl rfl rfl rfl (.inl hC)
          · split
            · refine K.decode1 hC hL (K.chan _ (fun _ => ?_) h)
              exact .of_same rfl rfl rfl rfl (.inl hC)
            · dsimp only
              refine K.chan _ (fun _ => ?_) h
              exact .of_same rfl rfl rfl rfl (.inl hC)

theorem startStream {s : State} {m c sid : Nat} (hC : C (4 * m + c)) (hL : L sid) (h : Q s) :
    Q (s.startStream m c sid) := by
  have hlive : C (4 * m + c) ∨ ∀ n, L n := .inl hC
  unfold State.startStream
  dsimp only
  generalize hv : State.modTen _ _ _ = v
  have hvQ : Q v := by
    rw [← hv]
    exact K.seats (State.modTen_seats _ _ _) (K.setSt .running _ hL h)
  generalize hw : State.modMover _ _ _ = w
  have hwQ : Q w := by
    rw [← hw]
    refine K.ungate _ _ (fun y => ?_) (K.takeWindow m c sid (K.chan _ (fun _ => ?_) (K.setSeq _ hvQ)))
    · unfold Mover.suspect
      split
      · rfl
      · split
        · rfl
        · rfl
    · exact ⟨rfl, rfl, .inr rfl, fun n hn => .inr (Option.some.inj hn ▸ hL), .inl hC⟩
  generalize hu : List.foldl _ w _ = u
  have huQ : Q u := by
    rw [← hu]
    refine foldl _ (fun t k hk ht => K.setWait .home ?_ ht) hwQ
    obtain ⟨e, he, rfl⟩ := List.mem_map.mp hk
    obtain ⟨hmem, hfe⟩ := List.mem_filter.mp he
    refine K.waits hwQ hmem (.inr ?_)
    simp at hfe
    exact hfe.1.1.1.2
  split
  · have h1 := K.ecnFetch sid hC huQ
    split
    · next t heq => rw [heq] at h1; exact h1
    · next t f heq => rw [heq] at h1; exact K.ecnEnd _ hL (K.leaveOnly hlive h1)
  · have h1 := K.begin hC hL huQ
    split
    · next t heq => rw [heq] at h1; exact h1
    · next t heq => rw [heq] at h1; exact K.wakeHome m c (K.leaveOnly hlive (K.makeArmed hL h1))
    · next t heq => rw [heq] at h1; exact K.wakeHome m c (K.leaveOnly hlive (K.setWait _ hL h1))
    · next t x heq => rw [heq] at h1; exact K.wakeHome m c (K.applyStop x hlive hL h1)

end State.Keeper

end Sys2Proof.Machine
end

section
/-! Quarantine: the stream is QUARANTINED, and stays so through what follows. -/

namespace Sys2Proof.Machine

/-- The maps of streams and channels are in their normal form, and the channels of `N` load no record. -/
structure State.Sound (N : Nat → Prop) (t : State) : Prop where
  strms : t.strms.wf Strm.reset
  chans : t.chans.wf Chan.reset
  loading : ∀ k, N k → (t.chan k).loading = none

theorem State.Sound.of_seats {N : Nat → Prop} {s t : State} (h : s.Sound N) (hs : t.strms = s.strms)
    (hc : t.chans = s.chans) : t.Sound N :=
  ⟨hs ▸ h.strms, hc ▸ h.chans, fun k hk => (congrArg (fun l : SMap Chan => (l.get Chan.reset k).loading) hc).trans (h.loading k hk)⟩

theorem State.seats_strms {s t : State} (h : t.seats = s.seats) : t.strms = s.strms := congrArg (·.1) h

theorem State.seats_chans {s t : State} (h : t.seats = s.seats) : t.chans = s.chans := congrArg (·.2.1) h

theorem State.Sound.modCh {N : Nat → Prop} {s : State} (h : s.Sound N) (m c : Nat) {g : Chan → Chan}
    (hg : ∀ y, (g y).loading = y.loading) : (s.modCh m c g).Sound N :=
  ⟨h.strms, SMap.wf_put _ _ _ _ h.chans, fun k hk => by
    rw [State.modCh_chan]
    split
    · next hkc => rw [hg, ← hkc]; exact h.loading k hk
    · exact h.loading k hk⟩

/-- Well-formed maps stay so, whichever stream is written, while no channel starts to work. -/
theorem State.Sound.keeper (N : Nat → Prop) : State.Keeper (State.Sound N) (fun _ => True) (fun _ => False) where
  seats hs h := h.of_seats (State.seats_strms hs) (State.seats_chans hs)
  ungate _ _ _ h := h.of_seats rfl rfl
  strm _ _ h := ⟨SMap.wf_put _ _ _ _ h.strms, h.chans, h.loading⟩
  chan _ hg h := h.modCh _ _ fun y => (hg y).loading
  waits _ _ _ := trivial
  issuer _ _ := trivial
  act _ hk _ := hk.elim

/-- A stream that nothing starts, wakes or awaits. -/
structure Strm.Still (x : Strm) : Prop where
  waiting : x.st ≠ .waiting
  ready : x.st ≠ .ready
  wait : x.wait = .none

/-- Stream `sid` holds `x`, and no channel has it in its shadow set. -/
structure State.Parked (N : Nat → Prop) (sid : Nat) (x : Strm) (t : State) : Prop where
  sound : t.Sound N
  strm : t.strmAt sid = x
  shadow : ∀ k, (t.chan k).shadow ≠ some sid

theorem State.Parked.of_seats {N : Nat → Prop} {sid : Nat} {x : Strm} {s t : State} (h : s.Parked N sid x)
    (hs : t.strms = s.strms) (hc : t.chans = s.chans) : t.Parked N sid x :=
  ⟨h.sound.of_seats hs hc, (congrArg (fun l : SMap Strm => l.get Strm.reset sid) hs).trans h.strm,
    fun k => (congrArg (fun l : SMap Chan => (l.get Chan.reset k).shadow) hc).trans_ne (h.shadow k)⟩

theorem State.Parked.setStrmAt {N : Nat → Prop} {sid j : Nat} {x : Strm} {s : State} (h : s.Parked N sid x) (hj : j ≠ sid)
    (v : Strm) : (s.setStrmAt j v).Parked N sid x :=
  ⟨⟨SMap.wf_put _ _ _ _ h.sound.strms, h.sound.chans, h.sound.loading⟩,
    (SMap.get_put s.strms Strm.reset v j sid).trans ((if_neg (Ne.symm hj)).trans h.strm), h.shadow⟩

theorem State.Parked.modCh {N : Nat → Prop} {sid : Nat} {x : Strm} {s : State} (h : s.Parked N sid x) (m c : Nat)
    {g : Chan → Chan} (hl : ∀ y, (g y).loading = y.loading) (hs : ∀ y, (g y).shadow = y.shadow ∨ (g y).shadow = none) :
    (s.modCh m c g).Parked N sid x :=
  ⟨h.sound.modCh m c hl, h.strm, fun k => by
    rw [State.modCh_chan]
    split
    · rcases hs (s.chan (4 * m + c)) with he | he
      · rw [he]; exact h.shadow _
      · rw [he]; exact (Option.some_ne_none sid).symm
    · exact h.shadow k⟩

/-- Of a map in its normal form, an entry is what its key gives. -/
theorem State.Sound.strmAt {N : Nat → Prop} {s : State} (h : s.Sound N) {e : Nat × Strm} (he : e ∈ s.strms) :
    s.strmAt e.1 = e.2 := SMap.get_of_mem Strm.reset h.strms.1 he

/-- A stream at rest stays as it is, whatever other streams do, while no channel starts to work. -/
theorem State.Parked.keeper (N : Nat → Prop) {sid : Nat} {x : Strm} (hx : x.Still) :
    State.Keeper (State.Parked N sid x) (· ≠ sid) (fun _ => False) where
  seats hs h := h.of_seats (State.seats_strms hs) (State.seats_chans hs)
  ungate _ _ _ h := h.of_seats rfl rfl
  strm _ hj h := h.setStrmAt hj _
  chan _ hg h := h.modCh _ _ (fun y => (hg y).loading) fun y => (hg y).shadow
  waits h he hst heq := by
    have hv := h.sound.strmAt he
    rw [heq, h.strm] at hv
    rw [← hv] at hst
    exact hst.elim hx.waiting hx.ready
  issuer h hw heq := hw (heq ▸ h.strm ▸ hx.wait)
  act _ hk _ := hk.elim

/-- Such a state, in which channel `K` does not run the stream. -/
structure State.Free (N : Nat → Prop) (sid : Nat) (x : Strm) (K : Nat) (t : State) : Prop where
  parked : t.Parked N sid x
  act : (t.chan K).act ≠ some sid

/-- A stream at rest stays as it is while a channel that does not run it starts to work. -/
theorem State.Free.keeper (N : Nat → Prop) {sid : Nat} {x : Strm} (hx : x.Still) (K : Nat) :
    State.Keeper (State.Free N sid x K) (· ≠ sid) (· = K) where
  seats hs h := ⟨h.parked.of_seats (State.seats_strms hs) (State.seats_chans hs),
    (congrArg (fun l : SMap Chan => (l.get Chan.reset K).act) (State.seats_chans hs)).trans_ne h.act⟩
  ungate _ _ _ h := ⟨h.parked.of_seats rfl rfl, h.act⟩
  strm _ hj h := ⟨h.parked.setStrmAt hj _, h.act⟩
  chan _ hg h := ⟨h.parked.modCh _ _ (fun y => (hg y).loading) fun y => (hg y).shadow, fun hk => by
    rw [State.modCh_chan] at hk
    split at hk
    · next hkc => exact ((hg _).act _ hk).elim (fun ha => h.act (hkc ▸ ha)) fun hne => hne rfl
    · exact h.act hk⟩
  waits h he hst := (State.Parked.keeper N hx).waits h.parked he hst
  issuer h hw := (State.Parked.keeper N hx).issuer h.parked hw
  act h hk ha heq := h.act (hk ▸ heq ▸ ha)

theorem State.Free.refill {N : Nat → Prop} {sid : Nat} {x : Strm} (hx : x.Still) {m c : Nat} {s : State}
    (h : s.Free N sid x (4 * m + c)) : (s.refill m c).Free N sid x (4 * m + c) := by
  have K := State.Free.keeper N (sid := sid) hx (4 * m + c)
  unfold State.refill
  split
  · next n hn => exact K.startStream rfl (fun heq => h.parked.shadow _ (heq ▸ hn)) h
  · exact K.wakeHome m c h

/-! ### A channel is vacated -/

theorem State.Keeper.evict {Q : State → Prop} {L C : Nat → Prop} (K : State.Keeper Q L C) {s : State} {m c : Nat}
    (hL : ∀ n, (s.ch m c).act = some n → L n) (h : Q s) : Q (s.evict m c) := by
  unfold State.evict
  split
  · exact h
  · next sid hact =>
    have h1 : Q (s.dropChan m c 0) := K.seats (State.dropChan_seats _ _ _ _) h
    exact K.vacate m c (K.freeWindow _ _ _ (K.endBoundary m c false (hL sid hact) (K.seats (s := s.dropChan m c 0) rfl h1)))

theorem State.evict_act (s : State) (m c : Nat) : ((s.evict m c).chan (4 * m + c)).act = none := by
  unfold State.evict
  split
  · next h => exact h
  · exact (congrArg Chan.act (State.modCh_chan _ m c _ _)).trans (congrArg Chan.act (if_pos rfl))

end Sys2Proof.Machine
end

section
/-! O43: the statement asks too much of a state in which a QUARANTINED stream stands in a shadow set. -/

namespace Sys2Proof.Machine

/-- Stream 0 is QUARANTINED, yet in the shadow set of the channel that runs stream 1 of its granule, which has failed twice. -/
def shadowedQuarantine : State := { State.reset with
  boot := { Boot.reset with state := 13 }
  pins := { State.reset.pins with core := false }
  granErr := [(0, 2)]
  strms := [(0, { Strm.reset with st := .quarantined }), (1, { Strm.reset with st := .running })]
  chans := [(0, { Chan.reset with act := some 1, shadow := some 0 })] }

/-- The third failure retires the granule; the quarantine of stream 1 starts stream 0, which has no command to read. -/
theorem shadowedQuarantine_armed : ((shadowedQuarantine.scrubReadOp true).strmAt 0).st = .armed := by decide

end Sys2Proof.Machine

namespace Sys2Proof
open Machine

/-- Refutes O43: the retirement of a granule vacates a channel whose shadow set holds the QUARANTINED stream, which is
then started; the statement does not say that no shadow set holds such a stream. -/
theorem not_scrubAndRegisterParity : ¬ Obligations.scrub_and_register_parity := by
  unfold Obligations.scrub_and_register_parity
  intro h
  obtain ⟨-, t, ht, -, -, -, -, hst⟩ := (h shadowedQuarantine).1 rfl (by decide) (by decide) rfl
  rw [← Host.Outcome.next.inj ht] at hst
  have hq := hst (by decide) (by decide) (by decide)
  exact absurd (shadowedQuarantine_armed.symm.trans hq) (by decide)

end Sys2Proof
end

section
/-! The stream that a quarantine names is QUARANTINED behind it, and behind those that follow it. -/

namespace Sys2Proof.Machine

/-- The quarantine of a stream once its channel is vacated. -/
def State.quarantineTail (s : State) (x : Strm) (sid : Nat) : State :=
  let s2 := ((s.dropShadow sid).discardPending sid).unpin sid
  let y := s2.strmAt sid
  let s3 := (s2.freeSlots y.part.toNat y.slots).setStrmAt sid { y with
    st := .quarantined, wait := .none, stopAt := .none, cmd := none, abortHeld := false, rpend := none, slots := [],
    recStop := none }
  let s4 := if isEcn sid then s3.modEcnCh (sid - 1024) fun e =>
      if e.busy then { e with busy := false, abort := false, err := true, fcode := 0x48 } else e
    else s3
  ((s4.refreshActive x.ten.toNat).wakeUp).pushFault x.part.toNat { faultOf x sid 0 0 0x48 10 with pc := 0 }

theorem State.quarantine_eq {s : State} {sid : Nat} (he : (s.strmAt sid).st ≠ .empty)
    (hq : (s.strmAt sid).st ≠ .quarantined) : s.quarantine sid = match s.chanOf sid with
      | some (m, c) => ((s.evict m c).quarantineTail (s.strmAt sid) sid).refill m c
      | none => s.quarantineTail (s.strmAt sid) sid := by
  unfold State.quarantine
  dsimp only
  rw [if_neg (not_or.mpr ⟨he, hq⟩)]
  generalize s.chanOf sid = o
  cases o with
  | none => exact rfl
  | some e => exact rfl

theorem State.Sound.dropShadow {N : Nat → Prop} {s : State} (h : s.Sound N) (sid : Nat) : (s.dropShadow sid).Sound N :=
  ⟨h.strms, SMap.wf_map_filter (f := fun v : Chan => { v with
      shadow := if v.shadow = some sid then none else v.shadow
      loading := if v.loading = some sid then none else v.loading }) Chan.reset h.chans.1, fun k hk => by
    rw [State.dropShadow_chan _ _ h.chans.1]
    dsimp only
    rw [h.loading k hk]
    exact if_neg (Option.some_ne_none sid).symm⟩

theorem State.dropShadow_shadow {N : Nat → Prop} {s : State} (h : s.Sound N) (sid j k : Nat)
    (hk : (s.chan k).shadow ≠ some j ∨ j = sid) : ((s.dropShadow sid).chan k).shadow ≠ some j := by
  rw [State.dropShadow_chan _ _ h.chans.1]
  dsimp only
  split
  · exact (Option.some_ne_none j).symm
  · next hne => exact hk.elim id fun hj => hj ▸ hne

theorem State.dropShadow_act {N : Nat → Prop} {s : State} (h : s.Sound N) (sid k : Nat) :
    ((s.dropShadow sid).chan k).act = (s.chan k).act := by
  rw [State.dropShadow_chan _ _ h.chans.1]

theorem State.Parked.dropShadow {N : Nat → Prop} {sid : Nat} {x : Strm} {s : State} (h : s.Parked N sid x) (j : Nat) :
    (s.dropShadow j).Parked N sid x :=
  ⟨h.sound.dropShadow j, h.strm, fun k => State.dropShadow_shadow h.sound j sid k (.inl (h.shadow k))⟩

theorem State.Free.dropShadow {N : Nat → Prop} {sid K : Nat} {x : Strm} {s : State} (h : s.Free N sid x K) (j : Nat) :
    (s.dropShadow j).Free N sid x K :=
  ⟨h.parked.dropShadow j, by rw [State.dropShadow_act h.parked.sound]; exact h.act⟩

theorem State.Keeper.discardPending {Q : State → Prop} {L C : Nat → Prop} (K : State.Keeper Q L C) {s : State} {sid : Nat}
    (hL : L sid) (h : Q s) : Q (s.discardPending sid) := by
  unfold State.discardPending
  split
  · exact h
  · exact K.wakeUp (K.rearmEnds _ _ _ (K.modStrmAt _ hL h))

theorem State.Keeper.quarantineEnd {Q : State → Prop} {L C : Nat → Prop} (K : State.Keeper Q L C) {s : State} {sid : Nat}
    (x : Strm) (h : Q s) : Q (((if isEcn sid then s.modEcnCh (sid - 1024) fun e =>
      if e.busy then { e with busy := false, abort := false, err := true, fcode := 0x48 } else e
    else s).refreshActive x.ten.toNat).wakeUp.pushFault x.part.toNat { faultOf x sid 0 0 0x48 10 with pc := 0 }) := by
  refine K.seats (State.pushFault_seats _ _ _) (K.wakeUp (K.seats (State.refreshActive_seats _ _) ?_))
  split
  · exact K.seats (State.modEcnCh_seats _ _ _) h
  · exact h

/-- The quarantine of another stream. -/
theorem State.Keeper.quarantineTail {Q : State → Prop} {L C : Nat → Prop} (K : State.Keeper Q L C) {s : State} {sid : Nat}
    (x : Strm) (hdrop : Q s → Q (s.dropShadow sid)) (hL : L sid) (h : Q s) : Q (s.quarantineTail x sid) := by
  unfold State.quarantineTail
  dsimp only
  exact K.quarantineEnd x (K.strm _ hL (K.seats (State.freeSlots_seats _ _ _)
    (K.unpin hL (K.discardPending hL (hdrop h)))))

theorem State.unpin_chans (s : State) (sid : Nat) : (s.unpin sid).chans = s.chans := by
  unfold State.unpin
  dsimp only
  split
  · rfl
  · refine (State.wakeUp_woken _).chans.trans ?_
    exact State.seats_chans (s := s.modStrmAt sid fun y => { y with fgenp := 0 }) (State.modGen_seats _ _ _ _)

theorem State.rearmEnds_chans (s : State) (issuer target : Nat) (aborted : Bool) :
    (s.rearmEnds issuer target aborted).chans = s.chans := by
  unfold State.rearmEnds
  dsimp only
  split
  · rfl
  · split
    · split
      · exact (State.makeReady_woken _ _).chans
      · rfl
    · rfl

theorem State.discardPending_chans (s : State) (sid : Nat) : (s.discardPending sid).chans = s.chans := by
  unfold State.discardPending
  split
  · rfl
  · exact (State.wakeUp_woken _).chans.trans (State.rearmEnds_chans _ _ _ _)

/-- A stream that has just been quarantined. -/
theorem State.Sound.quarantineTail {N : Nat → Prop} {s : State} (h : s.Sound N) (x : Strm) (sid : Nat) :
    ∃ z : Strm, z.Still ∧ z.st = .quarantined ∧ (s.quarantineTail x sid).Parked N sid z
      ∧ ∀ k, (s.chan k).act ≠ some sid → (s.quarantineTail x sid).Free N sid z k := by
  obtain ⟨u, hu⟩ : ∃ u, u = ((s.dropShadow sid).discardPending sid).unpin sid := ⟨_, rfl⟩
  have K := State.Sound.keeper N
  have hsound : u.Sound N := hu ▸ K.unpin trivial (K.discardPending trivial (h.dropShadow sid))
  have hchans : u.chans = (s.dropShadow sid).chans := by
    rw [hu, State.unpin_chans, State.discardPending_chans]
  have hchan : ∀ k, u.chan k = (s.dropShadow sid).chan k := fun k =>
    congrArg (fun l : SMap Chan => l.get Chan.reset k) hchans
  obtain ⟨z, hz⟩ : ∃ z : Strm, z = { u.strmAt sid with
    st := .quarantined, wait := .none, stopAt := .none, cmd := none, abortHeld := false, rpend := none, slots := []
    recStop := none } := ⟨_, rfl⟩
  have hstill : z.Still := by
    rw [hz]
    exact ⟨StState.noConfusion, StState.noConfusion, rfl⟩
  have hpark : (u.setStrmAt sid z).Parked N sid z :=
    ⟨⟨SMap.wf_put _ _ _ _ hsound.strms, hsound.chans, hsound.loading⟩,
      (SMap.get_put u.strms Strm.reset z sid sid).trans (if_pos rfl), fun k => by
        rw [show (u.setStrmAt sid z).chan k = u.chan k from rfl, hchan]
        exact State.dropShadow_shadow h sid sid k (.inr rfl)⟩
  have hfree := State.freeSlots_seats u (u.strmAt sid).part.toNat (u.strmAt sid).slots
  generalize hv : u.freeSlots (u.strmAt sid).part.toNat (u.strmAt sid).slots = v at hfree
  have hpark' : (v.setStrmAt sid z).Parked N sid z := hpark.of_seats
    (congrArg (fun l : SMap Strm => l.put Strm.reset sid z) (State.seats_strms hfree))
    (State.seats_chans (s := u) (t := v) hfree)
  have htail : s.quarantineTail x sid = ((if isEcn sid then (v.setStrmAt sid z).modEcnCh (sid - 1024) fun e =>
      if e.busy then { e with busy := false, abort := false, err := true, fcode := 0x48 } else e
    else v.setStrmAt sid z).refreshActive x.ten.toNat).wakeUp.pushFault x.part.toNat
      { faultOf x sid 0 0 0x48 10 with pc := 0 } := by
    rw [← hv, hz, hu]
    rfl
  rw [htail]
  refine ⟨z, hstill, by rw [hz], (State.Parked.keeper N hstill).quarantineEnd x hpark', fun k hk => ?_⟩
  refine (State.Free.keeper N hstill k).quarantineEnd x ⟨hpark', ?_⟩
  have hact : ((v.setStrmAt sid z).chan k).act = (s.chan k).act :=
    (congrArg (fun l : SMap Chan => (l.get Chan.reset k).act) (State.seats_chans hfree)).trans
      ((congrArg Chan.act (hchan k)).trans (State.dropShadow_act h sid k))
  rw [hact]
  exact hk

theorem State.chanOf_act {N : Nat → Prop} {s : State} (h : s.Sound N) {sid m c : Nat} (hc : s.chanOf sid = some (m, c)) :
    (s.chan (4 * m + c)).act = some sid := by
  obtain ⟨e, he, hmc⟩ := Option.map_eq_some_iff.mp hc
  have hact : e.2.act = some sid := beq_iff_eq.mp (List.find?_some (p := fun e : Nat × Chan => e.2.act == some sid) he)
  have hk : 4 * m + c = e.1 := by
    have h1 := congrArg Prod.fst hmc
    have h2 := congrArg Prod.snd hmc
    dsimp only at h1 h2
    omega
  have hget : s.chan (4 * m + c) = e.2 := hk ▸ SMap.get_of_mem Chan.reset h.chans.1 (List.mem_of_find?_eq_some he)
  rw [hget, hact]

/-- A stream that is not EMPTY or QUARANTINED is quarantined, and rests. -/
theorem State.Sound.quarantine {N : Nat → Prop} {s : State} (h : s.Sound N) {sid : Nat} (he : (s.strmAt sid).st ≠ .empty)
    (hq : (s.strmAt sid).st ≠ .quarantined) :
    ∃ z : Strm, z.Still ∧ z.st = .quarantined ∧ (s.quarantine sid).Parked N sid z := by
  rw [State.quarantine_eq he hq]
  split
  · next m c hc =>
    have hevict : (s.evict m c).Sound N := (State.Sound.keeper N).evict (fun _ _ => trivial) h
    obtain ⟨z, hstill, hst, _, hfree⟩ := hevict.quarantineTail (s.strmAt sid) sid
    refine ⟨z, hstill, hst, ((hfree (4 * m + c) ?_).refill hstill).parked⟩
    rw [State.evict_act]
    exact (Option.some_ne_none sid).symm
  · obtain ⟨z, hstill, hst, hpark, _⟩ := h.quarantineTail (s.strmAt sid) sid
    exact ⟨z, hstill, hst, hpark⟩

/-- A QUARANTINED stream at rest stays so when another stream is quarantined. -/
theorem State.Parked.quarantine {N : Nat → Prop} {sid : Nat} {x : Strm} {s : State} (h : s.Parked N sid x) (hx : x.Still)
    (hst : x.st = .quarantined) (j : Nat) : (s.quarantine j).Parked N sid x := by
  by_cases hno : (s.strmAt j).st = .empty ∨ (s.strmAt j).st = .quarantined
  · have : s.quarantine j = s := if_pos hno
    rw [this]
    exact h
  · obtain ⟨he, hq⟩ := not_or.mp hno
    have hj : j ≠ sid := fun heq => hq (heq ▸ h.strm ▸ hst)
    rw [State.quarantine_eq he hq]
    split
    · next m c hc =>
      have hact := State.chanOf_act h.sound hc
      have hevict : (s.evict m c).Parked N sid x := (State.Parked.keeper N hx).evict (fun n hn heq => by
        have hj' := Option.some.inj (hact.symm.trans hn)
        exact hj (hj'.trans heq)) h
      have hfree : (s.evict m c).Free N sid x (4 * m + c) := ⟨hevict, by
        rw [State.evict_act]
        exact (Option.some_ne_none sid).symm⟩
      exact (((State.Free.keeper N hx (4 * m + c)).quarantineTail _ (fun hf => hf.dropShadow j) hj hfree).refill hx).parked
    · exact (State.Parked.keeper N hx).quarantineTail _ (fun hf => hf.dropShadow j) hj h

/-- What a record that fails its check leaves of its stream, which was neither EMPTY nor QUARANTINED. -/
theorem State.Sound.recordParity {N : Nat → Prop} {s : State} (h : s.Sound N) {sid : Nat} (he : (s.strmAt sid).st ≠ .empty)
    (hq : (s.strmAt sid).st ≠ .quarantined) :
    ((s.recordParity sid).strmAt sid).st = .quarantined ∧ (s.recordParity sid).Sound N
      ∧ (s.recordParity sid).par.recE = true ∧ (s.recordParity sid).par.rcnt = satInc s.par.rcnt := by
  obtain ⟨v, hv⟩ : ∃ v, v = ({ s with par := { s.par with recE := true, rcnt := satInc s.par.rcnt } }.logEvent 0x21
    (s.idPart sid) sid) := ⟨_, rfl⟩
  have hvs : v.Sound N := by rw [hv]; exact h.of_seats rfl rfl
  have hvx : v.strmAt sid = s.strmAt sid := by rw [hv]; rfl
  have hvp : (v.par.recE, v.par.rcnt) = (true, satInc s.par.rcnt) := by rw [hv]; rfl
  obtain ⟨z, hstill, hst, hpark⟩ := hvs.quarantine (sid := sid) (by rw [hvx]; exact he) (by rw [hvx]; exact hq)
  have hrecs : ((v.quarantine sid).par.recE, (v.quarantine sid).par.rcnt) = (true, satInc s.par.rcnt) :=
    (congrArg Outer.recs (State.quarantine_outer v sid)).trans hvp
  have hgoal : ∀ t : State, t.Parked N sid z → (t.par.recE, t.par.rcnt) = (true, satInc s.par.rcnt) →
      (t.strmAt sid).st = .quarantined ∧ t.Sound N ∧ t.par.recE = true ∧ t.par.rcnt = satInc s.par.rcnt := fun t ht hr =>
    ⟨by rw [ht.strm]; exact hst, ht.sound, congrArg Prod.fst hr, congrArg Prod.snd hr⟩
  unfold State.recordParity
  dsimp only
  rw [← hv]
  generalize v.quarantine sid = u at hpark hrecs
  have hput : ∀ m : SMap Nat, State.Parked N sid z { u with granErr := m } := fun m => hpark.of_seats rfl rfl
  split
  · split
    · refine hgoal _ ?_ ?_
      · exact List.foldlRecOn (motive := State.Parked N sid z) _ _
          ((hput (u.granErr.put 0 (granOf sid) (u.granErr.get 0 (granOf sid) + 1))).of_seats rfl rfl)
          fun t ht j _ => ht.quarantine hstill hst j
      · exact List.foldlRecOn (motive := fun t : State => (t.par.recE, t.par.rcnt) = (true, satInc s.par.rcnt)) _ _ hrecs
          fun t ht j _ => (congrArg Outer.recs (State.quarantine_outer t j)).trans ht
    · exact hgoal _ (hput _) hrecs
  · exact hgoal u hpark hrecs

end Sys2Proof.Machine
end

section
/-! O26: the Queue Sequencer's choice, and the glacier record that it loads. -/

namespace Sys2Proof.Machine

theorem rankLt_asymm {a b : Nat × Nat × Nat} (h : rankLt a b = true) : rankLt b a = false := by
  unfold rankLt at h ⊢
  simp only [Bool.or_eq_true, Bool.and_eq_true, decide_eq_true_eq, beq_iff_eq, Bool.or_eq_false_iff,
    Bool.and_eq_false_iff, decide_eq_false_iff_not, beq_eq_false_iff_ne] at h ⊢
  omega

theorem rankLt_irrefl (a : Nat × Nat × Nat) : rankLt a a = false := by
  cases h : rankLt a a with
  | false => rfl
  | true => exact (rankLt_asymm h).symm.trans h |>.symm

/-- The better of the choice so far and a candidate. -/
def State.better (s : State) (o : Option (Nat × Strm)) (e : Nat × Strm) : Option (Nat × Strm) :=
  match o with
  | none => some e
  | some b => if rankLt (s.rank e) (s.rank b) then some e else some b

theorem State.best_eq (s : State) (l : List (Nat × Strm)) : s.best l = (l.foldl s.better none).map (·.1) := rfl

/-- The candidate that goes before every other is the choice. -/
theorem State.foldl_better {s : State} {x : Nat × Strm} (l : List (Nat × Strm))
    (hl : ∀ e ∈ l, e ≠ x → rankLt (s.rank x) (s.rank e) = true) {o : Option (Nat × Strm)}
    (ho : ∀ b, o = some b → b ≠ x → rankLt (s.rank x) (s.rank b) = true) (hx : o = some x ∨ x ∈ l) :
    l.foldl s.better o = some x := by
  induction l generalizing o with
  | nil => exact hx.elim id fun h => absurd h List.not_mem_nil
  | cons e l ih =>
    rw [List.foldl_cons]
    have hbetter : s.better o e = some x ∨ (e ≠ x ∧ ∀ b, s.better o e = some b → b = e ∨ o = some b) := by
      by_cases he : e = x
      · subst he
        refine .inl ?_
        cases o with
        | none => rfl
        | some b =>
          by_cases hb : b = e
          · subst hb
            exact if_neg (by rw [rankLt_irrefl]; exact Bool.false_ne_true)
          · exact if_pos (ho b rfl hb)
      · refine .inr ⟨he, fun b hb => ?_⟩
        cases o with
        | none => exact .inl (Option.some.inj hb).symm
        | some a =>
          unfold State.better at hb
          dsimp only at hb
          split at hb
          · exact .inl (Option.some.inj hb).symm
          · exact .inr hb
    have hkeep : o = some x → s.better o e = some x := fun hox => by
      subst hox
      by_cases he : e = x
      · subst he
        exact if_neg (by rw [rankLt_irrefl]; exact Bool.false_ne_true)
      · exact if_neg (by rw [rankLt_asymm (hl e List.mem_cons_self he)]; exact Bool.false_ne_true)
    refine ih (fun y hy => hl y (List.mem_cons_of_mem e hy)) (fun b hb hbx => ?_) ?_
    · rcases hbetter with hsome | ⟨hex, hor⟩
      · exact absurd (Option.some.inj (hb.symm.trans hsome)) hbx
      · rcases hor b hb with rfl | hob
        · exact hl b List.mem_cons_self hex
        · exact ho b hob hbx
    · rcases hx with hox | hmem
      · exact .inl (hkeep hox)
      · rcases List.mem_cons.mp hmem with rfl | hmem
        · exact .inl (hbetter.elim id fun h => absurd rfl h.1)
        · exact .inr hmem

theorem State.best_of_least {s : State} {x : Nat × Strm} {l : List (Nat × Strm)} (hx : x ∈ l)
    (hl : ∀ e ∈ l, e ≠ x → rankLt (s.rank x) (s.rank e) = true) : s.best l = some x.1 := by
  rw [State.best_eq, State.foldl_better l hl (fun _ h => absurd h.symm (Option.some_ne_none _)) (.inr hx)]
  rfl

/-- A stream that the Queue Sequencer may place on a channel of Mover m for partition p. -/
theorem State.chooseable_iff (s : State) (p m : Nat) (e : Nat × Strm) :
    (s.chooseable p m e.2 && !s.shadowed e.1) = true ↔ e.2.st = .ready ∧ e.2.part.toNat = p
      ∧ s.soloBars m e.2.ten = false ∧ s.tenFenced e.2.ten = false ∧ s.shadowed e.1 = false := by
  unfold State.chooseable
  simp [and_assoc]

/-- The Queue Sequencer's choice among streams that have no home. -/
theorem State.choose_least {s : State} {p m c sid : Nat} {x : Strm} (hmem : (sid, x) ∈ s.strms)
    (hmay : (s.chooseable p m x && !s.shadowed sid) = true) (hen : x.hen = false)
    (hhome : ∀ e ∈ s.strms, (s.chooseable p m e.2 && !s.shadowed e.1) = true → e.2.hen = true →
      ¬ (e.2.hmv.toNat = m ∧ e.2.hch.toNat = c))
    (hleast : ∀ e ∈ s.strms, (s.chooseable p m e.2 && !s.shadowed e.1) = true → e.2.hen = false → e ≠ (sid, x) →
      rankLt (s.rank (sid, x)) (s.rank e) = true) : s.choose p m c = some sid := by
  have hnone : ((s.strms.filter fun e => s.chooseable p m e.2 && !s.shadowed e.1).filter fun e =>
      e.2.hen && e.2.hmv.toNat == m && e.2.hch.toNat == c) = [] := List.filter_eq_nil_iff.mpr fun e he hh => by
    obtain ⟨hs, hok⟩ := List.mem_filter.mp he
    simp only [Bool.and_eq_true, beq_iff_eq] at hh
    exact hhome e hs hok hh.1.1 ⟨hh.1.2, hh.2⟩
  unfold State.choose
  dsimp only
  rw [hnone, if_neg (fun h => h rfl)]
  refine State.best_of_least (x := (sid, x)) ?_ fun e he hne => ?_
  · exact List.mem_filter.mpr ⟨List.mem_filter.mpr ⟨hmem, hmay⟩, by rw [hen]; rfl⟩
  · obtain ⟨hok, hfree⟩ := List.mem_filter.mp he
    obtain ⟨hs, hok⟩ := List.mem_filter.mp hok
    exact hleast e hs hok (by simpa using hfree) hne

/-- A stream placed on a channel that has an active one goes into its shadow set. -/
theorem State.placeOn_shadow {s : State} {m c : Nat} (hact : (s.ch m c).act.isSome = true) (sid : Nat) :
    (∀ j, (s.placeOn m c sid).chan j = if j = 4 * m + c
        then { s.chan (4 * m + c) with shadow := some sid, shSeq := s.seq } else s.chan j)
      ∧ s.placeOn m c sid = { s with chans := (s.placeOn m c sid).chans, seq := s.seq + 1 } := by
  obtain ⟨v, hv⟩ : ∃ v, v = s.modCh m c fun h => { h with shadow := some sid, shSeq := s.seq } := ⟨_, rfl⟩
  have hop : s.placeOn m c sid = { v with seq := s.seq + 1 } := by
    unfold State.placeOn
    rw [if_pos hact, hv]
  have hvs : v = { s with chans := v.chans } := by rw [hv]; rfl
  rw [hop]
  refine ⟨fun j => ?_, ?_⟩
  · have hj : v.chan j = _ := hv ▸ State.modCh_chan s m c j _
    exact hj
  · rw [hvs]

end Sys2Proof.Machine

namespace Sys2Proof
open Machine

/-- Settles O26: of the streams that may be placed the least in rank is chosen; a record that fails its check quarantines
its stream, which then rests whatever else starts (`State.Sound.recordParity`). -/
theorem sequencer : Obligations.sequencer := by
  unfold Obligations.sequencer
  refine ⟨?_, ?_⟩
  · intro s p m c sid x hen hmask hplace hact hshadow hloading may hmem hmay hfree hbad hhome hleast k woken
    have hiff := fun e => State.chooseable_iff s p m e
    have hchoice : s.choose p m c = some sid := State.choose_least hmem ((hiff (sid, x)).mpr hmay) hfree
      (fun e he hok hh => hhome e he ((hiff e).mp hok) hh) fun e he hok hf hne => hleast e he ((hiff e).mp hok) hf hne
    obtain ⟨u, hu⟩ : ∃ u, u = s.modMover m fun v => { v with gated := false } := ⟨_, rfl⟩
    have hum : ∀ j, u.mover j = if j = m.val then { s.mover m with gated := false } else s.mover j := fun j => by
      rw [hu]
      exact State.modMover_mover s m j _
    have hus : u = { s with movers := u.movers } := by rw [hu]; rfl
    have hgo : ∀ parity, s.chooseOp p m c parity = if sid < glacBase then
        if parity || (s.strmAt sid).bad != 0 then u.recordParity sid else u.placeOn m c sid
      else (u.modCh m c fun y => { y with loading := some sid }).pushPhys
        { blankAcc p .record c (.glacRead m c) false (s.glacAddr p sid) 64 with
          sid := sid, ten := (s.strmAt sid).ten, gen := (s.strmAt sid).tgen } (s.part p).glacAttr.toNat := fun parity => by
      unfold State.chooseOp
      dsimp only
      rw [if_neg (by
        rw [hen, hmask, hplace, show (s.ch m c).shadow = none from hshadow, show (s.ch m c).loading = none from hloading]
        decide), hchoice, hu]
    refine ⟨fun hlow => ?_, fun hhigh => ?_⟩
    · have huact : (u.ch m c).act.isSome = true := by rw [hus]; exact hact
      obtain ⟨hvc, hvs⟩ := State.placeOn_shadow huact sid
      have hop : s.chooseOp p m c false = u.placeOn m c sid := by
        have hg : sid < glacBase := hlow
        rw [hgo, if_pos hg, if_neg (by rw [hbad]; decide)]
      rw [← hop] at hvc hvs
      have huc : ∀ i, u.chan i = s.chan i := fun i => by rw [hus]; rfl
      have huq : u.seq = s.seq := by rw [hus]
      have hvm : ∀ j, (s.chooseOp p m c false).mover j = u.mover j := fun j => by rw [hvs]; rfl
      refine ⟨_, rfl, ?_, fun j hj => ?_, ⟨(hvm m).trans ((hum m).trans (if_pos rfl)),
        fun j hj => (hvm j).trans ((hum j).trans (if_neg hj))⟩, ?_⟩
      · rw [hvc, if_pos rfl, huc, huq]
      · rw [hvc, if_neg hj, huc]
      · have hm' : (s.chooseOp p m c false).movers = u.movers := by rw [hvs]
        rw [hm', hvs, huq, hus]
    · obtain ⟨b, hb⟩ : ∃ b : Access, b = { blankAcc p .record c (.glacRead m c) false (s.glacAddr p sid) 64 with
        sid := sid, ten := (s.strmAt sid).ten, gen := (s.strmAt sid).tgen } := ⟨_, rfl⟩
      obtain ⟨w, hw⟩ : ∃ w, w = u.modCh m c fun y => { y with loading := some sid } := ⟨_, rfl⟩
      have hwc : ∀ j, w.chan j = if j = k then { s.chan k with loading := some sid } else s.chan j := fun j => by
        have huc : ∀ i, u.chan i = s.chan i := fun i => by rw [hus]; rfl
        rw [hw, ← huc j, ← huc k]
        exact State.modCh_chan u m c j _
      have hws : w = { s with chans := w.chans, movers := w.movers } := by
        rw [hw, hus]
        rfl
      have hwm : w.movers = u.movers := by rw [hw]; rfl
      have hop : s.chooseOp p m c false = w.pushPhys b (s.part p).glacAttr.toNat := by
        have hg : ¬ sid < glacBase := Nat.not_lt.mpr hhigh
        rw [hgo, if_neg hg, hw, hb]
      have hwmv : ∀ j, w.mover j = u.mover j := fun j => congrArg (fun l : SMap Mover => l.get Mover.reset j) hwm
      have hwa : w.acc = s.acc ∧ w.nextAid = s.nextAid := by rw [hws]; exact ⟨rfl, rfl⟩
      refine ⟨_, { { w.atPa b b.va (s.part p).glacAttr.toNat with phys := true, prot := 0b011 } with aid := w.nextAid },
        congrArg Host.Outcome.next hop, (hwc k).trans (if_pos rfl), fun j hj => (hwc j).trans (if_neg hj),
        congrArg (· ++ _) hwa.1, hwa.2, ?_, ?_, ?_, ?_, ?_, rfl, ⟨(hwmv m).trans ((hum m).trans (if_pos rfl)),
          fun j hj => (hwmv j).trans ((hum j).trans (if_neg hj))⟩, ?_⟩
      · rw [hb]; rfl
      · rw [hb]; rfl
      · rw [hb]; rfl
      · rw [hb]; rfl
      · rw [hb]; rfl
      · have hrest : w.pushPhys b (s.part p).glacAttr.toNat = { w with
            acc := (w.pushPhys b (s.part p).glacAttr.toNat).acc, nextAid := w.nextAid + 1 } := rfl
        generalize w.pushPhys b (s.part p).glacAttr.toNat = v at hrest
        have hvc : v.chans = w.chans := by rw [hrest]
        have hvm : v.movers = w.movers := by rw [hrest]
        rw [hvc, hvm, hrest, hwa.2, hws]
  · intro s a m c data ha hkind hstage hdrain hload hst
    obtain ⟨u, hu⟩ : ∃ u, u = (s.delAcc a.aid).modCh m c fun h => { h with loading := none } := ⟨_, rfl⟩
    have huc : ∀ j, u.chan j = if j = 4 * m + c then { s.chan (4 * m + c) with loading := none } else s.chan j :=
      fun j => by
        rw [hu]
        exact State.modCh_chan (s.delAcc a.aid) m c j _
    have hus : u = { s with chans := u.chans, acc := u.acc } := by rw [hu]; rfl
    have hua : u.acc = s.acc.filter (fun b => b.aid ≠ a.aid) := by rw [hu]; rfl
    have hgo : s.glacierOp a.aid data .okay = if crc32c (data.take 60) != leNat ((data.drop 60).take 4)
        then u.recordParity a.sid
        else if (u.strmAt a.sid).st = .ready ∧ u.noPlace m = false then u.placeOn m c a.sid else u := by
      unfold State.glacierOp
      rw [ha]
      dsimp only
      rw [hkind]
      dsimp only
      rw [if_neg (not_not_intro hstage), if_neg (by
        rw [hdrain, show (s.ch m c).loading = some a.sid from hload]
        simp), hu]
      rfl
    refine ⟨fun hcrc hplace hact => ?_, fun hcrc hchans hstrms => ?_⟩
    · have huact : (u.ch m c).act.isSome = true := by
        rw [show u.ch m c = u.chan (4 * m + c) from rfl, huc, if_pos rfl]
        exact hact
      have husx : u.strmAt a.sid = s.strmAt a.sid := by rw [hus]; rfl
      have hunp : u.noPlace m = s.noPlace m := by rw [hus]; rfl
      obtain ⟨hvc, hvs⟩ := State.placeOn_shadow huact a.sid
      have hop : s.glacierOp a.aid data .okay = u.placeOn m c a.sid := by
        rw [hgo, if_neg (by rw [hcrc]; simp), if_pos ⟨by rw [husx]; exact hst, hunp.trans hplace⟩]
      rw [← hop] at hvc hvs
      have huq : u.seq = s.seq := by rw [hus]
      have hva : (s.glacierOp a.aid data .okay).acc = u.acc := by rw [hvs]
      refine ⟨_, rfl, ?_, fun j hj => ?_, hva.trans hua, ?_⟩
      · rw [hvc, if_pos rfl, huc, if_pos rfl, huq]
      · rw [hvc, if_neg hj, huc, if_neg hj]
      · rw [hva, hvs, huq, hus]
    · have hsound : u.Sound (· = 4 * m + c) := ⟨by rw [hus]; exact hstrms, by
          rw [hu]
          exact SMap.wf_put _ _ _ _ hchans, fun k hk => by rw [huc, if_pos hk]⟩
      have husx : u.strmAt a.sid = s.strmAt a.sid := by rw [hus]; rfl
      have hup : u.par = s.par := by rw [hus]
      obtain ⟨hq, hs', hrec, hcnt⟩ := hsound.recordParity (sid := a.sid) (by rw [husx, hst]; decide)
        (by rw [husx, hst]; decide)
      have hop : s.glacierOp a.aid data .okay = u.recordParity a.sid := hgo.trans (if_pos (by simpa using hcrc))
      exact ⟨_, congrArg Host.Outcome.next hop, hq, hs'.loading _ rfl, hrec, by rw [hcnt, hup, satInc_toNat]⟩

end Sys2Proof
end

section
/-! The same induction over the walks that a fence lets go on. -/

namespace Sys2Proof.Machine

theorem State.decodeEnd_dflt {s : State} {m c sid : Nat} (h : (s.ch m c).dflt ≠ none) : (s.decodeEnd m c sid).1 = s := by
  unfold State.decodeEnd
  split
  · rfl
  · dsimp only
    split
    · rfl
    · split
      · rfl
      · next hd => exact absurd hd h

/-- A predicate on states that the engine keeps also where accesses fault: a stream in a shadow set lets its channel work. -/
structure State.WalkKeeper (Q : State → Prop) (C : Nat → Prop) : Prop where
  engine : State.Keeper Q (fun _ => True) C
  shadow : ∀ {s : State} {k n : Nat}, Q s → (s.chan k).shadow = some n → C k
  drop : ∀ {s : State} (sid : Nat), Q s → Q (s.dropShadow sid)

namespace State.WalkKeeper

variable {Q : State → Prop} {C : Nat → Prop} (K : State.WalkKeeper Q C)
include K

theorem leaveOnly {s : State} (m c : Nat) (h : Q s) : Q (s.leaveOnly m c) :=
  K.engine.leaveOnly (.inr fun _ => trivial) h

theorem leave {s : State} (m c : Nat) (h : Q s) : Q (s.leave m c) := by
  unfold State.leave
  dsimp only
  have h1 := K.leaveOnly m c h
  split
  · next n hn => exact K.engine.startStream (K.shadow h1 hn) trivial h1
  · exact K.engine.wakeHome m c h1

theorem stopNow {s : State} (m c sid : Nat) (x : Stop) (h : Q s) : Q (s.stopNow m c sid x) := by
  unfold State.stopNow
  dsimp only
  have h1 := K.engine.applyStop (m := m) (c := c) (sid := sid) x (.inr fun _ => trivial) trivial h
  split
  · next n hn => exact K.engine.startStream (K.shadow h1 hn) trivial h1
  · exact K.engine.wakeHome m c h1

theorem goOn {r : State × Going} (m c sid : Nat) (h : Q r.1) : Q (State.goOn m c sid r) := by
  obtain ⟨s, g⟩ := r
  cases g with
  | on => exact h
  | out => exact K.leave m c (K.engine.makeArmed trivial h)
  | park => exact K.leave m c (K.engine.setWait _ trivial h)
  | stop x => exact K.stopNow m c sid x h

theorem finishStop {s : State} (m c : Nat) (h : Q s) : Q (s.finishStop m c) := by
  unfold State.finishStop
  split
  · split
    · exact h
    · exact K.stopNow m c _ _ h
  · exact h

theorem beginStop {s : State} (m c : Nat) (x : Stop) (h : Q s) : Q (s.beginStop m c x) := by
  unfold State.beginStop
  dsimp only
  refine K.finishStop m c (K.engine.seats (State.dropChan_seats _ _ _ _) (K.engine.seats (State.lateReads_seats _ _ _)
    (K.engine.chan _ (fun _ => ?_) h)))
  exact .of_same rfl rfl rfl rfl (.inr rfl)

theorem recordFault {s : State} (sid : Nat) (frozen : Bool) (f : FRec) (h : Q s) : Q (s.recordFault sid frozen f) := by
  have hstop : ∀ st : StopAt, Q (((s.modStrmAt sid fun y => { y with recStop := some (frozen, f), stopAt := st }).setSt sid
      (if frozen then .frozen else .halted) (s.strmAt sid).wait).dropShadow sid |>.pushFault f.part.toNat f) := fun st =>
    K.engine.seats (State.pushFault_seats _ _ _) (K.drop sid (K.engine.setSt _ _ trivial (K.engine.modStrmAt _ trivial h)))
  have hlate : Q (s.modStrmAt sid fun y => { y with recStop := y.recStop.or (some (frozen, f)) }) :=
    K.engine.modStrmAt _ trivial h
  unfold State.recordFault
  dsimp only
  split
  · exact hstop _
  · exact hstop _
  · exact hstop _
  · exact hlate
  · exact hlate
  · exact hlate
  · exact h
  · exact h

theorem accFault {s : State} (a : Access) (frozen : Bool) (err : Option BusErr) (rec : Nat → FRec) (h : Q s) :
    Q (s.accFault a frozen err rec) := by
  have h1 : Q (s.delAcc a.aid) := K.engine.seats (State.delAcc_seats _ _) h
  unfold State.accFault
  split
  · exact h
  · dsimp only
    split
    · exact h1
    · next m place _ _ =>
      generalize hv : State.modCh _ m a.ch _ = v
      have hvQ : Q v := by
        rw [← hv]
        refine K.engine.chan _ (fun _ => ?_) ?_
        · exact .of_same rfl rfl rfl rfl (.inr rfl)
        · split
          · exact K.engine.latchErr _ _ _ h1
          · exact h1
      have hd : (v.ch m a.ch).dflt ≠ none := by
        rw [← hv]
        unfold State.ch
        rw [State.modCh_chan, if_pos rfl]
        dsimp only
        split
        · exact Option.some_ne_none _
        · split
          · split
            · exact Option.some_ne_none _
            · exact Option.some_ne_none _
          · split
            · exact Option.some_ne_none _
            · exact Option.some_ne_none _
      split
      · exact K.goOn m a.ch a.sid (by rw [State.decodeEnd_dflt hd]; exact hvQ)
      · exact hvQ
    · split
      · exact K.beginStop _ _ _ h1
      · exact K.beginStop _ _ _ h1
    · refine K.recordFault _ _ _ ?_
      split
      · exact K.engine.latchErr _ _ _ h1
      · exact h1
    · exact h1

theorem xlatFault {s : State} (f : Access × Nat × Nat) (h : Q s) : Q (s.xlatFault f) := by
  unfold State.xlatFault
  split
  · exact K.engine.seats (State.rxXlat_seats _ _ _) h
  · exact K.engine.seats (State.rxXlat_seats _ _ _) h
  · exact K.accFault _ _ _ _ h

theorem pumpWalk {s : State} (p : Nat) (l : List WalkReq) (fs : List (Access × Nat × Nat)) (h : Q s) :
    Q (s.pumpWalk p l fs).1 := by
  induction l generalizing s fs with
  | nil => exact K.engine.seats (State.modXlU_seats _ _ _) h
  | cons r l ih =>
    unfold State.pumpWalk
    split
    · exact ih fs h
    · next a _ =>
      have h1 : Q ((s.shedTlb a).lookup p (rqMover a.rq) r.ten r.gen r.va r.wr).2 :=
        K.engine.seats ((State.lookup_seats _ _ _ _ _ _ _).trans (State.shedTlb_seats s a)) h
      split
      · next heq => rw [heq] at h1; exact ih fs (K.engine.translated _ _ h1)
      · next heq => rw [heq] at h1; exact ih _ h1
      · next heq =>
        rw [heq] at h1
        exact K.engine.seats (State.startWalk_seats _ _ _) (K.engine.seats (State.modXlU_seats _ _ _) h1)

theorem pumpWalks {s : State} (p : Nat) (h : Q s) : Q (s.pumpWalks p) := by
  unfold State.pumpWalks
  split
  · exact h
  · have h1 := K.pumpWalk p (s.xlU p).queue [] h
    exact State.Keeper.foldl _ (fun t f _ ht => K.xlatFault f ht) h1

theorem fenceWalks {s : State} (h : Q s) : Q s.fenceWalks := by
  refine State.Keeper.foldl _ (fun t p _ ht => ?_) h
  dsimp only
  split
  · exact K.pumpWalks p (K.engine.seats (State.modXlU_seats _ _ _) ht)
  · split
    · exact K.pumpWalks p ht
    · exact ht

end State.WalkKeeper
end Sys2Proof.Machine
end

section
/-! O36: how a reset is requested, and what it leaves at its fence. -/

namespace Sys2Proof.Machine

/-! ### The channels of a Mover that is reset -/

/-- A channel at a fence. -/
def Chan.fenced (h : Chan) : Chan :=
  { h with
    ph := .idle, got := [], bad := false, slot := none, xl := [], stop := none, abort := false, dflt := none, inB := 0
    outB := 0, pf := [], coal := [], xseq := h.xseq + 1 }

theorem State.fenceChan_chan (s : State) (k j : Nat) :
    (s.fenceChan k).chan j = if j = k then (s.chan k).fenced else s.chan j := by
  have hmod : ∀ t : State, t.chans = s.chans → (t.modChan k Chan.fenced).chan j
      = if j = k then (s.chan k).fenced else s.chan j := fun t ht => by
    have hch : ∀ i, t.chan i = s.chan i := fun i => congrArg (fun l : SMap Chan => l.get Chan.reset i) ht
    rw [← hch j, ← hch k]
    exact State.setChan_chan t k j _
  unfold State.fenceChan
  dsimp only
  split
  · exact hmod s rfl
  · next sid _ => exact hmod (s.modStrmAt sid _) rfl

theorem State.fenceChan_wf {s : State} (h : s.chans.wf Chan.reset) (k : Nat) : (s.fenceChan k).chans.wf Chan.reset := by
  unfold State.fenceChan
  dsimp only
  split
  · exact SMap.wf_put _ _ _ _ h
  · exact SMap.wf_put _ _ _ _ h

theorem State.fenceChans_chan (l : List Nat) (hl : l.Nodup) (s : State) (h : s.chans.wf Chan.reset) :
    (l.foldl State.fenceChan s).chans.wf Chan.reset
      ∧ ∀ j, (l.foldl State.fenceChan s).chan j = if j ∈ l then (s.chan j).fenced else s.chan j := by
  induction l generalizing s with
  | nil => exact ⟨h, fun j => (if_neg List.not_mem_nil).symm⟩
  | cons k l ih =>
    obtain ⟨hk, hl⟩ := List.nodup_cons.mp hl
    obtain ⟨hwf, hchan⟩ := ih hl (s.fenceChan k) (State.fenceChan_wf h k)
    refine ⟨hwf, fun j => ?_⟩
    rw [List.foldl_cons, hchan, State.fenceChan_chan]
    by_cases hj : j = k
    · subst hj
      rw [if_neg hk, if_pos rfl, if_pos List.mem_cons_self]
    · rw [if_neg hj]
      exact if_congr (by simp [hj]) rfl rfl

theorem State.dropShadows_chan (l : List Nat) (s : State) (h : s.chans.wf Chan.reset) :
    (l.foldl State.dropShadow s).chans.wf Chan.reset
      ∧ ∀ k, ((l.foldl State.dropShadow s).chan k).ph = (s.chan k).ph
        ∧ ((l.foldl State.dropShadow s).chan k).xseq = (s.chan k).xseq
        ∧ ∀ n, ((l.foldl State.dropShadow s).chan k).shadow = some n → (s.chan k).shadow = some n ∧ n ∉ l := by
  induction l generalizing s with
  | nil => exact ⟨h, fun k => ⟨rfl, rfl, fun n hn => ⟨hn, List.not_mem_nil⟩⟩⟩
  | cons sid l ih =>
    have hdrop := State.dropShadow_chan s sid h.1
    have hwf' : (s.dropShadow sid).chans.wf Chan.reset := SMap.wf_map_filter (f := fun v : Chan => { v with
      shadow := if v.shadow = some sid then none else v.shadow
      loading := if v.loading = some sid then none else v.loading }) Chan.reset h.1
    obtain ⟨hwf, hchan⟩ := ih (s.dropShadow sid) hwf'
    refine ⟨hwf, fun k => ?_⟩
    obtain ⟨hph, hx, hs⟩ := hchan k
    rw [List.foldl_cons]
    refine ⟨hph.trans (by rw [hdrop]), hx.trans (by rw [hdrop]), fun n hn => ?_⟩
    obtain ⟨hshown, hnl⟩ := hs n hn
    rw [hdrop] at hshown
    dsimp only at hshown
    split at hshown
    · exact absurd hshown.symm (Option.some_ne_none n)
    · next hne =>
      exact ⟨hshown, fun hmem => (List.mem_cons.mp hmem).elim (fun h => hne (h ▸ hshown)) hnl⟩

theorem State.cqAdvance_chans (s : State) (c : Nat) (l : List CqSlot) : (s.cqAdvance c l).chans = s.chans := by
  induction l generalizing s with
  | nil => rfl
  | cons g l ih =>
    unfold State.cqAdvance
    split
    · dsimp only
      refine (ih _).trans ?_
      have hdec : ∀ t : State, (t.outstDec g.item).chans = t.chans := fun t => by rw [State.outstDec_rest]
      have hpend : ∀ t : State, (t.cqPending c).chans = t.chans := fun t => by
        unfold State.cqPending
        dsimp only
        split
        · rfl
        · rfl
      split
      · exact (hpend _).trans (hdec _)
      · exact hdec _
    · rfl

theorem State.dropRecord_chans (s : State) (c : Nat) (g : CqSlot) : (s.dropRecord c g).chans = s.chans := by
  have hdec : (s.outstDec g.item).chans = s.chans := by rw [State.outstDec_rest]
  unfold State.dropRecord
  dsimp only
  exact (State.queuesReady_woken _ _).chans.trans ((State.cqAdvance_chans _ c _).trans hdec)

theorem State.fenceRecords_chans (s : State) (d : Dom) : (s.fenceRecords d).chans = s.chans := by
  have hheld : (s.heldFenced d).chans = s.chans := by
    have h1 : ((s.heldRecs d).foldl State.outstDec s).chans = s.chans :=
      List.foldlRecOn (motive := fun t : State => t.chans = s.chans) _ _ rfl fun t ht r _ => by
        rw [State.outstDec_rest]
        exact ht
    unfold State.heldFenced
    dsimp only
    refine List.foldlRecOn (motive := fun t : State => t.chans = s.chans) _ _ h1 fun t ht k _ => ?_
    unfold State.unhold
    dsimp only
    split
    · exact (State.makeReady_woken _ _).chans.trans ht
    · exact ht
  rw [State.fenceRecords_eq]
  exact List.foldlRecOn (motive := fun t : State => t.chans = s.chans) _ _ hheld fun t ht e _ =>
    (t.dropRecord_chans e.1 e.2).trans ht

theorem State.fenceJobs_chans (s : State) (d : Dom) : (s.fenceJobs d).chans = s.chans := by
  unfold State.fenceJobs
  exact List.foldlRecOn (motive := fun t : State => t.chans = s.chans) _ _ rfl fun t ht j _ =>
    (State.seats_chans (t.endJob_seats j)).trans ht

/-- The streams that a fence takes out of the shadow sets. -/
def State.fencedShadows (s : State) (d : Dom) : List Nat :=
  (((s.chans.map fun e => ([e.2.shadow, e.2.loading].filterMap id).map fun k => (e.1, k)).flatten).filter fun e =>
    strmInDom d (s.strmAt e.2) || (match d with
    | .mover m => e.1 / 4 == m
    | .part p => s.partOf (e.1 / 4) == p
    | _ => false)).map (·.2)

/-- The channels that a fence of a Mover leaves. -/
theorem State.fenceStart_mover_chans (s : State) (m : Nat) : (s.fenceStart (.mover m)).chans
    = ((s.fencedShadows (.mover m)).foldl State.dropShadow
      (((List.range 256).filter fun k => k / 4 == m).foldl State.fenceChan s)).chans :=
  (State.fenceRecords_chans _ _).trans (State.fenceJobs_chans _ _)

theorem State.mem_fencedShadows {s : State} {m k n : Nat} (hk : k / 4 = m) (hn : (s.chan k).shadow = some n) :
    n ∈ s.fencedShadows (.mover m) := by
  have hmem : (k, s.chan k) ∈ s.chans := by
    rcases s.chans.get_mem Chan.reset k with h | h
    · rw [show s.chan k = Chan.reset from h] at hn
      exact absurd hn.symm (Option.some_ne_none n)
    · exact h
  refine List.mem_map.mpr ⟨(k, n), List.mem_filter.mpr ⟨List.mem_flatten.mpr ⟨_, List.mem_map_of_mem hmem, ?_⟩, ?_⟩, rfl⟩
  · refine List.mem_map_of_mem (List.mem_filterMap.mpr ⟨some n, ?_, rfl⟩)
    rw [← hn]
    exact List.mem_cons_self
  · simp [hk]

/-- The channels of Mover m are idle, under the transfer numbers `X`, with nothing in their shadow sets, and the Mover's
clock runs. -/
structure State.MoverStopped (m : Nat) (X : Nat → BitVec 8) (t : State) : Prop where
  wf : t.chans.wf Chan.reset
  chan : ∀ k, k / 4 = m → (t.chan k).ph = .idle ∧ (t.chan k).shadow = none ∧ (t.chan k).xseq = X k
  clock : (t.mover m).gated = false

theorem State.MoverStopped.of_seats {m : Nat} {X : Nat → BitVec 8} {s t : State} (h : s.MoverStopped m X)
    (hc : t.chans = s.chans) (hg : (t.mover m).gated = false) : t.MoverStopped m X :=
  ⟨hc ▸ h.wf, fun k hk => by
    have hch : t.chan k = s.chan k := congrArg (fun l : SMap Chan => l.get Chan.reset k) hc
    rw [hch]
    exact h.chan k hk, hg⟩

theorem State.MoverStopped.keeper (m : Nat) (X : Nat → BitVec 8) :
    State.WalkKeeper (State.MoverStopped m X) (fun k => k / 4 ≠ m) where
  engine :=
    { seats := fun hs h => h.of_seats (State.seats_chans hs)
        ((congrArg (fun q : SMap Strm × SMap Chan × (Nat → Bool) => q.2.2 m) hs).trans h.clock)
      ungate := fun {s} j g hg h => h.of_seats rfl (by
        rw [State.modMover_mover]
        split
        · exact hg _
        · exact h.clock)
      strm := fun _ _ h => h.of_seats rfl h.clock
      chan := fun {s j c} g hg h => ⟨SMap.wf_put _ _ _ _ h.wf, fun k hk => by
        obtain ⟨hph, hs, hx⟩ := h.chan k hk
        rw [State.modCh_chan]
        split
        · next hkc =>
          subst hkc
          have hn := hg (s.chan (4 * j + c))
          refine ⟨?_, ?_, hn.xseq.trans hx⟩
          · rcases hn.ph with hfree | hsame | hidle
            · exact absurd hk hfree
            · rw [hsame, hph]
            · exact hidle
          · rcases hn.shadow with hsame | hnone
            · rw [hsame, hs]
            · exact hnone
        · exact ⟨hph, hs, hx⟩, h.clock⟩
      waits := fun _ _ _ => trivial
      issuer := fun _ _ => trivial
      act := fun _ _ _ => trivial }
  shadow h hn hk := by
    rw [(h.chan _ hk).2.1] at hn
    exact absurd hn.symm (Option.some_ne_none _)
  drop sid h := ⟨SMap.wf_map_filter (f := fun v : Chan => { v with
      shadow := if v.shadow = some sid then none else v.shadow
      loading := if v.loading = some sid then none else v.loading }) Chan.reset h.wf.1, fun k hk => by
    obtain ⟨hph, hs, hx⟩ := h.chan k hk
    rw [State.dropShadow_chan _ _ h.wf.1]
    refine ⟨hph, ?_, hx⟩
    dsimp only
    rw [hs]
    exact if_neg (Option.some_ne_none sid).symm, h.clock⟩

/-- What the fence of a Mover that its clock reaches leaves of it. -/
theorem State.fence_mover_stopped {s : State} (hwf : s.chans.wf Chan.reset) {m : Nat} (hm : m < 64)
    (hg : (s.mover m).gated = false) : (s.fence (.mover m)).MoverStopped m fun k => (s.chan k).xseq + 1 := by
  have hcut := s.fenceStart_cut (.mover m)
  have hchans := s.fenceStart_mover_chans m
  rw [State.fence_eq]
  generalize s.fenceStart (.mover m) = t at hcut hchans
  refine (State.MoverStopped.keeper m _).fenceWalks ?_
  have hnodup : ((List.range 256).filter fun k => k / 4 == m).Nodup := List.nodup_range.filter _
  obtain ⟨hwf1, hchan1⟩ := State.fenceChans_chan _ hnodup s hwf
  obtain ⟨hwf2, hchan2⟩ := State.dropShadows_chan (s.fencedShadows (.mover m)) _ hwf1
  refine ⟨hchans ▸ hwf2, fun k hk => ?_, ?_⟩
  · have hmem : k ∈ (List.range 256).filter fun k => k / 4 == m :=
      List.mem_filter.mpr ⟨List.mem_range.mpr (by omega), beq_iff_eq.mpr hk⟩
    have hfen := (hchan1 k).trans (if_pos hmem)
    obtain ⟨hph, hx, hs⟩ := hchan2 k
    have hget : t.chan k = _ := congrArg (fun l : SMap Chan => l.get Chan.reset k) hchans
    rw [hget]
    refine ⟨hph.trans (by rw [hfen]; rfl), ?_, hx.trans (by rw [hfen]; rfl)⟩
    refine Option.eq_none_iff_forall_ne_some.mpr fun n hn => ?_
    obtain ⟨hn', hno⟩ := hs n hn
    rw [hfen] at hn'
    exact hno (State.mem_fencedShadows hk hn')
  · have hmov : t.movers = s.movers := by rw [hcut]
    exact (congrArg (fun l : SMap Mover => (l.get Mover.reset m).gated) hmov).trans hg

end Sys2Proof.Machine
end

section
/-! O36: how a reset is requested, and what it leaves at its fence. -/

namespace Sys2Proof.Machine

/-! ### The request -/

/-- The partition whose engine a request of a tenant, Mover or partition reset is for; 8 where there is none. -/
def State.resetPart (s : State) (unit target : Nat) : Nat :=
  if unit = 1 then (if (s.ten target).avail then (s.ten target).part.toNat else 8)
  else if unit = 2 then (if target < 64 then s.partOf target else 8)
  else if target < 8 ∧ (s.part target).en = true then target else 8

/-- A request at the engine of a partition. -/
def State.resetAt (s : State) (p unit target : Nat) (rcv : Bool) : State :=
  if (s.rstE p).busy = true ∧ (s.rstE p).unit.toNat = unit ∧ (s.rstE p).target.toNat = target then s
  else if (s.rstE p).busy = true ∧ 4 ≤ (s.rstE p).queue.length then s.modRstE p fun x => { x with drop := true }
  else if rcv || decide (unit ≠ 1) then s.recover p unit target false
  else if (s.rstE p).busy then s.modRstE p fun x => { x with
    queue := x.queue ++ [{ unit := 1, target := BitVec.ofNat 8 target, rcv := false, raised := false, ms := s.mg.ms }] }
  else s.beginReset p unit target false false

/-- A block that takes requests: in RUN, in service, with no reset of the block. -/
structure State.Takes (s : State) : Prop where
  run : s.boot.state = 13
  oos : s.esc.oos = false
  blk : s.blk = none

theorem State.requestReset_at {s : State} (h : s.Takes) {unit : Nat} (h1 : unit ≠ 0) (h4 : unit < 4) (target : Nat)
    (rcv : Bool) : s.requestReset unit target rcv
      = if 8 ≤ s.resetPart unit target then { s with esc := { s.esc with drop := true } }
        else s.resetAt (s.resetPart unit target) unit target rcv := by
  have hrun : s.inRun = true := by
    unfold State.inRun
    rw [h.run]
    rfl
  have hno : ¬ (unit = 0 ∨ 6 ≤ unit ∨ s.inRun = false ∨ s.esc.oos = true ∨ s.blk.isSome = true) := by
    rw [hrun, h.oos, h.blk]
    rintro (h | h | h | h | h)
    · exact h1 h
    · omega
    · exact Bool.false_ne_true h.symm
    · exact Bool.false_ne_true h
    · exact Bool.false_ne_true h
  exact (if_neg hno).trans (if_neg (by omega))

/-- The state whose recovery history holds a reset that counts. -/
def State.noted (s : State) (counts : Bool) (unit target : Nat) : State :=
  if counts then s.escNote unit target else s

theorem State.noted_rest (s : State) (counts : Bool) (unit target : Nat) :
    s.noted counts unit target = { s with esc := (s.noted counts unit target).esc } := by
  unfold State.noted
  split
  · rfl
  · rfl

theorem State.noted_hist (s : State) (counts : Bool) (unit target : Nat) : (s.noted counts unit target).esc.hist
    = (if counts then [(BitVec.ofNat 3 unit, BitVec.ofNat 8 target, s.mg.ms)] else []) ++ s.esc.hist := by
  cases counts with
  | true => rfl
  | false => rfl

/-- A reset that escalation does not raise is launched. -/
theorem State.recover_calm {s : State} {unit target : Nat} (hfull : s.countFull = false)
    (hlad : (s.ladder && s.recurs unit target) = false) (p : Nat) :
    s.recover p unit target false = s.launch p unit target false :=
  (if_neg (by rw [hfull]; decide)).trans ((if_pos (by rw [hlad]; rfl)).trans (if_neg Bool.false_ne_true))

/-- An idle engine begins a reset that escalation does not raise. -/
theorem State.resetAt_idle {s : State} {p unit target : Nat} {rcv : Bool} (hbusy : (s.rstE p).busy = false)
    (hcalm : (rcv || decide (unit ≠ 1)) = true → s.countFull = false ∧ (s.ladder && s.recurs unit target) = false) :
    s.resetAt p unit target rcv = (s.noted (rcv || decide (unit ≠ 1)) unit target).beginReset p unit target
      (rcv || decide (unit ≠ 1)) false := by
  have hno : ∀ P : Prop, ¬ ((s.rstE p).busy = true ∧ P) := fun P h => by
    rw [hbusy] at h
    exact Bool.false_ne_true h.1
  unfold State.resetAt
  rw [if_neg (hno _), if_neg (hno _)]
  cases hr : rcv || decide (unit ≠ 1) with
  | true =>
    obtain ⟨hfull, hlad⟩ := hcalm hr
    rw [if_pos rfl, State.recover_calm hfull hlad]
    have hbusy' : ((s.escNote unit target).rstE p).busy = false := hbusy
    exact if_neg (by rw [hbusy']; exact Bool.false_ne_true)
  | false =>
    rw [if_neg Bool.false_ne_true, if_neg (by rw [hbusy]; exact Bool.false_ne_true)]
    rfl

/-- Behind another reset, a tenant reset that escalation does not raise waits. -/
theorem State.resetAt_waits {s : State} {p target : Nat} {rcv : Bool} (hbusy : (s.rstE p).busy = true)
    (hother : ¬ ((s.rstE p).unit.toNat = 1 ∧ (s.rstE p).target.toNat = target)) (hroom : (s.rstE p).queue.length < 4)
    (hcalm : rcv = true → s.countFull = false ∧ (s.ladder && s.recurs 1 target) = false) :
    s.resetAt p 1 target rcv = (s.noted rcv 1 target).modRstE p fun x => { x with
      queue := x.queue ++ [{ unit := 1, target := BitVec.ofNat 8 target, rcv := rcv, raised := false, ms := s.mg.ms }] } := by
  unfold State.resetAt
  rw [if_neg (fun h => hother h.2), if_neg (fun h => absurd hroom (by omega))]
  cases rcv with
  | true =>
    obtain ⟨hfull, hlad⟩ := hcalm rfl
    rw [if_pos (show (true || decide (1 ≠ 1)) = true from rfl), State.recover_calm hfull hlad]
    exact if_pos hbusy
  | false =>
    rw [if_neg (by decide), if_pos hbusy]
    rfl

/-! ### Tenants -/

/-- A tenant that a reset has fenced: disabled, under its next generation. -/
def Tenant.next (x : Tenant) : Tenant := { x with en := false, weight := 0, gen := x.gen + 1 }

theorem Tenant.fixed_next {x y : Tenant} (h : x.fixed = y.fixed) : x.next.fixed = y.next.fixed :=
  congrArg Tenant.next h

theorem Tenant.of_fixed {x y : Tenant} (h : x.fixed = y.fixed) : x.en = y.en ∧ x.weight = y.weight ∧ x.gen = y.gen
    ∧ x.part = y.part ∧ x.avail = y.avail ∧ x.root = y.root := by
  have hen : x.fixed.en = y.fixed.en := by rw [h]
  have hweight : x.fixed.weight = y.fixed.weight := by rw [h]
  have hgen : x.fixed.gen = y.fixed.gen := by rw [h]
  have hpart : x.fixed.part = y.fixed.part := by rw [h]
  have havail : x.fixed.avail = y.fixed.avail := by rw [h]
  have hroot : x.fixed.root = y.fixed.root := by rw [h]
  exact ⟨hen, hweight, hgen, hpart, havail, hroot⟩

theorem State.genUps_ten (l : List Nat) (hl : l.Nodup) (s : State) (j : Nat) :
    (l.foldl State.genUp s).ten j = if j ∈ l then (s.ten j).next else s.ten j := by
  induction l generalizing s with
  | nil => exact (if_neg List.not_mem_nil).symm
  | cons t l ih =>
    obtain ⟨ht, hl⟩ := List.nodup_cons.mp hl
    rw [List.foldl_cons, ih hl, State.genUp_ten]
    by_cases hj : j = t
    · subst hj
      rw [if_neg ht, if_pos rfl, if_pos List.mem_cons_self]
      rfl
    · rw [if_neg hj]
      exact if_congr (by simp [hj]) rfl rfl

/-- A reset that has begun leaves the tenants to its fence, which keeps all but their activity. -/
theorem State.Begun.fence_ten {s t : State} {p : Nat} {e : RstEng} (h : s.Begun t p e) (d : Dom) (j : Nat) :
    ((t.fence d).ten j).fixed = (s.ten j).fixed := by
  have ht : t.tens = s.tens := by rw [h.rest]
  exact (congrArg (fun o : Outer => o.tens j) (t.fence_outer d)).trans
    (congrArg (fun l : SMap Tenant => (l.get Tenant.reset j).fixed) ht)

theorem State.beginReset_tenant_ten (s : State) (p t : Nat) (rcv raised : Bool) (j : Nat) :
    ((s.beginReset p 1 t rcv raised).ten j).fixed = (if j = t then (s.ten t).next else s.ten j).fixed := by
  have h := fun j => (s.resetBegun_begun p 1 t rcv raised).fence_ten (.ten t) j
  rw [State.beginReset_tenant, State.genUp_ten]
  split
  · exact Tenant.fixed_next (h t)
  · exact h j

theorem State.beginReset_part_ten (s : State) (p : Nat) (rcv raised : Bool) (j : Nat) :
    ((s.beginReset p 3 p rcv raised).ten j).fixed
      = (if j ∈ s.tenantsOf p then (s.ten j).next else s.ten j).fixed := by
  have hb := (s.resetBegun_begun p 3 p rcv raised).partMet p
  rw [State.beginReset_part]
  generalize (s.resetBegun p 3 p rcv raised).partMet p = t at hb
  have ht : t.tenantsOf p = s.tenantsOf p := by
    rw [hb.rest]
    rfl
  rw [ht, State.genUps_ten (s.tenantsOf p) (List.nodup_range.filter _)]
  split
  · exact Tenant.fixed_next (hb.fence_ten (.part p) j)
  · exact hb.fence_ten (.part p) j

/-! ### The management core -/

theorem State.resetBegun_mg (s : State) (p unit target : Nat) (rcv : Bool) :
    (s.resetBegun p unit target rcv false).mg = s.mg := by
  have h : (s.resetBegun p unit target rcv false).mg = s.awake.mg := rfl
  rw [h, State.awake_rest]

/-- With no access waiting for a walk, what has begun a reset leaves the management core to its fence. -/
theorem State.Begun.fence_mg {s t : State} {p : Nat} {e : RstEng} (h : s.Begun t p e)
    (hq : ∀ q, (s.xlU q).queue = []) (d : Dom) : (t.fence d).mg = t.mg := by
  have hxl : t.xl = s.xl := by rw [h.rest]
  exact (State.fence_alone (fun q => (congrArg (fun l : SMap Xl => (l.get Xl.reset q).queue) hxl).trans (hq q)) d).1

theorem State.genUp_mg (s : State) (t : Nat) : (s.genUp t).mg = s.mg := rfl

theorem State.genUps_mg (l : List Nat) (s : State) : (l.foldl State.genUp s).mg = s.mg :=
  List.foldlRecOn (motive := fun t : State => t.mg = s.mg) l _ rfl fun u h t _ => (u.genUp_mg t).trans h

theorem State.partMet_mg (s : State) (p : Nat) : (s.partMet p).mg = s.mg :=
  List.foldlRecOn (motive := fun t : State => t.mg = s.mg) _ _ rfl fun _ h _ _ => h

theorem State.beginReset_tenant_mg {s : State} (hq : ∀ q, (s.xlU q).queue = []) (p t : Nat) (rcv : Bool) :
    (s.beginReset p 1 t rcv false).mg = s.mg := by
  rw [State.beginReset_tenant, State.genUp_mg, (s.resetBegun_begun p 1 t rcv false).fence_mg hq, State.resetBegun_mg]

theorem State.beginReset_mover_mg {s : State} (hq : ∀ q, (s.xlU q).queue = []) (p m : Nat) (rcv : Bool) :
    (s.beginReset p 2 m rcv false).mg = s.mg := by
  rw [State.beginReset_mover, ((s.resetBegun_begun p 2 m rcv false).meetReset true m).fence_mg hq]
  exact s.resetBegun_mg p 2 m rcv

theorem State.beginReset_part_mg {s : State} (hq : ∀ q, (s.xlU q).queue = []) (p : Nat) (rcv : Bool) :
    (s.beginReset p 3 p rcv false).mg = s.mg := by
  rw [State.beginReset_part, State.genUps_mg, ((s.resetBegun_begun p 3 p rcv false).partMet p).fence_mg hq,
    State.partMet_mg, State.resetBegun_mg]

/-! ### The Mover that is reset -/

theorem State.fence_mover (s : State) (d : Dom) (m : Nat) : ((s.fence d).mover m).fixed = (s.mover m).fixed := by
  have ho := s.fence_outer d
  generalize s.fence d = u at ho ⊢
  exact congrArg (fun o : Outer => o.movers m) ho

theorem State.meetReset_mover (s : State) (m : Nat) : (s.meetReset true m).mover m
    = { s.mover m with gated := false, froz := true, phase := 0, req := false } := by
  have h := State.modMover_mover s m m fun v =>
    { v with gated := false, froz := v.froz || true, phase := 0, req := false }
  rw [if_pos rfl, Bool.or_true] at h
  exact h

/-- The channels and the Mover at the fence of a Mover's reset. -/
theorem State.beginReset_mover_mover {s : State} (hwf : s.chans.wf Chan.reset) {m : Nat} (hm : m < 64) (p : Nat)
    (rcv raised : Bool) :
    (s.beginReset p 2 m rcv raised).MoverStopped m (fun k => (s.chan k).xseq + 1)
      ∧ ((s.beginReset p 2 m rcv raised).mover m).froz = true
      ∧ ((s.beginReset p 2 m rcv raised).mover m).phase = 0
      ∧ ((s.beginReset p 2 m rcv raised).mover m).req = false
      ∧ ((s.beginReset p 2 m rcv raised).mover m).oos = (s.mover m).oos := by
  have hb := (s.resetBegun_begun p 2 m rcv raised).meetReset true m
  have hmet' := (s.resetBegun p 2 m rcv raised).meetReset_mover m
  rw [State.beginReset_mover]
  generalize (s.resetBegun p 2 m rcv raised).meetReset true m = t at hb hmet'
  have hchans : t.chans = s.chans := by rw [hb.rest]
  have hchan : ∀ k, t.chan k = s.chan k := fun k => congrArg (fun l : SMap Chan => l.get Chan.reset k) hchans
  have hfix := t.fence_mover (.mover m) m
  have hclock : (t.mover m).gated = false := congrArg Mover.gated hmet'
  have hstop := State.fence_mover_stopped (s := t) (hchans ▸ hwf) hm hclock
  generalize t.fence (.mover m) = u at hfix hstop
  refine ⟨?_, ?_, ?_, ?_, (congrArg Mover.oos hfix).trans (hb.out m).1⟩
  · simpa only [hchan] using hstop
  · exact (congrArg Mover.froz hfix).trans (congrArg Mover.froz hmet')
  · exact (congrArg Mover.phase hfix).trans (congrArg Mover.phase hmet')
  · exact (congrArg Mover.req hfix).trans (congrArg Mover.req hmet')


/-- From `s` to `u` a reset has begun at the idle engine of partition p: what that leaves beside the unit that is reset. -/
structure State.ResetBegins (s u : State) (p unit target : Nat) (counts : Bool) : Prop where
  engine : u.rstE p = (s.rstE p).begun unit target counts
  others : ∀ j, j ≠ p → u.rstE j = s.rstE j
  hist : u.esc.hist = (if counts then [(BitVec.ofNat 3 unit, BitVec.ofNat 8 target, s.mg.ms)] else []) ++ s.esc.hist
  nvm : u.nvm = s.nvm
  boot : u.boot = s.boot
  cnts : u.cnts = s.cnts
  ropes : u.ropes = s.ropes
  mg : (∀ q, (s.xlU q).queue = []) → u.mg = s.mg

/-- What the history does not touch. -/
theorem State.noted_shares (s : State) (counts : Bool) (unit target : Nat) :
    (s.noted counts unit target).tens = s.tens ∧ (s.noted counts unit target).chans = s.chans
      ∧ (s.noted counts unit target).movers = s.movers ∧ (s.noted counts unit target).xl = s.xl
      ∧ (s.noted counts unit target).mg = s.mg ∧ (s.noted counts unit target).rst = s.rst := by
  rw [State.noted_rest]
  exact ⟨rfl, rfl, rfl, rfl, rfl, rfl⟩

theorem State.noted_ten (s : State) (counts : Bool) (unit target j : Nat) :
    (s.noted counts unit target).ten j = s.ten j :=
  congrArg (fun l : SMap Tenant => l.get Tenant.reset j) (s.noted_shares counts unit target).1

theorem State.resetBegins_of_noted {s u : State} {p unit target : Nat} {counts : Bool}
    (h : (s.noted counts unit target).Fenced u p (((s.noted counts unit target).rstE p).begun unit target counts))
    (hmg : (∀ q, ((s.noted counts unit target).xlU q).queue = []) → u.mg = (s.noted counts unit target).mg) :
    s.ResetBegins u p unit target counts := by
  obtain ⟨hesc, hnvm, hboot, hcnts, hropes, hengine, hothers, -, -⟩ := h
  have hhist := s.noted_hist counts unit target
  have hrest := s.noted_rest counts unit target
  generalize s.noted counts unit target = v at *
  have hrst : ∀ j, v.rstE j = s.rstE j := fun j => by rw [hrest]; rfl
  have hwalks : ∀ q, v.xlU q = s.xlU q := fun q => by rw [hrest]; rfl
  have hkeep : v.nvm = s.nvm ∧ v.boot = s.boot ∧ v.cnts = s.cnts ∧ v.ropes = s.ropes ∧ v.mg = s.mg := by
    rw [hrest]
    exact ⟨rfl, rfl, rfl, rfl, rfl⟩
  obtain ⟨hn, hb, hc, hr, hm⟩ := hkeep
  exact ⟨hengine.trans (by rw [hrst]), fun j hj => (hothers j hj).trans (hrst j), by rw [hesc, hhist], hnvm.trans hn,
    hboot.trans hb, hcnts.trans hc, hropes.trans hr,
    fun hq => (hmg fun q => (congrArg Xl.queue (hwalks q)).trans (hq q)).trans hm⟩

/-- A tenant reset that begins. -/
theorem State.tenantReset_begins (s : State) (p t : Nat) (rcv : Bool) :
    ∃ u, (s.noted rcv 1 t).beginReset p 1 t rcv false = u ∧ s.ResetBegins u p 1 t rcv
      ∧ ∀ j, (u.ten j).fixed = (if j = t then (s.ten t).next else s.ten j).fixed := by
  refine ⟨_, rfl, State.resetBegins_of_noted ((s.noted rcv 1 t).beginReset_tenant_fenced p t rcv false)
    fun hq => State.beginReset_tenant_mg hq p t rcv, fun j => ?_⟩
  rw [State.beginReset_tenant_ten, s.noted_ten, s.noted_ten]

/-- A Mover reset that begins. -/
theorem State.moverReset_begins {s : State} (hwf : s.chans.wf Chan.reset) {m : Nat} (hm : m < 64) (p : Nat) :
    ∃ u, (s.noted true 2 m).beginReset p 2 m true false = u ∧ s.ResetBegins u p 2 m true
      ∧ u.MoverStopped m (fun k => (s.chan k).xseq + 1) ∧ (u.mover m).froz = true ∧ (u.mover m).phase = 0
      ∧ (u.mover m).req = false ∧ (u.mover m).oos = (s.mover m).oos := by
  have hbegins := State.resetBegins_of_noted ((s.noted true 2 m).beginReset_mover_fenced p m true false)
    fun hq => State.beginReset_mover_mg hq p m true
  obtain ⟨-, hchans, hmovers, -, -, -⟩ := s.noted_shares true 2 m
  obtain ⟨hstop, hfroz, hphase, hreq, hoos⟩ := State.beginReset_mover_mover (s := s.noted true 2 m) (hchans ▸ hwf) hm p
    true false
  have hchan : ∀ k, (s.noted true 2 m).chan k = s.chan k := fun k =>
    congrArg (fun l : SMap Chan => l.get Chan.reset k) hchans
  have hmover : (s.noted true 2 m).mover m = s.mover m := congrArg (fun l : SMap Mover => l.get Mover.reset m) hmovers
  simp only [hchan] at hstop
  exact ⟨_, rfl, hbegins, hstop, hfroz, hphase, hreq, by rw [hoos, hmover]⟩

/-- A partition reset that begins. -/
theorem State.partReset_begins (s : State) (p : Nat) :
    ∃ u, (s.noted true 3 p).beginReset p 3 p true false = u ∧ s.ResetBegins u p 3 p true
      ∧ ∀ j, (u.ten j).fixed = (if j < 256 ∧ (s.ten j).part.toNat = p then (s.ten j).next else s.ten j).fixed := by
  have hmem : ∀ j, j ∈ (s.noted true 3 p).tenantsOf p ↔ j < 256 ∧ (s.ten j).part.toNat = p := fun j => by
    unfold State.tenantsOf
    rw [List.mem_filter, List.mem_range, s.noted_ten, beq_iff_eq]
  refine ⟨_, rfl, State.resetBegins_of_noted ((s.noted true 3 p).beginReset_part_fenced p true false)
    fun hq => State.beginReset_part_mg hq p true, fun j => ?_⟩
  rw [State.beginReset_part_ten, s.noted_ten]
  exact congrArg Tenant.fixed (if_congr (hmem j) rfl rfl)

/-- Behind HOST accesses that have gone before, the block still takes requests. -/
theorem State.reached_takes {s : State} (hs : s.Serves) (hoos : s.esc.oos = false) (hblk : s.blk = none) :
    s.reached.Takes := ⟨hs.run, hoos, hblk⟩

/-- A request for the engine of partition p. -/
theorem State.requestReset_part {s : State} (h : s.Takes) {p unit target : Nat} (h1 : unit ≠ 0) (h4 : unit < 4)
    (hp : s.resetPart unit target = p) (hp8 : p < 8) (rcv : Bool) :
    s.requestReset unit target rcv = s.resetAt p unit target rcv := by
  rw [State.requestReset_at h h1 h4, hp]
  exact if_neg (by omega)

end Sys2Proof.Machine

namespace Sys2Proof
open Machine

/-- Settles O36: a request goes to the engine of one partition, which begins the reset, holds it or drops it; the fence
leaves engines, counters and the NVM alone and, where no access waits for a walk, the management core. -/
theorem fences : Obligations.fences := by
  unfold Obligations.fences
  refine ⟨fun s t rcv hs hoos hblk => ?_, fun s hs hoos hblk hfull => ?_⟩
  · intro x p hist
    have htakes := State.reached_takes hs hoos hblk
    have hexec : exec (.resetTenant t rcv) s = .next (s.reached.requestReset 1 t rcv) :=
      congrArg Host.Outcome.next (State.hostWrite_eq hs _ _)
    have hp8 : p < 8 := x.part.isLt
    have hpart : x.avail = true → s.reached.requestReset 1 t rcv = s.reached.resetAt p 1 t rcv := fun h =>
      State.requestReset_part htakes (by decide) (by decide) ((if_pos rfl).trans (if_pos h)) hp8 rcv
    have hdiffers : ((s.rstE p).unit = 1 → (s.rstE p).target ≠ BitVec.ofNat 8 t) →
        ¬ ((s.reached.rstE p).unit.toNat = 1 ∧ (s.reached.rstE p).target.toNat = t) := fun hother h =>
      hother (BitVec.eq_of_toNat_eq h.1) (BitVec.eq_of_toNat_eq (h.2.trans (Nat.mod_eq_of_lt t.isLt).symm))
    refine ⟨fun hav => ?_, fun hav hbusy => ⟨fun hu ht => ?_, fun hother => ⟨fun hfour => ?_, fun hroom hcalm => ?_⟩⟩,
      fun hav hbusy hcalm => ?_⟩
    · have hav' : ¬ (s.reached.ten t).avail = true := fun h => Bool.false_ne_true (hav.symm.trans h)
      have hno : s.reached.resetPart 1 t = 8 := (if_pos rfl).trans (if_neg hav')
      rw [hexec, State.requestReset_at htakes (by decide) (by decide), hno]
      rfl
    · refine hexec.trans (congrArg Host.Outcome.next ((hpart hav).trans (if_pos ⟨hbusy, congrArg BitVec.toNat hu, ?_⟩)))
      exact (congrArg BitVec.toNat ht).trans (Nat.mod_eq_of_lt t.isLt)
    · have hat : s.reached.resetAt p 1 t rcv = s.reached.modRstE p fun e => { e with drop := true } :=
        (if_neg fun h => hdiffers hother h.2).trans (if_pos ⟨hbusy, hfour⟩)
      exact ⟨_, hexec.trans (congrArg Host.Outcome.next ((hpart hav).trans hat)),
        (State.modRstE_rstE _ p p _).trans (if_pos rfl), rfl⟩
    · have hat := State.resetAt_waits (s := s.reached) hbusy (hdiffers hother) hroom hcalm
      obtain ⟨htens, -, -, -, hmg, hrst⟩ := s.reached.noted_shares rcv 1 t
      have hengine : (s.reached.noted rcv 1 t).rstE p = s.rstE p := congrArg (fun l : SMap RstEng => l.get RstEng.reset p) hrst
      have hhist := s.reached.noted_hist rcv 1 t
      exact ⟨_, hexec.trans (congrArg Host.Outcome.next ((hpart hav).trans hat)),
        (State.modRstE_rstE _ p p _).trans ((if_pos rfl).trans (by rw [hengine]; rfl)), hhist, hmg, htens⟩
    · have hcounts : (rcv || decide (1 ≠ 1)) = rcv := Bool.or_false rcv
      have hat := State.resetAt_idle (s := s.reached) (p := p) (unit := 1) (target := t) (rcv := rcv) hbusy
        (by rwa [hcounts])
      rw [hcounts] at hat
      obtain ⟨u, hu, hbegins, hten⟩ := s.reached.tenantReset_begins p t rcv
      obtain ⟨hen, hweight, hgen, hpartOf, havail, hroot⟩ := Tenant.of_fixed ((hten t).trans (by rw [if_pos rfl]))
      refine ⟨u, hexec.trans (congrArg Host.Outcome.next ((hpart hav).trans (hat.trans hu))), hbegins.engine,
        hbegins.others, hen, hweight, hgen, hpartOf, havail.trans hav, hroot, fun j hj => ?_, hbegins.hist, hbegins.nvm,
        hbegins.boot, fun hq => ⟨hbegins.cnts, hbegins.ropes, hbegins.mg hq⟩⟩
      obtain ⟨hen', hweight', hgen', -⟩ := Tenant.of_fixed ((hten j).trans (by rw [if_neg hj]))
      exact ⟨hen', hweight', hgen'⟩
  · intro engine
    have htakes := State.reached_takes hs hoos hblk
    refine ⟨fun m hp8 hbusy hlad hwf => ?_, fun p hen hbusy hlad => ?_⟩
    · have hexec : exec (.resetMover m) s = .next (s.reached.requestReset 2 m true) :=
        congrArg Host.Outcome.next (State.hostWrite_eq hs _ _)
      have hpart : s.reached.requestReset 2 m true = s.reached.resetAt (s.partOf m) 2 m true :=
        State.requestReset_part htakes (by decide) (by decide) ((if_neg (by decide)).trans ((if_pos rfl).trans
          (if_pos m.isLt))) hp8 true
      have hat := State.resetAt_idle (s := s.reached) (p := s.partOf m) (unit := 2) (target := m) (rcv := true) hbusy
        fun _ => ⟨hfull, hlad⟩
      obtain ⟨u, hu, hbegins, hstop, hfroz, hphase, hreq, hoos'⟩ :=
        State.moverReset_begins (s := s.reached) hwf m.isLt (s.partOf m)
      refine ⟨u, hexec.trans (congrArg Host.Outcome.next (hpart.trans (hat.trans hu))), hbegins.engine,
        ⟨hstop.clock, hfroz, hphase, hreq, hoos'⟩, fun c => ?_, hbegins.hist, hbegins.nvm,
        fun hq => ⟨hbegins.cnts, hbegins.mg hq⟩⟩
      obtain ⟨hph, -, hx⟩ := hstop.chan (4 * m + c) (by omega)
      exact ⟨hph, hx⟩
    · have hexec : exec (.resetPartition p) s = .next (s.reached.requestReset 3 p true) :=
        congrArg Host.Outcome.next (State.hostWrite_eq hs _ _)
      have hpart : s.reached.requestReset 3 p true = s.reached.resetAt p 3 p true :=
        State.requestReset_part htakes (by decide) (by decide) ((if_neg (by decide)).trans ((if_neg (by decide)).trans
          (if_pos ⟨p.isLt, hen⟩))) p.isLt true
      have hat := State.resetAt_idle (s := s.reached) (p := p) (unit := 3) (target := p) (rcv := true) hbusy
        fun _ => ⟨hfull, hlad⟩
      obtain ⟨u, hu, hbegins, hten⟩ := s.reached.partReset_begins p
      refine ⟨u, hexec.trans (congrArg Host.Outcome.next (hpart.trans (hat.trans hu))), hbegins.engine,
        fun t ht htp => ?_, fun t htp => ?_, hbegins.hist, hbegins.nvm, fun hq => ⟨hbegins.cnts, hbegins.mg hq⟩⟩
      · obtain ⟨hen', hweight, hgen, -⟩ := Tenant.of_fixed ((hten t).trans (congrArg Tenant.fixed (if_pos ⟨ht, htp⟩)))
        exact ⟨hen', hweight, hgen⟩
      · obtain ⟨hen', -, hgen, -⟩ := Tenant.of_fixed ((hten t).trans (congrArg Tenant.fixed (if_neg fun h => htp h.2)))
        exact ⟨hen', hgen⟩

end Sys2Proof
end

section
/-! O8: the start of a data command reads what its first tile needs. -/

namespace Sys2Proof.Machine

/-- Tile 0 of a data command runs, whose source is in memory; nothing that it needs is held or cached. -/
structure State.TileRun (s : State) (m c sid : Nat) (k : CmdCtx) (t : State) : Prop where
  strm : ∃ xs ok, t.strmAt sid = { s.strmAt sid with
    ntile := 0, cmd := some { k with stage := .tiles, td := none, xseq := xs, ok := ok } }
  strms : ∀ j, j ≠ sid → t.strmAt j = s.strmAt j
  act : (t.ch m c).act = (s.ch m c).act
  ph : (t.ch m c).ph = .tiles
  tile : (t.ch m c).tile = 0
  lfsr : (t.ch m c).lfsr
    = if cRnd k.raw = 2 ∧ cSeed k.raw ≠ 0 then BitVec.ofNat 32 (cSeed k.raw) else (s.ch m c).lfsr
  coal : (t.ch m c).coal = []
  pf : (t.ch m c).pf = (s.ch m c).pf
  chans : ∀ j, j ≠ 4 * m + c → t.chan j = s.chan j
  rest : t = { s with strms := t.strms, chans := t.chans, acc := t.acc, nextAid := t.nextAid, xl := t.xl }
  l2 : (t.xlU (s.strmAt sid).part.toNat).l2 = (s.xlU (s.strmAt sid).part.toNat).l2
  wc : ∀ e ∈ (t.xlU (s.strmAt sid).part.toNat).wc, e.bad = false

/-- An access of the channel is under way for a burst. -/
def State.Fetches (t : State) (m c : Nat) (kind : AKind) (wr : Bool) (space : Nat) (b : Nat × Nat) : Prop :=
  ∃ a ∈ t.acc, a.kind = kind ∧ a.rq = .mover m ∧ a.ch = c ∧ a.drain = false ∧ a.wr = wr ∧ a.space = space ∧ a.va = b.1
    ∧ a.len = b.2

theorem State.Fetches.mono {t u : State} {m c : Nat} {kind : AKind} {wr : Bool} {space : Nat} {b : Nat × Nat}
    (h : t.Fetches m c kind wr space b) (hacc : ∀ a ∈ t.acc, a ∈ u.acc) : u.Fetches m c kind wr space b := by
  obtain ⟨a, ha, hrest⟩ := h
  exact ⟨a, hacc a ha, hrest⟩

/-- With nothing read ahead, the window gives a tile nothing. -/
def State.unahead (s : State) (m c sid n : Nat) : State :=
  (s.endAhead m c (aheadKey (s.strmAt sid).pc.toNat n)).modCh m c fun h =>
    { h with got := h.got ++ [], pf := h.pf.del (aheadKey (s.strmAt sid).pc.toNat n) }

theorem State.takeAhead_none {s : State} {m c : Nat} (h : (s.ch m c).pf = []) (sid n space : Nat)
    (bs : List (Nat × Nat)) : s.takeAhead m c sid n space bs = (s.unahead m c sid n, bs) := by
  have hheld : ∀ b, heldRun [] space b = none := fun b => rfl
  have hl : ((s.ch m c).pf.find (aheadKey (s.strmAt sid).pc.toNat n)).getD [] = [] := by
    rw [h]
    rfl
  have hnone : ∀ {β : Type} (f : Nat × Nat → Option β), (∀ b, f b = none) → bs.filterMap f = [] := fun f hf =>
    List.filterMap_eq_nil_iff.mpr fun b _ => hf b
  unfold State.takeAhead
  dsimp only
  rw [hl]
  simp only [List.any_nil, Bool.false_eq_true, if_false, hheld, Option.bind_none, Option.isNone_none, List.filter_true]
  rw [hnone _ fun _ => rfl, hnone _ fun _ => rfl]
  rfl

/-- With no block held, none is damaged. -/
theorem State.shedCoal_none {s : State} {m c : Nat} (h : (s.ch m c).coal = []) (sid n : Nat) (g : Geo) :
    s.shedCoal m c sid n g = s := by
  unfold State.shedCoal
  dsimp only
  rw [h]
  rfl

/-- The state whose channel begins a tile's source reads with nothing held or read ahead. -/
def State.bare (s : State) (m c sid n : Nat) : State :=
  (s.modCh m c fun h => { h with got := [], hits := [] }).unahead m c sid n

/-- The bytes of list entries. -/
def entryBytes (r : BitVec 512) (es : List Nat) : List Nat :=
  (es.map fun e => (List.range (entSize (cIfmt r) (cImask r))).map fun j => entAddr r e + j).flatten

theorem mem_entryBytes {r : BitVec 512} {es : List Nat} {e i : Nat} (he : e ∈ es) (hi : i < entSize (cIfmt r) (cImask r)) :
    entAddr r e + i ∈ entryBytes r es :=
  List.mem_flatten.mpr ⟨(List.range (entSize (cIfmt r) (cImask r))).map fun j => entAddr r e + j,
    List.mem_map_of_mem he, List.mem_map_of_mem (List.mem_range.mpr hi)⟩

/-- One address of each page, the last first. -/
def pageStep (l : List Nat) (a : Nat) : List Nat :=
  match l with
  | b :: _ => if b / 4096 = a / 4096 then l else a :: l
  | [] => [a]

theorem pageStep_covers (l : List Nat) (a : Nat) : (∀ b ∈ l, b ∈ pageStep l a) ∧ ∃ b ∈ pageStep l a, b / 4096 = a / 4096 := by
  unfold pageStep
  split
  · next b l =>
    split
    · next h => exact ⟨fun _ hb => hb, b, List.mem_cons_self, h⟩
    · exact ⟨fun _ hb => List.mem_cons_of_mem _ hb, a, List.mem_cons_self, rfl⟩
  · exact ⟨fun _ hb => absurd hb List.not_mem_nil, a, List.mem_cons_self, rfl⟩

theorem pageFirsts_covers (as l : List Nat) : (∀ b ∈ l, b ∈ as.foldl pageStep l)
    ∧ ∀ v ∈ as, ∃ b ∈ as.foldl pageStep l, b / 4096 = v / 4096 := by
  induction as generalizing l with
  | nil => exact ⟨fun _ hb => hb, fun _ hv => absurd hv List.not_mem_nil⟩
  | cons a as ih =>
    obtain ⟨hkeep, hall⟩ := ih (pageStep l a)
    obtain ⟨hold, b, hb, hpage⟩ := pageStep_covers l a
    refine ⟨fun d hd => hkeep d (hold d hd), fun v hv => ?_⟩
    rcases List.mem_cons.mp hv with rfl | hv
    · exact ⟨b, hkeep b hb, hpage⟩
    · exact hall v hv

namespace State.TileRun

variable {s t u : State} {m c sid : Nat} {k : CmdCtx}

theorem part (h : s.TileRun m c sid k t) : (t.strmAt sid).part = (s.strmAt sid).part := by
  obtain ⟨xs, ok, hx⟩ := h.strm
  rw [hx]

theorem ten (h : s.TileRun m c sid k t) : (t.strmAt sid).ten = (s.strmAt sid).ten := by
  obtain ⟨xs, ok, hx⟩ := h.strm
  rw [hx]

/-- Accesses and walks leave the tile running. -/
theorem walks (h : s.TileRun m c sid k t) (hw : State.Walks (s.strmAt sid).part.toNat t u) : s.TileRun m c sid k u := by
  obtain ⟨hrest, hwc⟩ := hw.clean h.wc
  have hch : u.chans = t.chans := by rw [hrest]
  have hchan : ∀ j, u.chan j = t.chan j := fun j => congrArg (fun l : SMap Chan => l.get Chan.reset j) hch
  have hstrm : ∀ j, u.strmAt j = t.strmAt j := fun j => congrArg (fun l : SMap Strm => l.get Strm.reset j) hw.strms
  have hmine : u.ch m c = t.ch m c := hchan _
  refine ⟨?_, fun j hj => (hstrm j).trans (h.strms j hj), hmine ▸ h.act, hmine ▸ h.ph, hmine ▸ h.tile, hmine ▸ h.lfsr,
    hmine ▸ h.coal, hmine ▸ h.pf, fun j hj => (hchan j).trans (h.chans j hj), ?_, (hw.l2 _).trans h.l2, hwc⟩
  · rw [hstrm]
    exact h.strm
  · rw [hch, hw.strms, hrest, h.rest]

/-- What of its channel the tile leaves open. -/
theorem modCh (h : s.TileRun m c sid k t) {g : Chan → Chan} (hg : ∀ v, (g v).act = v.act ∧ (g v).ph = v.ph
    ∧ (g v).tile = v.tile ∧ (g v).lfsr = v.lfsr ∧ (g v).coal = v.coal) (hpf : (g (t.ch m c)).pf = (s.ch m c).pf) :
    s.TileRun m c sid k (t.modCh m c g) := by
  have hchan := State.modCh_chan t m c (f := g)
  have hmine : (t.modCh m c g).ch m c = g (t.ch m c) := (hchan _).trans (if_pos rfl)
  obtain ⟨hact, hph, htile, hlfsr, hcoal⟩ := hg (t.ch m c)
  exact ⟨h.strm, h.strms, by rw [hmine, hact, h.act], by rw [hmine, hph, h.ph], by rw [hmine, htile, h.tile],
    by rw [hmine, hlfsr, h.lfsr], by rw [hmine, hcoal, h.coal], by rw [hmine, hpf],
    fun j hj => ((hchan j).trans (if_neg hj)).trans (h.chans j hj), by rw [State.modCh_rest, h.rest], h.l2, h.wc⟩

theorem setAcc (h : s.TileRun m c sid k t) (l : List Access) : s.TileRun m c sid k { t with acc := l } :=
  ⟨h.strm, h.strms, h.act, h.ph, h.tile, h.lfsr, h.coal, h.pf, h.chans, by rw [h.rest], h.l2, h.wc⟩

theorem unahead (h : s.TileRun m c sid k t) (hpf : (s.ch m c).pf = []) (n : Nat) :
    s.TileRun m c sid k (t.unahead m c sid n) := by
  have hend : s.TileRun m c sid k (t.endAhead m c (aheadKey (t.strmAt sid).pc.toNat n)) := h.setAcc _
  unfold State.unahead
  generalize t.endAhead m c (aheadKey (t.strmAt sid).pc.toNat n) = u at hend
  refine hend.modCh (fun _ => ⟨rfl, rfl, rfl, rfl, rfl⟩) ?_
  dsimp only
  rw [hend.pf, hpf]
  rfl

/-- Accesses to far memory of a tile are all made. -/
theorem makeTile (h : s.TileRun m c sid k t) (hen : (s.ten (s.strmAt sid).ten.toNat).rootEn = true)
    (hutlb : (s.mover m).utlb = []) (hl2 : (s.xlU (s.strmAt sid).part.toNat).l2 = []) (n : Nat) (kind : AKind) (wr : Bool)
    (bs : List (Nat × Nat)) :
    ∃ u, t.makeTile m c n (bs.map fun b => t.chanAcc m c sid kind wr b.1 b.2) = (u, true) ∧ s.TileRun m c sid k u
      ∧ (∀ a ∈ t.acc, a ∈ u.acc) ∧ ∀ b ∈ bs, u.Fetches m c kind wr 0 b := by
  have htens : t.tens = s.tens := by rw [h.rest]
  have hmovers : t.movers = s.movers := by rw [h.rest]
  have hroot : (t.ten (t.strmAt sid).ten.toNat).rootEn = true := by
    rw [h.ten]
    exact (congrArg (fun l : SMap Tenant => (l.get Tenant.reset (s.strmAt sid).ten.toNat).rootEn) htens).trans hen
  have htlb : ∀ j, rqMover (.mover m) = some j → (t.mover j).utlb = [] := fun j hj => by
    obtain rfl := Option.some.inj hj
    exact (congrArg (fun l : SMap Mover => (l.get Mover.reset m).utlb) hmovers).trans hutlb
  have hall : ∀ a ∈ bs.map fun b => t.chanAcc m c sid kind wr b.1 b.2, ∃ b : Nat × Nat, a = t.chanAcc m c sid kind wr b.1 b.2 :=
    fun a ha => by
      obtain ⟨b, -, rfl⟩ := List.mem_map.mp ha
      exact ⟨b, rfl⟩
  obtain ⟨u, hu, hw, hmade⟩ := State.makeFars_miss (p := (s.strmAt sid).part.toNat) (s := t)
    (fun a ha => by
      obtain ⟨b, rfl⟩ := hall a ha
      exact congrArg BitVec.toNat h.part)
    (fun a ha => by
      obtain ⟨b, rfl⟩ := hall a ha
      exact hroot)
    (fun a ha => by
      obtain ⟨b, rfl⟩ := hall a ha
      exact htlb) (h.l2.trans hl2)
  refine ⟨u, ?_, h.walks hw, hw.acc, fun b hb => ?_⟩
  · unfold State.makeTile
    rw [hu]
  · obtain ⟨a, ha, i, rfl⟩ := hmade _ (List.mem_map_of_mem hb)
    exact ⟨_, ha, rfl, rfl, rfl, rfl, rfl, rfl, rfl, rfl⟩

/-- Accesses to near memory of a tile are all made. -/
theorem pushNears (h : s.TileRun m c sid k t) (kind : AKind) (wr : Bool) (port : Nat) (bs : List (Nat × Nat)) :
    ∃ u, bs.foldl (fun st b => st.pushNear (st.chanAcc m c sid kind wr b.1 b.2) port) t = u ∧ s.TileRun m c sid k u
      ∧ (∀ a ∈ t.acc, a ∈ u.acc) ∧ ∀ b ∈ bs, u.Fetches m c kind wr (port + 1) b := by
  induction bs generalizing t with
  | nil => exact ⟨t, rfl, h, fun _ h => h, fun _ h => absurd h List.not_mem_nil⟩
  | cons b bs ih =>
    obtain ⟨u, hu, hrun, hacc, hall⟩ := ih (h.walks (State.pushAcc_walks _ t { t.chanAcc m c sid kind wr b.1 b.2 with
      space := port + 1, pa := b.1, port := port + 2, cache := 0x3, qos := 0, size := 128, stage := stageOf (.mover m) }))
    refine ⟨u, hu, hrun, fun a ha => hacc a (List.mem_append_left _ ha), fun d hd => ?_⟩
    rcases List.mem_cons.mp hd with rfl | hd
    · exact ⟨_, hacc _ (List.mem_append_right _ (List.mem_singleton_self _)), rfl, rfl, rfl, rfl, rfl, rfl, rfl, rfl⟩
    · exact hall d hd

/-- The source reads of a tile of which nothing is held or read ahead cover its bytes. -/
theorem readSource (h : s.TileRun m c sid k t) (hen : (s.ten (s.strmAt sid).ten.toNat).rootEn = true)
    (hutlb : (s.mover m).utlb = []) (hl2 : (s.xlU (s.strmAt sid).part.toNat).l2 = []) (hpf : (s.ch m c).pf = [])
    (n : Nat) {y : CmdCtx} (htd : y.td = none) {g : Geo} (hrrd : g.rrd = false) :
    ∃ u, t.readSource m c sid n y g = (u, true) ∧ s.TileRun m c sid k u
      ∧ ∀ v ∈ g.tileReads n, ∃ b, u.Fetches m c (.source n) false (if g.sd.space then g.sd.nport + 1 else 0) b
        ∧ b.1 ≤ v ∧ v < b.1 + b.2 := by
  have hbursts : ∀ v ∈ g.tileReads n, ∃ b ∈ burstsOf (beatSize g.sd.space) (maxBeats g.sd.space) (g.tileReads n),
      b.1 ≤ v ∧ v < b.1 + b.2 := fun v hv => burstsOf_covers (by unfold beatSize; split <;> decide) hv
  have hopen : s.TileRun m c sid k (t.modCh m c fun h => { h with got := [], hits := [] }) :=
    h.modCh (fun _ => ⟨rfl, rfl, rfl, rfl, rfl⟩) h.pf
  have hpf' : ((t.modCh m c fun h => { h with got := [], hits := [] }).ch m c).pf = [] := hopen.pf.trans hpf
  have hbare : s.TileRun m c sid k (t.bare m c sid n) := hopen.unahead hpf n
  have hsrc : State.readSource t m c sid n y g
      = if g.sd.space then
          ((burstsOf (beatSize g.sd.space) (maxBeats g.sd.space) (g.tileReads n)).foldl (fun st b =>
            st.pushNear (st.chanAcc m c sid (.source n) false b.1 b.2) g.sd.nport) (t.bare m c sid n), true)
        else (t.bare m c sid n).makeTile m c n ((burstsOf (beatSize g.sd.space) (maxBeats g.sd.space) (g.tileReads n)).map
          fun b => (t.bare m c sid n).chanAcc m c sid (.source n) false b.1 b.2) := by
    unfold State.readSource
    dsimp only
    rw [State.shedCoal_none h.coal, htd, h.coal]
    dsimp only
    simp only [List.any_nil, Bool.and_false, Bool.not_false, List.filter_true, List.filter_nil, List.map_nil,
      List.flatten_nil, hrrd, Bool.false_eq_true, if_false]
    rw [State.takeAhead_none hpf', State.takeAhead_none hpf']
    rfl
  rw [hsrc]
  split
  · obtain ⟨u, hu, hrun, -, hall⟩ := hbare.pushNears (.source n) false g.sd.nport
      (burstsOf (beatSize g.sd.space) (maxBeats g.sd.space) (g.tileReads n))
    refine ⟨u, congrArg (·, true) hu, hrun, fun v hv => ?_⟩
    obtain ⟨b, hb, hlo, hhi⟩ := hbursts v hv
    exact ⟨b, hall b hb, hlo, hhi⟩
  · obtain ⟨u, hu, hrun, -, hall⟩ := hbare.makeTile hen hutlb hl2 n (.source n) false
      (burstsOf (beatSize g.sd.space) (maxBeats g.sd.space) (g.tileReads n))
    refine ⟨u, hu, hrun, fun v hv => ?_⟩
    obtain ⟨b, hb, hlo, hhi⟩ := hbursts v hv
    exact ⟨b, hall b hb, hlo, hhi⟩

/-- Each far page that a tile writes is to be translated. -/
theorem probeDest (h : s.TileRun m c sid k t) (hen : (s.ten (s.strmAt sid).ten.toNat).rootEn = true)
    (hutlb : (s.mover m).utlb = []) (hl2 : (s.xlU (s.strmAt sid).part.toNat).l2 = []) (n : Nat) {g : Geo}
    (hrwr : g.rwr = false) :
    ∃ u, t.probeDest m c sid n g = (u, true) ∧ s.TileRun m c sid k u ∧ (∀ a ∈ t.acc, a ∈ u.acc)
      ∧ (g.meter = true ∨ g.dd.space = false → ∀ v ∈ g.tileAddrs n, ∃ a ∈ u.acc, a.kind = .probe n ∧ a.rq = .mover m
        ∧ a.ch = c ∧ a.va / 4096 = v / 4096) := by
  have hprobe : t.probeDest m c sid n g = if g.rwr || (g.dd.space && !g.meter) then (t, true)
      else t.makeTile m c n (((((sortU (g.tileAddrs n)).foldl pageStep []).reverse.map fun a => (a, 1)).map fun b =>
        t.chanAcc m c sid (.probe n) true b.1 b.2)) := by
    rw [List.map_map]
    rfl
  rw [hprobe, hrwr, Bool.false_or]
  split
  · next hnear =>
    obtain ⟨hspace, hmeter⟩ := Bool.and_eq_true_iff.mp hnear
    refine ⟨t, rfl, h, fun _ ha => ha, fun hfar => ?_⟩
    rcases hfar with hm | hs
    · rw [hm] at hmeter
      exact absurd hmeter (by decide)
    · exact absurd (hs.symm.trans hspace) Bool.false_ne_true
  · obtain ⟨u, hu, hrun, hacc, hall⟩ := h.makeTile hen hutlb hl2 n (.probe n) true
      (((sortU (g.tileAddrs n)).foldl pageStep []).reverse.map fun a => (a, 1))
    refine ⟨u, hu, hrun, hacc, fun _ v hv => ?_⟩
    obtain ⟨b, hb, hpage⟩ := (pageFirsts_covers (sortU (g.tileAddrs n)) []).2 v (mem_sortU.mpr hv)
    obtain ⟨a, ha, hkind, hrq, hch, -, -, -, hva, -⟩ := hall (b, 1) (List.mem_map_of_mem (List.mem_reverse.mpr hb))
    exact ⟨a, ha, hkind, hrq, hch, hva.symm ▸ hpage⟩

/-- The entries of a list that a tile needs are read. -/
theorem readList (h : s.TileRun m c sid k t) (hen : (s.ten (s.strmAt sid).ten.toNat).rootEn = true)
    (hutlb : (s.mover m).utlb = []) (hl2 : (s.xlU (s.strmAt sid).part.toNat).l2 = []) (n : Nat) (y : CmdCtx)
    (es : List Nat) :
    ∃ u, t.readList m c sid n y es = (u, true) ∧ s.TileRun m c sid k u
      ∧ ∀ e ∈ es, ∀ i, i < entSize (cIfmt y.raw) (cImask y.raw) → ∃ b, u.Fetches m c (.list n) false 0 b
        ∧ b.1 ≤ entAddr y.raw e + i ∧ entAddr y.raw e + i < b.1 + b.2 := by
  obtain ⟨u, hu, hrun, -, hall⟩ := h.makeTile hen hutlb hl2 n (.list n) false (burstsOf 64 32 (entryBytes y.raw es))
  refine ⟨u, hu, hrun, fun e he i hi => ?_⟩
  obtain ⟨b, hb, hlo, hhi⟩ := burstsOf_covers (beat := 64) (mx := 32) (by decide) (mem_entryBytes he hi)
  exact ⟨b, hall b hb, hlo, hhi⟩

end State.TileRun

end Sys2Proof.Machine
end

section
/-! O8: the first tile of a data command. -/

namespace Sys2Proof.Machine

/-- A channel whose data command begins. -/
def Chan.seeded (r : BitVec 512) (h : Chan) : Chan :=
  { h with
    coal := []
    lfsr := if cRnd r == 2 && cSeed r != 0 then BitVec.ofNat 32 (cSeed r) else h.lfsr
    xseq := if cRwr r || cRrd r then h.xseq + 1 else h.xseq }

/-- A channel that begins a tile. -/
def Chan.atTile (n : Nat) (h : Chan) : Chan :=
  { h with ph := .tiles, tile := n, got := [], slot := none, xl := [], bad := false }

/-- The state in which a data command has begun. -/
def State.dataBegun (s : State) (m c sid : Nat) (k : CmdCtx) : State :=
  let s2 := s.modCh m c (Chan.seeded k.raw)
  s2.modCmd sid fun y => { y with
    stage := .tiles
    td := if cOpc k.raw = 1 then s.tdestOf sid else none
    xseq := (s2.ch m c).xseq }

/-- Whether a side of a data command goes through Firn. -/
def Geo.useFirn (g : Geo) : Bool := g.sd.firn || (!g.meter && g.dd.firn)

theorem State.runData_copies {s : State} {m c sid : Nat} {k : CmdCtx} (hstage : k.stage = .copies)
    (hskip : k.skipped = false)
    (hfirn : (geoOf (s.strmAt sid) k).useFirn = false) :
    s.runData m c sid k = (s.dataBegun m c sid k).startTile m c sid 0 := by
  unfold Geo.useFirn at hfirn
  unfold State.runData
  dsimp only
  rw [hfirn, hstage, hskip]
  rfl

/-- The state in which a tile has begun, with nothing of it read. -/
def State.tileBegun (s : State) (m c sid n : Nat) (g : Geo) : State :=
  ((s.modCh m c (Chan.atTile n)).modStrmAt sid fun x => { x with ntile := BitVec.ofNat 40 n }).modCmd sid
    fun y => { y with ok := if g.rwr then y.ok else y.ok.del n }

/-- A tile that awaits what it reads is the last one begun. -/
theorem State.startTile_awaits {s u : State} {m c sid n : Nat} {y : CmdCtx} (hcmd : (s.strmAt sid).cmd = some y)
    (h : s.beginTile m c sid n = (u, false)) : s.startTile m c sid n = u := by
  have hstep : ∀ fuel, s.startTiles m c sid n (fuel + 1) = u := fun fuel => by
    unfold State.startTiles
    rw [h]
  unfold State.startTile
  rw [hcmd]
  exact hstep _

/-- A data command that has begun, and takes its source from memory. -/
structure State.DataRun (s : State) (m c sid : Nat) (k : CmdCtx) (xs : BitVec 8) (t : State) : Prop where
  strm : ∀ j, t.strmAt j = if j = sid then { s.strmAt sid with
    cmd := some { k with stage := .tiles, td := none, xseq := xs } } else s.strmAt j
  chan : ∀ j, t.chan j = if j = 4 * m + c then (s.chan (4 * m + c)).seeded k.raw else s.chan j
  rest : t = { s with strms := t.strms, chans := t.chans }

theorem State.dataBegun_run {s : State} {m c sid : Nat} {k : CmdCtx} (hcmd : (s.strmAt sid).cmd = some k)
    (hno : cOpc k.raw = 1 → s.tdestOf sid = none) : ∃ xs, s.DataRun m c sid k xs (s.dataBegun m c sid k) := by
  have htd : (if cOpc k.raw = 1 then s.tdestOf sid else none) = none := by
    split
    · next h => exact hno h
    · rfl
  obtain ⟨u, hu⟩ : ∃ u, u = s.modCh m c (Chan.seeded k.raw) := ⟨_, rfl⟩
  have huchan : ∀ j, u.chan j = if j = 4 * m + c then (s.chan (4 * m + c)).seeded k.raw else s.chan j := fun j => by
    rw [hu, State.modCh_chan]
  have hucmd : (u.strmAt sid).cmd = some k := by rw [hu]; exact hcmd
  have hustrm : ∀ j, u.strmAt j = s.strmAt j := fun j => by rw [hu]; rfl
  have hurest : u = { s with chans := u.chans } := by rw [hu]; rfl
  obtain ⟨w, hw⟩ : ∃ w, w = s.dataBegun m c sid k := ⟨_, rfl⟩
  have hop : w = u.modCmd sid fun y => { y with
      stage := .tiles
      td := if cOpc k.raw = 1 then s.tdestOf sid else none
      xseq := (u.ch m c).xseq } := by rw [hw, hu]; rfl
  have hchans : w.chans = u.chans := by rw [hop]; rfl
  have hrest : w = { u with strms := w.strms } := by rw [hop]; rfl
  rw [← hw]
  refine ⟨(u.ch m c).xseq, fun j => ?_, fun j => ?_, ?_⟩
  · rw [hop, State.modCmd_strmAt hucmd, htd, hustrm, hustrm]
  · rw [show w.chan j = u.chan j from congrArg (fun l : SMap Chan => l.get Chan.reset j) hchans, huchan]
  · rw [hchans, hrest, hurest]

/-- The first tile of a data command has begun. -/
theorem State.DataRun.tileBegun {s w : State} {m c sid : Nat} {k : CmdCtx} {xs : BitVec 8} (h : s.DataRun m c sid k xs w)
    (hwc : ∀ e ∈ (s.xlU (s.strmAt sid).part.toNat).wc, e.bad = false) (g : Geo) :
    s.TileRun m c sid k (w.tileBegun m c sid 0 g) := by
  obtain ⟨v, hv⟩ : ∃ v, v = (w.modCh m c (Chan.atTile 0)).modStrmAt sid fun x => { x with ntile := BitVec.ofNat 40 0 } :=
    ⟨_, rfl⟩
  have hvstrm : ∀ j, v.strmAt j = if j = sid then { w.strmAt sid with ntile := 0 } else w.strmAt j := fun j => by
    rw [hv, State.modStrmAt_eq, State.setStrmAt_strmAt]
    rfl
  have hvchan : ∀ j, v.chan j = if j = 4 * m + c then ((s.chan (4 * m + c)).seeded k.raw).atTile 0 else s.chan j :=
    fun j => by
      have hj : v.chan j = (w.modCh m c (Chan.atTile 0)).chan j := by rw [hv]; rfl
      rw [hj, State.modCh_chan, h.chan, h.chan, if_pos rfl]
      split
      · rfl
      · rfl
  have hvrest : v = { w with strms := v.strms, chans := v.chans } := by rw [hv]; rfl
  have hvcmd : (v.strmAt sid).cmd = some { k with stage := .tiles, td := none, xseq := xs } := by
    rw [hvstrm, if_pos rfl, h.strm, if_pos rfl]
  obtain ⟨t, ht⟩ : ∃ t, t = w.tileBegun m c sid 0 g := ⟨_, rfl⟩
  have htop : t = v.modCmd sid fun y => { y with ok := if g.rwr then y.ok else y.ok.del 0 } := by rw [ht, hv]; rfl
  have htstrm := fun j => State.modCmd_strmAt hvcmd (fun y => { y with ok := if g.rwr then y.ok else y.ok.del 0 }) j
  rw [← htop] at htstrm
  have htchan : ∀ j, t.chan j = v.chan j := fun j => by rw [htop]; rfl
  have htrest : t = { v with strms := t.strms } := by rw [htop]; rfl
  have hmine : t.ch m c = ((s.chan (4 * m + c)).seeded k.raw).atTile 0 :=
    (htchan _).trans ((hvchan _).trans (if_pos rfl))
  have hrest : t = { s with strms := t.strms, chans := t.chans } := by
    have hchans : t.chans = v.chans := by rw [htrest]
    rw [hchans, htrest, hvrest, h.rest]
  have hkeep : t.acc = s.acc ∧ t.nextAid = s.nextAid ∧ t.xl = s.xl := by
    rw [hrest]
    exact ⟨rfl, rfl, rfl⟩
  obtain ⟨hacc, haid, hxl⟩ := hkeep
  have hxlu : ∀ q, t.xlU q = s.xlU q := fun q => congrArg (fun l : SMap Xl => l.get Xl.reset q) hxl
  rw [← ht]
  refine ⟨⟨xs, if g.rwr then k.ok else k.ok.del 0, ?_⟩, fun j hj => ?_, by rw [hmine]; rfl, by rw [hmine]; rfl,
    by rw [hmine]; rfl, ?_, by rw [hmine]; rfl, by rw [hmine]; rfl, fun j hj => ?_, ?_, congrArg Xl.l2 (hxlu _),
    hxlu _ ▸ hwc⟩
  · rw [htstrm, if_pos rfl, hvstrm, if_pos rfl, h.strm, if_pos rfl]
  · rw [htstrm, if_neg hj, hvstrm, if_neg hj, h.strm, if_neg hj]
  · rw [hmine]
    exact if_congr (by simp) rfl rfl
  · rw [htchan, hvchan, if_neg hj]
  · rw [hacc, haid, hxl, hrest]

end Sys2Proof.Machine
end

section
/-! O8: the start of a data command. -/

namespace Sys2Proof.Machine

theorem State.nearCheck_ok {s : State} {m c sid n : Nat} {y : CmdCtx} {g : Geo}
    (h : s.nearBad (s.strmAt sid).part.toNat n y g = none) : s.nearCheck m c sid n y g = (s, true) := by
  unfold State.nearCheck
  rw [h]

/-- What a tile that has begun reads. -/
def State.tileReads (s : State) (m c sid n : Nat) (y : CmdCtx) (g : Geo) : State × Bool :=
  let es := (g.tileEntries n).filter fun e => (g.entry e).isNone
  if es ≠ [] then
    match s.nearCheck m c sid n y g with
    | (s3, false) => (s3, false)
    | (s3, true) => ((s3.readList m c sid n y es).1, false)
  else
    match s.startReads m c sid n y g with
    | (s3, true) => s3.tryForm m c sid n
    | (s3, false) => (s3, false)

theorem State.beginTile_eq {s : State} {sid n : Nat} {y : CmdCtx} {g : Geo} (hcmd : (s.strmAt sid).cmd = some y)
    (hgeo : runGeo (s.strmAt sid) y = g) (htiles : n < g.tiles) (m c : Nat) :
    s.beginTile m c sid n = (s.tileBegun m c sid n g).tileReads m c sid n y g := by
  subst hgeo
  unfold State.beginTile
  rw [hcmd]
  exact if_neg (by omega)

/-- A tile whose list entries have not been read begins with their reads. -/
theorem State.beginTile_list {s t u : State} {m c sid n : Nat} {y : CmdCtx} {g : Geo} {es : List Nat}
    (hcmd : (s.strmAt sid).cmd = some y) (hgeo : runGeo (s.strmAt sid) y = g) (htiles : n < g.tiles)
    (hes : (g.tileEntries n).filter (fun e => (g.entry e).isNone) = es) (hne : es ≠ []) (ht : s.tileBegun m c sid n g = t)
    (hnear : t.nearBad (t.strmAt sid).part.toNat n y g = none) (hread : t.readList m c sid n y es = (u, true)) :
    s.beginTile m c sid n = (u, false) := by
  rw [State.beginTile_eq hcmd hgeo htiles, ht]
  unfold State.tileReads
  rw [hes]
  refine (if_pos hne).trans ?_
  rw [State.nearCheck_ok hnear]
  exact congrArg (fun r : State × Bool => (r.1, false)) hread

/-- A tile that needs no list entry begins with its source reads and the translation of its destination. -/
theorem State.beginTile_sources {s t u w : State} {m c sid n : Nat} {y : CmdCtx} {g : Geo}
    (hcmd : (s.strmAt sid).cmd = some y) (hgeo : runGeo (s.strmAt sid) y = g) (htiles : n < g.tiles)
    (hes : g.tileEntries n = []) (ht : s.tileBegun m c sid n g = t)
    (hnear : t.nearBad (t.strmAt sid).part.toNat n y g = none) (hread : t.readSource m c sid n y g = (u, true))
    (hprobe : u.probeDest m c sid n g = (w, true)) (hform : w.tryForm m c sid n = (w, false)) :
    s.beginTile m c sid n = (w, false) := by
  have hoob : g.firstOob n = none := by
    unfold Geo.firstOob
    rw [hes]
    rfl
  have hstart : t.startReads m c sid n y g = (w, true) := by
    unfold State.startReads
    rw [hoob]
    dsimp only
    rw [State.nearCheck_ok hnear]
    dsimp only
    rw [hread]
    exact hprobe
  rw [State.beginTile_eq hcmd hgeo htiles, ht]
  unfold State.tileReads
  rw [hes]
  refine (if_neg (not_not_intro rfl)).trans ?_
  rw [hstart]
  exact hform

/-- While a source read of a tile is under way, the tile is not formed. -/
theorem State.tryForm_awaits {s : State} {m c sid n : Nat} {y : CmdCtx} {space : Nat} {b : Nat × Nat}
    (hcmd : (s.strmAt sid).cmd = some y) (h : s.Fetches m c (.source n) false space b) :
    s.tryForm m c sid n = (s, false) := by
  obtain ⟨a, ha, hkind, hrq, hch, hdrain, -⟩ := h
  have hout : s.readsOut m c n = true := by
    unfold State.readsOut
    refine Bool.or_eq_true_iff.mpr (.inl (List.any_eq_true.mpr ⟨a, ha, ?_⟩))
    unfold ofChan
    rw [hrq, hch, hdrain, hkind]
    simp
  unfold State.tryForm
  rw [hcmd]
  exact if_pos (.inr (.inr (.inr (.inr (.inr (.inr (.inl hout)))))))

/-- The command that runs is the one begun: its geometry, and the near beats that the windows allow. -/
theorem runGeo_begun (x : Strm) (k : CmdCtx) (n : BitVec 40) (cmd : Option CmdCtx) (xs : BitVec 8) (ok : SMap Nat) :
    runGeo { x with ntile := n, cmd := cmd } { k with stage := .tiles, td := none, xseq := xs, ok := ok } = geoOf x k :=
  rfl

theorem State.TileRun.cmd {s t : State} {m c sid : Nat} {k : CmdCtx} (h : s.TileRun m c sid k t) :
    ∃ y, (t.strmAt sid).cmd = some y ∧ y.stage = .tiles := by
  obtain ⟨xs, ok, hx⟩ := h.strm
  exact ⟨_, by rw [hx], rfl⟩

/-- The near beats of a tile that the windows allow are allowed as it begins. -/
theorem State.TileRun.nearBad {s t : State} {m c sid : Nat} {k : CmdCtx} (h : s.TileRun m c sid k t) {n : Nat} {g : Geo}
    (hnear : s.nearBad (s.strmAt sid).part.toNat n { k with td := none } g = none) {y : CmdCtx} (htd : y.td = none) :
    t.nearBad (t.strmAt sid).part.toNat n y g = none := by
  have hwin : ∀ p port va len wr, t.nearOk p port va len wr = s.nearOk p port va len wr := fun p port va len wr => by
    rw [h.rest]
    rfl
  rw [h.part, ← hnear]
  unfold State.nearBad
  simp only [hwin, htd]

/-- Where its copies are held and pass, a data command starts its first tile. -/
theorem State.Holds.starts {s : State} {m c sid op : Nat} {k : CmdCtx} (h : s.Holds m c sid k) (hop : cOpc k.raw = op)
    (hstage : k.stage = .copies) (hskip : k.skipped = false) (hplaces : s.placesTo sid k 5 = none)
    (hgen : cFgen k.raw ≠ 0 → (s.genSlot (s.strmAt sid).part.toNat (s.strmAt sid).ten (cFgen k.raw)).isSome = true)
    (hfirn : (geoOf (s.strmAt sid) k).useFirn = false)
    {t : State} {y : CmdCtx} (hcmd : ((s.dataBegun m c sid k).strmAt sid).cmd = some y)
    (hbegin : (s.dataBegun m c sid k).beginTile m c sid 0 = (t, false)) : s.dataOp m c op = t := by
  have hno : ¬ (cFgen k.raw ≠ 0
      ∧ (s.genSlot (s.strmAt sid).part.toNat (s.strmAt sid).ten (cFgen k.raw)).isNone = true) := fun ⟨hf, hn⟩ => by
    have hsome := hgen hf
    rw [Option.isNone_iff_eq_none.mp hn] at hsome
    exact absurd hsome (by decide)
  unfold State.dataOp
  refine (h.run (fun r => cOpc r == op) _ (beq_iff_eq.mpr hop)).trans ?_
  rw [hstage]
  dsimp only
  rw [hplaces]
  exact (if_neg hno).trans ((State.runData_copies hstage hskip hfirn).trans (State.startTile_awaits hcmd hbegin))

/-- A TRANSFER or METER from memory reads its first tile's source and has its destination's pages translated. -/
theorem State.sources_begin {s : State} {m c sid : Nat} {k : CmdCtx} (hcmd : (s.strmAt sid).cmd = some k)
    (hno : cOpc k.raw = 1 → s.tdestOf sid = none) {g : Geo} (hg : g = geoOf (s.strmAt sid) k)
    (hlist : g.gather = false ∧ g.scatter = false) (hrem : g.rwr = false ∧ g.rrd = false) (htiles : 0 < g.tiles)
    (hreads : g.tileReads 0 ≠ []) (hen : (s.ten (s.strmAt sid).ten.toNat).rootEn = true)
    (hutlb : (s.mover m).utlb = []) (hl2 : (s.xlU (s.strmAt sid).part.toNat).l2 = [])
    (hwc : ∀ e ∈ (s.xlU (s.strmAt sid).part.toNat).wc, e.bad = false) (hpf : (s.ch m c).pf = [])
    (hnear : s.nearBad (s.strmAt sid).part.toNat 0 { k with td := none } g = none) :
    ∃ y t, ((s.dataBegun m c sid k).strmAt sid).cmd = some y ∧ (s.dataBegun m c sid k).beginTile m c sid 0 = (t, false)
      ∧ s.TileRun m c sid k t
      ∧ (∀ v ∈ g.tileReads 0, ∃ b, t.Fetches m c (.source 0) false (if g.sd.space then g.sd.nport + 1 else 0) b
        ∧ b.1 ≤ v ∧ v < b.1 + b.2)
      ∧ (g.meter = true ∨ g.dd.space = false → ∀ v ∈ g.tileAddrs 0, ∃ a ∈ t.acc, a.kind = .probe 0 ∧ a.rq = .mover m
        ∧ a.ch = c ∧ a.va / 4096 = v / 4096) := by
  obtain ⟨hgather, hscatter⟩ := hlist
  obtain ⟨hrwr, hrrd⟩ := hrem
  have hes : g.tileEntries 0 = [] := by
    unfold Geo.tileEntries
    rw [hgather, hscatter]
    rfl
  obtain ⟨xs, hdata⟩ := State.dataBegun_run (m := m) (c := c) hcmd hno
  have hx := (hdata.strm sid).trans (if_pos rfl)
  have hrun := hdata.tileBegun hwc g
  obtain ⟨y, hy⟩ : ∃ y : CmdCtx, y = { k with stage := .tiles, td := none, xseq := xs } := ⟨_, rfl⟩
  have hycmd : ((s.dataBegun m c sid k).strmAt sid).cmd = some y := by rw [hx, hy]
  have hgeo : runGeo ((s.dataBegun m c sid k).strmAt sid) y = g := by
    rw [hx, hy, hg]
    exact runGeo_begun (s.strmAt sid) k _ _ xs k.ok
  have htd : y.td = none := by rw [hy]
  obtain ⟨u, hu, hrunu, hsrc⟩ := hrun.readSource hen hutlb hl2 hpf 0 htd hrrd
  obtain ⟨w, hw, hrunw, hacc, hprobe⟩ := hrunu.probeDest hen hutlb hl2 0 hrwr
  have hsrc' : ∀ v ∈ g.tileReads 0, ∃ b, w.Fetches m c (.source 0) false (if g.sd.space then g.sd.nport + 1 else 0) b
      ∧ b.1 ≤ v ∧ v < b.1 + b.2 := fun v hv => by
    obtain ⟨b, hb, hin⟩ := hsrc v hv
    exact ⟨b, hb.mono hacc, hin⟩
  obtain ⟨v, hv⟩ := List.exists_mem_of_ne_nil _ hreads
  obtain ⟨b, hb, -⟩ := hsrc' v hv
  obtain ⟨z, hz, -⟩ := hrunw.cmd
  exact ⟨y, w, hycmd, State.beginTile_sources hycmd hgeo htiles hes rfl (hrun.nearBad hnear htd) hu hw
    (State.tryForm_awaits hz hb), hrunw, hsrc', hprobe⟩

/-- A GATHER or SCATTER whose list has not been read reads the entries of its first tile. -/
theorem State.lists_begin {s : State} {m c sid : Nat} {k : CmdCtx} (hcmd : (s.strmAt sid).cmd = some k)
    (hno : cOpc k.raw = 1 → s.tdestOf sid = none) {g : Geo} (hg : g = geoOf (s.strmAt sid) k) (hidx : k.idx = [])
    (htiles : 0 < g.tiles) (hentries : g.tileEntries 0 ≠ []) (hen : (s.ten (s.strmAt sid).ten.toNat).rootEn = true)
    (hutlb : (s.mover m).utlb = []) (hl2 : (s.xlU (s.strmAt sid).part.toNat).l2 = [])
    (hwc : ∀ e ∈ (s.xlU (s.strmAt sid).part.toNat).wc, e.bad = false)
    (hnear : s.nearBad (s.strmAt sid).part.toNat 0 { k with td := none } g = none) :
    ∃ y t, ((s.dataBegun m c sid k).strmAt sid).cmd = some y ∧ (s.dataBegun m c sid k).beginTile m c sid 0 = (t, false)
      ∧ s.TileRun m c sid k t
      ∧ ∀ e ∈ g.tileEntries 0, ∀ i, i < entSize (cIfmt k.raw) (cImask k.raw) → ∃ b, t.Fetches m c (.list 0) false 0 b
        ∧ b.1 ≤ entAddr k.raw e + i ∧ entAddr k.raw e + i < b.1 + b.2 := by
  obtain ⟨xs, hdata⟩ := State.dataBegun_run (m := m) (c := c) hcmd hno
  have hx := (hdata.strm sid).trans (if_pos rfl)
  have hrun := hdata.tileBegun hwc g
  obtain ⟨y, hy⟩ : ∃ y : CmdCtx, y = { k with stage := .tiles, td := none, xseq := xs } := ⟨_, rfl⟩
  have hycmd : ((s.dataBegun m c sid k).strmAt sid).cmd = some y := by rw [hx, hy]
  have hgeo : runGeo ((s.dataBegun m c sid k).strmAt sid) y = g := by
    rw [hx, hy, hg]
    exact runGeo_begun (s.strmAt sid) k _ _ xs k.ok
  have htd : y.td = none := by rw [hy]
  have hraw : y.raw = k.raw := by rw [hy]
  have hnone : ∀ e, g.entry e = none := fun e => by
    have hgidx : g.idx = [] := by rw [hg]; exact hidx
    unfold Geo.entry
    rw [hgidx]
    rfl
  have hes : (g.tileEntries 0).filter (fun e => (g.entry e).isNone) = g.tileEntries 0 :=
    List.filter_eq_self.mpr fun e _ => by rw [hnone]; rfl
  obtain ⟨u, hu, hrunu, hread⟩ := hrun.readList hen hutlb hl2 0 y (g.tileEntries 0)
  rw [hraw] at hread
  exact ⟨y, u, hycmd, State.beginTile_list hycmd hgeo htiles hes hentries rfl (hrun.nearBad hnear htd) hu, hrunu, hread⟩

end Sys2Proof.Machine

namespace Sys2Proof
open Machine

/-- Settles O8: the command's first tile begins with the reads of its list entries, or with its source reads and the
translation of its destination's pages; nothing is cached, so that every access is made. -/
theorem dataCommandsStart : Obligations.data_commands_start := by
  unfold Obligations.data_commands_start
  intro s m c sid k hold hstage hplaces hskip hrwr hrrd x g hgen hen hutlb hl2 hwc hpf htiles hsd hdd hnear started covers
  have hfirn : g.useFirn = false := by
    unfold Geo.useFirn
    rw [hsd, Bool.false_or]
    cases hm : g.meter with
    | true => rfl
    | false => rw [hdd hm]; rfl
  have hstarted : ∀ t, s.TileRun m c sid k t → started t := fun t h => by
    obtain ⟨y, hy, hst⟩ := h.cmd
    obtain ⟨xs, ok, hx⟩ := h.strm
    exact ⟨h.act.trans hold.act, h.ph, h.tile, by rw [hx], by rw [hy]; exact congrArg some hst, h.lfsr, h.strms, h.chans,
      h.rest⟩
  have hcovers : ∀ (t : State) (kind : AKind) (space v : Nat), (∃ b, t.Fetches m c kind false space b ∧ b.1 ≤ v
      ∧ v < b.1 + b.2) → covers t kind space v := fun t kind space v ⟨b, h, hlo, hhi⟩ => by
    obtain ⟨a, ha, hkind, hrq, hch, -, hwr, hspace, hva, hlen⟩ := h
    exact ⟨a, ha, hkind, hrq, hch, hwr, hspace, by omega, by omega⟩
  refine ⟨fun htd hreads => ?_, fun hidx hentries => ?_⟩
  · intro done
    have hdone : ∀ op, cOpc k.raw = op → (op = 1 ∨ op = 4) → done (s.dataOp m c op) := fun op hop h14 => by
      have hopc : g.opc = op := hop
      have hlist : g.gather = false ∧ g.scatter = false := by
        unfold Geo.gather Geo.scatter
        rw [hopc]
        rcases h14 with rfl | rfl
        · exact ⟨rfl, rfl⟩
        · exact ⟨rfl, rfl⟩
      obtain ⟨y, t, hy, hbegin, hrun, hsrc, hprobe⟩ := State.sources_begin hold.cmd (fun _ => htd) rfl hlist ⟨hrwr, hrrd⟩
        htiles hreads hen hutlb hl2 hwc hpf hnear
      rw [hold.starts hop hstage hskip hplaces hgen hfirn hy hbegin]
      exact ⟨hstarted t hrun, fun v hv => hcovers t _ _ v (hsrc v hv), hprobe⟩
    exact ⟨fun h => ⟨_, rfl, hdone 1 h (.inl rfl)⟩, fun h => ⟨_, rfl, hdone 4 h (.inr rfl)⟩⟩
  · intro z done
    have hdone : ∀ op, cOpc k.raw = op → op ≠ 1 → done (s.dataOp m c op) := fun op hop h1 => by
      obtain ⟨y, t, hy, hbegin, hrun, hread⟩ := State.lists_begin hold.cmd (fun h => absurd (hop.symm.trans h) h1) rfl hidx
        htiles hentries hen hutlb hl2 hwc hnear
      rw [hold.starts hop hstage hskip hplaces hgen hfirn hy hbegin]
      exact ⟨hstarted t hrun, fun e he i hi => hcovers t _ _ _ (hread e he i hi)⟩
    exact ⟨fun h => ⟨_, rfl, hdone 2 h (by decide)⟩, fun h => ⟨_, rfl, hdone 3 h (by decide)⟩⟩

end Sys2Proof
end
